-- ==== Sys2Proof/Word.lean ====
section
/-! DEFINITION. The word types of the window, the registers and the links (12 R186). -/

namespace Sys2Proof

/-- A window word, a register, a timestamp, a host tag, an odometer value: 32 bits (R186). -/
abbrev Word := BitVec 32

/-- A character of a serial link, or a packed byte of a report word (R35, R188). -/
abbrev Byte := BitVec 8

end Sys2Proof
end

