-- ==== Sys2Proof/Syntax.lean ====
section
/-! DEFINITION. The commands and events the part takes: one constructor per row of spec/opcode_table.json. -/

namespace Sys2Proof

/-- The three chains (R5); REWIND numbers them 0, 1, 2 in this order (R12). -/
inductive Chain
  | control | setup | report
deriving DecidableEq, Repr

/-- Pole P and pole N (chapter 4). -/
inductive PoleId
  | p | n
deriving DecidableEq, Repr

/-- The pulse-interval links PL0, PL1, PL2 (chapter 2). -/
inductive PLink
  | pl0 | pl1 | pl2
deriving DecidableEq, Repr

/-- The framed serial links (chapter 2). -/
inductive SLink
  | tag | drive
deriving DecidableEq, Repr

/-- The five links, in the entry order of LINK_SETTINGS (section 2.5). -/
inductive Link
  | pl0 | pl1 | pl2 | tag | drive
deriving DecidableEq, Repr

/-- A contact's level (R39). -/
inductive Level
  | closed | opened
deriving DecidableEq, Repr

/-- The voltage at a contact input: held near ground, held near the supply, or neither (R39). -/
inductive PinVoltage
  | nearGround | nearSupply | between
deriving DecidableEq, Repr

/-- A contact input, 0 to 15 (section 2.7). -/
abbrev InputNo := Fin 16
/-- A drive output, 0 to 15 (section 2.9). -/
abbrev OutputNo := Fin 16
/-- An auxiliary, 0 to 11 (section 8.1). -/
abbrev AuxNo := Fin 12

/-- The twenty fault kinds in the order of section 9.1. -/
inductive FaultKind
  | poleDewired | poleSensor | poleStuck | raiseFailed | rewireMissed
  | lineHigh | lineLost | gapDraw | demandStale | driveLinkLost
  | driveFault | auxStartFail | auxFaulted | outputMismatch | alarmOutput
  | linkDegraded | chainBroken | memoryPort | configMismatch | zoneOverflow
deriving DecidableEq, Repr

/-- The five words of a card header, as one burst reads them (section 12.3). -/
structure Header where
  word0 : Word
  word1 : Word
  next : Word
  tag : Word
  detail : Word
deriving DecidableEq, Repr

/-- What ends a serial frame in assembly before its check bytes (R35). A gap carries the late character:
its byte and whether its stop step was at rest level. -/
inductive SerialError
  | framing
  | length (byte : Byte)
  | gap (late : Byte) (stopOk : Bool)
deriving DecidableEq, Repr

/-- The commands. Intervals are in nanoseconds (assumption log 18). -/
inductive Instr
  | powerOnReset
  | mailboxBaseWrite (value : Word)
  | run
  | halt
  | reset
  | wake (mask : Byte)
  | rewind (chain : Byte)
  | ackAttention (mask : Byte)
  | badCommand (word : Word)
  | memoryPortGrant
  | anchorReadComplete (chain : Chain) (entry : Word)
  | headerReadComplete (chain : Chain) (header : Header)
  | takenWriteComplete (chain : Chain)
  | payloadReadComplete (chain : Chain) (words : List Word)
  | cardDataWriteComplete (chain : Chain)
  | detailWriteComplete (chain : Chain)
  | ownerWriteComplete (chain : Chain)
  | demandReadComplete (sequence value complement : Word)
  | mirrorBurstComplete
  | memoryAccessError
  | memoryAccessTimeout
  | lateCompletion
  | rescanTimerExpiry (chain : Chain)
  | mirrorIntervalExpiry
  | plFrameComplete (link : PLink) (interval : Nat)
  | plFrameAbort (link : PLink) (interval : Nat)
  | linkFirstActivity (link : Link)
  | silenceTimerExpiry (link : Link)
  | serialFrameComplete (link : SLink)
  | serialFrameError (link : SLink) (error : SerialError)
  | driveLinkSendDone
  | contactRawChange (input : InputNo) (voltage : PinVoltage)
  | debounceExpiry (input : InputNo)
  | cleaningPulseEnd (input : InputNo)
  | pollTimerExpiry (pins : Vector PinVoltage 16)
  | secondSample (pins : Vector PinVoltage 16)
  | readbackChange (output : OutputNo) (on : Bool)
  | mismatchTimerExpiry (output : OutputNo)
  | gapTimerExpiry
  | restoreTimerExpiry
  | highPersistExpiry
  | confirmTimerExpiry (pole : PoleId)
  | resolutionTimerExpiry (pole : PoleId)
  | retrieverHoldExpiry (pole : PoleId)
  | lowerTimerExpiry (pole : PoleId)
  | raiseTimerExpiry (pole : PoleId)
  | settleTimerExpiry (pole : PoleId)
  | odometryPulse
  | speedTimerExpiry
  | stationaryTimerExpiry
  | controlPeriodExpiry
  | staggerTimerExpiry
  | startTimerExpiry (aux : AuxNo)
  | offTimerExpiry (aux : AuxNo)
  | edgeHoldExpiry (kind : FaultKind)
  | testHoldExpiry (kind : FaultKind)
  | alertTimerExpiry
  | lampHoldExpiry
  | buzzerHoldExpiry
  | syncTaken (link : PLink) (interval : Nat)
  | symbolInterval (link : PLink) (interval : Nat)
  | serialCharacter (link : SLink) (byte : Byte) (stopOk : Bool)
deriving DecidableEq, Repr

end Sys2Proof
end

