-- ==== Sys2Proof/Decode.lean ====
section
/-! DEFINITION. The command a word spells by the opcode table's bits. The table gives no row any bits, so no word spells
a command (assumption log 3). -/

namespace Sys2Proof

/-- The command of a word by the bits of spec/opcode_table.json: none, as no row has bits. -/
def decodeTableWord (_nbits _w : Nat) : Option Instr := none

end Sys2Proof
end

