-- ==== Sys2Proof/Config.lean ====
section
/-! DEFINITION. The values the manual leaves open (assumption log 6). They have no body, so nothing can be
proved about what they are. -/

namespace Sys2Proof

/-- A free value for each use, numbered by the state's own counter `freeUses` (R69, R72). -/
opaque Config.freeNat : Nat → Nat

/-- The quotient of a division by zero, as a function of the numerator (R61, R132). -/
opaque Config.divByZero : Nat → Nat

end Sys2Proof
end

