-- ==== Sys2Proof/Machine/State.lean ====
section
/-! DEFINITION. Every piece of state the manual gives the NC-64, as plain data, and the state after a power-on
reset. A default value in a structure is the value after a power-on reset. -/

namespace Sys2Proof.Machine

/-! ### Small families -/

/-- One value for each chain. -/
structure PerChain (α : Type) where
  control : α
  setup : α
  report : α
deriving DecidableEq, Repr

/-- One value for each pole. -/
structure PerPole (α : Type) where
  p : α
  n : α
deriving DecidableEq, Repr

/-- One value for each pulse-interval link. -/
structure PerPL (α : Type) where
  pl0 : α
  pl1 : α
  pl2 : α
deriving DecidableEq, Repr

/-- One value for each serial link. -/
structure PerSerial (α : Type) where
  tag : α
  drive : α
deriving DecidableEq, Repr

/-- One value for each link, in LINK_SETTINGS order. -/
structure PerLink (α : Type) where
  pl0 : α
  pl1 : α
  pl2 : α
  tag : α
  drive : α
deriving DecidableEq, Repr

/-- A timer: stopped, or running until the timestamp it expires at (Conventions, "Times"). -/
inductive Timer
  | stopped
  | running (expires : Word)
deriving DecidableEq, Repr

/-! ### Mode logic (chapter 11) -/

/-- The mode, coded in this order (R178, section 12.8). -/
inductive Mode
  | halt | run | layover
deriving DecidableEq, Repr

/-- The last reset kind, coded in this order (chapter 11). -/
inductive ResetKind
  | powerOn | command | none
deriving DecidableEq, Repr

/-! ### Reports (R21, section 12.6) -/

inductive Severity
  | info | warning | alarm
deriving DecidableEq, Repr

/-- The source blocks, coded in this order (section 12.6). -/
inductive Block
  | mailboxPort | linkReceivers | contactAndDrive | lineSupervisor | poleMonitor | zoneMatcher
  | tractionGovernor | auxiliaryScheduler | faultCollector | configurationTables | modeLogic
deriving DecidableEq, Repr

/-- The report kinds: the fault kinds and the kinds 32 to 52 (section 12.6). -/
inductive ReportKind
  | fault (kind : FaultKind)
  | runEntered | haltEntered | layoverEntered | wake | collectorChanged | lineRestored | poleResolved
  | suspectCleared | raiseComplete | raiseAbandoned | lowerComplete | lowerAbandoned | tagLowQuality
  | tagUnmatched | tagLinkNotReady | tagFrameInvalid | zonePassed | zoneDisplaced | tractionArmed
  | auxShed | auxTripped
deriving DecidableEq, Repr

/-- A report record (R21) with its being-written mark (R24). -/
structure ReportRec where
  kind : ReportKind
  severity : Severity
  block : Block
  inst : Nat
  time : Word
  repeats : Nat
  droppedAfter : Nat
  tag : Word
  test : Bool
  details : List Word
  beingWritten : Bool
deriving DecidableEq, Repr

/-! ### Mailbox Port (chapter 1) -/

/-- Chain states, coded in this order (R5). -/
inductive ChainState
  | walking | parked | broken
deriving DecidableEq, Repr

/-- What a PARKED chain waits for (R5). -/
inductive Wait
  | link | owner | record
deriving DecidableEq, Repr

/-- The phases at which a chain breaks, coded in this order (R11). -/
inductive BreakPhase
  | link | anchor | headerRead | takenWrite | payloadRead | resultWrite
deriving DecidableEq, Repr

/-- The result codes of section 12.3. -/
inductive ResultCode
  | none | ok | badKind | badLength | badCheck | badValue | badIndex | notInMode | frozen
  | precondition | stillActive | busy
deriving DecidableEq, Repr

/-- What a walker is doing. A header read made as a rescan acts by the wait it was made for (R8). -/
inductive WalkPhase
  | rest
  | anchorRead
  | headerRead
  | rescanRead (wait : Wait)
  | takenWrite
  | payloadRead
  | dataWrite
  | detailWrite
  | ownerWrite
deriving DecidableEq, Repr

/-- The card a walker has in hand: the header as the header read gave it, the payload read so far, and, once
the card is decided, its outcome with the data still to be written (R3, R6, R187). -/
structure Card where
  header : Header := ⟨0, 0, 0, 0, 0⟩
  payload : List Word := []
  result : ResultCode := .none
  detail : Word := 0
  dataLeft : List Word := []
  dataDone : Nat := 0
deriving DecidableEq, Repr

/-- A chain record (R5). The cursor `none` is the anchor. -/
structure ChainRec where
  cursor : Option Word := none
  state : ChainState := .parked
  wait : Wait := .link
  rescanPending : Bool := false
  rewindPending : Bool := false
  rescanTimer : Timer := .stopped
  phase : WalkPhase := .rest
  card : Card := {}
deriving DecidableEq, Repr

/-- The five requesters of the memory port, in arbiter order (R15). -/
inductive Requester
  | demand | control | report | mirror | setup
deriving DecidableEq, Repr

/-- What an access is for. -/
inductive PortOp
  | demandRead
  | anchorRead (chain : Chain)
  | headerRead (chain : Chain)
  | takenWrite (chain : Chain)
  | payloadRead (chain : Chain)
  | dataWrite (chain : Chain)
  | detailWrite (chain : Chain)
  | ownerWrite (chain : Chain)
  | mirrorFirst
  | mirrorBody (burst : Nat)
  | mirrorLast
deriving DecidableEq, Repr

/-- One burst: its purpose, its address, its length in words, and the words of a write (none for a read). -/
structure Access where
  op : PortOp
  addr : Word
  len : Nat
  data : List Word
deriving DecidableEq, Repr

/-- The memory port: the access in flight and the request each requester has waiting (R14). -/
structure Port where
  inFlight : Option Access := none
  demand : Option Access := none
  control : Option Access := none
  report : Option Access := none
  mirror : Option Access := none
  setup : Option Access := none
deriving DecidableEq, Repr

/-- A mirror write in progress: the base it began with and its snapshot (R19). -/
structure MirrorWrite where
  base : Word
  body : List Word
deriving DecidableEq, Repr

/-- The mirror writer (R18, R19). -/
structure Mirror where
  seq : Word := 0
  writing : Option MirrorWrite := none
  pendingStart : Bool := false
  timer : Timer := .running 50
deriving DecidableEq, Repr

/-- The last command outcome, coded in this order (section 12.8). -/
inductive CommandOutcome
  | none | accepted | badCommand | baseNotSet | notInHalt | badBase | tablesMissing | alreadyInRun
deriving DecidableEq, Repr

/-- The five attention reasons (R26), in the bit order of the ATTENTION register. -/
structure Attention where
  reportWritten : Bool := false
  reportsHeld : Bool := false
  collectorChange : Bool := false
  chainBroken : Bool := false
  modeChange : Bool := false
deriving DecidableEq, Repr

/-- The Mailbox Port's record. The base `none` is "unset" with the base-set flag clear (R2). -/
structure Mailbox where
  base : Option Word := none
  outcome : CommandOutcome := .none
  missing : BitVec 7 := 0
  attention : Attention := {}
  chains : PerChain ChainRec := ⟨{}, {}, {}⟩
  port : Port := {}
  holding : List ReportRec := []
  reportCopy : Option ReportRec := none
  raised : Word := 0
  written : Word := 0
  dropped : Word := 0
  mirror : Mirror := {}
deriving DecidableEq, Repr

/-! ### Configuration tables (chapter 10, section 12.5) -/

structure LineLimits where
  gapThreshold : Nat := 0
  lowLimit : Nat := 0
  highLimit : Nat := 0
  hysteresis : Nat := 0
  gapDraw : Nat := 0
deriving DecidableEq, Repr

/-- BUDGET; while it is not loaded its fields are 0 but for the battery nominal voltage, 600 V (R61). -/
structure BudgetEntry where
  lineLimit : Nat := 0
  reserve : Nat := 0
  regenLimit : Nat := 0
  nominal : Nat := 600
deriving DecidableEq, Repr

structure PoleLimits where
  housed : Nat := 0
  bandLow : Nat := 0
  bandHigh : Nat := 0
  lateral : Nat := 0
  rateLimit : Nat := 0
  rateFrames : Nat := 0
  mateLowering : Bool := false
deriving DecidableEq, Repr

/-- A zone's pole action (section 6.7). -/
inductive PoleAction
  | none | lower | raise
deriving DecidableEq, Repr

/-- A profile record; the default is the neutral profile (R121). -/
structure Profile where
  tractionCap : Nat := 100
  regenCap : Nat := 100
  gapExpected : Bool := false
  gapTolerance : Nat := 0
  lateralOverride : Nat := 0
  bandWidening : Nat := 0
  auxHold : Bool := false
  action : PoleAction := .none
  reportOnPass : Bool := false
deriving DecidableEq, Repr

structure WatchEntry where
  valid : Bool := false
  hold : Bool := false
  line : Nat := 0
  lineCare : Bool := false
  place : Nat := 0
  placeCare : Bool := false
  feature : Nat := 0
  featureCare : Bool := false
  profile : Nat := 0
deriving DecidableEq, Repr

inductive AuxClass
  | essential | comfort | deferrable
deriving DecidableEq, Repr

/-- An AUX_TABLE entry. `feedback` is 16 for NONE (section 12.5). -/
structure AuxEntry where
  valid : Bool := false
  cls : AuxClass := .essential
  claim : Nat := 0
  runOutput : Nat := 0
  feedback : Nat := 0
  startLimit : Nat := 0
  minOff : Nat := 0
  priority : Nat := 0
  layoverKeep : Bool := false
  standing : Bool := false
deriving DecidableEq, Repr

inductive InputRole
  | polePHoused | poleNHoused | polePTrip | poleNTrip | doorInterlock | auxFeedback | wakeRequest | none
deriving DecidableEq, Repr

/-- A CONTACT_ROLES entry. -/
structure InputEntry where
  role : InputRole := .none
  aux : Nat := 0
  toSupply : Bool := false
  highCurrent : Bool := false
  pulsed : Bool := false
  cleaningOff : Bool := false
  debounce : Nat := 0
  wakeEnabled : Bool := false
deriving DecidableEq, Repr

inductive OutputRole
  | raiseP | raiseN | retrieverP | retrieverN | alarmLamp | alarmBuzzer | auxRun | none
deriving DecidableEq, Repr

/-- An OUTPUT_ROLES entry. -/
structure OutputEntry where
  role : OutputRole := .none
  aux : Nat := 0
deriving DecidableEq, Repr

/-- A reaction set (section 9.2), LAMP in bit 0 of its word. -/
structure Reactions where
  lamp : Bool := false
  buzzer : Bool := false
  ackRequired : Bool := false
  escalate : Bool := false
deriving DecidableEq, Repr

/-- The TIMERS entry, in the word order of section 12.5; each default is its owning chapter's. -/
structure Timers where
  rescanControl : Nat := 5
  rescanSetup : Nat := 100
  rescanReport : Nat := 20
  mirrorInterval : Nat := 50
  gapTolerance : Nat := 120
  restoreTime : Nat := 300
  highPersist : Nat := 2000
  confirmWindow : Nat := 40
  resolutionWindow : Nat := 1000
  lowerTime : Nat := 5000
  raiseTime : Nat := 6000
  settleTime : Nat := 250
  raiseSpeed : Nat := 5
  raiseRetries : Nat := 1
  pollInterval : Nat := 256
  pulsesPerMetre : Nat := 10
  minQuality : Nat := 1
  duplicateDistance : Nat := 30
  pointWidth : Nat := 5
  controlPeriod : Nat := 10
  staleLimit : Nat := 5
  motoringLimit : Nat := 0
  regenLimit : Nat := 0
  rampRate : Nat := 500
  inhibitRamp : Nat := 5000
  stagger : Nat := 500
  alertTime : Nat := 5000
  minOnTime : Nat := 2000
deriving DecidableEq, Repr

/-- A LINK_SETTINGS entry: nominal unit in µs (entries 0 to 2) or link rate (3, 4), silence limit, error-run limit. -/
structure LinkEntry where
  unitOrRate : Nat := 0
  silence : Nat := 0
  errorLimit : Nat := 0
deriving DecidableEq, Repr

/-- The eleven tables, coded in number order (section 10.1). -/
inductive TableId
  | lineLimits | budget | poleLimits | profiles | watchTable | auxTable | contactRoles | outputRoles
  | faultReactions | timers | linkSettings
deriving DecidableEq, Repr

/-- A table's written mark for each entry and its two flags (R174). -/
structure TableMarks where
  written : BitVec 20 := 0
  loaded : Bool := false
  complete : Bool := false
deriving DecidableEq, Repr

/-- The default reactions of R160, with the fixed reactions of POLE_DEWIRED and ALARM_OUTPUT. -/
def defaultReactions : Vector Reactions 20 :=
  #v[⟨true, true, true, false⟩,    -- POLE_DEWIRED (fixed)
     ⟨true, false, true, false⟩,   -- POLE_SENSOR
     ⟨true, true, true, false⟩,    -- POLE_STUCK
     ⟨true, false, true, false⟩,   -- RAISE_FAILED
     ⟨true, true, true, false⟩,    -- REWIRE_MISSED
     ⟨false, false, false, false⟩, -- LINE_HIGH
     ⟨true, false, false, false⟩,  -- LINE_LOST
     ⟨false, false, true, false⟩,  -- GAP_DRAW
     ⟨false, false, true, false⟩,  -- DEMAND_STALE
     ⟨true, false, true, false⟩,   -- DRIVE_LINK_LOST
     ⟨true, false, true, false⟩,   -- DRIVE_FAULT
     ⟨false, false, false, false⟩, -- AUX_START_FAIL
     ⟨false, false, true, false⟩,  -- AUX_FAULTED
     ⟨true, false, true, false⟩,   -- OUTPUT_MISMATCH
     ⟨false, false, true, false⟩,  -- ALARM_OUTPUT (fixed)
     ⟨false, false, true, false⟩,  -- LINK_DEGRADED
     ⟨false, false, true, false⟩,  -- CHAIN_BROKEN
     ⟨false, false, false, false⟩, -- MEMORY_PORT
     ⟨false, false, true, false⟩,  -- CONFIG_MISMATCH
     ⟨false, false, false, false⟩] -- ZONE_OVERFLOW

/-- The configuration record (chapter 10). -/
structure Tables where
  lineLimits : LineLimits := {}
  budget : BudgetEntry := {}
  poleLimits : PerPole PoleLimits := ⟨{}, {}⟩
  profiles : Vector Profile 8 := Vector.replicate 8 {}
  watch : Vector WatchEntry 12 := Vector.replicate 12 {}
  aux : Vector AuxEntry 12 := Vector.replicate 12 {}
  inputs : Vector InputEntry 16 := Vector.replicate 16 {}
  outputs : Vector OutputEntry 16 := Vector.replicate 16 {}
  reactions : Vector Reactions 20 := defaultReactions
  timers : Timers := {}
  links : PerLink LinkEntry := ⟨{}, {}, {}, {}, {}⟩
  marks : Vector TableMarks 11 := Vector.replicate 11 {}
  check : Word := 0
deriving DecidableEq, Repr

/-! ### Link Receivers (chapter 2) -/

/-- Link states, coded in the order of the table of R32. -/
inductive LinkState
  | silent | hunting | good | degraded
deriving DecidableEq, Repr

/-- Causes of errored frames (R27 to R29, R35), those of the pulse-interval links before those of the serial links: one joined list,
whose codes are the model's reading (assumption log 10). -/
inductive LinkCause
  | syncDrift | symbolInvalid | frameAborted | checkError | framing | length | gap | check
deriving DecidableEq, Repr

structure LinkRec where
  started : Bool := false
  state : LinkState := .silent
  goodRun : Nat := 0
  errorRun : Nat := 0
  silence : Timer := .stopped
  cause : Option LinkCause := none
deriving DecidableEq, Repr

/-- A pulse-interval frame in assembly: the symbols taken so far (an invalid one stands as 0) and the cause of
its first error (R28). -/
structure PlFrame where
  symbols : List Nat := []
  error : Option LinkCause := none
deriving DecidableEq, Repr

/-- A pulse-interval receiver. `unit48` is the SYNC length whose 48th part is the unit time (R27). -/
structure PlRx where
  syncRef : Option Nat := none
  unit48 : Option Nat := none
  frame : Option PlFrame := none
deriving DecidableEq, Repr

/-- A serial receiver: waiting for a start byte, for the length byte, or taking payload and check bytes (R35). -/
inductive SerialRx
  | waiting
  | length
  | body (len : Nat) (bytes : List Byte)
deriving DecidableEq, Repr

structure Links where
  recs : PerLink LinkRec := ⟨{}, {}, {}, {}, {}⟩
  pl : PerPL PlRx := ⟨{}, {}, {}⟩
  serial : PerSerial SerialRx := ⟨.waiting, .waiting⟩
deriving DecidableEq, Repr

/-- The mode field of a setpoint frame, coded in this order (section 12.9). -/
inductive DriveMode
  | motor | brake | coast | cut
deriving DecidableEq, Repr

/-- A setpoint frame's fields (R134). -/
structure SetpointFrame where
  seq : Byte
  current : Int
  mode : DriveMode
  regen : Bool
deriving DecidableEq, Repr

/-- The drive link's send side (R37). -/
structure SendSide where
  sending : Option SetpointFrame := none
  waiting : Option SetpointFrame := none
deriving DecidableEq, Repr

/-! ### Contact and Drive Circuits (chapter 2) -/

/-- One contact input (R39 to R43). `awaitingFirst` marks an input whose next raw level is its confirmed state (R42). -/
structure InputRec where
  raw : Option Level := none
  confirmed : Level := .opened
  awaitingFirst : Bool := false
  debounce : Timer := .stopped
  cleaning : Timer := .stopped
  reference : Level := .opened
deriving DecidableEq, Repr

structure Contacts where
  inputs : Vector InputRec 16 := Vector.replicate 16 {}
  pollTimer : Timer := .stopped
  second : BitVec 16 := 0
  secondTimer : Timer := .stopped
deriving DecidableEq, Repr

/-- One drive output (R45, R46). -/
structure OutputRec where
  commanded : Bool := false
  readback : Bool := false
  failed : Bool := false
  mismatch : Timer := .stopped
deriving DecidableEq, Repr

/-! ### Line Supervisor (chapter 3) -/

/-- Line states, coded in this order (section 3.1, R186). -/
inductive LineState
  | unknown | live | sag | high | gap | lost | offWire
deriving DecidableEq, Repr

/-- The per-gap record (section 3.3). Durations and tolerances in ms, current in 0.5 A. -/
structure GapRec where
  entry : Word := 0
  before : LineState := .unknown
  tolerance : Nat := 0
  expected : Bool := false
  peak : Nat := 0
  drawRaised : Bool := false
  duration : Nat := 0
deriving DecidableEq, Repr

structure BatteryLimits where
  available : Bool := false
  discharge : Nat := 0
  charge : Nat := 0
deriving DecidableEq, Repr

inductive Supply
  | line | battery | none
deriving DecidableEq, Repr

/-- The Power Budget record (section 3.8), powers in 0.1 kW, regen cap in A. -/
structure Budget where
  available : Nat := 0
  source : Supply := .none
  claims : Nat := 0
  reserve : Nat := 0
  allowance : Nat := 0
  regenCap : Nat := 0
deriving DecidableEq, Repr

/-- Pole states, coded in this order (section 4.1). -/
inductive PoleState
  | untracked | housed | raising | onWire | suspect | dewired | lowering | faulted
deriving DecidableEq, Repr

/-- The Line Supervisor's record. Voltage in 0.25 V, current in 0.5 A. -/
structure Line where
  state : LineState := .unknown
  voltage : Nat := 0
  current : Int := 0
  gapTimer : Timer := .stopped
  restoreTimer : Timer := .stopped
  highTimer : Timer := .stopped
  highEntry : Word := 0
  poleCopy : PerPole PoleState := ⟨.untracked, .untracked⟩
  gap : GapRec := {}
  battery : BatteryLimits := {}
  budget : Budget := {}
  grants : Vector (Option Nat) 12 := Vector.replicate 12 none
  lastDemanded : Nat := 0
deriving DecidableEq, Repr

/-! ### Pole Monitor (chapters 4 and 5) -/

/-- The dewire indicators (section 4.1), ELEV_HIGH in bit 0 to TRIP in bit 4 (R186). -/
structure Indicators where
  elevHigh : Bool := false
  elevRate : Bool := false
  lateral : Bool := false
  lineGap : Bool := false
  trip : Bool := false
deriving DecidableEq, Repr

/-- The elevation change between two data frames, in 0.025°, and the time between them, in ms (R69). -/
structure Rate where
  change : Int
  ms : Nat
deriving DecidableEq, Repr

/-- The sensor condition of a frame, coded in this order (R30). -/
inductive SensorCondition
  | normal | degraded | sensorFault
deriving DecidableEq, Repr

inductive PoleFault
  | unresolved | poleStuck
deriving DecidableEq, Repr

inductive RaiseOrigin
  | none | card | zone
deriving DecidableEq, Repr

inductive AbandonCause
  | none | timeout | aboveBand | trip | lowerRequest | zoneLower | sensorLost | halt
deriving DecidableEq, Repr

inductive LoweringCause
  | none | request | zone | mateDewired | unhoused | abandonedRaise
deriving DecidableEq, Repr

/-- A tag identity: line 0–63 and place 0–511 (section 6.2). -/
structure TagId where
  line : Nat
  place : Nat
deriving DecidableEq, Repr

/-- The pole record (sections 4.1 and 5.1). Angles in 0.025°. -/
structure Pole where
  state : PoleState := .untracked
  resolving : Bool := false
  resolveTag : Word := 0
  elevation : Nat := 0
  lateral : Int := 0
  frameTime : Word := 0
  haveFrame : Bool := false
  rate : Option Rate := none
  rateRun : Nat := 0
  sensorAvailable : Bool := false
  condition : SensorCondition := .normal
  indicators : Indicators := {}
  seen : Indicators := {}
  gapSpent : Bool := false
  blind : Bool := false
  latch : Bool := false
  latchAck : Bool := false
  fault : Option PoleFault := none
  confirmTimer : Timer := .stopped
  resolutionTimer : Timer := .stopped
  holdTimer : Timer := .stopped
  lowerTimer : Timer := .stopped
  origin : RaiseOrigin := .none
  requestTag : Word := 0
  zoneId : Option TagId := none
  retryCount : Nat := 0
  retryPending : Bool := false
  abandon : AbandonCause := .none
  lowering : LoweringCause := .none
  raiseTimer : Timer := .stopped
  settleTimer : Timer := .stopped
  startTime : Word := 0
  lowerStart : Word := 0
deriving DecidableEq, Repr

/-! ### Zone Matcher (chapter 6) -/

/-- Outcomes of a gap-end notice, coded in this order (R124). -/
inductive GapOutcome
  | bridged | lost | dewired | offWire | unknown
deriving DecidableEq, Repr

inductive ActionState
  | pending | done | waiting | missed
deriving DecidableEq, Repr

/-- The pole events of a zone for one pole (R124). -/
structure PoleEvents where
  suspect : Bool := false
  dewired : Bool := false
  lowering : Bool := false
  raising : Bool := false
  faulted : Bool := false
deriving DecidableEq, Repr

/-- A zone record (R115). Durations in ms, current in 0.5 A. -/
structure Zone where
  id : TagId
  feature : Nat
  entry : Nat
  profile : Nat
  specific : Bool
  start : Word
  stop : Word
  order : Nat
  gapCount : Nat := 0
  lastGap : Option GapOutcome := none
  longest : Nat := 0
  peak : Nat := 0
  events : PerPole PoleEvents := ⟨{}, {}⟩
  action : ActionState := .pending
deriving DecidableEq, Repr

/-- An entry of the recent-tag list (R112). -/
structure RecentTag where
  id : TagId
  odometer : Word
deriving DecidableEq, Repr

/-- The effective profile (R121); the default is the neutral profile's. -/
structure Effective where
  tractionCap : Nat := 100
  regenCap : Nat := 100
  gapExpected : Bool := false
  gapTolerance : Nat := 0
  auxHold : Bool := false
  lateralOverride : Nat := 0
  bandWidening : Nat := 0
deriving DecidableEq, Repr

/-- The Zone Matcher's record. `samples` holds the odometer at the last five speed expiries, oldest first. -/
structure Zones where
  odometer : Word := 0
  residue : Nat := 0
  speed : Nat := 0
  samples : Vector Word 5 := Vector.replicate 5 0
  speedTimer : Timer := .running 100
  stationary : Bool := false
  stationaryTimer : Timer := .running 2000
  recent : List RecentTag := []
  seen : BitVec 512 := 0
  pendingZones : List Zone := []
  active : List Zone := []
  effective : Effective := {}
  arrivals : Nat := 0
deriving DecidableEq, Repr

/-! ### Traction Governor (chapter 7) -/

/-- The ten inhibit reasons, in the order of R135. -/
inductive Reason
  | poleSuspect | poleDewired | polesMoving | doorOpen | demandStale | driveLink | driveFault
  | faultState | cardInhibit | mode
deriving DecidableEq, Repr

/-- The inhibit set: POLE_SUSPECT in bit 0 to MODE in bit 9 (R186). -/
structure InhibitSet where
  poleSuspect : Bool := false
  poleDewired : Bool := false
  polesMoving : Bool := false
  doorOpen : Bool := false
  demandStale : Bool := false
  driveLink : Bool := false
  driveFault : Bool := false
  faultState : Bool := false
  cardInhibit : Bool := false
  mode : Bool := false
deriving DecidableEq, Repr

/-- The inverter state, coded in this order (sections 7.1 and 12.9). -/
inductive Inverter
  | ready | running | fault | tripped | none
deriving DecidableEq, Repr

/-- The governor record (section 7.1). `replyWait` is the awaited sequence while the wait is OPEN. -/
structure Governor where
  inhibit : InhibitSet := { mode := true }
  armed : Bool := false
  period : Timer := .stopped
  lastFresh : Option Word := none
  held : Int := 0
  stale : Nat := 0
  setpoint : Int := 0
  counter : Byte := 0
  replyWait : Option Byte := none
  misses : Nat := 0
  goodRun : Nat := 0
  inverter : Inverter := .none
  actual : Int := 0
deriving DecidableEq, Repr

/-! ### Auxiliary Scheduler (chapter 8) -/

inductive AuxState
  | off | waiting | starting | running | shed | locked | faulted
deriving DecidableEq, Repr

structure AuxRec where
  state : AuxState := .off
  requested : Bool := false
  entryOrder : Nat := 0
  startOrder : Nat := 0
  startFails : Nat := 0
  trips : List Word := []
  startTimer : Timer := .stopped
  offTimer : Timer := .stopped
  offDone : Bool := false
  /-- The layover-keep setting as the last LAYOVER entry found it (R144, R156). -/
  keptInLayover : Bool := false
deriving DecidableEq, Repr

structure Auxiliaries where
  recs : Vector AuxRec 12 := Vector.replicate 12 {}
  queue : List AuxNo := []
  stagger : Timer := .stopped
  entryCount : Nat := 0
  startCount : Nat := 0
deriving DecidableEq, Repr

/-! ### Fault Collector (chapter 9) -/

/-- The cause that belongs to a source where the kind has several (R158): only POLE_SENSOR has. -/
inductive SourceCause
  | none | blind | unresolved | unhoused
deriving DecidableEq, Repr

/-- A source: the block and the instance that raised, with its cause (R158). -/
structure Source where
  block : Block := .mailboxPort
  inst : Nat := 0
  cause : SourceCause := .none
deriving DecidableEq, Repr

/-- A fault record (section 9.1). The condition is read from the sources and the two holds (R159). -/
structure FaultRec where
  sources : List Source := []
  edgeHold : Timer := .stopped
  testHold : Timer := .stopped
  test : Bool := false
  unack : Bool := false
  count : Nat := 0
  first : Word := 0
  last : Word := 0
  lastSource : Source := {}
  lastDetail : Word := 0
deriving DecidableEq, Repr

inductive CollectorState
  | normal | alert | fault
deriving DecidableEq, Repr

/-- The collector. A hold timer runs until its hold-until time (R165). -/
structure Collector where
  recs : Vector FaultRec 20 := Vector.replicate 20 {}
  state : CollectorState := .normal
  alertTimer : Timer := .stopped
  lampHold : Timer := .stopped
  buzzerHold : Timer := .stopped
  lampFallback : Bool := false
  buzzerFallback : Bool := false
deriving DecidableEq, Repr

/-! ### The part, and the machine -/

/-- Everything the NC-64 holds. `freeUses` counts the free values drawn (assumption log 6; the model's own). -/
structure Part where
  now : Word := 0
  mode : Mode := .halt
  lastReset : ResetKind := .powerOn
  keptPoles : PerPole PoleState := ⟨.untracked, .untracked⟩
  mbx : Mailbox := {}
  tables : Tables := {}
  links : Links := {}
  send : SendSide := {}
  contacts : Contacts := {}
  outputs : Vector OutputRec 16 := Vector.replicate 16 {}
  line : Line := {}
  poles : PerPole Pole := ⟨{}, {}⟩
  zones : Zones := {}
  gov : Governor := {}
  aux : Auxiliaries := {}
  faults : Collector := {}
  freeUses : Nat := 0
deriving DecidableEq, Repr

/-- The machine: the part and the queue of the commands that wait, first in, first out. -/
structure State where
  part : Part := {}
  pending : List Instr := []
deriving DecidableEq, Repr

/-- The machine right after a power-on reset (R178): HALT, base unset, every table unloaded, queue empty. -/
def State.reset : State := { part := {}, pending := [] }

/-- Reasons the machine stops with a fault. The manual gives none: no command is undefined or unpredictable, so
this type has no constructor (safe: nothing is stopped). -/
inductive Fault
deriving DecidableEq, Repr

/-- Reasons a command has no meaning in the model. -/
inductive Refusal
  /-- Raised by exec's arm of a command that is not modelled yet (safe: it stops); no arm does. -/
  | notModelled (mnemonic : String)
deriving DecidableEq, Repr

end Sys2Proof.Machine
end

