-- ==== Sys2Proof/Machine/Ops.lean ====
section
/-! DEFINITION. Named reads and updates of the state's parts, timers and the clock. -/

namespace Sys2Proof.Machine

/-! ### Families -/

/-- The value of one chain. -/
def PerChain.get {α : Type} (f : PerChain α) : Chain → α
  | .control => f.control
  | .setup => f.setup
  | .report => f.report

/-- Replace the value of one chain. -/
def PerChain.set {α : Type} (f : PerChain α) (c : Chain) (x : α) : PerChain α :=
  match c with
  | .control => { f with control := x }
  | .setup => { f with setup := x }
  | .report => { f with report := x }

/-- The value of one pole. -/
def PerPole.get {α : Type} (f : PerPole α) : PoleId → α
  | .p => f.p
  | .n => f.n

/-- Replace the value of one pole. -/
def PerPole.set {α : Type} (f : PerPole α) (i : PoleId) (x : α) : PerPole α :=
  match i with
  | .p => { f with p := x }
  | .n => { f with n := x }

/-- The value of one pulse-interval link. -/
def PerPL.get {α : Type} (f : PerPL α) : PLink → α
  | .pl0 => f.pl0
  | .pl1 => f.pl1
  | .pl2 => f.pl2

/-- Replace the value of one pulse-interval link. -/
def PerPL.set {α : Type} (f : PerPL α) (l : PLink) (x : α) : PerPL α :=
  match l with
  | .pl0 => { f with pl0 := x }
  | .pl1 => { f with pl1 := x }
  | .pl2 => { f with pl2 := x }

/-- The value of one serial link. -/
def PerSerial.get {α : Type} (f : PerSerial α) : SLink → α
  | .tag => f.tag
  | .drive => f.drive

/-- Replace the value of one serial link. -/
def PerSerial.set {α : Type} (f : PerSerial α) (l : SLink) (x : α) : PerSerial α :=
  match l with
  | .tag => { f with tag := x }
  | .drive => { f with drive := x }

/-- The value of one link. -/
def PerLink.get {α : Type} (f : PerLink α) : Link → α
  | .pl0 => f.pl0
  | .pl1 => f.pl1
  | .pl2 => f.pl2
  | .tag => f.tag
  | .drive => f.drive

/-- Replace the value of one link. -/
def PerLink.set {α : Type} (f : PerLink α) (l : Link) (x : α) : PerLink α :=
  match l with
  | .pl0 => { f with pl0 := x }
  | .pl1 => { f with pl1 := x }
  | .pl2 => { f with pl2 := x }
  | .tag => { f with tag := x }
  | .drive => { f with drive := x }

/-- A pulse-interval link among the five links. -/
def plLink : PLink → Link
  | .pl0 => .pl0
  | .pl1 => .pl1
  | .pl2 => .pl2

/-- A serial link among the five links. -/
def serialLink : SLink → Link
  | .tag => .tag
  | .drive => .drive

/-- The mate pole (Terms). -/
def mateOf : PoleId → PoleId
  | .p => .n
  | .n => .p

/-- The sixteen inputs or outputs in number order. -/
def allSixteen : List (Fin 16) := [0, 1, 2, 3, 4, 5, 6, 7, 8, 9, 10, 11, 12, 13, 14, 15]

/-- The twelve auxiliaries in number order. -/
def allAux : List AuxNo := [0, 1, 2, 3, 4, 5, 6, 7, 8, 9, 10, 11]

/-- The twenty fault kinds in number order (section 9.1). -/
def allKinds : List FaultKind :=
  [.poleDewired, .poleSensor, .poleStuck, .raiseFailed, .rewireMissed,
   .lineHigh, .lineLost, .gapDraw, .demandStale, .driveLinkLost,
   .driveFault, .auxStartFail, .auxFaulted, .outputMismatch, .alarmOutput,
   .linkDegraded, .chainBroken, .memoryPort, .configMismatch, .zoneOverflow]

/-- The place of a fault kind in the record array: its number in section 9.1 less 1. -/
def kindIndex : FaultKind → Fin 20
  | .poleDewired => 0
  | .poleSensor => 1
  | .poleStuck => 2
  | .raiseFailed => 3
  | .rewireMissed => 4
  | .lineHigh => 5
  | .lineLost => 6
  | .gapDraw => 7
  | .demandStale => 8
  | .driveLinkLost => 9
  | .driveFault => 10
  | .auxStartFail => 11
  | .auxFaulted => 12
  | .outputMismatch => 13
  | .alarmOutput => 14
  | .linkDegraded => 15
  | .chainBroken => 16
  | .memoryPort => 17
  | .configMismatch => 18
  | .zoneOverflow => 19

/-- The number of a fault kind, 1 to 20 (section 9.1). -/
def kindNumber (k : FaultKind) : Nat := (kindIndex k).val + 1

/-- The kind of a number 1 to 20 (section 9.1). -/
def kindOfNumber (n : Nat) : Option FaultKind := if n = 0 then none else allKinds[n - 1]?

/-! ### Record updates -/

/-- Replace one pole's record. -/
def Part.setPole (p : Part) (i : PoleId) (r : Pole) : Part := { p with poles := p.poles.set i r }

/-- Change one pole's record. -/
def Part.modPole (p : Part) (i : PoleId) (f : Pole → Pole) : Part := p.setPole i (f (p.poles.get i))

/-- Replace one auxiliary's record. -/
def Part.setAux (p : Part) (a : AuxNo) (r : AuxRec) : Part := { p with aux := { p.aux with recs := p.aux.recs.set a r } }

/-- One auxiliary's record. -/
def Part.auxRec (p : Part) (a : AuxNo) : AuxRec := p.aux.recs.get a

/-- One auxiliary's AUX_TABLE entry as it stands. -/
def Part.auxEntry (p : Part) (a : AuxNo) : AuxEntry := p.tables.aux.get a

/-- Replace one contact input's record. -/
def Part.setInput (p : Part) (i : InputNo) (r : InputRec) : Part :=
  { p with contacts := { p.contacts with inputs := p.contacts.inputs.set i r } }

/-- One contact input's record. -/
def Part.input (p : Part) (i : InputNo) : InputRec := p.contacts.inputs.get i

/-- Replace one drive output's record. -/
def Part.setOutput (p : Part) (o : OutputNo) (r : OutputRec) : Part := { p with outputs := p.outputs.set o r }

/-- One drive output's record. -/
def Part.output (p : Part) (o : OutputNo) : OutputRec := p.outputs.get o

/-- One fault kind's record. -/
def Collector.get (c : Collector) (k : FaultKind) : FaultRec := c.recs.get (kindIndex k)

/-- Replace one fault kind's record. -/
def Collector.set (c : Collector) (k : FaultKind) (r : FaultRec) : Collector :=
  { c with recs := c.recs.set (kindIndex k) r }

/-- The reactions of a kind as they stand (R160). -/
def Part.reactions (p : Part) (k : FaultKind) : Reactions := p.tables.reactions.get (kindIndex k)

/-- Replace one chain's record. -/
def Mailbox.setChain (m : Mailbox) (c : Chain) (r : ChainRec) : Mailbox := { m with chains := m.chains.set c r }

/-- Replace one link's record. -/
def Part.setLink (p : Part) (l : Link) (r : LinkRec) : Part :=
  { p with links := { p.links with recs := p.links.recs.set l r } }

/-- Replace one pulse-interval receiver. -/
def Part.setPlRx (p : Part) (l : PLink) (r : PlRx) : Part := { p with links := { p.links with pl := p.links.pl.set l r } }

/-- Replace one serial receiver. -/
def Part.setSerialRx (p : Part) (l : SLink) (r : SerialRx) : Part :=
  { p with links := { p.links with serial := p.links.serial.set l r } }

/-! ### Timers and the clock -/

/-- Whether a timer runs. -/
def Timer.isRunning : Timer → Bool
  | .stopped => false
  | .running _ => true

/-- A position or time `x` is ahead of `y` by the half-range rule (R109). -/
def aheadOf (x y : Word) : Bool := decide (1 ≤ (x - y).toNat ∧ (x - y).toNat < 2 ^ 31)

/-- A timer started at time `now` with a time of `ms`. -/
def timerFrom (now : Word) (ms : Nat) : Timer := .running (now + BitVec.ofNat 32 ms)

/-- A timer started in this event. -/
def Part.startTimer (p : Part) (ms : Nat) : Timer := timerFrom p.now ms

/-- The timestamp at a timer's expiry: the expiry time, unless the timestamp already stands later (assumption log 1). -/
def Part.clockTo (p : Part) (expires : Word) : Part := if aheadOf expires p.now then { p with now := expires } else p

/-- An expiry command: without effect while the timer is stopped; otherwise the event at the expiry time
(assumption log 2). -/
def Part.onExpiry (p : Part) (t : Timer) (event : Part → Part) : Part :=
  match t with
  | .stopped => p
  | .running e => event (p.clockTo e)

/-- Milliseconds from `then_` to now, modulo 2³². -/
def Part.since (p : Part) (then_ : Word) : Nat := (p.now - then_).toNat

/-- A 32-bit word of a number. -/
def word (n : Nat) : Word := BitVec.ofNat 32 n

/-- A quotient rounded down, whose value at divisor 0 is free (assumption log 6). -/
def quotient (a b : Nat) : Nat := if b = 0 then Config.divByZero a else a / b

/-- Add 1 to a count that stays at its limit. -/
def countUp (n limit : Nat) : Nat := if n < limit then n + 1 else n

/-- The first member of a list that a test accepts, with its place. -/
def firstIndex {α : Type} (test : α → Bool) : List α → Option Nat
  | [] => none
  | x :: xs => if test x then some 0 else (firstIndex test xs).map (· + 1)

/-- A list without the member at a place. -/
def dropAt {α : Type} : List α → Nat → List α
  | [], _ => []
  | _ :: xs, 0 => xs
  | x :: xs, n + 1 => x :: dropAt xs n

/-- A list with the last member changed. -/
def modLast {α : Type} (f : α → α) : List α → List α
  | [] => []
  | [x] => [f x]
  | x :: y :: xs => x :: modLast f (y :: xs)

/-- Insert before the first member that the new one precedes; the order of a queue kept sorted. -/
def insertBy {α : Type} (precedes : α → α → Bool) (x : α) : List α → List α
  | [] => [x]
  | y :: ys => if precedes x y then x :: y :: ys else y :: insertBy precedes x ys

/-- A list put in order by insertion. -/
def sortBy {α : Type} (precedes : α → α → Bool) : List α → List α
  | [] => []
  | x :: xs => insertBy precedes x (sortBy precedes xs)

/-- Do one thing for each member of a list, in order. -/
def Part.forEach {α : Type} (p : Part) (xs : List α) (f : Part → α → Part) : Part := xs.foldl f p

end Sys2Proof.Machine
end

