-- ==== Sys2Proof/Machine/Operands.lean ====
section
/-! DEFINITION. The fields of the records that cross the window, the registers and the links, with their codes and
check values (chapter 12, R4, R29, R34, R188). -/

namespace Sys2Proof.Machine

/-! ### Codes of named values (R186): the place in the owning chapter's list, from 0 (assumption log 10) -/

def chainNumber : Chain → Nat
  | .control => 0
  | .setup => 1
  | .report => 2

/-- The chain a REWIND argument names (R12). -/
def chainOfNumber : Nat → Option Chain
  | 0 => some .control
  | 1 => some .setup
  | 2 => some .report
  | _ => none

def poleNumber : PoleId → Nat
  | .p => 0
  | .n => 1

def linkNumber : Link → Nat
  | .pl0 => 0
  | .pl1 => 1
  | .pl2 => 2
  | .tag => 3
  | .drive => 4

/-- Memory-port requesters in arbiter order (R15, section 12.6). -/
def requesterNumber : Requester → Nat
  | .demand => 0
  | .control => 1
  | .report => 2
  | .mirror => 3
  | .setup => 4

def flagCode (b : Bool) : Nat := if b then 1 else 0

/-- ON and OFF in list order (R45); ARMED and DISARMED likewise (section 7.1). -/
def firstOfTwo (b : Bool) : Nat := if b then 0 else 1

def levelCode : Level → Nat
  | .closed => 0
  | .opened => 1

def modeCode : Mode → Nat
  | .halt => 0
  | .run => 1
  | .layover => 2

def resetKindCode (k : ResetKind) : Nat := k.ctorIdx
def severityCode (s : Severity) : Nat := s.ctorIdx
def blockCode (b : Block) : Nat := b.ctorIdx
def chainStateCode (s : ChainState) : Nat := s.ctorIdx
def breakPhaseCode (x : BreakPhase) : Nat := x.ctorIdx
def outcomeCode (o : CommandOutcome) : Nat := o.ctorIdx
def auxClassCode (c : AuxClass) : Nat := c.ctorIdx
def auxStateCode (s : AuxState) : Nat := s.ctorIdx
def inputRoleCode (r : InputRole) : Nat := r.ctorIdx
def outputRoleCode (r : OutputRole) : Nat := r.ctorIdx
def linkStateCode (s : LinkState) : Nat := s.ctorIdx
def driveModeCode (m : DriveMode) : Nat := m.ctorIdx
def lineStateCode (s : LineState) : Nat := s.ctorIdx
def supplyCode (s : Supply) : Nat := s.ctorIdx
def poleStateCode (s : PoleState) : Nat := s.ctorIdx
def conditionCode (c : SensorCondition) : Nat := c.ctorIdx
def originCode (o : RaiseOrigin) : Nat := o.ctorIdx
def abandonCode (c : AbandonCause) : Nat := c.ctorIdx
def loweringCode (c : LoweringCause) : Nat := c.ctorIdx
def actionCode (a : ActionState) : Nat := a.ctorIdx
def inverterCode (i : Inverter) : Nat := i.ctorIdx
def collectorCode (c : CollectorState) : Nat := c.ctorIdx

/-- The cause of an errored frame: 0 to 3 for the pulse-interval links, 4 to 7 for the serial links, NONE last (assumption
log 10). -/
def linkCauseCode : Option LinkCause → Nat
  | some c => c.ctorIdx
  | none => 8

/-- A gap outcome, none last (assumption log 10). -/
def gapOutcomeCode : Option GapOutcome → Nat
  | some o => o.ctorIdx
  | none => 5

/-- The causes of POLE_SENSOR in the order BLIND, UNRESOLVED, UNHOUSED (R91, assumption log 10). -/
def sourceCauseCode : SourceCause → Nat
  | .none => 0
  | .blind => 0
  | .unresolved => 1
  | .unhoused => 2

/-- The result codes of section 12.3. -/
def resultNumber : ResultCode → Nat
  | .none => 0
  | .ok => 1
  | .badKind => 2
  | .badLength => 3
  | .badCheck => 4
  | .badValue => 5
  | .badIndex => 6
  | .notInMode => 7
  | .frozen => 8
  | .precondition => 9
  | .stillActive => 10
  | .busy => 11

/-- The report kind codes of section 12.6. -/
def reportKindCode : ReportKind → Nat
  | .fault k => kindNumber k
  | .runEntered => 32
  | .haltEntered => 33
  | .layoverEntered => 34
  | .wake => 35
  | .collectorChanged => 36
  | .lineRestored => 37
  | .poleResolved => 38
  | .suspectCleared => 39
  | .raiseComplete => 40
  | .raiseAbandoned => 41
  | .lowerComplete => 42
  | .lowerAbandoned => 43
  | .tagLowQuality => 44
  | .tagUnmatched => 45
  | .tagLinkNotReady => 46
  | .tagFrameInvalid => 47
  | .zonePassed => 48
  | .zoneDisplaced => 49
  | .tractionArmed => 50
  | .auxShed => 51
  | .auxTripped => 52

/-- A zone identity, line × 512 + place (section 12.6). -/
def identityCode (t : TagId) : Nat := t.line * 512 + t.place

/-- A set of flags as a number, the first-listed member in bit 0 (R186). -/
def setCode : List Bool → Nat
  | [] => 0
  | b :: bs => flagCode b + 2 * setCode bs

def indicatorsCode (i : Indicators) : Nat := setCode [i.elevHigh, i.elevRate, i.lateral, i.lineGap, i.trip]

def inhibitCode (s : InhibitSet) : Nat :=
  setCode [s.poleSuspect, s.poleDewired, s.polesMoving, s.doorOpen, s.demandStale, s.driveLink, s.driveFault,
    s.faultState, s.cardInhibit, s.mode]

def reactionsCode (r : Reactions) : Nat := setCode [r.lamp, r.buzzer, r.ackRequired, r.escalate]

def poleEventBits (e : PoleEvents) : List Bool := [e.suspect, e.dewired, e.lowering, e.raising, e.faulted]

/-- The ten pairs of pole and state (R124), pole P's five first (assumption log 10). -/
def poleEventsCode (e : PerPole PoleEvents) : Nat := setCode (poleEventBits e.p ++ poleEventBits e.n)

/-! ### Report details (R188) -/

/-- An item of a report: small takes a byte, large a word. -/
inductive Item
  | small (value : Nat)
  | large (value : Word)
deriving DecidableEq, Repr

/-- Fill detail words in order; `open_` is the open packed word with the number of bytes it holds. -/
def packFrom : List Item → Option (Word × Nat) → List Word
  | [], none => []
  | [], some (w, _) => [w]
  | .small v :: rest, none => packFrom rest (some (word (v % 256), 1))
  | .small v :: rest, some (w, n) =>
    if n < 4 then packFrom rest (some (w ||| word (v % 256 * 2 ^ (8 * n)), n + 1))
    else w :: packFrom rest (some (word (v % 256), 1))
  | .large v :: rest, none => v :: packFrom rest none
  | .large v :: rest, some (w, _) => w :: v :: packFrom rest none

/-- The detail words of a report's items. -/
def packItems (items : List Item) : List Word := packFrom items none

/-- A large item of a number. -/
def bigNat (n : Nat) : Item := .large (word n)

/-- A large item of a signed number, in two's complement (R186). -/
def bigInt (i : Int) : Item := .large (BitVec.ofInt 32 i)

/-- Report word 1: source block and source instance (section 12.6). -/
def sourceWord (b : Block) (inst : Nat) : Word := word (blockCode b + inst % 65536 * 256)

/-- A report record as it is written into a card (section 12.6). -/
def reportWords (r : ReportRec) : List Word :=
  word (reportKindCode r.kind + severityCode r.severity * 256 + flagCode r.test * 1024 + r.details.length * 2048
      + r.repeats * 65536 + r.droppedAfter * 16777216)
    :: sourceWord r.block r.inst :: r.time :: r.tag :: r.details

/-! ### Card headers (section 12.3, R187) -/

/-- Bits of a word, `len` of them from bit `lo`. -/
def field (w : Word) (lo len : Nat) : Nat := w.toNat / 2 ^ lo % 2 ^ len

/-- The owner field reads POSTED. -/
def headerPosted (h : Header) : Bool := field h.word0 0 8 == 1

def headerKind (h : Header) : Nat := field h.word1 0 16
def headerLength (h : Header) : Nat := field h.word1 16 16
def headerCheck (h : Header) : Nat := field h.word0 16 16

/-- Owner values as the part writes them (section 12.3). -/
def ownerTaken : Nat := 2
def ownerDone : Nat := 3
def ownerRefused : Nat := 4

/-- Word 0 with owner, result code and the check as it was read (R187). -/
def ownerWord (owner : Nat) (result : ResultCode) (check : Nat) : Word :=
  word (owner + resultNumber result * 256 + check * 65536)

/-- The two halves of a word, summed. -/
def halves (w : Word) : Nat := field w 0 16 + field w 16 16

/-- The card check over word 1 and the payload (R4). -/
def cardCheck (word1 : Word) (payload : List Word) : Nat :=
  65535 - ((halves word1 + (payload.map halves).sum) % 65536)

/-- A valid card address for a base (R1). -/
def validCard (base a : Word) : Bool :=
  a.toNat % 4 == 0 && decide (base.toNat + 0x400 ≤ a.toNat) && decide (a.toNat ≤ base.toNat + 0xFFFEC)

/-- A payload of `len` words of the card at `a` runs past the window (R4, R24). -/
def runsPast (base a : Word) (len : Nat) : Bool := decide (base.toNat + 0x100000 < a.toNat + 20 + 4 * len)

/-! ### Link check values (R29, R34) -/

/-- The bits of a number, `len` of them, most significant first. -/
def bitsOf (n : Nat) : Nat → List Bool
  | 0 => []
  | len + 1 => n.testBit len :: bitsOf n len

/-- One step of the 4-bit check register (R29). -/
def plStep (r : BitVec 4) (b : Bool) : BitVec 4 := if xor r.msb b then (r <<< 1) ^^^ 3 else r <<< 1

/-- The 4-bit check of the STATUS and DATA symbols, in frame order (R29). -/
def plCheck (symbols : List Nat) : Nat := ((symbols.flatMap (bitsOf · 4)).foldl plStep 5).toNat

/-- One step of the 16-bit check register (R34). -/
def serialStep (r : BitVec 16) (b : Bool) : BitVec 16 := if xor r.msb b then (r <<< 1) ^^^ 0x1021 else r <<< 1

/-- The frame check over the length byte and the payload (R34). -/
def serialCheck (bytes : List Byte) : BitVec 16 := (bytes.flatMap (fun b => bitsOf b.toNat 8)).foldl serialStep 0xFFFF

/-- The start byte of a serial frame (section 2.4). -/
def startByte : Byte := 0xC3

/-- A sixteen-bit number from its high and low byte. -/
def join16 (hi lo : Byte) : BitVec 16 := hi ++ lo

/-- A whole serial frame: start byte, length byte, payload, frame check high byte first (section 2.4). -/
def serialFrame (payload : List Byte) : List Byte :=
  let len : Byte := BitVec.ofNat 8 payload.length
  let c := serialCheck (len :: payload)
  startByte :: len :: payload ++ [c.extractLsb' 8 8, c.extractLsb' 0 8]

/-- The payload of a SETPOINT frame (section 12.9). -/
def setpointPayload (f : SetpointFrame) : List Byte :=
  let c := BitVec.ofInt 16 f.current
  [0x20, f.seq, c.extractLsb' 8 8, c.extractLsb' 0 8, BitVec.ofNat 8 (driveModeCode f.mode), BitVec.ofNat 8 (flagCode f.regen)]

/-- A byte of a payload, 0 past its end. -/
def byteAt (payload : List Byte) (i : Nat) : Byte := payload.getD i 0

/-- The fields of a TAG_READ frame (section 12.9). -/
structure TagRead where
  id : TagId
  feature : Nat
  quality : Nat
  distance : Nat
  length : Nat
deriving DecidableEq, Repr

def tagRead (payload : List Byte) : TagRead where
  id := { line := (byteAt payload 1).toNat % 64,
          place := (join16 (byteAt payload 2) (byteAt payload 3)).toNat % 512 }
  feature := (byteAt payload 4).toNat % 8
  quality := (byteAt payload 4).toNat / 16 % 4
  distance := (byteAt payload 5).toNat
  length := (byteAt payload 6).toNat

/-- The inverter state byte of a STATUS_REPLY (section 12.9). -/
def inverterOfByte (b : Byte) : Option Inverter :=
  match b.toNat with
  | 0 => some .ready
  | 1 => some .running
  | 2 => some .fault
  | 3 => some .tripped
  | _ => none

/-- A 12-bit quantity of three symbols, most significant first (R31). -/
def quantity (a b c : Nat) : Nat := a * 256 + b * 16 + c

/-- A 12-bit quantity read as signed (R31). -/
def signed12 (n : Nat) : Int := if n < 2048 then n else (n : Int) - 4096

end Sys2Proof.Machine
end

