-- ==== Sys2Proof/Machine/Flags.lean ====
section
/-! DEFINITION. The flag and set computations: attention reasons, inhibit set, dewire indicators, fault conditions,
and the register values read from them (R25, R26, R135, R159, section 12.8). -/

namespace Sys2Proof.Machine

/-! ### Attention (R26) -/

/-- The condition of REPORTS_HELD: records held and the Report chain PARKED or BROKEN (R26). -/
def Mailbox.heldCondition (m : Mailbox) : Bool := !m.holding.isEmpty && (m.chains.report.state != .walking)

/-- REPORTS_HELD at the end of an event (R26, assumption log 22): set while its condition holds, clear when the list is
empty, otherwise as it was. -/
def Mailbox.settle (m : Mailbox) : Mailbox :=
  { m with attention := { m.attention with
      reportsHeld := m.heldCondition || (m.attention.reportsHeld && !m.holding.isEmpty) } }

/-- The end of an event: the one level-like attention reason is brought up to date. -/
def Part.settle (p : Part) : Part := { p with mbx := p.mbx.settle }

/-- The ATTENTION register (section 12.8). -/
def Attention.reg (a : Attention) : Word :=
  word (setCode [a.reportWritten, a.reportsHeld, a.collectorChange, a.chainBroken, a.modeChange])

/-- The attention line: asserted while any reason is set (R26). -/
def Attention.line (a : Attention) : Bool :=
  a.reportWritten || a.reportsHeld || a.collectorChange || a.chainBroken || a.modeChange

/-- Clear the reasons named in a mask (R26). -/
def Attention.ack (a : Attention) (mask : Byte) : Attention where
  reportWritten := a.reportWritten && !mask.getLsbD 0
  reportsHeld := a.reportsHeld && !mask.getLsbD 1
  collectorChange := a.collectorChange && !mask.getLsbD 2
  chainBroken := a.chainBroken && !mask.getLsbD 3
  modeChange := a.modeChange && !mask.getLsbD 4

/-- The PART STATUS register as read (R25, section 12.8). -/
def Part.partStatus (p : Part) : Word :=
  word (0x0C40 * 65536 + 1 * 16384 + modeCode p.mode * 4096 + flagCode p.mbx.base.isSome * 2048
    + outcomeCode p.mbx.outcome * 128 + p.mbx.missing.toNat)

/-- The MAILBOX BASE register as read: 0 while unset (R2). -/
def Part.baseRegister (p : Part) : Word := p.mbx.base.getD 0

/-- The ATTENTION register as read (R26). -/
def Part.attentionRegister (p : Part) : Word := p.mbx.attention.reg

/-- A COMMAND write that names no command: a reserved bit set or an unused code (section 12.8). -/
def badCommandWord (w : Word) : Bool :=
  field w 16 16 != 0 || field w 4 4 != 0 || field w 0 4 == 0 || decide (6 < field w 0 4)

/-! ### The inhibit set (R135) -/

def InhibitSet.has (s : InhibitSet) : Reason → Bool
  | .poleSuspect => s.poleSuspect
  | .poleDewired => s.poleDewired
  | .polesMoving => s.polesMoving
  | .doorOpen => s.doorOpen
  | .demandStale => s.demandStale
  | .driveLink => s.driveLink
  | .driveFault => s.driveFault
  | .faultState => s.faultState
  | .cardInhibit => s.cardInhibit
  | .mode => s.mode

/-- The set with a reason in it or out of it. -/
def InhibitSet.put (s : InhibitSet) (r : Reason) (b : Bool) : InhibitSet :=
  match r with
  | .poleSuspect => { s with poleSuspect := b }
  | .poleDewired => { s with poleDewired := b }
  | .polesMoving => { s with polesMoving := b }
  | .doorOpen => { s with doorOpen := b }
  | .demandStale => { s with demandStale := b }
  | .driveLink => { s with driveLink := b }
  | .driveFault => { s with driveFault := b }
  | .faultState => { s with faultState := b }
  | .cardInhibit => { s with cardInhibit := b }
  | .mode => { s with mode := b }

/-- A reason of the CUT class; the others are RAMP (R135). -/
def Reason.isCut : Reason → Bool
  | .poleSuspect => true
  | .poleDewired => true
  | .polesMoving => false
  | .doorOpen => false
  | .demandStale => false
  | .driveLink => true
  | .driveFault => true
  | .faultState => true
  | .cardInhibit => false
  | .mode => true

/-- The set holds any CUT reason. -/
def InhibitSet.anyCut (s : InhibitSet) : Bool :=
  s.poleSuspect || s.poleDewired || s.driveLink || s.driveFault || s.faultState || s.mode

/-- The set is empty. -/
def InhibitSet.empty (s : InhibitSet) : Bool :=
  !(s.anyCut || s.polesMoving || s.doorOpen || s.demandStale || s.cardInhibit)

/-! ### Dewire indicators (section 4.4) -/

/-- How many different indicators are present. -/
def Indicators.count (i : Indicators) : Nat :=
  flagCode i.elevHigh + flagCode i.elevRate + flagCode i.lateral + flagCode i.lineGap + flagCode i.trip

/-- An angle indicator is present (R80). -/
def Indicators.angle (i : Indicators) : Bool := i.elevHigh || i.elevRate || i.lateral

/-- The indicators present in either set. -/
def Indicators.union (i j : Indicators) : Indicators where
  elevHigh := i.elevHigh || j.elevHigh
  elevRate := i.elevRate || j.elevRate
  lateral := i.lateral || j.lateral
  lineGap := i.lineGap || j.lineGap
  trip := i.trip || j.trip

/-- A pole is ON_WIRE or SUSPECT: it keeps indicators (R74). -/
def Pole.onLine (q : Pole) : Bool := q.state == .onWire || q.state == .suspect

/-! ### Fault conditions (R159) -/

/-- ACTIVE by a source in force or a running edge hold. -/
def FaultRec.inForce (r : FaultRec) : Bool := !r.sources.isEmpty || r.edgeHold.isRunning

/-- The condition of a kind (R159). -/
def FaultRec.active (r : FaultRec) : Bool := r.inForce || r.testHold.isRunning

/-! ### Chain masks and modes -/

/-- A line state in which the supply is the line (section 3.1). -/
def LineState.supplied : LineState → Bool
  | .live => true
  | .sag => true
  | .high => true
  | .unknown => false
  | .gap => false
  | .lost => false
  | .offWire => false

/-- A pole state that counts as down-bound (R54). -/
def PoleState.downBound : PoleState → Bool
  | .lowering => true
  | .housed => true
  | .untracked => false
  | .raising => false
  | .onWire => false
  | .suspect => false
  | .dewired => false
  | .faulted => false

/-- Line states under which a DEFERRABLE auxiliary may not enter the queue (R146). -/
def LineState.classHold : LineState → Bool
  | .gap => true
  | .lost => true
  | .unknown => true
  | .live => false
  | .sag => false
  | .high => false
  | .offWire => false

end Sys2Proof.Machine
end

