-- ==== Sys2Proof/Machine/Port.lean ====
section
/-! DEFINITION. The memory port with its arbiter (section 1.4), the reads and parkings of the chain walkers
(section 1.3) and the report holding list (section 1.7). These change the Mailbox Port's record only. -/

namespace Sys2Proof.Machine

/-! ### The arbiter (R14, R15) -/

def chainRequester : Chain → Requester
  | .control => .control
  | .setup => .setup
  | .report => .report

def PortOp.requester : PortOp → Requester
  | .demandRead => .demand
  | .anchorRead c => chainRequester c
  | .headerRead c => chainRequester c
  | .takenWrite c => chainRequester c
  | .payloadRead c => chainRequester c
  | .dataWrite c => chainRequester c
  | .detailWrite c => chainRequester c
  | .ownerWrite c => chainRequester c
  | .mirrorFirst => .mirror
  | .mirrorBody _ => .mirror
  | .mirrorLast => .mirror

/-- The chain whose walker made an access, if a walker made it. -/
def PortOp.chain : PortOp → Option Chain
  | .demandRead => none
  | .anchorRead c => some c
  | .headerRead c => some c
  | .takenWrite c => some c
  | .payloadRead c => some c
  | .dataWrite c => some c
  | .detailWrite c => some c
  | .ownerWrite c => some c
  | .mirrorFirst => none
  | .mirrorBody _ => none
  | .mirrorLast => none

/-- The request a requester has waiting. -/
def Port.waiting (q : Port) : Requester → Option Access
  | .demand => q.demand
  | .control => q.control
  | .report => q.report
  | .mirror => q.mirror
  | .setup => q.setup

/-- Replace the request a requester has waiting. -/
def Port.setWaiting (q : Port) (r : Requester) (a : Option Access) : Port :=
  match r with
  | .demand => { q with demand := a }
  | .control => { q with control := a }
  | .report => { q with report := a }
  | .mirror => { q with mirror := a }
  | .setup => { q with setup := a }

/-- The requester the arbiter grants first: demand, Control, report, mirror, Setup (R15). -/
def Port.firstRequester (q : Port) : Option Requester :=
  [Requester.demand, .control, .report, .mirror, .setup].find? (fun r => (q.waiting r).isSome)

/-- Nothing in flight and nothing waiting: a request placed now is granted at once (R14). -/
def Port.idle (q : Port) : Bool := q.inFlight.isNone && q.firstRequester.isNone

/-- The burst as its grant finds it: the write of a report record carries the record's fields as they stand (R24);
a record evicted before the grant is written as it stood then (R22). -/
def Mailbox.atGrant (m : Mailbox) (a : Access) : Access :=
  match a.op with
  | .dataWrite .report =>
    match m.holding.find? (·.beingWritten) <|> m.reportCopy with
    | some r => { a with data := reportWords r }
    | none => a
  | _ => a

/-- A requester places a request (R14, assumption log 9). -/
def Mailbox.place (m : Mailbox) (a : Access) : Mailbox :=
  if m.port.idle then { m with port := { m.port with inFlight := some (m.atGrant a) } }
  else { m with port := m.port.setWaiting a.op.requester (some a) }

/-- A requester's waiting request is granted: its burst is in flight (R14). -/
def Mailbox.grantTo (m : Mailbox) (r : Requester) (a : Access) : Mailbox :=
  { m with port := { m.port.setWaiting r none with inFlight := some (m.atGrant a) } }

/-- The port, free, grants the waiting request of highest priority (R15). -/
def Mailbox.grantNext (m : Mailbox) : Mailbox :=
  match m.port.inFlight, m.port.firstRequester with
  | none, some r =>
    match m.port.waiting r with
    | some a => m.grantTo r a
    | none => m
  | _, _ => m

/-- An access ends and the port is free (R14). -/
def Mailbox.freePort (m : Mailbox) : Mailbox := { m with port := { m.port with inFlight := none } }

/-- The access in flight is for this purpose. -/
def Mailbox.inFlightIs (m : Mailbox) (op : PortOp) : Bool :=
  match m.port.inFlight with
  | some a => a.op == op
  | none => false

/-! ### Chain reads and parking (R5 to R13) -/

/-- The rescan interval of a chain (R5). -/
def rescanInterval (t : Timers) : Chain → Nat
  | .control => t.rescanControl
  | .setup => t.rescanSetup
  | .report => t.rescanReport

/-- A chain reads its anchor entry and goes WALKING (R10). While the base is unset no access is made (R1). -/
def Mailbox.readAnchor (m : Mailbox) (c : Chain) : Mailbox :=
  match m.base with
  | none => m
  | some b =>
    (m.setChain c { m.chains.get c with
        state := .walking, phase := .anchorRead, rewindPending := false, rescanTimer := .stopped, card := {} }).place
      { op := .anchorRead c, addr := b + word (4 * chainNumber c), len := 1, data := [] }

/-- A chain reads the header at an address and goes WALKING; its rescan-pending flag clears (R9). -/
def Mailbox.readHeader (m : Mailbox) (c : Chain) (a : Word) (phase : WalkPhase) : Mailbox :=
  (m.setChain c { m.chains.get c with
      cursor := some a, state := .walking, phase := phase, rescanPending := false, rescanTimer := .stopped, card := {} }).place
    { op := .headerRead c, addr := a, len := 5, data := [] }

/-- A parked chain makes its rescan read: the anchor entry, or the header at the cursor acting by the wait (R8). -/
def Mailbox.startRescan (m : Mailbox) (c : Chain) : Mailbox :=
  match m.base, (m.chains.get c).cursor with
  | none, _ => m
  | some _, none => m.readAnchor c
  | some _, some a => m.readHeader c a (.rescanRead (m.chains.get c).wait)

/-- The rescan timer of a chain that parks: stopped in LAYOVER (R13), for wait RECORD (R8), while the base is unset (R5)
and, on the Report chain, while no record is held (R7). -/
def Mailbox.parkTimer (p : Part) (m : Mailbox) (c : Chain) (w : Wait) : Timer :=
  if p.mode == .layover || w == .record || m.base.isNone || (c == .report && m.holding.isEmpty) then .stopped
  else p.startTimer (rescanInterval p.tables.timers c)

/-- A chain would park (R7, R10): a pending rewind reads the anchor, a pending rescan reads again, else it parks. -/
def Mailbox.park (p : Part) (m : Mailbox) (c : Chain) (w : Wait) : Mailbox :=
  let r := m.chains.get c
  if r.rewindPending then m.readAnchor c
  else
    let m' := m.setChain c { r with
      state := .parked, wait := w, phase := .rest, card := {}, rescanPending := false, rescanTimer := m.parkTimer p c w }
    if r.rescanPending then m'.startRescan c else m'

/-- Each PARKED chain makes one rescan read, on leaving LAYOVER (R13). -/
def Mailbox.rescanParked (m : Mailbox) (c : Chain) : Mailbox :=
  if (m.chains.get c).state == .parked then m.startRescan c else m

/-! ### The holding list (R21 to R24) -/

/-- A report joins a held record with the same kind and source (R21). -/
def coalesces (held new : ReportRec) : Bool :=
  held.kind == new.kind && held.block == new.block && held.inst == new.inst && !held.beingWritten
    && decide (held.repeats < 255)

/-- The higher severity. -/
def maxSeverity (a b : Severity) : Severity := if severityCode a < severityCode b then b else a

/-- A held record after a raise has coalesced into it (R21). -/
def coalesce (new held : ReportRec) : ReportRec :=
  { held with repeats := held.repeats + 1, time := new.time, details := new.details, tag := new.tag,
              severity := maxSeverity held.severity new.severity }

/-- What a record's joining starts on the Report chain: outside LAYOVER, a rescan read if the list was empty or the chain
waits for a record, else the rescan timer if it has stopped (R8, R24). -/
def Mailbox.afterJoin (p : Part) (m : Mailbox) (wasEmpty : Bool) : Mailbox :=
  let r := m.chains.report
  if p.mode == .layover || r.state != .parked || m.base.isNone then m
  else if wasEmpty || r.wait == .record then m.startRescan .report
  else if r.rescanTimer.isRunning then m
  else m.setChain .report { r with rescanTimer := p.startTimer p.tables.timers.rescanReport }

/-- A new record joins the tail (R21). -/
def Mailbox.join (p : Part) (m : Mailbox) (r : ReportRec) : Mailbox :=
  { m with holding := m.holding ++ [r] }.afterJoin p m.holding.isEmpty

/-- A new report is dropped (R22). -/
def Mailbox.dropReport (m : Mailbox) : Mailbox :=
  { m with dropped := m.dropped + 1,
           holding := modLast (fun r => { r with droppedAfter := countUp r.droppedAfter 255 }) m.holding }

/-- The place of the record a new ALARM report evicts: the oldest INFO, else the oldest WARNING (R22). -/
def evictIndex (held : List ReportRec) : Option Nat :=
  firstIndex (·.severity == .info) held <|> firstIndex (·.severity == .warning) held

/-- Evict the record at a place: it counts as dropped, and one being written is copied for its write (R22). -/
def Mailbox.evict (m : Mailbox) (i : Nat) : Mailbox :=
  match m.holding[i]? with
  | none => m
  | some r =>
    { m with holding := dropAt m.holding i, dropped := m.dropped + word r.repeats,
             reportCopy := if r.beingWritten then some r else m.reportCopy }

/-- A raise that arrives at a full list and cannot coalesce (R22). -/
def Mailbox.overflow (p : Part) (m : Mailbox) (r : ReportRec) : Mailbox :=
  match r.severity, evictIndex m.holding with
  | .alarm, some i => (m.evict i).join p r
  | _, _ => m.dropReport

/-- A raised report is taken (R21 to R23). -/
def Mailbox.takeReport (p : Part) (m : Mailbox) (r : ReportRec) : Mailbox :=
  let m := { m with raised := m.raised + 1 }
  match m.holding.getLast? with
  | some newest =>
    if coalesces newest r then { m with holding := modLast (coalesce r) m.holding }
    else if m.holding.length < 16 then m.join p r
    else m.overflow p r
  | none => m.join p r

/-- A new report record: repeat count 1, dropped-after 0 (R21), details packed by R188. -/
def Part.newReport (p : Part) (kind : ReportKind) (sev : Severity) (block : Block) (inst : Nat) (tag : Word)
    (items : List Item) : ReportRec where
  kind := kind
  severity := sev
  block := block
  inst := inst
  time := p.now
  repeats := 1
  droppedAfter := 0
  tag := tag
  test := false
  details := packItems items
  beingWritten := false

/-- A block raises a report record (R21). -/
def Part.putReport (p : Part) (r : ReportRec) : Part := { p with mbx := p.mbx.takeReport p r }

/-- A block raises a report (R21). -/
def Part.report (p : Part) (kind : ReportKind) (sev : Severity) (block : Block) (inst : Nat) (tag : Word)
    (items : List Item) : Part :=
  p.putReport (p.newReport kind sev block inst tag items)

end Sys2Proof.Machine
end

