-- ==== Sys2Proof/Machine/Mirror.lean ====
section
/-! DEFINITION. Zone precedence and the effective profile (R120, R121), and the status mirror (R18 to R20,
section 12.7). -/

namespace Sys2Proof.Machine

/-! ### Precedence and the effective profile -/

/-- Precedence of active zones: specific first, then the start farther behind the odometer, then the lower arrival
order (R120). -/
def zoneBefore (odometer : Word) (x y : Zone) : Bool :=
  if x.specific != y.specific then x.specific
  else if (odometer - x.start).toNat = (odometer - y.start).toNat then decide (x.order < y.order)
  else decide ((odometer - y.start).toNat < (odometer - x.start).toNat)

/-- The active zones in precedence order. -/
def Zones.precedence (z : Zones) : List Zone := sortBy (zoneBefore z.odometer) z.active

/-- The profile record of a number, as it stands (R115). -/
def Tables.profile (t : Tables) (n : Nat) : Profile := if h : n < 8 then t.profiles[n] else {}

/-- The effective profile of the active zones' profiles, in precedence order (R121). -/
def effectiveOf : List Profile → Effective
  | [] => {}
  | winner :: rest =>
    let all := winner :: rest
    { tractionCap := (all.map (·.tractionCap)).foldl min 100,
      regenCap := (all.map (·.regenCap)).foldl min 100,
      gapExpected := all.any (·.gapExpected),
      gapTolerance := ((all.filter (·.gapExpected)).map (·.gapTolerance)).foldl max 0,
      auxHold := all.any (·.auxHold),
      lateralOverride := winner.lateralOverride,
      bandWidening := winner.bandWidening }

/-- Recompute the effective profile (R121). -/
def Part.recomputeProfile (p : Part) : Part :=
  { p with zones := { p.zones with
      effective := effectiveOf (p.zones.precedence.map (fun z => p.tables.profile z.profile)) } }

/-! ### The mirror body -/

/-- The four words of an active-zone slot (section 12.7). -/
def zoneSlot (z : Zone) : List Word :=
  [word (identityCode z.id),
   word (z.entry + z.profile * 256 + firstOfTwo z.specific * 65536 + actionCode z.action * 16777216),
   z.start, z.stop]

/-- A list filled with zeros to a length. -/
def padTo (n : Nat) (ws : List Word) : List Word := ws ++ List.replicate (n - ws.length) 0

def poleMirror (q : Pole) : List Word :=
  [word (poleStateCode q.state), word q.elevation, BitVec.ofInt 32 q.lateral]

def chainMirror (r : ChainRec) : List Word := [word (chainStateCode r.state), r.cursor.getD 0]

/-- The set of unacknowledged kinds, kind k in bit k − 1 (R186). -/
def Collector.unackCode (c : Collector) : Nat := setCode (allKinds.map (fun k => (c.get k).unack))

/-- The set of loaded tables, table t in bit t (R186). -/
def Tables.loadedCode (t : Tables) : Nat := setCode (t.marks.toList.map (·.loaded))

/-- The mirror body, words 0x104 to 0x3F8 (R20, section 12.7). -/
def Part.mirrorBody (p : Part) : List Word :=
  let l := p.line
  let g := p.gov
  padTo 190 (
    [word (modeCode p.mode), word (lineStateCode l.state), word l.voltage, BitVec.ofInt 32 l.current,
     word l.budget.available, word (supplyCode l.budget.source), word l.budget.claims, word l.budget.reserve,
     word l.budget.allowance, word l.budget.regenCap]
    ++ poleMirror p.poles.p ++ poleMirror p.poles.n
    ++ [word (inhibitCode g.inhibit), word (firstOfTwo g.armed), BitVec.ofInt 32 g.setpoint,
        word (inverterCode g.inverter), BitVec.ofInt 32 g.actual, word p.zones.active.length]
    ++ padTo 16 ((p.zones.precedence.take 4).flatMap zoneSlot)
    ++ [word p.zones.pendingZones.length, p.zones.odometer, word p.zones.speed]
    ++ allAux.map (fun a => word (auxStateCode (p.auxRec a).state))
    ++ [word (collectorCode p.faults.state), word p.faults.unackCode, p.tables.check, word p.tables.loadedCode,
        p.mbx.raised, p.mbx.written, p.mbx.dropped]
    ++ chainMirror p.mbx.chains.control ++ chainMirror p.mbx.chains.setup ++ chainMirror p.mbx.chains.report)

/-! ### Mirror writes (R18, R19) -/

/-- A mirror write begins: next sequence number, snapshot, first sequence word (R19). -/
def Part.beginMirror (p : Part) (b : Word) : Part :=
  let m := p.mbx
  let seq := m.mirror.seq + 1
  let started : Mirror :=
    { m.mirror with seq := seq, writing := some { base := b, body := p.mirrorBody }, pendingStart := false }
  let first : Access := { op := .mirrorFirst, addr := b + 0x100, len := 1, data := [seq] }
  { p with mbx := { m with mirror := started }.place first }

/-- A start of a mirror write: begun, kept as the one pending start, or nothing while the base is unset (R18). -/
def Part.mirrorStart (p : Part) : Part :=
  match p.mbx.base, p.mbx.mirror.writing with
  | none, _ => p
  | some b, none => p.beginMirror b
  | some _, some _ => { p with mbx := { p.mbx with mirror := { p.mbx.mirror with pendingStart := true } } }

/-- A mirror write ends, whole or abandoned; a pending start begins (R18, R19). -/
def Part.mirrorEnd (p : Part) : Part :=
  let p' := { p with mbx := { p.mbx with mirror := { p.mbx.mirror with writing := none } } }
  if p.mbx.mirror.pendingStart then
    match p.mbx.base with
    | some b => p'.beginMirror b
    | none => { p' with mbx := { p'.mbx with mirror := { p'.mbx.mirror with pendingStart := false } } }
  else p'

/-- The next part of a mirror write after one part is done: the body's twelve bursts, the last word, the end. -/
def Part.mirrorNext (p : Part) (op : PortOp) : Part :=
  match p.mbx.mirror.writing with
  | none => p
  | some w =>
    let body (i : Nat) : Access :=
      let data := (w.body.drop (16 * i)).take 16
      { op := .mirrorBody i, addr := w.base + word (0x104 + 64 * i), len := data.length, data := data }
    match op with
    | .mirrorFirst => { p with mbx := p.mbx.place (body 0) }
    | .mirrorBody i =>
      if i < 11 then { p with mbx := p.mbx.place (body (i + 1)) }
      else { p with mbx := p.mbx.place { op := .mirrorLast, addr := w.base + 0x3FC, len := 1, data := [p.mbx.mirror.seq] } }
    | _ => p.mirrorEnd

end Sys2Proof.Machine
end

