-- ==== Sys2Proof/Machine/Inhibit.lean ====
section
/-! DEFINITION. The drive link's send side (R37), cut frames, and the claims and withdrawals of the inhibit set
(R136, R137, R138). These change the governor's record and the send side only. -/

namespace Sys2Proof.Machine

/-- A frame handed to the send side: sent at once, or waiting in place of any frame that waits (R37). -/
def SendSide.hand (d : SendSide) (f : SetpointFrame) : SendSide :=
  match d.sending with
  | none => { d with sending := some f }
  | some _ => { d with waiting := some f }

/-- The last character has left: the waiting frame, if any, begins (R37). -/
def SendSide.sent (d : SendSide) : SendSide := { sending := d.waiting, waiting := none }

/-- The governor hands over a frame with the next sequence; the reply wait opens for it (R134, R141). -/
def Part.handFrame (p : Part) (current : Int) (mode : DriveMode) (regen : Bool) : Part :=
  { p with
    send := p.send.hand { seq := p.gov.counter, current := current, mode := mode, regen := regen },
    gov := { p.gov with counter := p.gov.counter + 1, setpoint := current, replyWait := some p.gov.counter } }

/-- A cut frame; a reply wait still OPEN is replaced without counting (R137, R141). -/
def Part.cutFrame (p : Part) : Part := p.handFrame 0 .cut false

/-- A claim of a reason: it joins; a claim on an empty set disarms; a CUT reason that joins sends a cut frame
(R136 to R138). -/
def Part.claim (p : Part) (r : Reason) : Part :=
  if p.gov.inhibit.has r then p
  else
    let g := { p.gov with inhibit := p.gov.inhibit.put r true, armed := p.gov.armed && !p.gov.inhibit.empty }
    let p' := { p with gov := g }
    if r.isCut then p'.cutFrame else p'

/-- A withdrawal of a reason: it leaves, with no frame and no arming (R136). -/
def Part.withdraw (p : Part) (r : Reason) : Part :=
  { p with gov := { p.gov with inhibit := p.gov.inhibit.put r false } }

/-- A claimant's reason follows its condition: claimed when the condition has become true (R91). -/
def Part.claimIf (p : Part) (r : Reason) (condition : Bool) : Part := if condition then p.claim r else p

/-- A claimant's reason follows its condition: withdrawn when the condition has become false (R91). -/
def Part.withdrawUnless (p : Part) (r : Reason) (condition : Bool) : Part := if condition then p else p.withdraw r

end Sys2Proof.Machine
end

