-- ==== Sys2Proof/Machine/Faults.lean ====
section
/-! DEFINITION. The drive outputs' supervision (R45, R46) and the Fault Collector: activations, end notices, the
collector states, the alarm outputs and the fallbacks (chapter 9). -/

namespace Sys2Proof.Machine

/-! ### Drive outputs -/

/-- A role that an owner commands, with its pole or auxiliary (R45). -/
inductive DriveRole
  | raise (pole : PoleId)
  | retriever (pole : PoleId)
  | lamp
  | buzzer
  | auxRun (aux : AuxNo)
deriving DecidableEq, Repr

/-- An OUTPUT_ROLES entry holds a role. -/
def OutputEntry.holds (e : OutputEntry) : DriveRole → Bool
  | .raise .p => e.role == .raiseP
  | .raise .n => e.role == .raiseN
  | .retriever .p => e.role == .retrieverP
  | .retriever .n => e.role == .retrieverN
  | .lamp => e.role == .alarmLamp
  | .buzzer => e.role == .alarmBuzzer
  | .auxRun a => e.role == .auxRun && e.aux == a.val

/-- The output that holds a role, if one does (R45). -/
def Part.outputFor (p : Part) (r : DriveRole) : Option OutputNo :=
  allSixteen.find? (fun o => (p.tables.outputs.get o).holds r)

/-- Supervision after a change of the commanded state or the read-back (R46). -/
def OutputRec.supervise (o : OutputRec) (p : Part) : OutputRec :=
  if o.commanded == o.readback then { o with failed := false, mismatch := .stopped }
  else if o.mismatch.isRunning then o
  else { o with mismatch := p.startTimer 20 }

/-- Set an output's commanded state, with its supervision. -/
def Part.setCommanded (p : Part) (o : OutputNo) (on : Bool) : Part :=
  if (p.output o).commanded == on then p
  else p.setOutput o ({ p.output o with commanded := on }.supervise p)

/-- The fault kind of an output's mismatch (R46). -/
def mismatchKind : OutputRole → FaultKind
  | .alarmLamp => .alarmOutput
  | .alarmBuzzer => .alarmOutput
  | _ => .outputMismatch

/-- The source of an output's mismatch (R158). -/
def outputSource (o : OutputNo) : Source := { block := .contactAndDrive, inst := o.val }

/-! ### Records -/

/-- Change one kind's record. -/
def Part.modFault (p : Part) (k : FaultKind) (f : FaultRec → FaultRec) : Part :=
  { p with faults := p.faults.set k (f (p.faults.get k)) }

/-- A source leaves the sources in force (R159). -/
def FaultRec.dropSource (r : FaultRec) (s : Source) : FaultRec := { r with sources := r.sources.filter (· != s) }

/-- Kinds, with their cause, whose raises are edges (section 9.1). -/
def isEdge : FaultKind → SourceCause → Bool
  | .poleSensor, c => c == .unhoused
  | .raiseFailed, _ => true
  | .rewireMissed, _ => true
  | .gapDraw, _ => true
  | .auxStartFail, _ => true
  | .linkDegraded, _ => true
  | .chainBroken, _ => true
  | .memoryPort, _ => true
  | .configMismatch, _ => true
  | .zoneOverflow, _ => true
  | .poleDewired, _ => false
  | .poleStuck, _ => false
  | .lineHigh, _ => false
  | .lineLost, _ => false
  | .demandStale, _ => false
  | .driveLinkLost, _ => false
  | .driveFault, _ => false
  | .auxFaulted, _ => false
  | .outputMismatch, _ => false
  | .alarmOutput, _ => false

/-- A raise delivered to the collector: its kind, source, report items and host tag. -/
structure Raise where
  kind : FaultKind
  source : Source
  items : List Item := []
  tag : Word := 0
deriving DecidableEq, Repr

/-- The record after an activation (R158). -/
def FaultRec.activate (r : FaultRec) (p : Part) (x : Raise) : FaultRec :=
  let edge := isEdge x.kind x.source.cause
  { sources := if edge || r.sources.contains x.source then r.sources else r.sources ++ [x.source],
    edgeHold := if edge then p.startTimer p.tables.timers.minOnTime else r.edgeHold,
    testHold := .stopped,
    test := false,
    unack := true,
    count := countUp r.count 65535,
    first := if r.count = 0 then p.now else r.first,
    last := p.now,
    lastSource := x.source,
    lastDetail := (packItems x.items).headD 0 }

/-! ### The alarm outputs (R165, R166) -/

/-- The lamp is wanted (R165). -/
def Part.lampWanted (p : Part) : Bool :=
  p.mode != .halt &&
    (allKinds.any (fun k => (p.reactions k).lamp && ((p.faults.get k).active || (p.faults.get k).unack))
      || p.faults.lampHold.isRunning || p.faults.lampFallback)

/-- The buzzer is wanted (R165). -/
def Part.buzzerWanted (p : Part) : Bool :=
  p.mode != .halt &&
    (allKinds.any (fun k => (p.reactions k).buzzer && (p.faults.get k).unack)
      || p.faults.buzzerHold.isRunning || p.faults.buzzerFallback)

/-- Command an alarm output; the end of its mismatch takes its ALARM_OUTPUT source away (R46, R166). ALARM_OUTPUT has
neither LAMP nor BUZZER (R160), so the evaluation in hand stands. -/
def Part.driveAlarm (p : Part) (r : DriveRole) (on : Bool) : Part :=
  match p.outputFor r with
  | none => p
  | some o =>
    let p' := p.setCommanded o on
    if (p.output o).failed && !(p'.output o).failed then
      p'.modFault .alarmOutput (·.dropSource (outputSource o))
    else p'

/-- The collector evaluates its two outputs (R165). -/
def Part.evalAlarms (p : Part) : Part := (p.driveAlarm .lamp p.lampWanted).driveAlarm .buzzer p.buzzerWanted

/-- The failed flag of the output that holds a role (R46); a role that no output holds counts as not failed (assumption
log 39). -/
def Part.roleFailed (p : Part) (r : DriveRole) : Bool :=
  match p.outputFor r with
  | none => false
  | some o => (p.output o).failed

/-- Fallbacks of an activation of a kind with these reactions (R166). -/
def Collector.fallback (c : Collector) (x : Reactions) (lampFailed buzzerFailed : Bool) : Collector :=
  { c with
    buzzerFallback := c.buzzerFallback || (x.lamp && lampFailed && !buzzerFailed),
    lampFallback := c.lampFallback || (x.buzzer && buzzerFailed && !lampFailed) }

/-- The fallback of an ALARM_OUTPUT activation that names an output (R166). -/
def Collector.outputFallback (c : Collector) (role : OutputRole) (lampFailed buzzerFailed : Bool) : Collector :=
  match role with
  | .alarmLamp => { c with buzzerFallback := c.buzzerFallback || !buzzerFailed }
  | .alarmBuzzer => { c with lampFallback := c.lampFallback || !lampFailed }
  | _ => c

/-- A hold timer pushed to a time, unless it stands later (R161). -/
def Timer.pushTo (t : Timer) (until_ : Word) : Timer :=
  match t with
  | .stopped => .running until_
  | .running e => if aheadOf e until_ then .running e else .running until_

/-- The holds of an activation (R161 step 3); none is set in HALT (R165). -/
def Collector.holds (c : Collector) (p : Part) (x : Reactions) : Collector :=
  if p.mode == .halt then c
  else
    let until_ := p.now + word p.tables.timers.minOnTime
    { c with lampHold := if x.lamp then c.lampHold.pushTo until_ else c.lampHold,
             buzzerHold := if x.buzzer then c.buzzerHold.pushTo until_ else c.buzzerHold }

/-! ### Collector states (R162) -/

/-- Causes of COLLECTOR_CHANGED, coded in this order (R162). -/
inductive CollectorCause
  | activation | alertExpiry | ack | clear
deriving DecidableEq, Repr

/-- A change of collector state, with the claim or withdrawal of FAULT_STATE, the attention reason and the report (R162).
`kind` is the kind of an activation. -/
def Part.moveCollector (p : Part) (new : CollectorState) (cause : CollectorCause) (kind : Option FaultKind) (tag : Word) :
    Part :=
  let old := p.faults.state
  if old = new then p
  else
    let p := { p with faults := { p.faults with
      state := new, alertTimer := if new = CollectorState.alert then p.startTimer p.tables.timers.alertTime else .stopped } }
    let p := if new = CollectorState.fault then p.claim .faultState else p
    let p := if old = CollectorState.fault then p.withdraw .faultState else p
    let p := { p with mbx := { p.mbx with attention := { p.mbx.attention with collectorChange := true } } }
    p.report .collectorChanged (if new = CollectorState.fault then .warning else .info) .faultCollector 0 tag
      (.small (collectorCode old) :: .small (collectorCode new) :: .small cause.ctorIdx
        :: (kind.map (fun k => Item.small (kindNumber k))).toList)

/-- The collector state after an activation with ESCALATE or ACK_REQUIRED (R162). -/
def Part.collectorActivate (p : Part) (k : FaultKind) (escalate ackRequired : Bool) (tag : Word) : Part :=
  match p.faults.state with
  | .normal =>
    if escalate then p.moveCollector .fault .activation (some k) tag
    else if ackRequired then p.moveCollector .alert .activation (some k) tag
    else p
  | .alert => if escalate then p.moveCollector .fault .activation (some k) tag else p
  | .fault => p

/-- The severity of a fault's report (R161). -/
def faultSeverity (k : FaultKind) (x : Reactions) : Severity :=
  if k = .alarmOutput then .alarm
  else if x.lamp || x.buzzer then .alarm
  else if x.ackRequired || x.escalate then .warning
  else .info

/-- A block raises a fault: record, report, collector state, holds, fallbacks, outputs (R158, R161). -/
def Part.raise (p : Part) (x : Raise) : Part :=
  let react := p.reactions x.kind
  let p := p.modFault x.kind (·.activate p x)
  let p := p.report (.fault x.kind) (faultSeverity x.kind react) x.source.block x.source.inst x.tag x.items
  let p := p.collectorActivate x.kind react.escalate react.ackRequired 0
  let lampFailed := p.roleFailed .lamp
  let buzzerFailed := p.roleFailed .buzzer
  let c := p.faults.holds p react
  let c :=
    if x.kind = .alarmOutput then
      if h : x.source.inst < 16 then
        c.outputFallback (p.tables.outputs.get ⟨x.source.inst, h⟩).role lampFailed buzzerFailed
      else c
    else c.fallback react lampFailed buzzerFailed
  { p with faults := c }.evalAlarms

/-- An end notice for a source (R159). -/
def Part.endFault (p : Part) (k : FaultKind) (s : Source) : Part := (p.modFault k (·.dropSource s)).evalAlarms

/-- A test activation by an INJECT_TEST card (R167): no ESCALATE, ACK_REQUIRED for every kind, no output named. -/
def Part.injectTest (p : Part) (k : FaultKind) (tag : Word) : Part :=
  let react := p.reactions k
  let hold := p.startTimer p.tables.timers.minOnTime
  let p := p.modFault k (fun r => { r with testHold := hold, test := true, unack := true })
  let p := p.putReport { p.newReport (.fault k) (faultSeverity k react) .faultCollector 0 tag [] with test := true }
  let p := p.collectorActivate k false true tag
  let c := p.faults.holds p react
  let c := if k = .alarmOutput then c else c.fallback react (p.roleFailed .lamp) (p.roleFailed .buzzer)
  { p with faults := c }.evalAlarms

/-! ### Commands of the other roles -/

/-- An owner commands a role (R45); the end of a mismatch is told to the collector (R46). -/
def Part.drive (p : Part) (r : DriveRole) (on : Bool) : Part :=
  match p.outputFor r with
  | none => p
  | some o =>
    let p' := p.setCommanded o on
    if (p.output o).failed && !(p'.output o).failed then p'.endFault .outputMismatch (outputSource o) else p'

/-- Expiry of an output's mismatch timer (R46). -/
def Part.outputFails (p : Part) (o : OutputNo) : Part :=
  let r := { p.output o with failed := true, mismatch := .stopped }
  let role := (p.tables.outputs.get o).role
  (p.setOutput o r).raise
    { kind := mismatchKind role, source := outputSource o,
      items := [.small (outputRoleCode role), .small (firstOfTwo r.commanded), .small (firstOfTwo r.readback)] }

/-- A change of an output's read-back (R46); outputs with role NONE are not supervised. -/
def Part.readbackChange (p : Part) (o : OutputNo) (on : Bool) : Part :=
  if (p.output o).readback == on then p
  else
    let role := (p.tables.outputs.get o).role
    let r := { p.output o with readback := on }
    if role = .none then p.setOutput o r
    else
      let r' := r.supervise p
      let p' := p.setOutput o r'
      if r.failed && !r'.failed then p'.endFault (mismatchKind role) (outputSource o) else p'

end Sys2Proof.Machine
end

