-- ==== Sys2Proof/Machine/Budget.lean ====
section
/-! DEFINITION. The Power Budget (R61, R62, R64), claims and releases (R63), and the Auxiliary Scheduler's shared
operations: the restart queue (R146), shedding (R150 to R152) and the off timer (R152, R154). -/

namespace Sys2Proof.Machine

/-! ### The budget -/

/-- The claims total: the sum of the claims granted and not yet released (R61). -/
def Line.claimsTotal (l : Line) : Nat := (allAux.map (fun a => (l.grants.get a).getD 0)).sum

/-- Available power in SAG, rounded down, at most the line power limit (R61). -/
def sagPower (limit voltage gap low : Nat) : Nat :=
  min limit (quotient (limit * (voltage - 4 * gap)) (4 * (low - gap)))

/-- Available power, source and regen cap of a line state (R61). -/
def Line.supply (l : Line) (t : Tables) : Nat × Supply × Nat :=
  let b := t.budget
  match l.state with
  | .live => (b.lineLimit, .line, b.regenLimit)
  | .high => (b.lineLimit, .line, 0)
  | .sag => (sagPower b.lineLimit l.voltage t.lineLimits.gapThreshold t.lineLimits.lowLimit, .line, b.regenLimit)
  | .gap | .lost | .offWire | .unknown =>
    if l.battery.available then (l.battery.discharge, .battery, quotient (l.battery.charge * 100) b.nominal)
    else (0, .none, 0)

/-- A recompute of the Power Budget record (R61). -/
def Line.recompute (l : Line) (t : Tables) : Line :=
  let s := l.supply t
  let claims := l.claimsTotal
  { l with budget := {
      available := s.1, source := s.2.1, regenCap := s.2.2, claims := claims, reserve := t.budget.reserve,
      allowance := s.1 - claims - t.budget.reserve } }

/-- The excess: the greater of 0 and claims total + reserve − available power (R62). -/
def Budget.excess (b : Budget) : Nat := b.claims + b.reserve - b.available

/-- A shed demand goes out: the excess is above the last demanded excess (R64). -/
def Line.demands (l : Line) : Bool := decide (l.lastDemanded < l.budget.excess)

/-- The last demanded excess after the comparison of R64. Its range is given as 0 to 2400.0 kW and an excess may be
larger: it is kept as it is (assumption log 37). -/
def Line.noteDemand (l : Line) : Line :=
  { l with lastDemanded := if l.budget.excess = 0 then 0 else max l.lastDemanded l.budget.excess }

/-- Recompute the budget and note the demand; the demand itself is sent by `recompute`. -/
def Part.rebudget (p : Part) : Part := { p with line := (p.line.recompute p.tables).noteDemand }

/-- A recompute in this event will send a shed demand (R64). -/
def Part.demandDue (p : Part) : Bool := (p.line.recompute p.tables).demands

/-- A grant is given back and the budget recomputed (R63). The excess only falls, so no demand follows (R64). -/
def Part.release (p : Part) (a : AuxNo) : Part :=
  match p.line.grants.get a with
  | none => p
  | some _ => { p with line := { p.line with grants := p.line.grants.set a none } }.rebudget

/-! ### Feedback contacts -/

/-- The confirmed state of the contact that holds a role; OPEN where no input holds it (R38). -/
def Part.roleLevel (p : Part) (r : InputRole) : Level :=
  match allSixteen.find? (fun i => (p.tables.inputs.get i).role == r) with
  | some i => (p.input i).confirmed
  | none => .opened

/-- The confirmed state of an auxiliary's feedback contact (R38, R148). -/
def Part.feedbackLevel (p : Part) (a : AuxNo) : Level :=
  match allSixteen.find? (fun i => (p.tables.inputs.get i).role == .auxFeedback && (p.tables.inputs.get i).aux == a.val) with
  | some i => (p.input i).confirmed
  | none => .opened

/-- The feedback input NONE of an AUX_TABLE entry (section 12.5). -/
def noFeedback : Nat := 16

/-! ### The restart queue (R146) -/

/-- The order of the restart queue: ESSENTIAL first, then higher priority, then lower entry order (R146). -/
def Part.queueBefore (p : Part) (x y : AuxNo) : Bool :=
  let ex := (p.auxEntry x).cls == .essential
  let ey := (p.auxEntry y).cls == .essential
  if ex != ey then ex
  else if !ex && (p.auxEntry x).priority != (p.auxEntry y).priority then
    decide ((p.auxEntry y).priority < (p.auxEntry x).priority)
  else decide ((p.auxRec x).entryOrder < (p.auxRec y).entryOrder)

/-- An auxiliary leaves the queue. -/
def Part.leaveQueue (p : Part) (a : AuxNo) : Part := { p with aux := { p.aux with queue := p.aux.queue.filter (· != a) } }

/-- Each WAITING auxiliary takes its place by the settings as they stand (R144). -/
def Part.resortQueue (p : Part) : Part := { p with aux := { p.aux with queue := sortBy p.queueBefore p.aux.queue } }

/-- An auxiliary enters the queue: the four tests of R146. Layover-keep is that of the LAYOVER entry (R144). -/
def Part.enterQueue (p : Part) (a : AuxNo) : Part :=
  let r := p.auxRec a
  let e := p.auxEntry a
  if p.mode == .layover && !r.keptInLayover then p.setAux a { r with state := .off, offDone := false }
  else if e.cls == .deferrable && p.line.state.classHold then p.setAux a { r with state := .shed, offDone := true }
  else if r.offTimer.isRunning then p.setAux a { r with state := .locked, offDone := false }
  else
    let n := p.aux.entryCount + 1
    let p := p.setAux a { r with state := .waiting, offDone := false, entryOrder := n }
    { p with aux := { p.aux with entryCount := n, queue := insertBy p.queueBefore a (p.aux.queue.filter (· != a)) } }

/-- The auxiliaries that have entered the queue between `p` and `q`, in number order: WAITING with a new entry order. -/
def Part.entered (p q : Part) : List AuxNo :=
  allAux.filter (fun a => (q.auxRec a).state == .waiting && (q.auxRec a).entryOrder != (p.auxRec a).entryOrder)

/-- An auxiliary has an entry order. -/
def Part.setOrder (p : Part) (x : AuxNo × Nat) : Part := p.setAux x.1 { p.auxRec x.1 with entryOrder := x.2 }

/-- The entry orders of an event that began as `p`: the auxiliaries that entered the queue in it take the orders it has given
out in number order, whatever the order of their entries (R146). -/
def Part.orderEntries (q p : Part) : Part :=
  let entered := p.entered q
  if entered.length < 2 then q
  else
    let orders := sortBy (fun x y => decide (x < y)) (entered.map (fun a => (q.auxRec a).entryOrder))
    (q.forEach (entered.zip orders) Part.setOrder).resortQueue

/-- What the off timer's expiry brings a SHED or LOCKED auxiliary (R152, R154). In other states the timer only stops. -/
def Part.offExpired (p : Part) (a : AuxNo) : Part :=
  let r := { p.auxRec a with offTimer := .stopped }
  let p := p.setAux a r
  if r.state == .shed || r.state == .locked then
    if r.requested then p.enterQueue a else p.setAux a { r with state := .off, offDone := false }
  else p

/-- The off timer starts with the minimum off time; a time of 0 expires in the same event (R154). -/
def Part.startOff (p : Part) (a : AuxNo) : Part :=
  let ms := (p.auxEntry a).minOff * 1000
  if ms = 0 then p.offExpired a
  else p.setAux a { p.auxRec a with offTimer := p.startTimer ms }

/-- The output is commanded OFF and then the claim released (section 8.2). -/
def Part.switchOff (p : Part) (a : AuxNo) : Part := (p.drive (.auxRun a) false).release a

/-! ### Shedding -/

/-- Causes of AUX_SHED, coded in this order (R152). -/
inductive ShedCause
  | demand | cls
deriving DecidableEq, Repr

/-- An auxiliary that draws its claim. -/
def AuxState.drawing : AuxState → Bool
  | .starting => true
  | .running => true
  | .off => false
  | .waiting => false
  | .shed => false
  | .locked => false
  | .faulted => false

/-- An auxiliary is shed (R152). -/
def Part.shed (p : Part) (a : AuxNo) (cause : ShedCause) : Part :=
  let left := (p.auxRec a).state
  let amount := (p.line.grants.get a).getD 0
  let p := p.switchOff a
  let p := p.setAux a { p.auxRec a with state := .shed, startTimer := .stopped, offDone := false }
  let p := p.report .auxShed .info .auxiliaryScheduler a.val 0
    [.small (auxClassCode (p.auxEntry a).cls), bigNat amount, .small (auxStateCode left), .small cause.ctorIdx]
  p.startOff a

/-- The order of shedding: DEFERRABLE before COMFORT, lowest priority, highest start order (R150). -/
def Part.shedBefore (p : Part) (x y : AuxNo) : Bool :=
  let dx := (p.auxEntry x).cls == .deferrable
  let dy := (p.auxEntry y).cls == .deferrable
  if dx != dy then dx
  else if (p.auxEntry x).priority != (p.auxEntry y).priority then
    decide ((p.auxEntry x).priority < (p.auxEntry y).priority)
  else decide ((p.auxRec y).startOrder < (p.auxRec x).startOrder)

/-- The auxiliaries that may be shed, in shedding order (R150). -/
def Part.sheddable (p : Part) : List AuxNo :=
  sortBy p.shedBefore (allAux.filter (fun a => (p.auxRec a).state.drawing && (p.auxEntry a).cls != .essential))

/-- Shed one at a time until the excess, read as it stands, is 0 or none is left (R150). -/
def shedLoop : Nat → Part → Part
  | 0, p => p
  | n + 1, p =>
    if p.line.budget.excess = 0 then p
    else
      match p.sheddable with
      | [] => p
      | a :: _ => shedLoop n (p.shed a .demand)

/-- A shed demand (R150): at most the twelve auxiliaries are shed. -/
def Part.shedDemand (p : Part) : Part := shedLoop 12 p

/-- A recompute of the budget with its shed demand (R62, R64). -/
def Part.recompute (p : Part) : Part := if p.demandDue then p.rebudget.shedDemand else p.rebudget

/-- A WAITING DEFERRABLE auxiliary leaves the queue for SHED with its off-time-done flag set (R151). -/
def Part.shedWaiting (p : Part) (a : AuxNo) : Part :=
  if (p.auxRec a).state == .waiting && (p.auxEntry a).cls == .deferrable then
    (p.leaveQueue a).setAux a { p.auxRec a with state := .shed, offDone := true }
  else p

/-- A class-shed notice (R151). -/
def Part.classShed (p : Part) (entered : LineState) : Part :=
  let p := p.forEach (p.sheddable.filter (fun a => (p.auxEntry a).cls == .deferrable)) (fun p a => p.shed a .cls)
  if entered.classHold then p.forEach allAux Part.shedWaiting else p

/-- A line state notice reaches a SHED DEFERRABLE auxiliary whose off time is done (R151). -/
def Part.endClassHold (p : Part) (a : AuxNo) : Part :=
  let r := p.auxRec a
  if r.state == .shed && (p.auxEntry a).cls == .deferrable && r.offDone then
    if r.requested then (p.setAux a { r with offDone := false }).enterQueue a
    else p.setAux a { r with state := .off, offDone := false }
  else p

/-- The scheduler takes a line state notice (R151). -/
def Part.auxLineNotice (p : Part) (entered : LineState) : Part :=
  if entered.classHold then p else p.forEach allAux Part.endClassHold

/-! ### Claims (R63) -/

/-- The Line Supervisor's answer to a claim request as the budget stands (R63). -/
def Part.claimGranted (p : Part) (a : AuxNo) : Bool :=
  (p.line.grants.get a).isSome || (p.auxEntry a).cls == .essential
    || decide (p.line.budget.claims + (p.auxEntry a).claim + p.line.budget.reserve ≤ p.line.budget.available)

/-- A granted claim is recorded and the budget recomputed; a grant already held is kept (R63). -/
def Part.grantClaim (p : Part) (a : AuxNo) : Part :=
  match p.line.grants.get a with
  | some _ => p
  | none => { p with line := { p.line with grants := p.line.grants.set a (some (p.auxEntry a).claim) } }.recompute

end Sys2Proof.Machine
end

