-- ==== Sys2Proof/Machine/Line.lean ====
section
/-! DEFINITION. The Line Supervisor: classification, gaps, restoration and its notices (R47 to R60), with what the
Zone Matcher and the Pole Monitor note from them (R76, R124). -/

namespace Sys2Proof.Machine

/-! ### What zones note (R124) -/

/-- A line state notice that enters GAP: each active zone's gap count (R124). -/
def Zones.noteGap (z : Zones) : Zones :=
  { z with active := z.active.map (fun x => { x with gapCount := countUp x.gapCount 255 }) }

/-- A gap-end notice's content (R51 to R57). -/
structure GapEnd where
  outcome : GapOutcome
  duration : Nat
  peak : Nat
deriving DecidableEq, Repr

/-- A zone takes a gap-end notice if it has seen the gap (R124). -/
def Zone.noteGapEnd (z : Zone) (g : GapEnd) : Zone :=
  if z.gapCount = 0 then z
  else { z with lastGap := some g.outcome,
                longest := if g.outcome == .bridged then max z.longest g.duration else z.longest,
                peak := max z.peak g.peak }

/-- The Zone Matcher takes a gap-end notice. -/
def Zones.noteGapEnd (z : Zones) (g : GapEnd) : Zones := { z with active := z.active.map (·.noteGapEnd g) }

/-- The pole events with a pair added (R124). -/
def PoleEvents.add (e : PoleEvents) : PoleState → PoleEvents
  | .suspect => { e with suspect := true }
  | .dewired => { e with dewired := true }
  | .lowering => { e with lowering := true }
  | .raising => { e with raising := true }
  | .faulted => { e with faulted := true }
  | .untracked => e
  | .housed => e
  | .onWire => e

/-- The Zone Matcher takes a pole state notice (R124). -/
def Zones.notePole (z : Zones) (i : PoleId) (entered : PoleState) : Zones :=
  { z with active := z.active.map (fun x => { x with events := x.events.set i ((x.events.get i).add entered) }) }

/-! ### What poles note (R76) -/

/-- LINE_GAP of an ON_WIRE or SUSPECT pole is set or cleared by a notice, with the spent mark cleared (R76). -/
def Pole.noteGap (q : Pole) (present : Bool) : Pole :=
  if q.onLine then
    let ind := { q.indicators with lineGap := present }
    { q with indicators := ind, gapSpent := false, seen := if q.state == .suspect then q.seen.union ind else q.seen }
  else q

/-- The Pole Monitor takes a line state notice (R76); its judgement of the sets follows at the end of the event
(assumption log 14). -/
def notePolesGap (poles : PerPole Pole) (left entered : LineState) (expected : Bool) : PerPole Pole :=
  if entered == .gap then
    if expected then poles else ⟨poles.p.noteGap true, poles.n.noteGap true⟩
  else if left == .gap then ⟨poles.p.noteGap false, poles.n.noteGap false⟩
  else poles

/-! ### Classification (R49) -/

/-- The line state a voltage gives from a supplied state (R49). -/
def classify (l : LineLimits) (present : LineState) (v : Nat) : LineState :=
  if v < 4 * l.gapThreshold then .gap
  else if v < 4 * l.lowLimit then .sag
  else if 4 * l.highLimit < v then .high
  else if present == .sag && decide (v < 4 * (l.lowLimit + l.hysteresis)) then .sag
  else if present == .high && decide (4 * (l.highLimit - l.hysteresis) < v) then .high
  else .live

/-- The fresh class: the class without hysteresis (R49). R49 defines it from the gap threshold up; a last voltage below a
threshold that a LINE_LIMITS load has raised is taken as SAG (assumption log 37). -/
def freshClass (l : LineLimits) (v : Nat) : LineState :=
  if v < 4 * l.lowLimit then .sag else if 4 * l.highLimit < v then .high else .live

/-! ### Changes of line state (R59) -/

def lineSource : Source := { block := .lineSupervisor }

/-- The gap-end notice of a gap that ends now (R51 to R57). -/
def Part.gapEndNow (p : Part) (outcome : GapOutcome) : GapEnd where
  outcome := outcome
  duration := p.since p.line.gap.entry
  peak := p.line.gap.peak

/-- The Line Supervisor's own state on a change: the restore timer stops (R56), the gap timer stops on leaving GAP, the
high-persist timer starts on entry to HIGH and stops on leaving it (R58). -/
def Line.enter (l : Line) (p : Part) (new : LineState) : Line :=
  { l with state := new, restoreTimer := .stopped,
           gapTimer := if l.state == .gap then .stopped else l.gapTimer,
           highTimer := if new == .high then p.startTimer p.tables.timers.highPersist else .stopped,
           highEntry := if new == .high then p.now else l.highEntry }

/-- The line moves to a state. A gap-end notice, if there is one, goes first; then the budget is recomputed and the
notices of R59 are given in order. Without a change of state only the budget is recomputed. -/
def Part.lineMove (p : Part) (new : LineState) (gapEnd : Option GapEnd) : Part :=
  let old := p.line.state
  let p := match gapEnd with
    | some g => { p with zones := p.zones.noteGapEnd g }
    | none => p
  if old = new then p.recompute
  else
    let p := { p with line := p.line.enter p new }
    let p := if old == .high then p.endFault .lineHigh lineSource else p
    let p := if old == .lost then p.endFault .lineLost lineSource else p
    let demand := p.demandDue
    let p := p.rebudget
    let p := { p with poles := notePolesGap p.poles old new p.line.gap.expected }
    let p := p.auxLineNotice new
    let p := if new == .gap then { p with zones := p.zones.noteGap } else p
    let p := if new.supplied then p else p.classShed new
    if demand then p.shedDemand else p

/-- The gap-end notice, if the line is GAP now. -/
def Part.gapEndIfGap (p : Part) (outcome : GapOutcome) : Option GapEnd :=
  if p.line.state == .gap then some (p.gapEndNow outcome) else none

/-! ### The restore timer (R56) -/

/-- The restore conditions (R56), read with the limits as they stand, at a pole state notice too (assumption log 37). -/
def Part.restorable (p : Part) : Bool :=
  decide (4 * p.tables.lineLimits.gapThreshold ≤ p.line.voltage)
    && p.line.poleCopy.p == .onWire && p.line.poleCopy.n == .onWire

/-- The restore timer starts when the conditions have become true and stops when they have become false (R56). -/
def Part.restoreTest (p : Part) : Part :=
  let t :=
    if p.restorable then
      if p.line.restoreTimer.isRunning then p.line.restoreTimer else p.startTimer p.tables.timers.restoreTime
    else .stopped
  { p with line := { p.line with restoreTimer := t } }

/-! ### Gaps (R50 to R52) -/

/-- The gap draw test on a frame in GAP: peak current and GAP_DRAW (R51). -/
def Part.gapDraw (p : Part) : Part :=
  let i := p.line.current.natAbs
  let g := p.line.gap
  let draws := decide (2 * p.tables.lineLimits.gapDraw < i) && !g.drawRaised
  let p := { p with line := { p.line with gap := { g with peak := max g.peak i, drawRaised := g.drawRaised || draws } } }
  if draws then
    p.raise { kind := .gapDraw, source := lineSource,
              items := [bigInt p.line.current, bigNat (p.since g.entry), .small (lineStateCode g.before)] }
  else p

/-- Expiry of the gap timer: the line becomes LOST (R52). -/
def Part.gapExpired (p : Part) : Part :=
  let g := p.line.gap
  let p := { p with line := { p.line with gapTimer := .stopped } }
  let p := p.raise { kind := .lineLost, source := lineSource,
                     items := [bigNat g.tolerance, .small (lineStateCode g.before), .small (flagCode g.expected), bigNat g.peak] }
  p.lineMove .lost (some { outcome := .lost, duration := g.tolerance, peak := g.peak })

/-- GAP entry from a supplied state (R50); a tolerance of 0 expires at once. -/
def Part.gapEntry (p : Part) : Part :=
  let e := p.zones.effective
  let tolerance := if e.gapExpected then e.gapTolerance else p.tables.timers.gapTolerance
  let g : GapRec :=
    { entry := p.now, before := p.line.state, tolerance := tolerance, expected := e.gapExpected,
      peak := p.line.current.natAbs, drawRaised := false, duration := 0 }
  let p := { p with line := { p.line with gap := g, gapTimer := p.startTimer tolerance } }
  let p := (p.lineMove .gap none).gapDraw
  if tolerance = 0 then p.gapExpired else p

/-- The gap is bridged: the state is found from the class before the gap (R51). -/
def Part.gapBridged (p : Part) : Part :=
  let p := { p with line := { p.line with gap := { p.line.gap with duration := p.since p.line.gap.entry } } }
  p.lineMove (classify p.tables.lineLimits p.line.gap.before p.line.voltage)
    (some { outcome := .bridged, duration := p.line.gap.duration, peak := p.line.gap.peak })

/-! ### Data frames (R48) -/

/-- Both poles down-bound in the copy (R54). -/
def Part.bothDownBound (p : Part) : Bool := p.line.poleCopy.p.downBound && p.line.poleCopy.n.downBound

/-- Both poles HOUSED in the copy (R54). -/
def Part.bothHoused (p : Part) : Bool := p.line.poleCopy.p == .housed && p.line.poleCopy.n == .housed

/-- The line's reaction to a data frame whose values are stored (R48 to R57). -/
def Part.lineClassify (p : Part) : Part :=
  let below := decide (p.line.voltage < 4 * p.tables.lineLimits.gapThreshold)
  match p.line.state with
  | .live | .sag | .high =>
    if below then
      if p.bothDownBound then p.lineMove .offWire none else p.gapEntry
    else
      let new := classify p.tables.lineLimits p.line.state p.line.voltage
      if new = p.line.state then (if new == .sag then p.recompute else p) else p.lineMove new none
  | .gap =>
    let p := p.gapDraw
    if below then p else p.gapBridged
  | .lost => p.restoreTest
  | .offWire => p
  | .unknown => if p.bothHoused then p.lineMove .offWire none else p.restoreTest

/-- A data frame of PL2: voltage and current are stored, then the line is classified (R48). -/
def Part.lineData (p : Part) (v : Nat) (i : Int) : Part :=
  { p with line := { p.line with voltage := v, current := i } }.lineClassify

/-- The line becomes UNKNOWN (R57). -/
def Part.lineUnknown (p : Part) : Part :=
  let g := p.gapEndIfGap .unknown
  { p with line := { p.line with gapTimer := .stopped, restoreTimer := .stopped, highTimer := .stopped,
                                 voltage := 0, current := 0 } }.lineMove .unknown g

/-! ### Poles and the line (R53 to R55) -/

/-- A confirmed dewire notice: LOST from any state, without LINE_LOST (R53). -/
def Part.dewireNotice (p : Part) : Part :=
  let g := p.gapEndIfGap .dewired
  { p with line := { p.line with gapTimer := .stopped, restoreTimer := .stopped, highTimer := .stopped } }.lineMove .lost g

/-- A pole state notice reaches the Line Supervisor (R54 to R56). -/
def Part.linePoleNotice (p : Part) (i : PoleId) (entered : PoleState) : Part :=
  let p := { p with line := { p.line with poleCopy := p.line.poleCopy.set i entered } }
  match p.line.state with
  | .gap => if p.bothDownBound then p.lineMove .offWire (some (p.gapEndNow .offWire)) else p
  | .live | .sag | .high => if p.bothHoused then p.lineMove .offWire none else p
  | .lost => if p.bothHoused then p.lineMove .offWire none else p.restoreTest
  | .offWire =>
    if entered == .onWire || entered == .suspect then (p.lineMove .lost none).restoreTest else p
  | .unknown => p.restoreTest

/-- Expiry of the restore timer: the fresh class of the last voltage (R56). -/
def Part.restoreExpired (p : Part) : Part :=
  let old := p.line.state
  let new := freshClass p.tables.lineLimits p.line.voltage
  let p := { p with line := { p.line with restoreTimer := .stopped } }.lineMove new none
  p.report .lineRestored .info .lineSupervisor 0 0
    [.small (lineStateCode old), .small (lineStateCode new), bigNat p.line.voltage]

/-- Expiry of the high-persist timer (R58). -/
def Part.highExpired (p : Part) : Part :=
  { p with line := { p.line with highTimer := .stopped } }.raise
    { kind := .lineHigh, source := lineSource,
      items := [bigNat p.line.voltage, bigNat (p.since p.line.highEntry)] }

end Sys2Proof.Machine
end

