-- ==== Sys2Proof/Machine/Poles.lean ====
section
/-! DEFINITION. The Pole Monitor: indicators, suspicion, dewirement, resolution, raising and lowering (chapters 4
and 5). -/

namespace Sys2Proof.Machine

/-! ### Notices and claims (R90, R91) -/

/-- A pole state notice (R90). -/
structure PoleNotice where
  pole : PoleId
  entered : PoleState
deriving DecidableEq, Repr

/-- One notice reaches the Line Supervisor, the Zone Matcher and the mode logic, in this order (R90). -/
def Part.sendNotice (p : Part) (n : PoleNotice) : Part :=
  let p := p.linePoleNotice n.pole n.entered
  { p with zones := p.zones.notePole n.pole n.entered, keptPoles := p.keptPoles.set n.pole n.entered }

/-- A condition over both poles. -/
def Part.anyPole (p : Part) (f : Pole → Bool) : Bool := f p.poles.p || f p.poles.n

def Pole.suspectClaim (q : Pole) : Bool := q.state == .suspect || q.resolving || q.state == .faulted
def Pole.dewiredClaim (q : Pole) : Bool := q.state == .dewired || q.latch
def Pole.movingClaim (q : Pole) : Bool := q.state == .raising || q.state == .lowering

/-- The three claims follow their conditions, claims before withdrawals (R91). -/
def Part.updateClaims (p : Part) : Part :=
  let s := p.anyPole Pole.suspectClaim
  let d := p.anyPole Pole.dewiredClaim
  let m := p.anyPole Pole.movingClaim
  (((((p.claimIf .poleSuspect s).claimIf .poleDewired d).claimIf .polesMoving m).withdrawUnless .poleSuspect s)
    |>.withdrawUnless .poleDewired d).withdrawUnless .polesMoving m

/-- What the test of the claims follows in a pole: its state, resolving flag and dewire latch (R91). -/
def Pole.watched (q : Pole) : PoleState × Bool × Bool := (q.state, q.resolving, q.latch)

def Part.watched (p : Part) : (PoleState × Bool × Bool) × (PoleState × Bool × Bool) := (p.poles.p.watched, p.poles.n.watched)

/-- After an event that began at `before` and changed a pole's state, resolving flag or dewire latch, the claims are tested
(R91). -/
def Part.followPoles (p before : Part) : Part := if p.watched = before.watched then p else p.updateClaims

/-- The notices of a pole event, in order (R90). -/
def Part.sendNotices (p : Part) (ns : List PoleNotice) : Part := p.forEach ns Part.sendNotice

/-- The end of a pole event: the notices in order, then the claims (R90, R91). -/
def Part.closePoles (p : Part) (ns : List PoleNotice) : Part := (p.sendNotices ns).updateClaims

/-! ### Contacts, limits and sources -/

def housedRole : PoleId → InputRole
  | .p => .polePHoused
  | .n => .poleNHoused

def tripRole : PoleId → InputRole
  | .p => .polePTrip
  | .n => .poleNTrip

/-- The pole's housed contact is CLOSED as it stands. -/
def Part.housedClosed (p : Part) (i : PoleId) : Bool := p.roleLevel (housedRole i) == .closed

/-- The pole's retriever trip contact is CLOSED as it stands (R77). -/
def Part.tripClosed (p : Part) (i : PoleId) : Bool := p.roleLevel (tripRole i) == .closed

def poleSource (i : PoleId) (c : SourceCause) : Source := { block := .poleMonitor, inst := poleNumber i, cause := c }

/-- A report of the Pole Monitor about a pole. -/
def Part.poleReport (p : Part) (kind : ReportKind) (sev : Severity) (i : PoleId) (tag : Word) (items : List Item) : Part :=
  p.report kind sev .poleMonitor (poleNumber i) tag items

/-- A raise of the Pole Monitor about a pole. -/
def Part.poleRaise (p : Part) (kind : FaultKind) (i : PoleId) (c : SourceCause) (tag : Word) (items : List Item) : Part :=
  p.raise { kind := kind, source := poleSource i c, items := items, tag := tag }

/-- The effective lateral limit, in 0.025° (R74). -/
def Part.lateralLimit (p : Part) (i : PoleId) : Nat :=
  if p.zones.effective.lateralOverride = 0 then (p.tables.poleLimits.get i).lateral
  else 40 * p.zones.effective.lateralOverride

/-- The effective ceiling, in 0.025° (R74). -/
def Part.ceiling (p : Part) (i : PoleId) : Nat :=
  (p.tables.poleLimits.get i).bandHigh + 40 * p.zones.effective.bandWidening

/-- The stored angles and the line voltage put the pole on the wire (R72, R98). -/
def Part.onWireNow (p : Part) (i : PoleId) : Bool :=
  let q := p.poles.get i
  let l := p.tables.poleLimits.get i
  decide (l.bandLow ≤ q.elevation) && decide (q.elevation ≤ l.bandHigh)
    && decide (q.lateral.natAbs ≤ p.lateralLimit i)
    && decide (4 * p.tables.lineLimits.gapThreshold < p.line.voltage)

/-- The rate history restarts (R69, R75). -/
def Pole.restartRate (q : Pole) : Pole := { q with haveFrame := false, rate := none, rateRun := 0 }

/-- R85: a latch clears when the pole is HOUSED and the latch is acknowledged. -/
def Pole.checkLatch (q : Pole) : Pole :=
  if q.state == .housed && q.latchAck then { q with latch := false } else q

/-- The raise and retriever outputs of a pole are commanded. -/
def Part.drivePole (p : Part) (i : PoleId) (raise_ retriever : Bool) : Part :=
  (p.drive (.raise i) raise_).drive (.retriever i) retriever

/-! ### Lowering (R104, R105) -/

/-- A retry follows an abandoned raise (R100, R101). -/
def retryFollows (t : Timers) (q : Pole) : Bool :=
  (q.abandon == .timeout || q.abandon == .aboveBand) && decide (q.retryCount < t.raiseRetries)

/-- The zone identity item of a report, where there is one. -/
def zoneItem (z : Option TagId) : List Item :=
  match z with
  | some t => [bigNat (identityCode t)]
  | none => []

/-- The items of RAISE_ABANDONED (R100), with the zone identity of a zone raise (R107). R100's list does not place the identity: it
goes last (assumption log 11). -/
def Pole.abandonItems (q : Pole) (cause : AbandonCause) (retry : Bool) : List Item :=
  .small (abandonCode cause) :: .small (q.retryCount + 1) :: bigNat q.elevation :: bigInt q.lateral
    :: .small (flagCode retry) :: (if q.origin == .zone then zoneItem q.zoneId else [])

/-- RAISE_FAILED (R101); `pre` is the failing precondition of a retry, if one failed, in the code of `Precondition.code`
(assumption log 10). -/
def Part.raiseFailed (p : Part) (i : PoleId) (pre : Option Nat) : Part :=
  let q := p.poles.get i
  let p := p.poleRaise .raiseFailed i .none q.requestTag
    (.small (abandonCode q.abandon) :: .small (q.retryCount + 1) :: .small (originCode q.origin)
      :: zoneItem q.zoneId ++ (pre.map Item.small).toList)
  p.modPole i (fun q => { q with origin := .none, retryCount := 0, retryPending := false })

/-- A pole begins lowering (R104); its request tag and zone identity are the caller's. That the LINE_GAP spent mark clears with
the indicator set is the model's choice: R74 and R104 do not name the mark (assumption log 36). -/
def Part.startLowering (p : Part) (i : PoleId) (cause : LoweringCause) (tag : Word) (zone : Option TagId) :
    Part × List PoleNotice :=
  let q := p.poles.get i
  let p := p.drivePole i false true
  let p := p.setPole i { q with
    state := .lowering, lowering := cause, indicators := {}, seen := {}, gapSpent := false, blind := false,
    confirmTimer := .stopped, raiseTimer := .stopped, settleTimer := .stopped, holdTimer := .stopped,
    retryPending := false, lowerTimer := p.startTimer p.tables.timers.lowerTime, lowerStart := p.now,
    requestTag := tag, zoneId := zone }
  let p := if q.blind then p.endFault .poleSensor (poleSource i .blind) else p
  (p, [{ pole := i, entered := .lowering }])

/-- The retry decision at the housing of an abandoned raise (R101). -/
def Part.decideRetry (p : Part) (i : PoleId) : Part :=
  let q := p.poles.get i
  if q.abandon == .timeout || q.abandon == .aboveBand then
    if q.retryCount < p.tables.timers.raiseRetries then p.setPole i { q with retryPending := true }
    else p.raiseFailed i none
  else p.setPole i { q with origin := .none, retryCount := 0 }

/-- A LOWERING pole becomes HOUSED (R105): the hold starts, the report or the retry decision, the latch check. No rule orders
LOWER_COMPLETE, or R101's RAISE_FAILED, against the pole state notices of the event and the reports they bring (R99 and R83
order only their own events): the Pole Monitor reports first (assumption log 36). -/
def Part.lowerDone (p : Part) (i : PoleId) : Part × List PoleNotice :=
  let q := p.poles.get i
  let p := p.setPole i { q with
    state := .housed, blind := false, lowerTimer := .stopped, holdTimer := p.startTimer 500 }
  let p :=
    if q.lowering == .abandonedRaise then p.decideRetry i
    else
      p.poleReport .lowerComplete .info i q.requestTag
        (.small (loweringCode q.lowering) :: bigNat (p.since q.lowerStart)
          :: (if q.lowering == .zone then zoneItem q.zoneId else []))
  let p := p.modPole i (fun q => { q with lowering := .none }.checkLatch)
  (p, [{ pole := i, entered := .housed }])

/-- A pole whose housed contact is already CLOSED when the lowering begins becomes HOUSED in the same event (R104). -/
def Part.houseIfClosed (p : Part) (i : PoleId) : Part × List PoleNotice :=
  if p.housedClosed i then p.lowerDone i else (p, [])

/-- A lowering from any cause but an abandoned raise. -/
def Part.lower (p : Part) (i : PoleId) (cause : LoweringCause) (tag : Word) (zone : Option TagId) :
    Part × List PoleNotice :=
  let (p, n) := p.startLowering i cause tag zone
  let (p, m) := p.houseIfClosed i
  (p, n ++ m)

/-- A raise is abandoned (R100). `lowerTag` is the LOWER_POLES card's tag for cause LOWER_REQUEST (R104). The report goes
before a housing in the same event (assumption log 23), and before the pole state notices of the event (assumption log 36). -/
def Part.abandonRaise (p : Part) (i : PoleId) (cause : AbandonCause) (lowerTag : Option Word) : Part × List PoleNotice :=
  let q := { p.poles.get i with abandon := cause }
  let (p, n) := (p.setPole i q).startLowering i .abandonedRaise (lowerTag.getD q.requestTag) q.zoneId
  let p := p.poleReport .raiseAbandoned .warning i q.requestTag (q.abandonItems cause (retryFollows p.tables.timers q))
  let (p, m) := p.houseIfClosed i
  (p, n ++ m)

/-! ### Dewirement (R83, R84) -/

/-- The basis of a confirmation, coded in this order (R83). -/
inductive DewireBasis
  | trip | twoIndicators | confirmExpiry
deriving DecidableEq, Repr

/-- Mate lowering (R84). -/
def Part.mateLower (p : Part) (i : PoleId) : Part × List PoleNotice :=
  let mate := mateOf i
  if (p.tables.poleLimits.get i).mateLowering && (p.poles.get mate).onLine then p.lower mate .mateDewired 0 none
  else (p, [])

/-- A pole is confirmed dewired: the seven steps of R83 but for the claims, which the event updates once, at its end
(R91). `tag` is that of the card in whose handling the raise is made (R6). No rule places the BLIND end notice of R82
among the steps: it goes after the raise (assumption log 12). No step names the LINE_GAP spent mark: it clears with the set
(assumption log 36). -/
def Part.confirmDewired (p : Part) (i : PoleId) (basis : DewireBasis) (tag : Word) : Part :=
  let q := p.poles.get i
  let p := p.setPole i { q with
    state := .dewired, confirmTimer := .stopped, indicators := {}, seen := {}, gapSpent := false, blind := false,
    lowerTimer := p.startTimer p.tables.timers.lowerTime, latch := true, latchAck := false }
  let p := p.drivePole i false true
  let p := p.poleRaise .poleDewired i .none tag
    [.small (indicatorsCode q.indicators), .small basis.ctorIdx, bigNat q.elevation, bigInt q.lateral,
     .small (flagCode q.blind), .small (flagCode p.zones.effective.gapExpected)]
  let p := if q.blind then p.endFault .poleSensor (poleSource i .blind) else p
  let p := p.dewireNotice
  let (p, ns) := p.mateLower i
  p.sendNotices ({ pole := i, entered := .dewired } :: ns)

/-! ### Suspicion (R78 to R80) -/

/-- An ON_WIRE pole becomes SUSPECT (R78); the event's end updates the claims. -/
def Part.becomeSuspect (p : Part) (i : PoleId) : Part :=
  let p := p.modPole i (fun q => { q with
    state := .suspect, confirmTimer := p.startTimer p.tables.timers.confirmWindow, seen := q.indicators })
  p.sendNotices [{ pole := i, entered := .suspect }]

/-- What an indicator set brings (R78, R79). -/
inductive Finding
  | nothing | suspect | dewired (basis : DewireBasis)
deriving DecidableEq, Repr

/-- The finding of an ON_WIRE or SUSPECT pole's set (R78, R79). Where TRIP stands with another indicator the spec does
not say which basis holds: TRIP (assumption log 36). -/
def Pole.finding (q : Pole) : Finding :=
  if q.onLine then
    if q.indicators.trip then .dewired .trip
    else if 2 ≤ q.indicators.count then .dewired .twoIndicators
    else if q.state == .onWire && q.indicators.count == 1 && !(q.indicators.lineGap && q.gapSpent) then .suspect
    else .nothing
  else .nothing

/-- The Pole Monitor acts on what it finds in a pole's set; the event's end updates the claims. -/
def Part.actOnSet (p : Part) (i : PoleId) (tag : Word) : Part :=
  match (p.poles.get i).finding with
  | .nothing => p
  | .suspect => p.becomeSuspect i
  | .dewired basis => p.confirmDewired i basis tag

/-- The Pole Monitor looks at a pole's set after an event that changed it (R78, R79; the basis that POLE_DEWIRED names
is `Pole.finding`'s, assumption log 36); a change of state updates the claims (R91). -/
def Part.judge (p : Part) (i : PoleId) : Part :=
  if (p.poles.get i).finding = .nothing then p else (p.actOnSet i 0).updateClaims

/-- Both poles are looked at in one event, P first (assumption log 14), and the claims updated once (R91). -/
def Part.judgeBoth (p : Part) : Part :=
  if p.poles.p.finding = .nothing ∧ p.poles.n.finding = .nothing then p
  else ((p.actOnSet .p 0).actOnSet .n 0).updateClaims

/-- A SUSPECT pole returns to ON_WIRE with a SUSPECT_CLEARED report (R80). 'Whether the pole was blind' is read at the
expiry (assumption log 36). -/
def Part.clearSuspicion (p : Part) (i : PoleId) : Part :=
  let q := p.poles.get i
  let p := p.setPole i { q with state := .onWire, confirmTimer := .stopped, seen := {},
                                gapSpent := q.indicators.lineGap || q.gapSpent }
  let p := p.poleReport .suspectCleared .info i 0 [.small (indicatorsCode q.seen), .small (flagCode q.blind)]
  p.closePoles [{ pole := i, entered := .onWire }]

/-- Expiry of the confirm timer (R80). -/
def Part.confirmExpired (p : Part) (i : PoleId) : Part :=
  let p := p.modPole i (fun q => { q with confirmTimer := .stopped })
  if (p.poles.get i).state == .suspect then
    if (p.poles.get i).indicators.angle then (p.confirmDewired i .confirmExpiry 0).updateClaims else p.clearSuspicion i
  else p

/-! ### Entry to ON_WIRE and resolution (R71 to R73) -/

/-- A pole's record on entry to ON_WIRE other than a return from SUSPECT (R69, R74, R77). The LINE_GAP spent mark starts clear with
the set (assumption log 36). -/
def Pole.enterWire (q : Pole) (trip : Bool) : Pole :=
  { q with state := .onWire, indicators := { trip := trip }, seen := {}, gapSpent := false }.restartRate

/-- A resolution ends: POLE_RESOLVED, notices, TRIP found on entry to ON_WIRE, and the claims once for the event (R72,
R77, R91). The basis is coded SENSOR 0, CONTACT_ONLY 1. `tag` is that of a card handled in this event (R6). No rule that
lists the items of the mirror or of POLE_RESOLVED names the fault cause that R89 keeps: it stands in neither (assumption
log 36). The LINE_GAP spent mark is clear in the state entered (assumption log 36). -/
def Part.resolved (p : Part) (i : PoleId) (entered : PoleState) (basis : Nat) (tag : Word) : Part :=
  let p := p.modPole i (fun q =>
    let q := { q with resolving := false, resolutionTimer := .stopped }
    if entered == .onWire then q.enterWire (p.tripClosed i)
    else { q with state := entered, indicators := {}, seen := {}, gapSpent := false, blind := false }.checkLatch)
  let p := p.poleReport .poleResolved .info i (p.poles.get i).resolveTag
    [.small (poleStateCode entered), .small basis]
  let p := p.modPole i (fun q => { q with resolveTag := 0 })
  ((p.sendNotices [{ pole := i, entered := entered }]).actOnSet i tag).updateClaims

/-- A resolving pole tries to resolve on its stored angles (R72). -/
def Part.tryResolve (p : Part) (i : PoleId) (tag : Word) : Part :=
  if p.housedClosed i && decide ((p.poles.get i).elevation < (p.tables.poleLimits.get i).housed) then
    p.resolved i .housed 0 tag
  else if p.onWireNow i then p.resolved i .onWire 0 tag
  else p

/-- Expiry of the resolution timer (R72). The basis of a pole that resolves FAULTED is not stated: a free value
(assumption log 6). No rule orders the POLE_SENSOR raise and POLE_RESOLVED of that event: the raise goes first (assumption
log 36). -/
def Part.resolutionExpired (p : Part) (i : PoleId) : Part :=
  let p := p.modPole i (fun q => { q with resolutionTimer := .stopped })
  let q := p.poles.get i
  if !q.resolving then p
  else if p.housedClosed i && !q.sensorAvailable then p.resolved i .housed 1 0
  else
    let free := Config.freeNat p.freeUses % 2
    let p := { p with freeUses := p.freeUses + 1 }
    let p := (p.setPole i { q with fault := some .unresolved }).drivePole i false false
    let p := p.poleRaise .poleSensor i .unresolved 0
      [.small (sourceCauseCode .unresolved), .small (levelCode (p.roleLevel (housedRole i))),
       .small (flagCode q.sensorAvailable), bigNat q.elevation, bigInt q.lateral]
    p.resolved i .faulted free 0

/-! ### Raising (R95 to R102) -/

/-- The raise preconditions (R95). -/
inductive Precondition
  | mode | speed | state (pole : PoleId) | latch (pole : PoleId)
deriving DecidableEq, Repr

/-- The codes that section 12.4 gives for the detail of a refused card. RAISE_FAILED and REWIRE_MISSED carry the precondition as an
item, of which no table speaks: it has the same code there, and not one by R95's list order (assumption log 10). -/
def Precondition.code : Precondition → Nat
  | .mode => 1
  | .speed => 2
  | .state _ => 3
  | .latch _ => 4

/-- The pole of a failing precondition, 0xFF for none (section 12.4). -/
def Precondition.poleCode : Precondition → Nat
  | .mode => 0xFF
  | .speed => 0xFF
  | .state i => poleNumber i
  | .latch i => poleNumber i

/-- The first pole of a list that fails a test. -/
def Part.firstPole (p : Part) (poles : List PoleId) (fails : Pole → Bool) : Option PoleId :=
  poles.find? (fun i => fails (p.poles.get i))

/-- MODE passes (R95). -/
def Part.modePasses (p : Part) : Bool := p.mode == .run

/-- SPEED passes: speed in 0.1 km/h against the limit in km/h (R95). -/
def Part.speedPasses (p : Part) : Bool := decide (p.zones.speed ≤ 10 * p.tables.timers.raiseSpeed)

/-- The first of STATE and LATCH that fails, P before N in each (R95). -/
def Part.stateOrLatch (p : Part) (poles : List PoleId) : Option Precondition :=
  (p.firstPole poles (·.state != .housed)).map .state <|> (p.firstPole poles (·.latch)).map .latch

/-- The failing precondition of a raise, if any (R95). -/
def Part.raiseBarred (p : Part) (poles : List PoleId) : Option Precondition :=
  if !p.modePasses then some .mode
  else if !p.speedPasses then some .speed
  else p.stateOrLatch poles

/-- A pole begins raising (R97); without sensor data the raise is abandoned in the same event. -/
def Part.beginRaise (p : Part) (i : PoleId) (origin : RaiseOrigin) (tag : Word) (zone : Option TagId) (retry : Nat)
    (start : Word) : Part × List PoleNotice :=
  let q := p.poles.get i
  let p := (p.drive (.retriever i) false).drive (.raise i) true
  let p := p.setPole i { q with
    state := .raising, blind := false, holdTimer := .stopped, retryPending := false, abandon := .none,
    raiseTimer := p.startTimer p.tables.timers.raiseTime, settleTimer := .stopped,
    origin := origin, requestTag := tag, zoneId := zone, retryCount := retry, startTime := start }
  let n := [{ pole := i, entered := .raising }]
  if q.sensorAvailable then (p, n)
  else
    let (p, m) := p.abandonRaise i .sensorLost none
    (p, n ++ m)

/-- Several poles begin raising in one event (R97). The spec gives no order of the two poles: P first (assumption log 36). -/
def Part.beginRaises (p : Part) (poles : List PoleId) (origin : RaiseOrigin) (tag : Word) (zone : Option TagId) :
    Part × List PoleNotice :=
  poles.foldl (fun (acc : Part × List PoleNotice) i =>
    let (p, n) := acc.1.beginRaise i origin tag zone 0 acc.1.now
    (p, acc.2 ++ n)) (p, [])

/-- A raise card's poles begin raising as an event of their own (R96, R97). -/
def Part.raisePoles (p : Part) (poles : List PoleId) (origin : RaiseOrigin) (tag : Word) (zone : Option TagId) : Part :=
  let (p, ns) := p.beginRaises poles origin tag zone
  p.closePoles ns

/-- A RAISING pole abandons its raise as an event of its own. -/
def Part.abandonAlone (p : Part) (i : PoleId) (cause : AbandonCause) : Part :=
  let (p, ns) := p.abandonRaise i cause none
  p.closePoles ns

/-- A data frame of a RAISING pole (R98). -/
def Part.raiseFrame (p : Part) (i : PoleId) : Part :=
  let q := p.poles.get i
  if p.ceiling i < q.elevation then p.abandonAlone i .aboveBand
  else if p.onWireNow i then
    if q.settleTimer.isRunning then p
    else p.setPole i { q with settleTimer := p.startTimer p.tables.timers.settleTime }
  else p.setPole i { q with settleTimer := .stopped }

/-- Expiry of the settle timer: the raise is complete (R99). -/
def Part.settleExpired (p : Part) (i : PoleId) : Part :=
  let q := p.poles.get i
  if q.state == .raising then
    let p := p.drive (.raise i) false
    let p := p.setPole i ({ q with raiseTimer := .stopped, settleTimer := .stopped }.enterWire (p.tripClosed i))
    let p := p.poleReport .raiseComplete .info i q.requestTag
      (.small (originCode q.origin) :: .small (q.retryCount + 1) :: bigNat (p.since q.startTime)
        :: bigNat q.elevation :: bigInt q.lateral :: (if q.origin == .zone then zoneItem q.zoneId else []))
    let p := p.modPole i (fun q => { q with retryCount := 0, origin := .none })
    ((p.sendNotices [{ pole := i, entered := .onWire }]).actOnSet i 0).updateClaims
  else p.setPole i { q with settleTimer := .stopped }

/-- Expiry of the raise timer (R100). -/
def Part.raiseExpired (p : Part) (i : PoleId) : Part :=
  if (p.poles.get i).state == .raising then p.abandonAlone i .timeout
  else p.modPole i (fun q => { q with raiseTimer := .stopped })

/-- Expiry of the retriever hold timer, with the retry it may start (R86, R101). -/
def Part.holdExpired (p : Part) (i : PoleId) : Part :=
  let p := p.modPole i (fun q => { q with holdTimer := .stopped })
  let p := p.drive (.retriever i) false
  let q := p.poles.get i
  if q.retryPending then
    match p.raiseBarred [i] with
    | none =>
      let (p, ns) := p.beginRaise i q.origin q.requestTag q.zoneId (q.retryCount + 1) q.startTime
      p.closePoles ns
    | some x => p.raiseFailed i (some x.code)
  else p

/-! ### Lower timer (R87, R105) -/

/-- The pole becomes FAULTED with cause POLE_STUCK (R87, R105). -/
def Part.poleStuck (p : Part) (i : PoleId) : Part :=
  let q := p.poles.get i
  let p := p.drivePole i false false
  let p := p.setPole i { q with state := .faulted, blind := false, fault := some .poleStuck, lowerTimer := .stopped,
                                retryCount := 0, lowering := .none }
  let p := p.poleRaise .poleStuck i .none (if q.state == .lowering then q.requestTag else 0)
    [.small (poleStateCode q.state), bigNat q.elevation, .small (flagCode q.sensorAvailable)]
  let p := if q.state == .dewired then p.endFault .poleDewired (poleSource i .none) else p
  p.closePoles [{ pole := i, entered := .faulted }]

/-- Expiry of the lower timer in DEWIRED or LOWERING. -/
def Part.lowerExpired (p : Part) (i : PoleId) : Part :=
  if (p.poles.get i).state == .dewired || (p.poles.get i).state == .lowering then p.poleStuck i
  else p.modPole i (fun q => { q with lowerTimer := .stopped })

/-! ### Contact changes (R77, R86, R88, R102) -/

/-- A HOUSED pole has lifted off its hook unbidden (R88); a pending retry is dropped (R102). -/
def Part.unhoused (p : Part) (i : PoleId) : Part :=
  let q := p.poles.get i
  let p := if q.retryPending then p.setPole i { q with retryPending := false, origin := .none, retryCount := 0 } else p
  let (p, ns) := p.lower i .unhoused 0 none
  let p := p.poleRaise .poleSensor i .unhoused 0 [.small (sourceCauseCode .unhoused), bigNat q.elevation]
  p.closePoles ns

/-- A confirmed change of a pole's housed contact (R77, R86, R88, R97, R105). A closing under a RAISING pole, which R97 has
'noted in the record', changes nothing here: the spec names no field of the pole record for it, and the model keeps it as the
confirmed state of the contact input alone (assumption log 36). -/
def Part.housedChange (p : Part) (i : PoleId) (l : Level) : Part :=
  match (p.poles.get i).state, l with
  | .dewired, .closed =>
    let p := p.modPole i (fun q =>
      { q with state := .housed, blind := false, lowerTimer := .stopped, holdTimer := p.startTimer 500 }.checkLatch)
    let p := p.endFault .poleDewired (poleSource i .none)
    p.closePoles [{ pole := i, entered := .housed }]
  | .lowering, .closed =>
    let (p, ns) := p.lowerDone i
    p.closePoles ns
  | .housed, .opened => p.unhoused i
  | _, _ => p

/-- A confirmed change of a pole's retriever trip contact (R77, R100). -/
def Part.tripChange (p : Part) (i : PoleId) (l : Level) : Part :=
  let q := p.poles.get i
  if q.onLine then
    let ind := { q.indicators with trip := l == .closed }
    (p.setPole i { q with indicators := ind, seen := if q.state == .suspect then q.seen.union ind else q.seen }).judge i
  else if q.state == .raising && l == .closed then p.abandonAlone i .trip
  else p

/-! ### Sensor data (R69, R74, R75, R81, R82) -/

/-- The rate of a frame (R69); over two frames of the same millisecond it is a free value (assumption log 6). -/
def frameRate (p : Part) (q : Pole) (elevation : Nat) : Option Rate :=
  if q.haveFrame then
    let ms := p.since q.frameTime
    if ms = 0 then some { change := Config.freeNat p.freeUses, ms := 1 }
    else some { change := (elevation : Int) - q.elevation, ms := ms }
  else none

/-- An upward rate above a limit in °/s (R75): change × 0.025° ÷ time. -/
def Rate.above (r : Rate) (limit : Nat) : Bool := decide ((limit : Int) * r.ms < 25 * r.change)

/-- A frame's values stored, with its rate (R69). -/
def Pole.store (q : Pole) (rate : Option Rate) (now : Word) (elevation : Nat) (lateral : Int) (c : SensorCondition) : Pole :=
  { q with rate := rate, elevation := elevation, lateral := lateral, frameTime := now, haveFrame := true,
           sensorAvailable := true, condition := c, blind := false }

/-- The rate run after a frame (R75). -/
def Pole.nextRun (q : Pole) (limit : Nat) : Nat :=
  match q.rate with
  | some r => if r.above limit then countUp q.rateRun 8 else 0
  | none => 0

/-- The angle indicators and ELEV_RATE set from a stored frame (R74, R75). -/
def Part.angleIndicators (p : Part) (i : PoleId) : Part :=
  let q := p.poles.get i
  let l := p.tables.poleLimits.get i
  let run := q.nextRun l.rateLimit
  let ind := { q.indicators with
    elevHigh := decide (p.ceiling i < q.elevation),
    lateral := decide (p.lateralLimit i < q.lateral.natAbs),
    elevRate := decide (l.rateFrames ≤ run) }
  p.setPole i { q with rateRun := run, indicators := ind, seen := if q.state == .suspect then q.seen.union ind else q.seen }

/-- A pole data frame (R69). -/
def Part.poleData (p : Part) (i : PoleId) (c : SensorCondition) (elevation : Nat) (lateral : Int) : Part :=
  let q := p.poles.get i
  if q.state == .untracked && p.mode == .halt then p
  else
    let rate := frameRate p q elevation
    let p := { p with freeUses := if q.haveFrame && p.since q.frameTime == 0 then p.freeUses + 1 else p.freeUses }
    let p := p.setPole i (q.store rate p.now elevation lateral c)
    let p := if q.blind then p.endFault .poleSensor (poleSource i .blind) else p
    if q.onLine then (p.angleIndicators i).judge i
    else if q.state == .raising then p.raiseFrame i
    else if q.resolving then p.tryResolve i 0
    else p

/-- A pole's sensor stops giving data (R69, R81): blind on the wire, an abandoned raise, nothing elsewhere. -/
def Part.sensorLost (p : Part) (i : PoleId) (link : LinkState) (c : SensorCondition) : Part :=
  let q := p.poles.get i
  if !q.sensorAvailable then p.setPole i { q with condition := c }
  else
    let lost := { q with sensorAvailable := false, condition := c }.restartRate
    if q.onLine then
      let p := p.setPole i { lost with
        blind := true, indicators := { q.indicators with elevHigh := false, elevRate := false, lateral := false } }
      p.poleRaise .poleSensor i .blind 0
        [.small (sourceCauseCode .blind), .small (linkStateCode link), .small (conditionCode c)]
    else
      let p := p.setPole i lost
      if q.state == .raising then p.abandonAlone i .sensorLost else p

/-- A start or stop of a pole's link with the mode (R69, R92): no data, and the rate history restarts. -/
def Pole.linkReset (q : Pole) : Pole := { q with sensorAvailable := false }.restartRate

/-! ### Zone requests (R106, R107) -/

/-- A zone lower request for one pole (R106). -/
def Part.zoneLowerPole (p : Part) (i : PoleId) (zone : TagId) : Part × List PoleNotice :=
  let q := p.poles.get i
  match q.state with
  | .onWire | .suspect => p.lower i .zone 0 (some zone)
  | .raising => p.abandonRaise i .zoneLower none
  | .housed =>
    if q.retryPending then (p.setPole i { q with retryPending := false, origin := .none, retryCount := 0 }, [])
    else (p, [])
  | .untracked | .dewired | .lowering | .faulted => (p, [])

/-- A zone lower request; outside RUN no pole is changed (R106). The spec gives no order of the two poles: P first
(assumption log 36). The claims of R91 follow at the end of the event that made the request. -/
def Part.zoneLower (p : Part) (zone : TagId) : Part :=
  if p.mode == .run then
    let (p, n) := p.zoneLowerPole .p zone
    let (p, m) := p.zoneLowerPole .n zone
    p.sendNotices (n ++ m)
  else p

/-- The answer to a zone raise request (R107). -/
inductive RaiseAnswer
  | started | speed | refused (why : Precondition)
deriving DecidableEq, Repr

/-- The answer as the state stands: SPEED only when the speed alone stands in the way (R107). -/
def Part.zoneRaiseAnswer (p : Part) : RaiseAnswer :=
  if !p.modePasses then .refused .mode
  else
    match p.stateOrLatch [.p, .n] with
    | some x => .refused x
    | none => if p.speedPasses then .started else .speed

/-- A zone raise that starts: both poles begin raising with origin ZONE (R107). The claims of R91 follow at the end of the
event that made the request. -/
def Part.zoneRaise (p : Part) (zone : TagId) : Part :=
  let (p, ns) := p.beginRaises [.p, .n] .zone 0 (some zone)
  p.sendNotices ns

/-! ### Acknowledgement (R85) -/

/-- The acknowledgement notice: the mark of each latched pole, then the latch check (R85). -/
def Pole.acknowledge (q : Pole) : Pole := { q with latchAck := q.latchAck || q.latch }.checkLatch

/-- The Pole Monitor takes the acknowledgement notice (R85, R163). -/
def Part.ackPoles (p : Part) : Part :=
  { p with poles := ⟨p.poles.p.acknowledge, p.poles.n.acknowledge⟩ }.updateClaims

end Sys2Proof.Machine
end

