-- ==== Sys2Proof/Machine/Zones.lean ====
section
/-! DEFINITION. The Zone Matcher: distance and speed, tag frames, matching, the pending queue, entries and ends of
zones, and pole actions (chapter 6). -/

namespace Sys2Proof.Machine

/-! ### Positions (R109) -/

/-- A position is reached (R109). -/
def Zones.reached (z : Zones) (x : Word) : Bool := decide ((z.odometer - x).toNat < 2 ^ 31)

/-- A position is passed (R109). -/
def Zones.passed (z : Zones) (x : Word) : Bool := aheadOf z.odometer x

/-- A distance in metres, in decimetres (R109). -/
def decimetres (metres : Nat) : Word := word (metres * 10)

/-! ### Zone records -/

/-- The active zone of an arrival order; the order tells zone records apart (R115). -/
def Zones.activeZone (z : Zones) (order : Nat) : Option Zone := z.active.find? (·.order == order)

/-- Change the active zone of an arrival order. -/
def Zones.modActive (z : Zones) (order : Nat) (f : Zone → Zone) : Zones :=
  { z with active := z.active.map (fun x => if x.order = order then f x else x) }

/-- Set the pole action state of the active zone of an arrival order. -/
def Part.setAction (p : Part) (order : Nat) (s : ActionState) : Part :=
  { p with zones := p.zones.modActive order (fun x => { x with action := s }) }

/-- Every WAITING action becomes DONE (R122). -/
def Part.waitingDone (p : Part) : Part :=
  { p with zones := { p.zones with
      active := p.zones.active.map (fun x => if x.action = .waiting then { x with action := .done } else x) } }

/-- REWIRE_MISSED (R122, R123); its items stand in the order of assumption log 11, the precondition in the code of log 10. -/
def Part.rewireMissed (p : Part) (z : Zone) (why : Precondition) (tag : Word) : Part :=
  p.raise { kind := .rewireMissed, source := { block := .zoneMatcher, inst := identityCode z.id }, tag := tag,
            items := [.small z.feature, .small why.code, .small why.poleCode, bigNat p.zones.speed] }

/-! ### Ends (R123, R125) -/

/-- Causes of a zone's end, coded in this order (assumption log 10). -/
inductive EndCause
  | passed | displaced | cleared
deriving DecidableEq, Repr

/-- A zone has observed something (R124). -/
def Zone.observed (z : Zone) : Bool := decide (0 < z.gapCount) || poleEventsCode z.events != 0

/-- The items of ZONE_PASSED and ZONE_DISPLACED; the identity is the source instance (R125, section 12.6). -/
def Zone.endItems (z : Zone) (cause : EndCause) : List Item :=
  [.small z.feature, .small z.entry, .small z.profile, .small (firstOfTwo z.specific),
   .small cause.ctorIdx, .small (actionCode z.action), .small z.gapCount, .small (gapOutcomeCode z.lastGap),
   bigNat z.longest, bigNat z.peak, bigNat (poleEventsCode z.events)]

/-- The report of a zone's end (R125). -/
def Part.reportEnd (p : Part) (z : Zone) (cause : EndCause) (tag : Word) : Part :=
  match cause with
  | .displaced =>
    p.report .zoneDisplaced .warning .zoneMatcher (identityCode z.id) tag (z.endItems cause)
  | .passed | .cleared =>
    if (p.tables.profile z.profile).reportOnPass || z.observed then
      p.report .zonePassed .info .zoneMatcher (identityCode z.id) tag (z.endItems cause)
    else p

/-- A WAITING action is MISSED when its zone ends, before the end is reported (R123). -/
def Part.missAtEnd (p : Part) (z : Zone) (tag : Word) : Part :=
  if z.action = .waiting then p.rewireMissed z .speed tag else p

/-- A zone as it is reported at its end. -/
def Zone.atEnd (z : Zone) : Zone := if z.action = .waiting then { z with action := .missed } else z

/-- An active zone ends: it leaves the active set and is reported (R123, R125). -/
def Part.endZone (p : Part) (order : Nat) (cause : EndCause) (tag : Word) : Part :=
  match p.zones.activeZone order with
  | none => p
  | some z =>
    let p := { p with zones := { p.zones with active := p.zones.active.filter (·.order != order) } }
    (p.missAtEnd z tag).reportEnd z.atEnd cause tag

/-! ### Pole actions (R122) -/

/-- A zone raise request is made for a zone and its answer followed (R122, R123). -/
def Part.askRaise (p : Part) (z : Zone) : Part :=
  match p.zoneRaiseAnswer with
  | .started => ((p.zoneRaise z.id).setAction z.order .done).waitingDone
  | .speed => p.setAction z.order .waiting
  | .refused why => (p.setAction z.order .missed).rewireMissed z why 0

/-- The pole action of a zone that has entered and is still active (R118 step 4, R122). -/
def Part.fireAction (p : Part) (order : Nat) : Part :=
  match p.zones.activeZone order with
  | none => p
  | some z =>
    match (p.tables.profile z.profile).action with
    | .none => p.setAction order .done
    | .lower => (p.zoneLower z.id).setAction order .done
    | .raise => p.askRaise z

/-- The pole actions of one event, for the zones of these arrival orders in turn. The Pole Monitor's claims are tested once,
after the event, and not between its requests (R91, R122). -/
def Part.actOnZones (p : Part) (orders : List Nat) (act : Part → Nat → Part) : Part := (p.forEach orders act).followPoles p

/-! ### Entries (R118, R119) -/

/-- The active zone of lowest precedence (R120). -/
def Zones.lowest (z : Zones) : Option Zone := z.precedence.getLast?

/-- A zone enters the active set, displacing the lowest of four (R119). -/
def Part.enterZone (p : Part) (z : Zone) : Part :=
  let p :=
    if 4 ≤ p.zones.active.length then
      match p.zones.lowest with
      | some x => p.endZone x.order .displaced 0
      | none => p
    else p
  { p with zones := { p.zones with active := p.zones.active ++ [z] } }

/-- The pending zones whose start is reached enter, in queue order; the arrival orders of those that entered are
returned in entry order (R118 step 2). -/
def enterReached : Nat → Part → Part × List Nat
  | 0, p => (p, [])
  | n + 1, p =>
    match p.zones.pendingZones with
    | [] => (p, [])
    | z :: rest =>
      if p.zones.reached z.start then
        let r := enterReached n ({ p with zones := { p.zones with pendingZones := rest } }.enterZone z)
        (r.1, z.order :: r.2)
      else (p, [])

/-- Steps 2 to 4 of R118; `ended` says that step 1 has changed the active set. -/
def Part.startZones (p : Part) (ended : Bool) : Part :=
  let r := enterReached p.zones.pendingZones.length p
  let p := if ended || !r.2.isEmpty then r.1.recomputeProfile else r.1
  p.actOnZones r.2 Part.fireAction

/-- The arrival orders of the active zones whose end is passed, highest precedence first (R118 step 1). -/
def Zones.ended (z : Zones) : List Nat := (z.precedence.filter (fun x => z.passed x.stop)).map (·.order)

/-- An odometer advance (R118). -/
def Part.advance (p : Part) : Part :=
  let ended := p.zones.ended
  (p.forEach ended (fun p o => p.endZone o .passed 0)).startZones (!ended.isEmpty)

/-! ### Distance and speed (R108, R110) -/

/-- Whole decimetres in a residue (R108). -/
def Part.pulseSteps (p : Part) : Nat := (p.zones.residue + 10) / p.tables.timers.pulsesPerMetre

/-- The residue a pulse leaves (R108). -/
def Part.pulseResidue (p : Part) : Nat := (p.zones.residue + 10) % p.tables.timers.pulsesPerMetre

/-- An odometry pulse (R108, R110). -/
def Part.odometryPulse (p : Part) : Part :=
  let n := p.pulseSteps
  let z := { p.zones with residue := p.pulseResidue }
  if n = 0 then { p with zones := z }
  else
    { p with zones := { z with
        odometer := z.odometer + word n, stationary := false, stationaryTimer := p.startTimer 2000 } }.advance

/-- The speed of a travel of `d` decimetres in 500 ms (R110). -/
def speedOf (d : Nat) : Nat := min 2000 (d * 72 / 10)

/-- The Zone Matcher's record after a speed expiry (R110). -/
def Zones.takeSpeed (z : Zones) : Zones :=
  { z with speed := speedOf (z.odometer - z.samples[0]).toNat,
           samples := #v[z.samples[1], z.samples[2], z.samples[3], z.samples[4], z.odometer] }

/-- A WAITING action is tried again (R123). -/
def Part.retryAction (p : Part) (order : Nat) : Part :=
  match p.zones.activeZone order with
  | none => p
  | some z => if z.action = .waiting then p.askRaise z else p

/-- The WAITING actions are tried in precedence order, in RUN (R123). -/
def Part.retryActions (p : Part) : Part :=
  if p.mode = .run then p.actOnZones (p.zones.precedence.map (·.order)) Part.retryAction else p

/-- Expiry of the speed timer (R110, R123). -/
def Part.speedExpired (p : Part) : Part :=
  { p with zones := { p.zones.takeSpeed with speedTimer := p.startTimer 100 } }.retryActions

/-- Expiry of the stationary timer (R110). -/
def Part.stationaryExpired (p : Part) : Part :=
  { p with zones := { p.zones with stationary := true, stationaryTimer := .stopped } }

/-! ### Tags (R111 to R114) -/

/-- A report of the Zone Matcher about a tag. -/
def Part.tagReport (p : Part) (kind : ReportKind) (items : List Item) : Part :=
  p.report kind .info .zoneMatcher 0 0 items

/-- The tag is a duplicate (R112). -/
def Part.duplicateTag (p : Part) (id : TagId) : Bool :=
  p.zones.recent.any (fun r => r.id == id
    && decide ((p.zones.odometer - r.odometer).toNat ≤ p.tables.timers.duplicateDistance * 10))

/-- The recent-tag list after an acceptance, oldest acceptance first (R112). -/
def acceptRecent (recent : List RecentTag) (new : RecentTag) : List RecentTag :=
  if recent.any (·.id == new.id) then recent.filter (·.id != new.id) ++ [new]
  else if recent.length < 4 then recent ++ [new]
  else recent.drop 1 ++ [new]

/-- A watch entry fits a tag (R114). -/
def WatchEntry.fits (e : WatchEntry) (t : TagRead) : Bool :=
  (!e.lineCare || e.line == t.id.line) && (!e.placeCare || e.place == t.id.place)
    && (!e.featureCare || e.feature == t.feature)

/-- A specific entry has all three care flags YES (section 6.4). -/
def WatchEntry.specific (e : WatchEntry) : Bool := e.lineCare && e.placeCare && e.featureCare

/-- The first valid entry that fits, among the held ones or among the others. -/
def Part.firstFit (p : Part) (t : TagRead) (held : Bool) : Option Nat :=
  firstIndex (fun e => e.valid && e.hold == held && e.fits t) p.tables.watch.toList

/-- A new zone of an accepted tag and its winning entry (R115). -/
def Part.newZone (p : Part) (t : TagRead) (n : Nat) (e : WatchEntry) : Zone :=
  let start := p.zones.odometer + decimetres t.distance
  { id := t.id, feature := t.feature, entry := n, profile := e.profile, specific := e.specific, start := start,
    stop := start + decimetres (if t.length = 0 then p.tables.timers.pointWidth else t.length),
    order := p.zones.arrivals + 1 }

/-- The pending order: the start least far ahead first, then arrival order (R116). -/
def queueZone (z : Zone) (q : List Zone) : List Zone := insertBy (fun x y => aheadOf y.start x.start) z q

/-- Which zone an overflow discarded, coded in this order (R117). -/
inductive Discarded
  | new | farthest
deriving DecidableEq, Repr

/-- ZONE_OVERFLOW (R117). -/
def Part.zoneOverflow (p : Part) (z : Zone) (which : Discarded) : Part :=
  p.raise { kind := .zoneOverflow, source := { block := .zoneMatcher },
            items := [bigNat (identityCode z.id), .small z.feature, .large z.start, .small which.ctorIdx] }

/-- Replace the pending queue. -/
def Part.setPending (p : Part) (q : List Zone) : Part := { p with zones := { p.zones with pendingZones := q } }

/-- A new zone joins the pending queue (R116, R117). -/
def Part.joinPending (p : Part) (z : Zone) : Part :=
  let q := p.zones.pendingZones
  if q.any (·.id == z.id) then p.setPending (queueZone z (q.filter (·.id != z.id)))
  else if q.length < 8 then p.setPending (queueZone z q)
  else
    match q.getLast? with
    | none => p
    | some far =>
      if aheadOf far.start z.start then (p.setPending (queueZone z q.dropLast)).zoneOverflow far .farthest
      else p.zoneOverflow z .new

/-- An accepted tag is matched (R114, R115). The distance, a length, is a large item of TAG_UNMATCHED (assumption log
38). -/
def Part.matchTag (p : Part) (t : TagRead) : Part :=
  match p.firstFit t false with
  | some n =>
    if h : n < 12 then
      let z := p.newZone t n p.tables.watch[n]
      let p := { p with zones := { p.zones with arrivals := p.zones.arrivals + 1 } }
      (p.joinPending z).startZones false
    else p
  | none =>
    p.tagReport .tagUnmatched
      [bigNat (identityCode t.id), .small t.feature, bigNat t.distance, .small ((p.firstFit t true).getD 12)]

/-- The mark of a place in the seen map (R113). -/
def placeMark (place : Nat) : BitVec 512 := BitVec.ofNat 512 (2 ^ place)

/-- An accepted tag: the recent-tag list, the seen map, the match, in this order (R112). -/
def Part.acceptTag (p : Part) (t : TagRead) : Part :=
  { p with zones := { p.zones with
      recent := acceptRecent p.zones.recent { id := t.id, odometer := p.zones.odometer },
      seen := p.zones.seen ||| placeMark t.id.place } }.matchTag t

/-- A tag read goes through the filters (R112). -/
def Part.filterTag (p : Part) (t : TagRead) : Part :=
  if t.quality < p.tables.timers.minQuality then
    p.tagReport .tagLowQuality [bigNat (identityCode t.id), .small t.feature, .small t.quality]
  else if p.duplicateTag t.id then p
  else p.acceptTag t

/-- A frame delivered on the tag link (R111). The frame kind is reported as its byte (assumption log 11). -/
def Part.tagFrame (p : Part) (link : LinkState) (payload : List Byte) : Part :=
  let kind := (byteAt payload 0).toNat
  if link ≠ .good then p.tagReport .tagLinkNotReady [.small (linkStateCode link), .small kind]
  else if kind = 0x10 ∧ payload.length = 1 then p
  else if kind = 0x11 ∧ payload.length = 7 then p.filterTag (tagRead payload)
  else p.tagReport .tagFrameInvalid [.small payload.length, .small kind]

/-! ### Clearing (R126, R127) -/

/-- CLEAR_ZONES (R126). -/
def Part.clearZones (p : Part) (tag : Word) : Part :=
  let p := p.setPending []
  let p := p.forEach (p.zones.precedence.map (·.order)) (fun p o => p.endZone o .cleared tag)
  p.recomputeProfile

/-- The Zone Matcher at HALT entry (R127). -/
def Zones.halted (z : Zones) : Zones := { z with recent := [], pendingZones := [], active := [], effective := {} }

end Sys2Proof.Machine
end

