-- ==== Sys2Proof/Machine/Governor.lean ====
section
/-! DEFINITION. The Traction Governor: demand samples, setpoints, arming, the door contact and the drive link's status
replies (chapter 7). -/

namespace Sys2Proof.Machine

/-! ### Freshness (R130, R131) -/

/-- A delivery of a demand read (R17). -/
inductive Delivery
  | failed
  | read (sequence value complement : Word)
deriving DecidableEq, Repr

/-- Why a delivery is not fresh, coded in this order (R130). -/
inductive StaleCause
  | failedRead | mismatch | range | unchanged
deriving DecidableEq, Repr

/-- The first test of R130 that a delivery fails; none for a fresh delivery. -/
def Governor.staleCause (g : Governor) : Delivery → Option StaleCause
  | .failed => some .failedRead
  | .read s v c =>
    if c ≠ ~~~v then some .mismatch
    else if v.toInt < -1000 ∨ 1000 < v.toInt then some .range
    else if g.lastFresh = some s then some .unchanged
    else none

/-- The source of DEMAND_STALE: the governor, which has no instance of its own (section 12.6). -/
def governorSource : Source := { block := .tractionGovernor }

/-- The source of DRIVE_LINK_LOST: the governor, with the drive link as the instance (R158, section 12.6). DRIVE_FAULT, for which
no rule names an instance, has the same source: the model's choice (assumption log 11). -/
def driveLinkSource : Source := { block := .tractionGovernor, inst := linkNumber .drive }

/-- A fresh delivery is stored: the held demand is replaced and the stale count returns to 0 (R130). -/
def Part.takeFresh (p : Part) (s v : Word) : Part :=
  { p with gov := { p.gov with lastFresh := some s, held := v.toInt, stale := 0 } }

/-- A fresh delivery ends a stale episode: DEMAND_STALE is withdrawn, and its end notice is sent (R130). -/
def Part.endStale (p : Part) : Part :=
  if p.gov.inhibit.demandStale then (p.withdraw .demandStale).endFault .demandStale governorSource else p

/-- A fresh demand at or below 0 arms the governor while the set is empty (R138). -/
def Part.arm (p : Part) (s v : Word) : Part :=
  if v.toInt ≤ 0 ∧ p.gov.inhibit.empty ∧ !p.gov.armed then
    { p with gov := { p.gov with armed := true } }.report .tractionArmed .info .tractionGovernor 0 0
      [.large v, .large s, .small (supplyCode p.line.budget.source)]
  else p

/-- A delivery that is not fresh (R131). -/
def Part.takeStale (p : Part) (c : StaleCause) : Part :=
  let n := countUp p.gov.stale 255
  let reached := p.gov.stale < p.tables.timers.staleLimit ∧ n = p.tables.timers.staleLimit
  let p := { p with gov := { p.gov with stale := n } }
  if reached then
    (p.claim .demandStale).raise
      { kind := .demandStale, source := governorSource,
        items := [.small c.ctorIdx, .small n, .large (p.gov.lastFresh.getD 0)] }
  else p

/-! ### From demand to setpoint (R132, R133) -/

/-- The allowance current, in A (R132): allowance in 0.1 kW over volts, the line voltage in 0.25 V. -/
def Part.allowanceCurrent (p : Part) : Nat :=
  match p.line.budget.source with
  | .line => quotient (p.line.budget.allowance * 400) p.line.voltage
  | .battery => quotient (p.line.budget.allowance * 100) p.tables.budget.nominal
  | .none => 0

/-- The motoring ceiling, in A (R132). -/
def Part.motoringCeiling (p : Part) : Nat :=
  min (p.tables.timers.motoringLimit * p.zones.effective.tractionCap / 100) p.allowanceCurrent

/-- The braking ceiling, in A (R132). -/
def Part.brakingCeiling (p : Part) : Nat :=
  min (p.tables.timers.regenLimit * p.zones.effective.regenCap / 100) p.line.budget.regenCap

/-- The target, in A, positive when motoring (R132). -/
def Part.target (p : Part) : Int :=
  let d := p.gov.held
  if 0 < d then (min (d.toNat * p.tables.timers.motoringLimit / 1000) p.motoringCeiling : Nat)
  else if d = 0 then 0
  else -((min (d.natAbs * p.tables.timers.regenLimit / 1000) p.brakingCeiling : Nat) : Int)

/-- A step of a rate in A/s over a period in ms, at least 1 A (R133). -/
def rampStep (rate period : Nat) : Nat := max 1 (rate * period / 1000)

/-- The setpoint moves from the last one toward the target (R133). -/
def approach (last target : Int) (rise fall : Nat) : Int :=
  if last = 0 then target.sign * (min target.natAbs rise : Nat)
  else if target.sign = last.sign then
    if last.natAbs ≤ target.natAbs then last.sign * (min target.natAbs (last.natAbs + rise) : Nat)
    else last.sign * (max target.natAbs (last.natAbs - fall) : Nat)
  else last.sign * (last.natAbs - fall : Nat)

/-- The two bounds that apply at once (R133). -/
def bound (s : Int) (motoring braking : Nat) : Int :=
  if (motoring : Int) < s then motoring else if s < -(braking : Int) then -(braking : Int) else s

/-- The setpoint of a computation (R133). -/
def Part.nextSetpoint (p : Part) : Int :=
  if p.gov.inhibit.empty && p.gov.armed then
    let t := p.tables.timers
    bound (approach p.gov.setpoint p.target (rampStep t.rampRate t.controlPeriod) (rampStep t.inhibitRamp t.controlPeriod))
      p.motoringCeiling p.brakingCeiling
  else 0

/-- The mode of a setpoint frame (R134). -/
def Part.frameMode (p : Part) (s : Int) : DriveMode :=
  if p.gov.inhibit.anyCut then .cut else if 0 < s then .motor else if s < 0 then .brake else .coast

/-- Regen permitted (R134). -/
def Part.regenPermitted (p : Part) : Bool := p.gov.inhibit.empty && p.gov.armed && decide (0 < p.brakingCeiling)

/-- A wait still OPEN when a period frame is handed over is a missed reply; the third in a row claims DRIVE_LINK
(R141, R142). `awaited` is the sequence of the wait that was missed, though later frames of the event have opened new waits
(assumption log 24); a sequence, a byte, is packed as a small item (assumption log 38). -/
def Part.countMiss (p : Part) (awaited : Byte) : Part :=
  let n := countUp p.gov.misses 255
  let p := { p with gov := { p.gov with misses := n, goodRun := 0 } }
  if n = 3 ∧ !p.gov.inhibit.driveLink then
    (p.claim .driveLink).raise
      { kind := .driveLinkLost, source := driveLinkSource,
        items := [.small n, .small awaited.toNat, .small (linkStateCode p.links.recs.drive.state),
                  .small (inverterCode p.gov.inverter)] }
  else p

/-- A period frame is handed over (R134, R141). -/
def Part.periodFrame (p : Part) : Part :=
  let s := p.nextSetpoint
  let p' := p.handFrame s (p.frameMode s) p.regenPermitted
  match p.gov.replyWait with
  | none => p'
  | some awaited => p'.countMiss awaited

/-- The period frame handed over now counts the third miss in a row and brings the claim of DRIVE_LINK (R141, R142). -/
def Governor.missClaims (g : Governor) : Bool := g.replyWait.isSome && g.misses == 2 && !g.inhibit.driveLink

/-- A fresh delivery: stored, DEMAND_STALE withdrawn, the arming test, the computation and its frame (R130, R138, R132 to
R134). In an event that brings the claim of DRIVE_LINK as well, the claim goes before the withdrawal (R136): the set passes
through no empty moment between them, so the governor is not armed by that withdrawal. -/
def Part.deliverFresh (p : Part) (s v : Word) : Part :=
  if p.gov.missClaims then ((p.takeFresh s v).arm s v).periodFrame.endStale
  else ((p.takeFresh s v).endStale.arm s v).periodFrame

/-- A delivery of a demand read: judged, then one computation, in RUN; discarded outside RUN (R129 to R134). -/
def Part.deliver (p : Part) (d : Delivery) : Part :=
  if p.mode = .run then
    match p.gov.staleCause d, d with
    | none, .read s v _ => p.deliverFresh s v
    | some c, _ => (p.takeStale c).periodFrame
    | none, .failed => p.periodFrame
  else p

/-! ### The control period (R17, R129) -/

/-- The demand sampler has a read waiting or in flight (R17). -/
def Mailbox.demandBusy (m : Mailbox) : Bool := m.port.demand.isSome || m.inFlightIs .demandRead

/-- The governor asks for a demand read (R17). -/
def Part.requestDemand (p : Part) : Part :=
  match p.mbx.base with
  | none => p.deliver .failed
  | some b =>
    if p.mbx.demandBusy then p
    else { p with mbx := p.mbx.place { op := .demandRead, addr := b + 0x20, len := 3, data := [] } }

/-- Expiry of the control period (R129). -/
def Part.periodExpired (p : Part) : Part :=
  { p with gov := { p.gov with period := p.startTimer p.tables.timers.controlPeriod } }.requestDemand

/-! ### Status replies (R141 to R143) -/

/-- The inverter reports FAULT or TRIPPED (R143). -/
def Inverter.bad (i : Inverter) : Bool := i == .fault || i == .tripped

/-- A good reply's inverter state is acted upon: the claim of DRIVE_FAULT (R143). The echoed sequence, a byte, is packed as a
small item (assumption log 38). -/
def Part.claimDriveFault (p : Part) (echo : Byte) : Part :=
  if p.gov.inverter.bad && !p.gov.inhibit.driveFault then
    (p.claim .driveFault).raise
      { kind := .driveFault, source := driveLinkSource,
        items := [.small (inverterCode p.gov.inverter), bigInt p.gov.actual, .small echo.toNat] }
  else p

/-- Three good replies in a row end DRIVE_LINK (R142). -/
def Part.endDriveLink (p : Part) : Part :=
  if p.gov.goodRun = 3 ∧ p.gov.inhibit.driveLink then (p.withdraw .driveLink).endFault .driveLinkLost driveLinkSource else p

/-- A READY or RUNNING reply ends DRIVE_FAULT (R143). -/
def Part.endDriveFault (p : Part) : Part :=
  if !p.gov.inverter.bad && p.gov.inhibit.driveFault then (p.withdraw .driveFault).endFault .driveFault driveLinkSource
  else p

/-- A good reply (R141 to R143); the claim goes before the withdrawals (R136). -/
def Part.goodReply (p : Part) (echo : Byte) (actual : Int) (i : Inverter) : Part :=
  let g := { p.gov with replyWait := none, misses := 0, goodRun := countUp p.gov.goodRun 3, inverter := i, actual := actual }
  (({ p with gov := g }.claimDriveFault echo).endDriveLink).endDriveFault

/-- A frame delivered on the drive link (R141). -/
def Part.driveFrame (p : Part) (link : LinkState) (payload : List Byte) : Part :=
  if link = .good ∧ byteAt payload 0 = 0x21 ∧ payload.length = 5 ∧ p.gov.replyWait = some (byteAt payload 1) then
    match inverterOfByte (byteAt payload 4) with
    | some i => p.goodReply (byteAt payload 1) (join16 (byteAt payload 2) (byteAt payload 3)).toInt i
    | none => p
  else p

/-! ### The door (R139) -/

/-- A confirmed change of the door interlock is delivered (R139). -/
def Part.doorChange (p : Part) (l : Level) : Part :=
  if p.mode = .run then
    match l with
    | .opened => p.claim .doorOpen
    | .closed => p.withdraw .doorOpen
  else p

/-! ### Mode changes (R128) -/

/-- The governor's record at RUN entry, with the door contact read (R128, R139). -/
def Part.governorEntersRun (p : Part) : Part :=
  let p := { p with gov := { p.gov with
    armed := false, period := p.startTimer p.tables.timers.controlPeriod, lastFresh := none, held := 0, stale := 0,
    setpoint := 0, replyWait := none, misses := 0, goodRun := 0 } }
  p.claimIf .doorOpen (p.roleLevel .doorInterlock == .opened)

/-- The governor withdraws a reason of its own, with the end notice of its fault (R128). -/
def Part.dropOwn (p : Part) (r : Reason) (k : FaultKind) (source : Source) : Part :=
  if p.gov.inhibit.has r then (p.withdraw r).endFault k source else p

/-- The governor at HALT or LAYOVER entry, after the MODE claim (R128). -/
def Part.governorLeavesRun (p : Part) : Part :=
  let p := p.dropOwn .demandStale .demandStale governorSource
  let p := (p.dropOwn .driveLink .driveLinkLost driveLinkSource).dropOwn .driveFault .driveFault driveLinkSource
  let p := p.withdraw .doorOpen
  { p with gov := { p.gov with
      armed := false, period := .stopped, stale := 0, setpoint := 0, replyWait := none, misses := 0, goodRun := 0 } }

end Sys2Proof.Machine
end

