-- ==== Sys2Proof/Machine/Auxiliary.lean ====
section
/-! DEFINITION. The Auxiliary Scheduler: requests, starts, trips, faults, the layover set and mode changes (chapter 8). -/

namespace Sys2Proof.Machine

def auxSource (a : AuxNo) : Source := { block := .auxiliaryScheduler, inst := a.val }

/-- Causes of AUX_FAULTED, coded in this order (R149, R153). -/
inductive AuxFault
  | start | trips
deriving DecidableEq, Repr

/-! ### Starting (R147, R148) -/

/-- An auxiliary becomes RUNNING (R148). -/
def Part.auxRuns (p : Part) (a : AuxNo) : Part :=
  p.setAux a { p.auxRec a with state := .running, startTimer := .stopped, startFails := 0 }

/-- The head's start is confirmed at its grant: no feedback input, or a contact that is CLOSED (R147, R148). -/
def Part.confirmedAtGrant (p : Part) (a : AuxNo) : Bool :=
  (p.auxEntry a).feedback == noFeedback || p.feedbackLevel a == .closed

/-- A granted head starts (R147). -/
def Part.startAux (p : Part) (a : AuxNo) : Part :=
  let p := (p.grantClaim a).leaveQueue a
  let n := p.aux.startCount + 1
  let p := { p with aux := { p.aux with startCount := n } }.setAux a
    { p.auxRec a with state := .starting, startOrder := n, startTimer := p.startTimer (p.auxEntry a).startLimit }
  let p := p.drive (.auxRun a) true
  if p.confirmedAtGrant a then p.auxRuns a else p

/-- The head of the queue asks for its claim, unless it is held (R147). -/
def Part.tryHead (p : Part) : Part :=
  match p.aux.queue with
  | [] => p
  | a :: _ =>
    if p.zones.effective.auxHold && (p.auxEntry a).cls != .essential then p
    else if p.claimGranted a then p.startAux a
    else p

/-- The stagger timer starts with the stagger time (R147). -/
def Part.restartStagger (p : Part) : Part :=
  { p with aux := { p.aux with stagger := p.startTimer p.tables.timers.stagger } }

/-- Expiry of the stagger timer (R147). -/
def Part.staggerExpired (p : Part) : Part := p.restartStagger.tryHead

/-! ### Failures and trips (R149, R153) -/

/-- The items of a failed start: class, start time limit, contact (R149). -/
def Part.startFailItems (p : Part) (a : AuxNo) : List Item :=
  [.small (auxClassCode (p.auxEntry a).cls), bigNat (p.auxEntry a).startLimit, .small (levelCode (p.feedbackLevel a))]

/-- A start has failed (R149). -/
def Part.startFailed (p : Part) (a : AuxNo) : Part :=
  let p := p.switchOff a
  let n := countUp (p.auxRec a).startFails 2
  let p := p.setAux a { p.auxRec a with
    state := if n = 1 then .locked else .faulted, startTimer := .stopped, startFails := n }
  let items := p.startFailItems a
  let p :=
    if n = 1 then p.raise { kind := .auxStartFail, source := auxSource a, items := items }
    else p.raise { kind := .auxFaulted, source := auxSource a, items := .small AuxFault.start.ctorIdx :: items }
  p.startOff a

/-- Expiry of a start timer (R149). -/
def Part.startExpired (p : Part) (a : AuxNo) : Part :=
  if (p.auxRec a).state = .starting then p.startFailed a
  else p.setAux a { p.auxRec a with startTimer := .stopped }

/-- Trip times of the last 60 s (R153), held oldest first (DESIGN CHOICE, assumption log 42). -/
def Part.recentTrips (p : Part) (a : AuxNo) : List Word := (p.auxRec a).trips.filter (fun t => decide (p.since t ≤ 60000))

/-- The third trip within 60 s (R153). AUX_FAULTED carries the cause (first: assumption log 11), the class and the times of the
three trips; R153 and R188 give those times no order, and the oldest first, the newest last, is the model's choice (DESIGN
CHOICE, assumption log 42). -/
def Part.thirdTrip (p : Part) (a : AuxNo) (times : List Word) : Part :=
  let p := p.setAux a { p.auxRec a with state := .faulted, trips := [] }
  let p := p.raise { kind := .auxFaulted, source := auxSource a,
                     items := .small AuxFault.trips.ctorIdx :: .small (auxClassCode (p.auxEntry a).cls)
                       :: times.map Item.large }
  p.startOff a

/-- A trip that is not the third (R153). -/
def Part.earlyTrip (p : Part) (a : AuxNo) (times : List Word) : Part :=
  let p := p.setAux a { p.auxRec a with state := .locked, trips := times, offDone := false }
  let p := p.report .auxTripped .warning .auxiliaryScheduler a.val 0 [.small times.length]
  p.startOff a

/-- A RUNNING auxiliary trips (R153); its time joins the recent ones as the last (DESIGN CHOICE, assumption log 42). -/
def Part.trip (p : Part) (a : AuxNo) : Part :=
  let p := p.switchOff a
  let times := p.recentTrips a ++ [p.now]
  if 3 ≤ times.length then p.thirdTrip a times else p.earlyTrip a times

/-- A confirmed change of a feedback contact is delivered (R144, R148, R153). -/
def Part.feedbackChange (p : Part) (a : AuxNo) (l : Level) : Part :=
  if (p.auxEntry a).feedback = noFeedback then p
  else
    match (p.auxRec a).state, l with
    | .starting, .closed => p.auxRuns a
    | .running, .opened => p.trip a
    | _, _ => p

/-! ### Requests (R145) -/

/-- A FAULTED auxiliary becomes OFF and its condition ends (R145). -/
def Part.releaseFaulted (p : Part) (a : AuxNo) : Part :=
  (p.setAux a { p.auxRec a with state := .off, startFails := 0, trips := [], offDone := false }).endFault .auxFaulted
    (auxSource a)

/-- An ON request (R145). -/
def Part.requestOn (p : Part) (a : AuxNo) : Part :=
  let p := p.setAux a { p.auxRec a with requested := true }
  if (p.auxRec a).state = .off then p.enterQueue a else p

/-- A STARTING or RUNNING auxiliary is switched off by request (R145). -/
def Part.stopAux (p : Part) (a : AuxNo) : Part :=
  let p := p.switchOff a
  (p.setAux a { p.auxRec a with state := .locked, startTimer := .stopped, offDone := false }).startOff a

/-- An OFF request (R145). -/
def Part.requestOff (p : Part) (a : AuxNo) : Part :=
  let p := p.setAux a { p.auxRec a with requested := false }
  match (p.auxRec a).state with
  | .off => p
  | .waiting => (p.leaveQueue a).setAux a { p.auxRec a with state := .off }
  | .starting => p.stopAux a
  | .running => p.stopAux a
  | .shed => if (p.auxRec a).offDone then p.setAux a { p.auxRec a with state := .off, offDone := false } else p
  | .locked => p
  | .faulted => p.releaseFaulted a

/-! ### Mode changes (R156, R157) -/

/-- An auxiliary that is not layover-keep goes OFF (R156). -/
def Part.offForLayover (p : Part) (a : AuxNo) : Part :=
  match (p.auxRec a).state with
  | .starting | .running =>
    let p := p.switchOff a
    p.setAux a { p.auxRec a with state := .off, startTimer := .stopped }
  | .waiting => (p.leaveQueue a).setAux a { p.auxRec a with state := .off }
  | .shed | .locked => p.setAux a { p.auxRec a with state := .off, offDone := false }
  | .off | .faulted => p

/-- The layover set for one auxiliary (R156); its layover-keep setting holds for this layover (R144). -/
def Part.layoverAux (p : Part) (a : AuxNo) : Part :=
  let keep := (p.auxEntry a).layoverKeep
  let p := p.setAux a { p.auxRec a with keptInLayover := keep }
  if keep then p else p.offForLayover a

/-- The Auxiliary Scheduler at LAYOVER entry (R156). -/
def Part.auxEntersLayover (p : Part) : Part := (p.forEach allAux Part.layoverAux).restartStagger

/-- A requested auxiliary in OFF enters the queue (R146, R156). -/
def Part.requeue (p : Part) (a : AuxNo) : Part :=
  if (p.auxRec a).requested && (p.auxRec a).state == .off then p.enterQueue a else p

/-- The Auxiliary Scheduler on leaving LAYOVER (R156). -/
def Part.auxLeavesLayover (p : Part) : Part := (p.forEach allAux Part.requeue).restartStagger

/-- The standing request of a valid ESSENTIAL auxiliary (R157). -/
def Part.standingRequest (p : Part) (a : AuxNo) : Part :=
  let e := p.auxEntry a
  if e.valid && e.cls == .essential && e.standing then (p.setAux a { p.auxRec a with requested := true }).requeue a else p

/-- The Auxiliary Scheduler at RUN entry from HALT (R157). -/
def Part.auxEntersRun (p : Part) : Part := (p.forEach allAux Part.standingRequest).restartStagger

/-- One auxiliary at HALT entry (R157); its output is driven OFF with all outputs. The table has no row for its two orders, which
are kept with the counts, nor for its off-time-done flag, which is cleared: the model's choice (assumption log 41). -/
def Part.haltAux (p : Part) (a : AuxNo) : Part :=
  let p := if (p.auxRec a).state = .faulted then p.endFault .auxFaulted (auxSource a) else p
  p.setAux a { entryOrder := (p.auxRec a).entryOrder, startOrder := (p.auxRec a).startOrder }

/-- The Auxiliary Scheduler at HALT entry (R157). -/
def Part.auxEntersHalt (p : Part) : Part :=
  let p := p.forEach allAux Part.haltAux
  { p with aux := { p.aux with queue := [], stagger := .stopped } }

/-! ### Loads of AUX_TABLE (R144) -/

/-- An auxiliary after an AUX_TABLE load: one that is invalid has its request cleared and leaves FAULTED (R144). -/
def Part.auxAfterLoad (p : Part) (a : AuxNo) : Part :=
  if (p.auxEntry a).valid then p
  else
    let p := if (p.auxRec a).requested then p.setAux a { p.auxRec a with requested := false } else p
    if (p.auxRec a).state = .faulted then p.releaseFaulted a else p

/-- The Auxiliary Scheduler takes an AUX_TABLE load (R144). -/
def Part.auxTableLoaded (p : Part) : Part := (p.forEach allAux Part.auxAfterLoad).resortQueue

end Sys2Proof.Machine
end

