-- ==== Sys2Proof/Machine/Links.lean ====
section
/-! DEFINITION. The Link Receivers: link states, pulse-interval frames, serial frames and their deliveries (chapter 2,
R27 to R37). -/

namespace Sys2Proof.Machine

/-! ### Link states (R32) -/

/-- One link's record. -/
def Part.linkRec (p : Part) (l : Link) : LinkRec := p.links.recs.get l

/-- The silence timer started with the link's silence limit. -/
def Part.silenceTimer (p : Part) (l : Link) : Timer := p.startTimer (p.tables.links.get l).silence

/-- A link state notice reaches the link's consumer; only a notice that leaves GOOD changes anything (R57, R69). It brings
no sensor condition: a BLIND raise carries that of the last frame used (R81, assumption log 36). -/
def Part.linkNotice (p : Part) (l : Link) (left entered : LinkState) : Part :=
  if left = .good ∧ entered ≠ .good then
    match l with
    | .pl0 => p.sensorLost .p entered p.poles.p.condition
    | .pl1 => p.sensorLost .n entered p.poles.n.condition
    | .pl2 => p.lineUnknown
    | .tag => p
    | .drive => p
  else p

/-- LINK_DEGRADED; the link is the source instance (R32). -/
def Part.raiseDegraded (p : Part) (l : Link) (entered : LinkState) (cause : Option LinkCause) (run : Nat) : Part :=
  p.raise { kind := .linkDegraded, source := { block := .linkReceivers, inst := linkNumber l },
            items := [.small (linkStateCode entered), .small (linkCauseCode cause), .small run] }

/-- A first edge or character on a SILENT started link (R32). -/
def Part.firstActivity (p : Part) (l : Link) : Part :=
  let r := p.linkRec l
  if r.started ∧ r.state = .silent then
    p.setLink l { r with state := .hunting, goodRun := 0, errorRun := 0, silence := p.silenceTimer l }
  else p

/-- A link's record after an accepted frame (R30, R32). -/
def LinkRec.accept (r : LinkRec) (timer : Timer) : LinkRec :=
  match r.state with
  | .silent => r
  | .good => { r with errorRun := 0, silence := timer }
  | .hunting | .degraded =>
    let n := countUp r.goodRun 4
    { r with goodRun := n, errorRun := 0, silence := timer, state := if n = 4 then .good else r.state }

/-- A link's record after an errored frame (R32, R36). -/
def LinkRec.err (r : LinkRec) (limit : Nat) (cause : LinkCause) : LinkRec :=
  let n := countUp r.errorRun 16
  match r.state with
  | .silent => { r with cause := some cause }
  | .hunting | .degraded => { r with goodRun := 0, errorRun := n, cause := some cause }
  | .good =>
    if limit ≤ n then { r with state := .degraded, goodRun := 0, errorRun := n, cause := some cause }
    else { r with errorRun := n, cause := some cause }

/-- An accepted frame counts toward the link state; a change of state is notified (R32). -/
def Part.frameAccepted (p : Part) (l : Link) : Part :=
  let r := p.linkRec l
  let r' := r.accept (p.silenceTimer l)
  (p.setLink l r').linkNotice l r.state r'.state

/-- An errored frame counts toward the link state (R32). -/
def Part.frameErrored (p : Part) (l : Link) (cause : LinkCause) : Part :=
  let r := p.linkRec l
  let r' := r.err (p.tables.links.get l).errorLimit cause
  let p := (p.setLink l r').linkNotice l r.state r'.state
  if r.state = .good ∧ r'.state = .degraded then p.raiseDegraded l .degraded (some cause) r'.errorRun else p

/-- The SYNC reference of a link is cleared (R32). -/
def Part.clearReference (p : Part) : Link → Part
  | .pl0 => p.setPlRx .pl0 { p.links.pl.pl0 with syncRef := none }
  | .pl1 => p.setPlRx .pl1 { p.links.pl.pl1 with syncRef := none }
  | .pl2 => p.setPlRx .pl2 { p.links.pl.pl2 with syncRef := none }
  | .tag => p
  | .drive => p

/-- Expiry of a link's silence timer (R32). -/
def Part.silenceExpired (p : Part) (l : Link) : Part :=
  let r := p.linkRec l
  if r.state = .silent then p.setLink l { r with silence := .stopped }
  else
    let p := p.setLink l { r with state := .silent, goodRun := 0, errorRun := 0, silence := .stopped }
    let p := (p.clearReference l).linkNotice l r.state .silent
    if r.state = .good then p.raiseDegraded l .silent none r.errorRun else p

/-! ### Pulse-interval frames (R27 to R29) -/

/-- An interval lies in the SYNC window: 36 to 60 nominal units, the unit in µs and the interval in ns (R27). -/
def inWindow (unit interval : Nat) : Bool := decide (36000 * unit ≤ interval) && decide (interval ≤ 60000 * unit)

/-- The successive-sync test fails (R27). -/
def syncDrifts (reference : Option Nat) (interval : Nat) : Bool :=
  match reference with
  | none => false
  | some r => decide (r < 32 * ((interval - r) + (r - interval)))

/-- A receiver that has taken an interval as a SYNC (R27). -/
def PlRx.beginFrame (x : PlRx) (interval : Nat) : PlRx where
  syncRef := some interval
  unit48 := some interval
  frame := some { symbols := [], error := if syncDrifts x.syncRef interval then some .syncDrift else none }

/-- An interval is tried as a SYNC (R27). -/
def Part.trySync (p : Part) (l : PLink) (interval : Nat) : Part :=
  if inWindow (p.tables.links.get (plLink l)).unitOrRate interval then
    p.setPlRx l ((p.links.pl.get l).beginFrame interval)
  else p

/-- The value of a symbol interval, if it is in range: 9.5 to 25.5 units, the unit being a 48th of the SYNC (R28). -/
def symbolValue (sync interval : Nat) : Option Nat :=
  if 19 * sync ≤ 96 * interval ∧ 96 * interval < 51 * sync then some ((96 * interval + sync) / (2 * sync) - 10) else none

/-- An interval above 40 units (R28). -/
def aborts (sync interval : Nat) : Bool := decide (40 * sync < 48 * interval)

/-- A frame in assembly that takes a symbol interval (R28). -/
def PlFrame.take (f : PlFrame) (sync interval : Nat) : PlFrame :=
  match symbolValue sync interval with
  | some v => { f with symbols := f.symbols ++ [v] }
  | none => { symbols := f.symbols ++ [0], error := f.error <|> some .symbolInvalid }

/-- The frame in assembly of a started link, with its SYNC length. -/
def Part.inAssembly (p : Part) (l : PLink) : Option (Nat × PlFrame) :=
  match (p.linkRec (plLink l)).started, (p.links.pl.get l).unit48, (p.links.pl.get l).frame with
  | true, some u, some f => some (u, f)
  | _, _, _ => none

/-- The falling edge of a SYNC while the receiver looks for one (R27). -/
def Part.syncTaken (p : Part) (l : PLink) (interval : Nat) : Part :=
  if (p.linkRec (plLink l)).started ∧ (p.links.pl.get l).frame = none then
    (p.firstActivity (plLink l)).trySync l interval
  else p

/-- A STATUS or DATA interval of the frame in assembly (R28). -/
def Part.symbolTaken (p : Part) (l : PLink) (interval : Nat) : Part :=
  match p.inAssembly l with
  | none => p
  | some (u, f) =>
    if f.symbols.length < 7 ∧ !aborts u interval then
      (p.firstActivity (plLink l)).setPlRx l { p.links.pl.get l with frame := some (f.take u interval) }
    else p

/-! ### Deliveries of pulse-interval frames (R30, R31) -/

/-- The sensor condition of a STATUS symbol (R30). -/
def conditionOf (status : Nat) : SensorCondition :=
  if status = 0 then .normal else if status = 1 then .degraded else .sensorFault

/-- A symbol of a frame. -/
def symbolAt (symbols : List Nat) (i : Nat) : Nat := symbols.getD i 0

/-- The first quantity of a frame (R31). -/
def firstQuantity (s : List Nat) : Nat := quantity (symbolAt s 1) (symbolAt s 2) (symbolAt s 3)

/-- The second quantity of a frame, read as signed (R31). -/
def secondQuantity (s : List Nat) : Int := signed12 (quantity (symbolAt s 4) (symbolAt s 5) (symbolAt s 6))

/-- A pole sensor frame delivered in GOOD (R69). -/
def Part.poleFrame (p : Part) (i : PoleId) (s : List Nat) : Part :=
  let c := conditionOf (symbolAt s 0)
  if c = .sensorFault then p.sensorLost i .good c else p.poleData i c (firstQuantity s) (secondQuantity s)

/-- A converter frame delivered in GOOD (R48); the Pole Monitor then judges what the line's notices changed
(assumption log 14). -/
def Part.converterFrame (p : Part) (s : List Nat) : Part :=
  if conditionOf (symbolAt s 0) = .sensorFault then p.lineUnknown
  else (p.lineData (firstQuantity s) (secondQuantity s)).judgeBoth

/-- An accepted frame is delivered; consumers use frames delivered in GOOD only (R30). -/
def Part.deliverPl (p : Part) (l : PLink) (s : List Nat) : Part :=
  if (p.linkRec (plLink l)).state = .good then
    match l with
    | .pl0 => p.poleFrame .p s
    | .pl1 => p.poleFrame .n s
    | .pl2 => p.converterFrame s
  else p

/-- A frame completes with a CHECK symbol interval (R29). -/
def PlFrame.verdict (f : PlFrame) (sync interval : Nat) : Option LinkCause :=
  match f.error, symbolValue sync interval with
  | some c, _ => some c
  | none, none => some .symbolInvalid
  | none, some v => if plCheck f.symbols = v then none else some .checkError

/-- The closing edge of a CHECK interval (R29, R30). -/
def Part.plComplete (p : Part) (l : PLink) (interval : Nat) : Part :=
  match p.inAssembly l with
  | none => p
  | some (u, f) =>
    if f.symbols.length = 7 ∧ !aborts u interval then
      let p := (p.firstActivity (plLink l)).setPlRx l { p.links.pl.get l with frame := none }
      match f.verdict u interval with
      | none => (p.frameAccepted (plLink l)).deliverPl l f.symbols
      | some c => p.frameErrored (plLink l) c
    else p

/-- An interval above 40 units aborts the frame and is tried as a SYNC (R28). -/
def Part.plAbort (p : Part) (l : PLink) (interval : Nat) : Part :=
  match p.inAssembly l with
  | none => p
  | some (u, f) =>
    if aborts u interval then
      let p := (p.firstActivity (plLink l)).setPlRx l { p.links.pl.get l with frame := none }
      (p.frameErrored (plLink l) (f.error.getD .frameAborted)).trySync l interval
    else p

/-! ### Serial frames (R35, R36) -/

/-- A serial receiver that examines a character as a candidate start byte (R35). -/
def SerialRx.candidate (byte : Byte) (stopOk : Bool) : SerialRx :=
  if stopOk && byte == startByte then .length else .waiting

/-- A length byte that R35 accepts. -/
def goodLength (byte : Byte) : Bool := decide (1 ≤ byte.toNat ∧ byte.toNat ≤ 32)

/-- A frame in assembly that is not yet whole. -/
def SerialRx.assembling : SerialRx → Bool
  | .waiting => false
  | .length => true
  | .body n bytes => decide (bytes.length < n + 2)

/-- A frame in assembly ends errored and the receiver goes on (R35). -/
def Part.serialErrored (p : Part) (l : SLink) (cause : LinkCause) (rx : SerialRx) : Part :=
  (p.setSerialRx l rx).frameErrored (serialLink l) cause

/-- A character of a started receiver (R35). The frame's last check byte is taken here; its completion is a command of
its own (assumption log 19). -/
def Part.takeCharacter (p : Part) (l : SLink) (byte : Byte) (stopOk : Bool) : Part :=
  match p.links.serial.get l with
  | .waiting => p.setSerialRx l (.candidate byte stopOk)
  | .length =>
    if !stopOk then p.serialErrored l .framing .waiting
    else if goodLength byte then p.setSerialRx l (.body byte.toNat [])
    else p.serialErrored l .length .waiting
  | .body n bytes =>
    if n + 2 ≤ bytes.length then p
    else if !stopOk then p.serialErrored l .framing .waiting
    else p.setSerialRx l (.body n (bytes ++ [byte]))

/-- A character on a serial link (R32, R35). -/
def Part.serialChar (p : Part) (l : SLink) (byte : Byte) (stopOk : Bool) : Part :=
  if (p.linkRec (serialLink l)).started then (p.firstActivity (serialLink l)).takeCharacter l byte stopOk else p

/-- What ends a frame in assembly before its check bytes (R35). -/
def Part.serialError (p : Part) (l : SLink) (e : SerialError) : Part :=
  let rx := p.links.serial.get l
  if (p.linkRec (serialLink l)).started ∧ rx.assembling then
    let q := p.firstActivity (serialLink l)
    match e with
    | .framing => q.serialErrored l .framing .waiting
    | .length b => if rx = .length ∧ !goodLength b then q.serialErrored l .length .waiting else p
    | .gap late ok => q.serialErrored l .gap (.candidate late ok)
  else p

/-- An accepted serial frame is delivered whole (R36). -/
def Part.deliverSerial (p : Part) (l : SLink) (payload : List Byte) : Part :=
  let state := (p.linkRec (serialLink l)).state
  match l with
  | .tag => p.tagFrame state payload
  | .drive => p.driveFrame state payload

/-- The frame check of a whole frame agrees (R34, R35). -/
def checkAgrees (n : Nat) (bytes : List Byte) : Bool :=
  serialCheck (BitVec.ofNat 8 n :: bytes.take n) == join16 (byteAt bytes n) (byteAt bytes (n + 1))

/-- A serial frame ends with its check bytes (R35, R36). -/
def Part.serialComplete (p : Part) (l : SLink) : Part :=
  match (p.linkRec (serialLink l)).started, p.links.serial.get l with
  | true, .body n bytes =>
    if bytes.length = n + 2 then
      let p := (p.firstActivity (serialLink l)).setSerialRx l .waiting
      if checkAgrees n bytes then (p.frameAccepted (serialLink l)).deliverSerial l (bytes.take n)
      else p.frameErrored (serialLink l) .check
    else p
  | _, _ => p

/-! ### Starts and stops (R33) -/

/-- Every link started in SILENT (R33); the cause of its last errored frame is none (assumption log 41). -/
def Links.start : Links where
  recs := ⟨{ started := true }, { started := true }, { started := true }, { started := true }, { started := true }⟩
  pl := ⟨{}, {}, {}⟩
  serial := ⟨.waiting, .waiting⟩

/-- Every link stopped in SILENT (R33); the cause of its last errored frame is none (assumption log 41). -/
def Links.stop : Links := {}

end Sys2Proof.Machine
end

