-- ==== Sys2Proof/Machine/Contacts.lean ====
section
/-! DEFINITION. The contact inputs: raw levels, debounce, deliveries by role, cleaning pulses and layover polling
(chapter 2, R38 to R44), and the outputs' supervision on HALT entry and after a load (R45, R46). -/

namespace Sys2Proof.Machine

/-! ### Sensing (R39, R42) -/

/-- An input is sensed: it has a role and the part is not in LAYOVER (R39, R43). -/
def Part.sensed (p : Part) (i : InputNo) : Bool := (p.tables.inputs.get i).role != .none && p.mode != .layover

/-- The raw level that a voltage gives by the sense type: CLOSED near ground for TO_GROUND and near the supply for TO_SUPPLY,
else OPEN (R39). -/
def InputEntry.levelOf (e : InputEntry) (v : PinVoltage) : Level :=
  if v = (if e.toSupply then .nearSupply else .nearGround) then .closed else .opened

/-- A sense current (section 2.7): LOW 2 mA, HIGH 10 mA. -/
inductive SenseCurrent
  | low | high
deriving DecidableEq, Repr

/-- How an input drives its sense current: not at all, all the time, or for 100 µs once in each millisecond (R39). -/
inductive SenseDrive
  | none
  | continuous (current : SenseCurrent)
  | pulsed (current : SenseCurrent)
deriving DecidableEq, Repr

/-- The configured sense current, which a layover sample uses too (section 2.7, R43). -/
def InputEntry.current (e : InputEntry) : SenseCurrent := if e.highCurrent then .high else .low

/-- The configured current and sensing (R39). -/
def InputEntry.drive (e : InputEntry) : SenseDrive := if e.pulsed then .pulsed e.current else .continuous e.current

/-- The sense current of an input as it stands: none while it is not sensed, in LAYOVER between the samples too (R39, R43);
HIGH, continuously, during a cleaning pulse (R41); else as configured. -/
def Part.senseDrive (p : Part) (i : InputNo) : SenseDrive :=
  if !p.sensed i then .none
  else if (p.input i).cleaning.isRunning then .continuous .high
  else (p.tables.inputs.get i).drive

/-- A raw level seen by an input that holds a confirmed state (R40). -/
def InputRec.see (r : InputRec) (l : Level) (timer : Timer) : InputRec :=
  { r with raw := some l, debounce := if l = r.confirmed then .stopped else timer }

/-- A change of a sensed input's raw level; the first level seen is the confirmed state (R40, R42). -/
def Part.rawChange (p : Part) (i : InputNo) (l : Level) : Part :=
  let r := p.input i
  if !p.sensed i then p
  else if r.awaitingFirst then p.setInput i { r with raw := some l, confirmed := l, awaitingFirst := false }
  else if r.raw = some l then p
  else p.setInput i (r.see l (p.startTimer (p.tables.inputs.get i).debounce))

/-- The voltage at an input is sensed (R39, R40, R42). -/
def Part.pinSensed (p : Part) (i : InputNo) (v : PinVoltage) : Part := p.rawChange i ((p.tables.inputs.get i).levelOf v)

/-- A confirmed change is delivered to the owner of the input's role (R38, R185). -/
def Part.deliverContact (p : Part) (i : InputNo) (l : Level) : Part :=
  let e := p.tables.inputs.get i
  match e.role with
  | .polePHoused => p.housedChange .p l
  | .poleNHoused => p.housedChange .n l
  | .polePTrip => p.tripChange .p l
  | .poleNTrip => p.tripChange .n l
  | .doorInterlock => p.doorChange l
  | .auxFeedback => if h : e.aux < 12 then p.feedbackChange ⟨e.aux, h⟩ l else p
  | .wakeRequest => p
  | .none => p

/-- An input's record after its debounce timer expires (R40, R41). -/
def InputRec.confirm (r : InputRec) (cleaning : Timer) : InputRec :=
  { r with confirmed := r.raw.getD r.confirmed, debounce := .stopped, cleaning := cleaning }

/-- Expiry of an input's debounce timer (R40, R41). -/
def Part.debounced (p : Part) (i : InputNo) : Part :=
  let r := p.input i
  let r' := r.confirm (if (p.tables.inputs.get i).cleaningOff then r.cleaning else p.startTimer 20)
  (p.setInput i r').deliverContact i r'.confirmed

/-- The end of a cleaning pulse (R41). -/
def Part.cleaningDone (p : Part) (i : InputNo) : Part := p.setInput i { p.input i with cleaning := .stopped }

/-! ### Layover polling (R43, R44) -/

/-- A wake-enabled input whose sample, taken with its sense type, differs from its reference (R43). -/
def Part.differs (p : Part) (pins : Vector PinVoltage 16) (i : InputNo) : Bool :=
  let e := p.tables.inputs.get i
  e.role != .none && e.wakeEnabled && e.levelOf (pins.get i) != (p.input i).reference

/-- A set of inputs as bits. -/
def inputBits (test : InputNo → Bool) : BitVec 16 := BitVec.ofNat 16 (setCode (allSixteen.map test))

/-- Expiry of the poll timer (R43). -/
def Part.polled (p : Part) (pins : Vector PinVoltage 16) : Part :=
  let second := inputBits (p.differs pins)
  { p with contacts := { p.contacts with
      pollTimer := p.startTimer p.tables.timers.pollInterval, second := second,
      secondTimer := if second = 0 then .stopped else p.startTimer 5 } }

/-- The inputs that give a wake event at the second sample, in number order (R43). -/
def Part.wakes (p : Part) (pins : Vector PinVoltage 16) : List InputNo :=
  allSixteen.filter (fun i => p.contacts.second.getLsbD i.val && p.differs pins i)

/-- One input at LAYOVER entry (R43). -/
def InputRec.toLayover (r : InputRec) (wakeEnabled : Bool) : InputRec :=
  { r with raw := none, debounce := .stopped, cleaning := .stopped,
           reference := if wakeEnabled then r.confirmed else r.reference }

/-- The contact inputs at LAYOVER entry (R43). -/
def Part.contactsEnterLayover (p : Part) : Part :=
  let p := p.forEach allSixteen (fun p i => p.setInput i ((p.input i).toLayover (p.tables.inputs.get i).wakeEnabled))
  { p with contacts := { p.contacts with
      pollTimer := p.startTimer p.tables.timers.pollInterval, second := 0, secondTimer := .stopped } }

/-- The contact inputs on leaving LAYOVER: sensing starts again from the confirmed states (R44). -/
def Part.contactsLeaveLayover (p : Part) : Part :=
  { p with contacts := { p.contacts with pollTimer := .stopped, second := 0, secondTimer := .stopped } }

/-! ### Set-up of inputs (R42) -/

/-- An input that is set up: sensed at once if it has a role; until its first raw level it reads OPEN (assumption
log 15). -/
def InputEntry.setUp (e : InputEntry) : InputRec := { awaitingFirst := e.role != .none }

/-- The inputs after a CONTACT_ROLES load: an input whose entry has changed is set up (R42). -/
def Part.inputsLoaded (p : Part) (old : Vector InputEntry 16) : Part :=
  p.forEach allSixteen (fun p i =>
    if old.get i = p.tables.inputs.get i then p else p.setInput i (p.tables.inputs.get i).setUp)

/-- The inputs after a command reset (R42). -/
def Part.inputsReset (p : Part) : Part :=
  { p with contacts := {} }.forEach allSixteen (fun p i => p.setInput i (p.tables.inputs.get i).setUp)

/-! ### Outputs (R45, R46) -/

/-- An output driven OFF with its supervision started afresh; a role NONE is not supervised (R46). -/
def OutputEntry.fresh (e : OutputEntry) (p : Part) (readback : Bool) : OutputRec :=
  let r : OutputRec := { readback := readback }
  if e.role = .none then r else r.supervise p

/-- One output is driven OFF with its failed flag cleared and its supervision afresh; `old` is the role under which a
mismatch in force is ended (R46, assumption log 16). -/
def Part.freshOutput (p : Part) (old : OutputRole) (o : OutputNo) : Part :=
  let failed := (p.output o).failed
  let p := p.setOutput o ((p.tables.outputs.get o).fresh p (p.output o).readback)
  if failed then p.endFault (mismatchKind old) (outputSource o) else p

/-- Every output is driven OFF on HALT entry (R45, R46). -/
def Part.outputsHalt (p : Part) : Part := p.forEach allSixteen (fun p o => p.freshOutput (p.tables.outputs.get o).role o)

/-- The outputs after an OUTPUT_ROLES load (assumption log 16). -/
def Part.outputsLoaded (p : Part) (old : Vector OutputEntry 16) : Part :=
  p.forEach allSixteen (fun p o => if old.get o = p.tables.outputs.get o then p else p.freshOutput (old.get o).role o)

/-- The outputs after a command reset: OFF, every failed flag clear, supervision afresh; the read-backs are pins (R45,
R46). -/
def Part.outputsReset (p : Part) : Part :=
  p.forEach allSixteen (fun p o => p.setOutput o ((p.tables.outputs.get o).fresh p (p.output o).readback))

end Sys2Proof.Machine
end

