-- ==== Sys2Proof/Machine/Tables.lean ====
section
/-! DEFINITION. The configuration tables: entry layouts and ranges (section 12.5), the checks of a load (R170 to R173),
its application (R174), the check value (R175) and the prerequisites for RUN (R177). -/

namespace Sys2Proof.Machine

/-! ### Table numbers and sizes (section 10.1, section 12.5) -/

/-- The eleven tables in number order. -/
def allTables : List TableId :=
  [.lineLimits, .budget, .poleLimits, .profiles, .watchTable, .auxTable, .contactRoles, .outputRoles,
   .faultReactions, .timers, .linkSettings]

def tableNumber (t : TableId) : Nat := t.ctorIdx

/-- The place of a table's marks. -/
def tableIndex : TableId → Fin 11
  | .lineLimits => 0
  | .budget => 1
  | .poleLimits => 2
  | .profiles => 3
  | .watchTable => 4
  | .auxTable => 5
  | .contactRoles => 6
  | .outputRoles => 7
  | .faultReactions => 8
  | .timers => 9
  | .linkSettings => 10

/-- Entries of a table. -/
def entryCount : TableId → Nat
  | .lineLimits => 1
  | .budget => 1
  | .poleLimits => 2
  | .profiles => 8
  | .watchTable => 12
  | .auxTable => 12
  | .contactRoles => 16
  | .outputRoles => 16
  | .faultReactions => 20
  | .timers => 1
  | .linkSettings => 5

/-- Words of an entry. -/
def entryWords : TableId → Nat
  | .lineLimits => 5
  | .budget => 4
  | .poleLimits => 7
  | .profiles => 9
  | .watchTable => 9
  | .auxTable => 10
  | .contactRoles => 8
  | .outputRoles => 2
  | .faultReactions => 1
  | .timers => 28
  | .linkSettings => 3

/-! ### Field ranges (R172) -/

/-- The ranges of an entry's fields, in the units of section 12.5; LINK_SETTINGS depends on the entry. -/
def fieldRanges (t : TableId) (index : Nat) : List (Nat × Nat) :=
  match t with
  | .lineLimits => [(50, 400), (300, 750), (600, 1000), (0, 50), (10, 200)]
  | .budget => [(0, 10000), (0, 2000), (0, 1000), (200, 800)]
  | .poleLimits => [(0, 800), (400, 2800), (600, 3200), (200, 1600), (5, 200), (1, 8), (0, 1)]
  | .profiles => [(0, 100), (0, 100), (0, 1), (0, 2000), (0, 40), (0, 15), (0, 1), (0, 2), (0, 1)]
  | .watchTable => [(0, 1), (0, 1), (0, 63), (0, 1), (0, 511), (0, 1), (0, 7), (0, 1), (0, 7)]
  | .auxTable =>
    [(0, 1), (0, 2), (0, 2000), (0, 15), (0, 16), (100, 10000), (0, 60), (0, 15), (0, 1), (0, 1)]
  | .contactRoles => [(0, 7), (0, 11), (0, 1), (0, 1), (0, 1), (0, 1), (1, 64), (0, 1)]
  | .outputRoles => [(0, 7), (0, 11)]
  | .faultReactions => [(0, 15)]
  | .timers =>
    [(1, 50), (10, 1000), (5, 200), (10, 200)]
    ++ [(20, 2000), (50, 2000), (100, 10000)]
    ++ [(10, 200), (200, 5000), (2000, 15000), (2000, 15000), (100, 1000), (0, 15), (0, 3)]
    ++ [(16, 1024)]
    ++ [(1, 255), (0, 3), (0, 255), (1, 50)]
    ++ [(5, 50), (3, 20), (0, 1000), (0, 1000), (50, 5000), (500, 20000)]
    ++ [(100, 5000)]
    ++ [(500, 30000), (500, 10000)]
  | .linkSettings =>
    if index < 3 then [(2, 16), (2, 50), (2, 16)] else [(19200, 1000000), (20, 2000), (2, 16)]

/-- Every field lies within its range, field by field (R172). -/
def withinRanges : List (Nat × Nat) → List Nat → Bool
  | [], [] => true
  | (lo, hi) :: rs, v :: vs => decide (lo ≤ v) && decide (v ≤ hi) && withinRanges rs vs
  | [], _ :: _ => false
  | _ :: _, [] => false

/-! ### Tests within an entry (R47, R70, R121, R144) -/

/-- A field of an entry given as numbers. -/
def fieldAt (vs : List Nat) (i : Nat) : Nat := vs.getD i 0

/-- The consistency tests of an entry (R172). -/
def consistent (t : TableId) (v : List Nat) : Bool :=
  match t with
  | .lineLimits =>
    decide (fieldAt v 0 < fieldAt v 1) && decide (fieldAt v 1 + fieldAt v 3 + fieldAt v 3 < fieldAt v 2)
  | .poleLimits =>
    decide (fieldAt v 0 < fieldAt v 1) && decide (fieldAt v 1 < fieldAt v 2) && decide (fieldAt v 2 + 600 ≤ 4095)
  | .profiles => fieldAt v 4 == 0 || decide (5 ≤ fieldAt v 4)
  | .auxTable => fieldAt v 9 == 0 || fieldAt v 1 == 0
  | .budget | .watchTable | .contactRoles | .outputRoles | .faultReactions | .timers | .linkSettings => true

/-- An entry of a card passes the range test and the tests within an entry. -/
def entryPasses (t : TableId) (index : Nat) (v : List Nat) : Bool := withinRanges (fieldRanges t index) v && consistent t v

/-! ### Entries from their words and back (section 12.5) -/

/-- A flag word. -/
def flagOf (n : Nat) : Bool := n == 1

def auxClassOf (n : Nat) : AuxClass := if n = 0 then .essential else if n = 1 then .comfort else .deferrable

def poleActionOf (n : Nat) : PoleAction := if n = 0 then .none else if n = 1 then .lower else .raise

def inputRoleOf : Nat → InputRole
  | 0 => .polePHoused
  | 1 => .poleNHoused
  | 2 => .polePTrip
  | 3 => .poleNTrip
  | 4 => .doorInterlock
  | 5 => .auxFeedback
  | 6 => .wakeRequest
  | _ => .none

def outputRoleOf : Nat → OutputRole
  | 0 => .raiseP
  | 1 => .raiseN
  | 2 => .retrieverP
  | 3 => .retrieverN
  | 4 => .alarmLamp
  | 5 => .alarmBuzzer
  | 6 => .auxRun
  | _ => .none

def lineLimitsOf (v : List Nat) : LineLimits where
  gapThreshold := fieldAt v 0
  lowLimit := fieldAt v 1
  highLimit := fieldAt v 2
  hysteresis := fieldAt v 3
  gapDraw := fieldAt v 4

def LineLimits.fields (e : LineLimits) : List Nat := [e.gapThreshold, e.lowLimit, e.highLimit, e.hysteresis, e.gapDraw]

def budgetOf (v : List Nat) : BudgetEntry where
  lineLimit := fieldAt v 0
  reserve := fieldAt v 1
  regenLimit := fieldAt v 2
  nominal := fieldAt v 3

def BudgetEntry.fields (e : BudgetEntry) : List Nat := [e.lineLimit, e.reserve, e.regenLimit, e.nominal]

def poleLimitsOf (v : List Nat) : PoleLimits where
  housed := fieldAt v 0
  bandLow := fieldAt v 1
  bandHigh := fieldAt v 2
  lateral := fieldAt v 3
  rateLimit := fieldAt v 4
  rateFrames := fieldAt v 5
  mateLowering := flagOf (fieldAt v 6)

def PoleLimits.fields (e : PoleLimits) : List Nat :=
  [e.housed, e.bandLow, e.bandHigh, e.lateral, e.rateLimit, e.rateFrames, flagCode e.mateLowering]

def profileOf (v : List Nat) : Profile where
  tractionCap := fieldAt v 0
  regenCap := fieldAt v 1
  gapExpected := flagOf (fieldAt v 2)
  gapTolerance := fieldAt v 3
  lateralOverride := fieldAt v 4
  bandWidening := fieldAt v 5
  auxHold := flagOf (fieldAt v 6)
  action := poleActionOf (fieldAt v 7)
  reportOnPass := flagOf (fieldAt v 8)

def Profile.fields (e : Profile) : List Nat :=
  [e.tractionCap, e.regenCap, flagCode e.gapExpected, e.gapTolerance, e.lateralOverride, e.bandWidening,
   flagCode e.auxHold, e.action.ctorIdx, flagCode e.reportOnPass]

def watchOf (v : List Nat) : WatchEntry where
  valid := flagOf (fieldAt v 0)
  hold := flagOf (fieldAt v 1)
  line := fieldAt v 2
  lineCare := flagOf (fieldAt v 3)
  place := fieldAt v 4
  placeCare := flagOf (fieldAt v 5)
  feature := fieldAt v 6
  featureCare := flagOf (fieldAt v 7)
  profile := fieldAt v 8

def WatchEntry.fields (e : WatchEntry) : List Nat :=
  [flagCode e.valid, flagCode e.hold, e.line, flagCode e.lineCare, e.place, flagCode e.placeCare, e.feature,
   flagCode e.featureCare, e.profile]

def auxOf (v : List Nat) : AuxEntry where
  valid := flagOf (fieldAt v 0)
  cls := auxClassOf (fieldAt v 1)
  claim := fieldAt v 2
  runOutput := fieldAt v 3
  feedback := fieldAt v 4
  startLimit := fieldAt v 5
  minOff := fieldAt v 6
  priority := fieldAt v 7
  layoverKeep := flagOf (fieldAt v 8)
  standing := flagOf (fieldAt v 9)

def AuxEntry.fields (e : AuxEntry) : List Nat :=
  [flagCode e.valid, auxClassCode e.cls, e.claim, e.runOutput, e.feedback, e.startLimit, e.minOff, e.priority,
   flagCode e.layoverKeep, flagCode e.standing]

def inputOf (v : List Nat) : InputEntry where
  role := inputRoleOf (fieldAt v 0)
  aux := fieldAt v 1
  toSupply := flagOf (fieldAt v 2)
  highCurrent := flagOf (fieldAt v 3)
  pulsed := flagOf (fieldAt v 4)
  cleaningOff := flagOf (fieldAt v 5)
  debounce := fieldAt v 6
  wakeEnabled := flagOf (fieldAt v 7)

def InputEntry.fields (e : InputEntry) : List Nat :=
  [inputRoleCode e.role, e.aux, flagCode e.toSupply, flagCode e.highCurrent, flagCode e.pulsed,
   flagCode e.cleaningOff, e.debounce, flagCode e.wakeEnabled]

def outputOf (v : List Nat) : OutputEntry where
  role := outputRoleOf (fieldAt v 0)
  aux := fieldAt v 1

def OutputEntry.fields (e : OutputEntry) : List Nat := [outputRoleCode e.role, e.aux]

def reactionsOf (v : List Nat) : Reactions where
  lamp := (fieldAt v 0).testBit 0
  buzzer := (fieldAt v 0).testBit 1
  ackRequired := (fieldAt v 0).testBit 2
  escalate := (fieldAt v 0).testBit 3

def timersOf (v : List Nat) : Timers where
  rescanControl := fieldAt v 0
  rescanSetup := fieldAt v 1
  rescanReport := fieldAt v 2
  mirrorInterval := fieldAt v 3
  gapTolerance := fieldAt v 4
  restoreTime := fieldAt v 5
  highPersist := fieldAt v 6
  confirmWindow := fieldAt v 7
  resolutionWindow := fieldAt v 8
  lowerTime := fieldAt v 9
  raiseTime := fieldAt v 10
  settleTime := fieldAt v 11
  raiseSpeed := fieldAt v 12
  raiseRetries := fieldAt v 13
  pollInterval := fieldAt v 14
  pulsesPerMetre := fieldAt v 15
  minQuality := fieldAt v 16
  duplicateDistance := fieldAt v 17
  pointWidth := fieldAt v 18
  controlPeriod := fieldAt v 19
  staleLimit := fieldAt v 20
  motoringLimit := fieldAt v 21
  regenLimit := fieldAt v 22
  rampRate := fieldAt v 23
  inhibitRamp := fieldAt v 24
  stagger := fieldAt v 25
  alertTime := fieldAt v 26
  minOnTime := fieldAt v 27

def Timers.fields (t : Timers) : List Nat :=
  [t.rescanControl, t.rescanSetup, t.rescanReport, t.mirrorInterval, t.gapTolerance, t.restoreTime, t.highPersist]
  ++ [t.confirmWindow, t.resolutionWindow, t.lowerTime, t.raiseTime, t.settleTime, t.raiseSpeed, t.raiseRetries]
  ++ [t.pollInterval, t.pulsesPerMetre, t.minQuality, t.duplicateDistance, t.pointWidth]
  ++ [t.controlPeriod, t.staleLimit, t.motoringLimit, t.regenLimit, t.rampRate, t.inhibitRamp]
  ++ [t.stagger, t.alertTime, t.minOnTime]

def linkOf (v : List Nat) : LinkEntry where
  unitOrRate := fieldAt v 0
  silence := fieldAt v 1
  errorLimit := fieldAt v 2

def LinkEntry.fields (e : LinkEntry) : List Nat := [e.unitOrRate, e.silence, e.errorLimit]

/-- The link of a LINK_SETTINGS entry (section 2.5). -/
def linkOfNumber : Nat → Link
  | 0 => .pl0
  | 1 => .pl1
  | 2 => .pl2
  | 3 => .tag
  | _ => .drive

/-- Replace a member of a table, if the place exists. -/
def setAt {α : Type} {n : Nat} (v : Vector α n) (i : Nat) (x : α) : Vector α n := if h : i < n then v.set i x else v

/-- An entry takes a card's values; the fixed reactions of POLE_DEWIRED and ALARM_OUTPUT are not stored (R160, R174). -/
def Tables.setEntry (t : Tables) (id : TableId) (index : Nat) (v : List Nat) : Tables :=
  match id with
  | .lineLimits => { t with lineLimits := lineLimitsOf v }
  | .budget => { t with budget := budgetOf v }
  | .poleLimits => { t with poleLimits := t.poleLimits.set (if index = 0 then .p else .n) (poleLimitsOf v) }
  | .profiles => { t with profiles := setAt t.profiles index (profileOf v) }
  | .watchTable => { t with watch := setAt t.watch index (watchOf v) }
  | .auxTable => { t with aux := setAt t.aux index (auxOf v) }
  | .contactRoles => { t with inputs := setAt t.inputs index (inputOf v) }
  | .outputRoles => { t with outputs := setAt t.outputs index (outputOf v) }
  | .faultReactions =>
    if index = 0 ∨ index = 14 then t else { t with reactions := setAt t.reactions index (reactionsOf v) }
  | .timers => { t with timers := timersOf v }
  | .linkSettings => { t with links := t.links.set (linkOfNumber index) (linkOf v) }

/-- A table's stored entries in index order, each as its fields (R175). -/
def Tables.entries (t : Tables) : TableId → List (List Nat)
  | .lineLimits => [t.lineLimits.fields]
  | .budget => [t.budget.fields]
  | .poleLimits => [t.poleLimits.p.fields, t.poleLimits.n.fields]
  | .profiles => t.profiles.toList.map (·.fields)
  | .watchTable => t.watch.toList.map (·.fields)
  | .auxTable => t.aux.toList.map (·.fields)
  | .contactRoles => t.inputs.toList.map (·.fields)
  | .outputRoles => t.outputs.toList.map (·.fields)
  | .faultReactions => t.reactions.toList.map (fun r => [reactionsCode r])
  | .timers => [t.timers.fields]
  | .linkSettings => [t.links.pl0.fields, t.links.pl1.fields, t.links.pl2.fields, t.links.tag.fields, t.links.drive.fields]

/-! ### The configuration check value (R175) -/

/-- One word into the check register (R175). -/
def checkStep (r w : Word) : Word := r.rotateLeft 1 + w

/-- The words a loaded table gives (R175). -/
def Tables.checkWords (t : Tables) (id : TableId) : List Word :=
  word (tableNumber id) :: ((t.entries id).flatten.map word)

/-- A table is loaded. -/
def Tables.loaded (t : Tables) (id : TableId) : Bool := (t.marks.get (tableIndex id)).loaded

/-- A table is complete. -/
def Tables.complete (t : Tables) (id : TableId) : Bool := (t.marks.get (tableIndex id)).complete

/-- The configuration check value (R175). -/
def Tables.checkValue (t : Tables) : Word := ((allTables.filter t.loaded).flatMap t.checkWords).foldl checkStep 0

/-! ### Prerequisites for RUN (R177) -/

/-- The seven prerequisite tables, in the order of the missing-tables field (section 12.8). -/
def prerequisites : List TableId :=
  [.lineLimits, .budget, .poleLimits, .contactRoles, .outputRoles, .timers, .linkSettings]

/-- The set of tables missing for RUN (R177). -/
def Tables.missing (t : Tables) : BitVec 7 := BitVec.ofNat 7 (setCode (prerequisites.map (fun id => !t.complete id)))

/-! ### LOAD_TABLE (R170 to R173) -/

/-- The table of a number. -/
def tableOfNumber (n : Nat) : Option TableId := allTables[n]?

/-- The tables that may be changed in HALT only (R170). -/
def haltOnly : TableId → Bool
  | .poleLimits => true
  | .contactRoles => true
  | .outputRoles => true
  | .timers => true
  | .linkSettings => true
  | .lineLimits => false
  | .budget => false
  | .profiles => false
  | .watchTable => false
  | .auxTable => false
  | .faultReactions => false

/-- The tables that are frozen while the line is HIGH (R173). -/
def frozenWhileHigh : TableId → Bool
  | .lineLimits => true
  | .budget => true
  | _ => false

/-- A list cut into pieces of a length; `n` is the number of pieces. -/
def cut (len : Nat) (xs : List Nat) : Nat → List (List Nat)
  | 0 => []
  | n + 1 => xs.take len :: cut len (xs.drop len) n

/-- The load a card carries, once its head has been read. -/
structure Load where
  table : TableId
  first : Nat
  count : Nat
  entries : List (List Nat)
deriving DecidableEq, Repr

/-- Entries with their indexes. -/
def indexed : Nat → List (List Nat) → List (Nat × List Nat)
  | _, [] => []
  | i, v :: vs => (i, v) :: indexed (i + 1) vs

/-- The tables with a load's entries (R172, R174). -/
def Tables.apply (t : Tables) (x : Load) : Tables :=
  (indexed x.first x.entries).foldl (fun t e => t.setEntry x.table e.1 e.2) t

/-- The first entry of a card that fails its own tests (R172). -/
def Load.badEntry (x : Load) : Option Nat :=
  ((indexed x.first x.entries).find? (fun e => !entryPasses x.table e.1 e.2)).map (·.1)

/-- Two inputs clash (R38). -/
def InputEntry.clashes (a b : InputEntry) : Bool :=
  a.role == b.role && a.role != .none && (a.role != .auxFeedback || a.aux == b.aux)

/-- Two outputs clash (R45). -/
def OutputEntry.clashes (a b : OutputEntry) : Bool :=
  a.role == b.role && a.role != .none && (a.role != .auxRun || a.aux == b.aux)

/-- The first member that clashes with an earlier one. -/
def firstClash {α : Type} (clash : α → α → Bool) : List α → List α → Nat → Option Nat
  | _, [], _ => none
  | before, x :: xs, n => if before.any (clash x) then some n else firstClash clash (before ++ [x]) xs (n + 1)

/-- A valid auxiliary's run output holds AUX_RUN with its number, or it is invalid (R144). -/
def Tables.runOutputHeld (t : Tables) (a : AuxNo) : Bool :=
  let e := t.aux.get a
  !e.valid || (if h : e.runOutput < 16 then t.outputs[e.runOutput].holds (.auxRun a) else false)

/-- A valid auxiliary's feedback input is NONE or holds AUX_FEEDBACK with its number, or it is invalid (R144). -/
def Tables.feedbackHeld (t : Tables) (a : AuxNo) : Bool :=
  let e := t.aux.get a
  !e.valid || e.feedback == noFeedback
    || (if h : e.feedback < 16 then
          t.inputs[e.feedback].role == .auxFeedback && t.inputs[e.feedback].aux == a.val
        else false)

/-- The least of some numbers. -/
def leastOf : List Nat → Option Nat
  | [] => none
  | x :: xs => some (xs.foldl min x)

/-- The first entry at fault by the tests across entries and across tables, on the tables as they would stand
(R172; the choice among several is assumption log 20). -/
def Tables.badAcross (t : Tables) : TableId → Option Nat
  | .contactRoles =>
    firstClash InputEntry.clashes [] t.inputs.toList 0
      <|> leastOf ((allAux.filter (fun a => !t.feedbackHeld a)).map (fun a => (t.aux.get a).feedback))
  | .outputRoles =>
    firstClash OutputEntry.clashes [] t.outputs.toList 0
      <|> leastOf ((allAux.filter (fun a => !t.runOutputHeld a)).map (fun a => (t.aux.get a).runOutput))
  | .auxTable => (allAux.find? (fun a => !(t.runOutputHeld a && t.feedbackHeld a))).map (·.val)
  | .lineLimits | .budget | .poleLimits | .profiles | .watchTable | .faultReactions | .timers | .linkSettings => none

/-- An auxiliary that a load may not touch in RUN or LAYOVER (R144). -/
def Part.auxBusy (p : Part) (new : Tables) (a : AuxNo) : Bool :=
  let old := p.auxEntry a
  let e := new.aux.get a
  (old.valid != e.valid || old.runOutput != e.runOutput || old.feedback != e.feedback)
    && (p.auxRec a).state != .off && (p.auxRec a).state != .faulted

/-- The first busy entry of an AUX_TABLE load outside HALT (R171). -/
def Part.busyEntry (p : Part) (x : Load) : Option Nat :=
  if x.table = .auxTable ∧ p.mode ≠ .halt then (allAux.find? (p.auxBusy (p.tables.apply x))).map (·.val) else none

/-- A refusal of a card: its code and its detail. -/
structure CardRefusal where
  code : ResultCode
  detail : Nat := 0
deriving DecidableEq, Repr

/-- The checks of R171 after the table is known, or the load. -/
def Part.checkLoad (p : Part) (t : TableId) (payload : List Nat) : Except CardRefusal Load :=
  let first := fieldAt payload 1
  let count := fieldAt payload 2
  if haltOnly t ∧ p.mode ≠ .halt then .error { code := .notInMode }
  else if frozenWhileHigh t ∧ p.line.state = .high then .error { code := .frozen }
  else if entryCount t < first + count then .error { code := .badIndex }
  else if payload.length ≠ 3 + count * entryWords t then .error { code := .badLength }
  else
    let x : Load := { table := t, first := first, count := count, entries := cut (entryWords t) (payload.drop 3) count }
    match x.badEntry <|> (p.tables.apply x).badAcross t, p.busyEntry x with
    | some i, _ => .error { code := .badValue, detail := i }
    | none, some i => .error { code := .busy, detail := i }
    | none, none => .ok x

/-- The checks of R171 in their order. -/
def Part.readLoad (p : Part) (payload : List Word) : Except CardRefusal Load :=
  let v := payload.map (·.toNat)
  if v.length < 3 then .error { code := .badLength }
  else
    match tableOfNumber (fieldAt v 0) with
    | none => .error { code := .badValue }
    | some t => if fieldAt v 2 = 0 then .error { code := .badValue } else p.checkLoad t v

/-! ### Applying a load (R174) -/

/-- The marks of entries `first` to `first + count − 1`. -/
def markBits (first count : Nat) : BitVec 20 := BitVec.ofNat 20 ((2 ^ count - 1) * 2 ^ first)

/-- A table's marks after a load (R174). -/
def TableMarks.after (m : TableMarks) (x : Load) : TableMarks :=
  let w := m.written ||| markBits x.first x.count
  { written := w, loaded := true, complete := m.complete || w == markBits 0 (entryCount x.table) }

/-- Steps 1 to 4 and 6 of R174: entries, marks, flags and the check value. -/
def Tables.store (t : Tables) (x : Load) : Tables :=
  let t := t.apply x
  let i := tableIndex x.table
  let t := { t with marks := t.marks.set i ((t.marks.get i).after x) }
  { t with check := t.checkValue }

/-- A PROFILES load rewrites a profile that an active zone uses (R121). -/
def Zones.uses (z : Zones) (x : Load) : Bool :=
  z.active.any (fun a => decide (x.first ≤ a.profile) && decide (a.profile < x.first + x.count))

/-- The owning block takes the new entries (R174 step 5); `old` is the record before the load. -/
def Part.ownerTakes (p : Part) (old : Tables) (x : Load) : Part :=
  match x.table with
  | .lineLimits | .budget => p.recompute
  | .profiles => if p.zones.uses x then p.recomputeProfile else p
  | .auxTable => p.auxTableLoaded
  | .contactRoles => p.inputsLoaded old.inputs
  | .outputRoles => p.outputsLoaded old.outputs
  | .faultReactions => p.evalAlarms
  | .timers =>
    if old.timers.pulsesPerMetre = p.tables.timers.pulsesPerMetre then p
    else { p with zones := { p.zones with residue := 0 } }
  | .poleLimits | .watchTable | .linkSettings => p

/-- A load that has passed its checks is applied (R174). -/
def Part.load (p : Part) (x : Load) : Part := { p with tables := p.tables.store x }.ownerTakes p.tables x

end Sys2Proof.Machine
end

