-- ==== Sys2Proof/Machine/Modes.lean ====
section
/-! DEFINITION. Mode changes and resets, whole (chapter 11), and the register commands (R2, R9, R12, R25, R26, R180,
R182). The orders that no rule gives are those of assumption log 12. -/

namespace Sys2Proof.Machine

/-! ### Parts of a mode change -/

/-- The attention reason MODE_CHANGE is set (R179). -/
def Part.noteModeChange (p : Part) : Part :=
  { p with mbx := { p.mbx with attention := { p.mbx.attention with modeChange := true } } }

/-- A report of the mode logic. -/
def Part.modeReport (p : Part) (kind : ReportKind) (tag : Word) (items : List Item) : Part :=
  p.report kind .info .modeLogic 0 tag items

/-- A change of mode ends: its report, the attention reason and its mirror write (R179, R18). -/
def Part.endModeChange (p : Part) (kind : ReportKind) (tag : Word) (items : List Item) : Part :=
  (p.modeReport kind tag items).noteModeChange.mirrorStart

/-- The mirror interval timer starts from zero (R18). -/
def Part.restartMirror (p : Part) : Part :=
  { p with mbx := { p.mbx with mirror := { p.mbx.mirror with timer := p.startTimer p.tables.timers.mirrorInterval } } }

/-- Each PARKED chain makes one rescan read, on leaving LAYOVER for RUN (R13, R184), placed in the order of R15 (assumption
log 9). -/
def Part.rescanChains (p : Part) : Part :=
  { p with mbx := ((p.mbx.rescanParked .control).rescanParked .report).rescanParked .setup }

/-- A chain's rescan timer stops (R13). -/
def ChainRec.stopTimer (r : ChainRec) : ChainRec := { r with rescanTimer := .stopped }

/-- The Mailbox Port at LAYOVER entry: rescan timers and the mirror interval timer stop (R13, R18). -/
def Part.portEntersLayover (p : Part) : Part :=
  let c := p.mbx.chains
  { p with mbx := { p.mbx with
      chains := ⟨c.control.stopTimer, c.setup.stopTimer, c.report.stopTimer⟩,
      mirror := { p.mbx.mirror with timer := .stopped } } }

/-! ### Entering RUN from HALT (R71, R181) -/

/-- A pole at RUN entry from HALT: UNTRACKED with its resolving flag SET (R71, R94). The start times and the last sensor
condition, which have no row there, are kept (assumption log 41). -/
def Pole.resolve (q : Pole) (timer : Timer) : Pole :=
  { q with state := .untracked, resolving := true, resolveTag := 0, indicators := {}, seen := {}, gapSpent := false,
           blind := false, resolutionTimer := timer, retryPending := false, raiseTimer := .stopped,
           settleTimer := .stopped }.linkReset

/-- The Line Supervisor's copy and the mode logic's record of the pole states, UNTRACKED in HALT and at RUN entry from it
(R54, R60, R71, R185). -/
def Part.untrackCopies (p : Part) : Part :=
  { p with line := { p.line with poleCopy := ⟨.untracked, .untracked⟩ }, keptPoles := ⟨.untracked, .untracked⟩ }

/-- The Pole Monitor at RUN entry from HALT (R71, R91). -/
def Part.polesEnterRun (p : Part) : Part :=
  let t := p.startTimer p.tables.timers.resolutionWindow
  { p.untrackCopies with poles := ⟨p.poles.p.resolve t, p.poles.n.resolve t⟩ }.updateClaims

/-- Entry to RUN from HALT (R181). -/
def Part.enterRun (p : Part) : Part :=
  let p := { p with mode := .run, links := .start }.lineUnknown
  let p := (p.polesEnterRun.governorEntersRun.withdraw .mode).auxEntersRun.evalAlarms
  let p := p.modeReport .runEntered 0 [.small (resetKindCode p.lastReset)]
  { p with lastReset := .none }.noteModeChange.mirrorStart

/-! ### Entering HALT (R92, R182) -/

/-- The end notices of a pole's conditions in force (R91, R92). -/
def Part.endPoleFaults (p : Part) (i : PoleId) : Part :=
  let q := p.poles.get i
  let p := if q.state = .dewired then p.endFault .poleDewired (poleSource i .none) else p
  let p := if q.blind then p.endFault .poleSensor (poleSource i .blind) else p
  match q.fault with
  | some .unresolved => p.endFault .poleSensor (poleSource i .unresolved)
  | some .poleStuck => p.endFault .poleStuck (poleSource i .none)
  | none => p

/-- The report of a raise or lowering in hand at HALT entry (R107). -/
def Part.abandonAtHalt (p : Part) (i : PoleId) : Part :=
  let q := p.poles.get i
  match q.state with
  | .raising =>
    p.poleReport .raiseAbandoned .warning i q.requestTag (q.abandonItems .halt false)
  | .lowering =>
    p.poleReport .lowerAbandoned .warning i q.requestTag
      [.small (loweringCode q.lowering), bigNat (p.since q.lowerStart)]
  | .untracked | .housed | .onWire | .suspect | .dewired | .faulted => p

/-- A pole's record after HALT entry: the angles and the latch are kept (R92 to R94). That the last sensor condition and the
start times of the raise and of the lowering are kept too is the model's choice: the tables have no row for them (assumption
log 41). -/
def Pole.halted (q : Pole) : Pole where
  elevation := q.elevation
  lateral := q.lateral
  frameTime := q.frameTime
  condition := q.condition
  latch := q.latch
  latchAck := q.latchAck
  startTime := q.startTime
  lowerStart := q.lowerStart

/-- The Pole Monitor at HALT entry (R92, R107). -/
def Part.polesEnterHalt (p : Part) : Part :=
  let p := (p.abandonAtHalt .p).abandonAtHalt .n
  let p := (p.endPoleFaults .p).endPoleFaults .n
  { p.untrackCopies with poles := ⟨p.poles.p.halted, p.poles.n.halted⟩ }.updateClaims

/-- The Line Supervisor's record at HALT entry: the battery limits are kept, the rest cleared (R60, R65, R66, R68). That the time
of the entry to HIGH is kept is the model's choice (assumption log 41). -/
def Line.halted (l : Line) (t : Tables) : Line := { battery := l.battery, highEntry := l.highEntry : Line }.recompute t

/-- The Line Supervisor at HALT entry, without notices (R60). -/
def Part.lineEntersHalt (p : Part) : Part :=
  let old := p.line.state
  let p := { p with line := p.line.halted p.tables }
  let p := if old = .high then p.endFault .lineHigh lineSource else p
  if old = .lost then p.endFault .lineLost lineSource else p

/-- The Fault Collector at HALT entry: hold-until times and fallbacks are cleared (R165, R169). -/
def Collector.halted (c : Collector) : Collector :=
  { c with lampHold := .stopped, buzzerHold := .stopped, lampFallback := false, buzzerFallback := false }

/-- What leaving LAYOVER brings whatever mode follows: sensing and the mirror interval (R18, R44). -/
def Part.endLayover (p : Part) : Part := p.contactsLeaveLayover.restartMirror

/-- Entry to HALT from RUN or LAYOVER (R182). The chain records stay as they are (R5, assumption log 32). -/
def Part.enterHalt (p : Part) : Part :=
  let old := p.mode
  let p := ({ p with mode := .halt }.claim .mode).governorLeavesRun
  let p := { p with links := .stop }
  let p := p.polesEnterHalt.lineEntersHalt
  let p := { p with zones := p.zones.halted }.auxEntersHalt
  let p := { p with faults := p.faults.halted }.outputsHalt.evalAlarms
  let p := if old = .layover then p.endLayover else p
  p.endModeChange .haltEntered 0 [.small (modeCode old)]

/-! ### Entering and leaving LAYOVER (R183, R184) -/

/-- A pole's record at LAYOVER entry (R92 to R94). The start times of the raise and of the lowering, for which R94 has no row,
are kept, since R92 keeps the rest of the records (assumption log 41). -/
def Pole.toLayover (q : Pole) : Pole :=
  { q with holdTimer := .stopped, origin := .none, abandon := .none, lowering := .none, requestTag := 0, zoneId := none,
           retryCount := 0, retryPending := false, raiseTimer := .stopped, settleTimer := .stopped,
           confirmTimer := .stopped, resolutionTimer := .stopped, lowerTimer := .stopped }.linkReset

/-- The Pole Monitor at LAYOVER entry (R92). -/
def Part.polesEnterLayover (p : Part) : Part :=
  let p := (p.drive (.retriever .p) false).drive (.retriever .n) false
  { p with poles := ⟨p.poles.p.toLayover, p.poles.n.toLayover⟩ }

/-- The Line Supervisor at LAYOVER entry, after the layover set (R57, R60). -/
def Part.lineEntersLayover (p : Part) : Part :=
  let p := p.lineUnknown
  { p with line := { p.line with gap := {} } }

/-- Entry to LAYOVER from RUN (R183). -/
def Part.enterLayover (p : Part) (tag : Word) : Part :=
  let p := ({ p with mode := .layover }.claim .mode).governorLeavesRun
  let p := { p with links := .stop }.contactsEnterLayover
  (p.polesEnterLayover.auxEntersLayover.lineEntersLayover.portEntersLayover).endModeChange .layoverEntered tag []

/-- Wake causes, coded in this order (R184). -/
inductive WakeCause
  | card | command | input | unhoused
deriving DecidableEq, Repr

/-- A pole at RUN entry from LAYOVER: HOUSED without resolution (R71, R93, R94). -/
def Pole.wake (q : Pole) : Pole := { q with retryPending := false }.linkReset

/-- Leaving LAYOVER for RUN (R184). -/
def Part.leaveLayover (p : Part) (cause : WakeCause) (tag : Word) (extra : List Item) : Part :=
  let p := { p with mode := .run, links := .start }.lineUnknown
  let p := { p with poles := ⟨p.poles.p.wake, p.poles.n.wake⟩ }
  let p := (p.governorEntersRun.withdraw .mode).auxLeavesLayover.endLayover.rescanChains
  p.endModeChange .wake tag (.small cause.ctorIdx :: extra)

/-- A wake event; outside LAYOVER it is ignored (R184). -/
def Part.wakeEvent (p : Part) (i : InputNo) : Part :=
  if p.mode = .layover then
    let role := (p.tables.inputs.get i).role
    let cause : WakeCause := if role = .polePHoused ∨ role = .poleNHoused then .unhoused else .input
    p.leaveLayover cause 0 [.small i.val, .small (inputRoleCode role)]
  else p

/-- The second samples of a poll (R43). -/
def Part.secondSampled (p : Part) (pins : Vector PinVoltage 16) : Part :=
  let events := p.wakes pins
  { p with contacts := { p.contacts with second := 0, secondTimer := .stopped } }.forEach events Part.wakeEvent

/-! ### Resets (R178) -/

/-- A power-on reset: everything takes its power-on value; the read-backs are pins and keep their levels (assumption
log 5). -/
def Part.powerOn (p : Part) : Part :=
  { freeUses := p.freeUses : Part }.forEach allSixteen (fun q o => q.setOutput o { readback := (p.output o).readback })

/-- The Mailbox Port after a command reset, before its chains read their anchors (R5, R14, R19, R21, R25, R26). -/
def Mailbox.reset (m : Mailbox) (t : Timers) : Mailbox where
  base := m.base
  outcome := .accepted
  mirror := { timer := timerFrom 0 t.mirrorInterval }

/-- Every chain reads its anchor (R5), placed in the order of R15 (assumption log 9). -/
def Mailbox.readAnchors (m : Mailbox) : Mailbox := ((m.readAnchor .control).readAnchor .report).readAnchor .setup

/-- A command reset (R178): the base, the tables and the pins are kept; one cut frame follows (R128). -/
def Part.commandReset (p : Part) : Part :=
  let q : Part := {
    lastReset := .command, mbx := (p.mbx.reset p.tables.timers).readAnchors, tables := p.tables, outputs := p.outputs,
    line := ({} : Line).recompute p.tables, freeUses := p.freeUses }
  q.inputsReset.outputsReset.cutFrame

/-! ### Register commands -/

/-- The last command outcome is replaced; the set of missing tables is empty but after a refused RUN (R25). -/
def Part.outcome (p : Part) (o : CommandOutcome) : Part := { p with mbx := { p.mbx with outcome := o, missing := 0 } }

/-- A RUN command that is ignored shows the missing tables (R25, R177). -/
def Part.refuseRun (p : Part) (o : CommandOutcome) : Part :=
  { p with mbx := { p.mbx with outcome := o, missing := p.tables.missing } }

/-- A RUN command (R180). -/
def Part.runCommand (p : Part) : Part :=
  match p.mode with
  | .halt =>
    if p.mbx.base.isNone then p.refuseRun .baseNotSet
    else if p.tables.missing ≠ 0 then p.refuseRun .tablesMissing
    else (p.outcome .accepted).enterRun
  | .layover => (p.outcome .accepted).leaveLayover .command 0 []
  | .run => p.refuseRun .alreadyInRun

/-- A HALT command (R182). -/
def Part.haltCommand (p : Part) : Part :=
  if p.mode = .halt then p.outcome .accepted else (p.outcome .accepted).enterHalt

/-- A value that MAILBOX BASE takes (R2). -/
def validBase (v : Word) : Bool := v.toNat % 4096 == 0 && decide (v.toNat ≤ 0xFFF00000)

/-- A chain ordered to rewind: PARKED or BROKEN reads its anchor, WALKING notes it (R2, R12). -/
def Mailbox.rewind (m : Mailbox) (c : Chain) : Mailbox :=
  let r := m.chains.get c
  if r.state = .walking then m.setChain c { r with rewindPending := true } else m.readAnchor c

/-- A write to MAILBOX BASE (R2); the chains place their reads in the order of R15 (assumption log 9). -/
def Part.writeBase (p : Part) (v : Word) : Part :=
  if p.mode ≠ .halt then p.outcome .notInHalt
  else if !validBase v then p.outcome .badBase
  else
    let p := p.outcome .accepted
    { p with mbx := (({ p.mbx with base := some v }.rewind .control).rewind .report).rewind .setup }

/-- A WAKE that names a chain (R9). -/
def Mailbox.wake (m : Mailbox) (c : Chain) : Mailbox :=
  let r := m.chains.get c
  match r.state with
  | .parked => m.startRescan c
  | .walking => m.setChain c { r with rescanPending := true }
  | .broken => m

/-- A WAKE for a chain, if its bit is set. -/
def Mailbox.wakeIf (m : Mailbox) (named : Bool) (c : Chain) : Mailbox := if named then m.wake c else m

/-- A WAKE command (R9, R25). The order in which the chains of one command place their reads on an idle port is not given: that
of R15 (assumption log 9). -/
def Part.wakeCommand (p : Part) (mask : Byte) : Part :=
  if 8 ≤ mask.toNat then p.outcome .badCommand
  else if p.mbx.base.isNone then p.outcome .baseNotSet
  else
    let p := p.outcome .accepted
    { p with mbx := ((p.mbx.wakeIf (mask.getLsbD 0) .control).wakeIf (mask.getLsbD 2) .report).wakeIf (mask.getLsbD 1) .setup }

/-- A REWIND command (R12, R25). -/
def Part.rewindCommand (p : Part) (n : Byte) : Part :=
  match chainOfNumber n.toNat with
  | none => p.outcome .badCommand
  | some c =>
    if p.mbx.base.isNone then p.outcome .baseNotSet
    else
      let p := p.outcome .accepted
      { p with mbx := p.mbx.rewind c }

/-- An ACK_ATTENTION command (R25, R26). -/
def Part.ackCommand (p : Part) (mask : Byte) : Part :=
  if 32 ≤ mask.toNat then p.outcome .badCommand
  else
    let p := p.outcome .accepted
    { p with mbx := { p.mbx with attention := p.mbx.attention.ack mask } }

/-- A COMMAND write that names no command (R25); a word that names one is not this command (assumption log 7). -/
def Part.badCommand (p : Part) (w : Word) : Part := if badCommandWord w then p.outcome .badCommand else p

end Sys2Proof.Machine
end

