-- ==== Sys2Proof/Machine/Cards.lean ====
section
/-! DEFINITION. The sixteen card kinds: what each owner decides and does (R66, R73, R96, R103, R113, R126, R140, R145,
R163, R164, R167, R168, R171, R176, R183, R184). -/

namespace Sys2Proof.Machine

/-- What an owner answers: a result, a detail and the data it returns into the payload (R3, R6). -/
structure Verdict where
  result : ResultCode
  detail : Word := 0
  data : List Word := []
deriving DecidableEq, Repr

/-- A card as it is handed to its owner: its payload and its host tag (R6). -/
structure Request where
  payload : List Word
  tag : Word
deriving DecidableEq, Repr

/-- A payload word as a number. -/
def Request.at (r : Request) (i : Nat) : Nat := (r.payload.getD i 0).toNat

/-- An owner accepts: DONE with result OK and a detail (R3). -/
def done (p : Part) (detail : Nat) : Part × Verdict := (p, { result := .ok, detail := word detail })

/-- An owner refuses: nothing is changed. -/
def refuse (p : Part) (code : ResultCode) (detail : Nat := 0) : Part × Verdict :=
  (p, { result := code, detail := word detail })

/-! ### Auxiliary Scheduler, Line Supervisor, Traction Governor -/

/-- The request of an accepted AUX_REQUEST (R145). -/
def Part.auxRequested (p : Part) (a : AuxNo) (on : Bool) : Part := if on then p.requestOn a else p.requestOff a

/-- AUX_REQUEST (R145). -/
def Part.cardAuxRequest (p : Part) (r : Request) : Part × Verdict :=
  if r.payload.length ≠ 2 then refuse p .badLength
  else if h : r.at 0 < 12 then
    let a : AuxNo := ⟨r.at 0, h⟩
    if 1 < r.at 1 then refuse p .badValue
    else if !(p.auxEntry a).valid then refuse p .precondition
    else if r.at 1 = 1 ∧ (p.auxRec a).state = .faulted then refuse p .busy
    else
      let p := p.auxRequested a (r.at 1 == 1)
      done p (auxStateCode (p.auxRec a).state)
  else refuse p .badIndex

/-- BATTERY_LIMITS (R66). -/
def Part.cardBatteryLimits (p : Part) (r : Request) : Part × Verdict :=
  if r.payload.length ≠ 3 then refuse p .badLength
  else if 1 < r.at 0 ∨ 5000 < r.at 1 ∨ 5000 < r.at 2 then refuse p .badValue
  else
    let b : BatteryLimits := { available := r.at 0 == 1, discharge := r.at 1, charge := r.at 2 }
    let p := { p with line := { p.line with battery := b } }.recompute
    done p p.line.budget.available

/-- CARD_INHIBIT (R140). -/
def Part.cardInhibit (p : Part) (r : Request) : Part × Verdict :=
  if r.payload.length ≠ 1 then refuse p .badLength
  else if 1 < r.at 0 then refuse p .badValue
  else
    let set := r.at 0 == 1
    done (if set then p.claim .cardInhibit else p.withdraw .cardInhibit)
      (flagCode (p.gov.inhibit.cardInhibit != set))

/-! ### Pole Monitor -/

/-- The poles of a pole set (R96). -/
def poleSet (n : Nat) : List PoleId :=
  if n = 1 then [.p] else if n = 2 then [.n] else [.p, .n]

/-- The detail of a RAISE_POLES refused PRECONDITION (section 12.4). -/
def preconditionDetail (x : Precondition) : Nat := x.code + 256 * x.poleCode

/-- RAISE_POLES (R96). -/
def Part.cardRaisePoles (p : Part) (r : Request) : Part × Verdict :=
  if r.payload.length ≠ 1 then refuse p .badLength
  else if r.at 0 = 0 ∨ 3 < r.at 0 then refuse p .badValue
  else
    match p.raiseBarred (poleSet (r.at 0)) with
    | some x => refuse p .precondition (preconditionDetail x)
    | none => done (p.raisePoles (poleSet (r.at 0)) .card r.tag none) (r.at 0)

/-- The outcome of LOWER_POLES for one named pole (R103, section 12.4). -/
def Pole.lowerOutcome (q : Pole) : Nat :=
  match q.state with
  | .onWire | .suspect => 1
  | .raising => 2
  | .lowering => 3
  | .dewired => 4
  | .housed => if q.retryPending then 5 else 6
  | .untracked | .faulted => 0

/-- LOWER_POLES for one named pole (R103). -/
def Part.lowerNamed (p : Part) (i : PoleId) (tag : Word) : Part × List PoleNotice :=
  let q := p.poles.get i
  match q.state with
  | .onWire | .suspect => p.lower i .request tag none
  | .raising => p.abandonRaise i .lowerRequest (some tag)
  | .housed =>
    (if q.retryPending then p.setPole i { q with retryPending := false, origin := .none, retryCount := 0 } else p, [])
  | .untracked | .dewired | .lowering | .faulted => (p, [])

/-- The named poles are lowered in one event (R103, R104). The spec gives no order of the two poles: P first (assumption
log 36). -/
def Part.lowerAll (p : Part) (poles : List PoleId) (tag : Word) : Part :=
  let (p, ns) := poles.foldl (fun (acc : Part × List PoleNotice) i =>
    let (p, n) := acc.1.lowerNamed i tag
    (p, acc.2 ++ n)) (p, [])
  p.closePoles ns

/-- A pole that LOWER_POLES may not name (R103). -/
def Pole.barsLowering (q : Pole) : Bool := q.state == .faulted || q.state == .untracked

/-- The outcome code of a pole, 0 where it is not named (section 12.4). -/
def Part.outcomeOf (p : Part) (poles : List PoleId) (i : PoleId) : Nat :=
  if poles.contains i then (p.poles.get i).lowerOutcome else 0

/-- LOWER_POLES (R103). -/
def Part.cardLowerPoles (p : Part) (r : Request) : Part × Verdict :=
  let poles := poleSet (r.at 0)
  if r.payload.length ≠ 1 then refuse p .badLength
  else if r.at 0 = 0 ∨ 3 < r.at 0 then refuse p .badValue
  else if poles.any (fun i => (p.poles.get i).barsLowering) then refuse p .busy
  else done (p.lowerAll poles r.tag) (p.outcomeOf poles .p + 256 * p.outcomeOf poles .n)

/-- The fault condition that held a pole FAULTED ends (R91). -/
def Part.endPoleFault (p : Part) (i : PoleId) : Part :=
  match (p.poles.get i).fault with
  | some .unresolved => p.endFault .poleSensor (poleSource i .unresolved)
  | some .poleStuck => p.endFault .poleStuck (poleSource i .none)
  | none => p

/-- A FAULTED pole is cleared: UNTRACKED and resolving (R73). A report in this event carries the card's tag (R6). -/
def Part.clearPole (p : Part) (i : PoleId) (tag : Word) : Part :=
  let p := p.endPoleFault i
  let p := p.modPole i (fun q => { q with
    state := .untracked, blind := false, resolving := true, resolveTag := tag, fault := none, indicators := {}, seen := {},
    resolutionTimer := p.startTimer p.tables.timers.resolutionWindow }.restartRate)
  let p := p.sendNotices [{ pole := i, entered := .untracked }]
  (if (p.poles.get i).sensorAvailable then p.tryResolve i tag else p).updateClaims

/-- CLEAR_POLE (R73). -/
def Part.cardClearPole (p : Part) (r : Request) : Part × Verdict :=
  let i : PoleId := if r.at 0 = 0 then .p else .n
  if r.payload.length ≠ 1 then refuse p .badLength
  else if 1 < r.at 0 then refuse p .badValue
  else if (p.poles.get i).state ≠ .faulted then refuse p .busy
  else done (p.clearPole i r.tag) 0

/-! ### Fault Collector -/

/-- How many records are unacknowledged. -/
def Collector.unackCount (c : Collector) : Nat := (allKinds.filter (fun k => (c.get k).unack)).length

/-- Every unacknowledged flag and both fallbacks clear (R163 steps 1 and 2). -/
def Collector.acknowledge (c : Collector) : Collector :=
  { allKinds.foldl (fun c k => c.set k { c.get k with unack := false }) c with
    lampFallback := false, buzzerFallback := false }

/-- An acknowledgement (R163). -/
def Part.acknowledge (p : Part) (tag : Word) : Part :=
  let p := { p with faults := p.faults.acknowledge }
  let p := if p.faults.state = .alert then p.moveCollector .normal .ack none tag else p
  p.ackPoles.evalAlarms

/-- ACK_FAULTS (R163). -/
def Part.cardAckFaults (p : Part) (r : Request) : Part × Verdict :=
  if r.payload.length ≠ 0 then refuse p .badLength else done (p.acknowledge r.tag) p.faults.unackCount

/-- A kind that stands in the way of CLEAR_FAULT_STATE (R164). -/
def Part.standsInWay (p : Part) (k : FaultKind) : Bool :=
  (p.faults.get k).unack || ((p.reactions k).escalate && (p.faults.get k).inForce)

/-- CLEAR_FAULT_STATE (R164). -/
def Part.cardClearFaultState (p : Part) (r : Request) : Part × Verdict :=
  if r.payload.length ≠ 0 then refuse p .badLength
  else if p.faults.state ≠ .fault then done p (collectorCode p.faults.state)
  else
    match allKinds.find? p.standsInWay with
    | some k => refuse p .stillActive (kindNumber k)
    | none => done (p.moveCollector .normal .clear none r.tag) (collectorCode .normal)

/-- INJECT_TEST (R167). -/
def Part.cardInjectTest (p : Part) (r : Request) : Part × Verdict :=
  if r.payload.length ≠ 1 then refuse p .badLength
  else
    match kindOfNumber (r.at 0) with
    | none => refuse p .badValue
    | some k => if (p.faults.get k).inForce then refuse p .busy else done (p.injectTest k r.tag) (r.at 0)

/-- The five words of a kind in READ_FAULT_TABLE (section 12.4). -/
def Part.kindWords (p : Part) (k : FaultKind) : List Word :=
  let f := p.faults.get k
  [word (flagCode f.active + 2 * flagCode f.test + 4 * flagCode f.unack + 16 * reactionsCode (p.reactions k)
      + 65536 * f.count),
   f.first, f.last, if f.count = 0 then 0 else sourceWord f.lastSource.block f.lastSource.inst, f.lastDetail]

/-- Word 0 of READ_FAULT_TABLE (section 12.4). -/
def Part.collectorWord (p : Part) : Word :=
  word (collectorCode p.faults.state + 4 * flagCode p.faults.alertTimer.isRunning + 8 * flagCode p.faults.lampFallback
    + 16 * flagCode p.faults.buzzerFallback + 32 * flagCode (p.roleFailed .lamp) + 64 * flagCode (p.roleFailed .buzzer))

/-- The fault table as READ_FAULT_TABLE returns it: 101 words (R168). -/
def Part.faultTable (p : Part) : List Word := p.collectorWord :: allKinds.flatMap p.kindWords

/-- READ_FAULT_TABLE (R168). -/
def Part.cardReadFaultTable (p : Part) (r : Request) : Part × Verdict :=
  if r.payload.length < 101 then refuse p .badLength
  else
    (p, { result := .ok, detail := word (allKinds.filter (fun k => (p.faults.get k).active)).length,
          data := p.faultTable })

/-! ### Zone Matcher -/

/-- The sixteen words of the seen map (section 12.4). -/
def seenWords (m : BitVec 512) : List Word := allSixteen.map (fun w => m.extractLsb' (32 * w.val) 32)

/-- Marks in the first `n` places of the seen map. -/
def markCount (m : BitVec 512) : Nat → Nat
  | 0 => 0
  | n + 1 => flagCode (m.getLsbD n) + markCount m n

/-- COPY_SEEN_MAP (R113). -/
def Part.cardCopySeenMap (p : Part) (r : Request) : Part × Verdict :=
  if r.payload.length < 16 then refuse p .badLength
  else if 1 < r.at 0 then refuse p .badValue
  else
    let m := p.zones.seen
    ({ p with zones := { p.zones with seen := if r.at 0 = 1 then 0 else m } },
     { result := .ok, detail := word (markCount m 512), data := seenWords m })

/-- CLEAR_ZONES (R126). -/
def Part.cardClearZones (p : Part) (r : Request) : Part × Verdict :=
  if r.payload.length ≠ 0 then refuse p .badLength
  else done (p.clearZones r.tag) (p.zones.pendingZones.length + p.zones.active.length)

/-! ### Mode logic -/

/-- The preconditions of ENTER_LAYOVER, coded in this order (R183). -/
inductive LayoverPrecondition
  | poleP | poleN | moving | setpoint
deriving DecidableEq, Repr

/-- The first precondition of ENTER_LAYOVER that fails (R183). -/
def Part.layoverBarred (p : Part) : Option LayoverPrecondition :=
  if p.keptPoles.p ≠ .housed then some .poleP
  else if p.keptPoles.n ≠ .housed then some .poleN
  else if !p.zones.stationary then some .moving
  else if p.gov.setpoint ≠ 0 then some .setpoint
  else none

/-- ENTER_LAYOVER (R183). -/
def Part.cardEnterLayover (p : Part) (r : Request) : Part × Verdict :=
  if r.payload.length ≠ 0 then refuse p .badLength
  else if p.mode ≠ .run then refuse p .notInMode
  else
    match p.layoverBarred with
    | some x => refuse p .precondition x.ctorIdx
    | none => done (p.enterLayover r.tag) 0

/-- EXIT_LAYOVER (R184). -/
def Part.cardExitLayover (p : Part) (r : Request) : Part × Verdict :=
  if r.payload.length ≠ 0 then refuse p .badLength
  else if p.mode ≠ .layover then refuse p .notInMode
  else done (p.leaveLayover .card r.tag []) 0

/-! ### Configuration tables -/

/-- LOAD_TABLE (R171, R174). -/
def Part.cardLoadTable (p : Part) (r : Request) : Part × Verdict :=
  match p.readLoad r.payload with
  | .error e => refuse p e.code e.detail
  | .ok x =>
    let p := p.load x
    (p, { result := .ok, detail := p.tables.check })

/-- CONFIG_MISMATCH (R176). -/
def Part.raiseMismatch (p : Part) (expected : Word) (tag : Word) : Part :=
  p.raise { kind := .configMismatch, source := { block := .configurationTables }, tag := tag,
            items := [.large expected, .large p.tables.check, bigNat p.tables.loadedCode] }

/-- VERIFY_CONFIG (R176). -/
def Part.cardVerifyConfig (p : Part) (r : Request) : Part × Verdict :=
  if r.payload.length ≠ 1 then refuse p .badLength
  else
    let expected := r.payload.getD 0 0
    (if expected = p.tables.check then p else p.raiseMismatch expected r.tag,
     { result := .ok, detail := p.tables.check })

/-! ### Kinds (section 12.3) -/

/-- The sixteen card kinds. -/
inductive CardKind
  | auxRequest | raisePoles | lowerPoles | clearPole | cardInhibit | batteryLimits | ackFaults | clearFaultState
  | injectTest | readFaultTable | copySeenMap | clearZones | enterLayover | exitLayover | loadTable | verifyConfig
deriving DecidableEq, Repr

/-- The kind of a code on a chain (section 12.3). -/
def cardKind (c : Chain) (code : Nat) : Option CardKind :=
  match c, code with
  | .control, 0x01 => some .auxRequest
  | .control, 0x02 => some .raisePoles
  | .control, 0x03 => some .lowerPoles
  | .control, 0x04 => some .clearPole
  | .control, 0x05 => some .cardInhibit
  | .control, 0x06 => some .batteryLimits
  | .control, 0x07 => some .ackFaults
  | .control, 0x08 => some .clearFaultState
  | .control, 0x09 => some .injectTest
  | .control, 0x0A => some .readFaultTable
  | .control, 0x0B => some .copySeenMap
  | .control, 0x0C => some .clearZones
  | .control, 0x0D => some .enterLayover
  | .control, 0x0E => some .exitLayover
  | .setup, 0x41 => some .loadTable
  | .setup, 0x42 => some .verifyConfig
  | _, _ => none

/-- The Control kinds that HALT admits (R4). -/
def CardKind.inHalt : CardKind → Bool
  | .readFaultTable => true
  | .ackFaults => true
  | .copySeenMap => true
  | _ => false

/-- A card is handed to its owner (R6). -/
def Part.own (p : Part) (k : CardKind) (r : Request) : Part × Verdict :=
  match k with
  | .auxRequest => p.cardAuxRequest r
  | .raisePoles => p.cardRaisePoles r
  | .lowerPoles => p.cardLowerPoles r
  | .clearPole => p.cardClearPole r
  | .cardInhibit => p.cardInhibit r
  | .batteryLimits => p.cardBatteryLimits r
  | .ackFaults => p.cardAckFaults r
  | .clearFaultState => p.cardClearFaultState r
  | .injectTest => p.cardInjectTest r
  | .readFaultTable => p.cardReadFaultTable r
  | .copySeenMap => p.cardCopySeenMap r
  | .clearZones => p.cardClearZones r
  | .enterLayover => p.cardEnterLayover r
  | .exitLayover => p.cardExitLayover r
  | .loadTable => p.cardLoadTable r
  | .verifyConfig => p.cardVerifyConfig r

end Sys2Proof.Machine
end

