-- ==== Sys2Proof/Machine/Walker.lean ====
section
/-! DEFINITION. The chain walkers' steps at each completion (R3 to R11, R24), and failed accesses (R16). -/

namespace Sys2Proof.Machine

/-! ### Breaks (R11) -/

/-- A chain record that has broken: both flags clear, the timer stopped (R10, R11). -/
def ChainRec.broken (r : ChainRec) : ChainRec :=
  { r with state := .broken, rescanPending := false, rewindPending := false, rescanTimer := .stopped, phase := .rest,
           card := {} }

/-- The record being written is held unmarked after a failed write; a copy of an evicted one is dropped (R24). -/
def Mailbox.unmark (m : Mailbox) : Mailbox :=
  { m with holding := m.holding.map (fun r => { r with beingWritten := false }), reportCopy := none }

/-- A break of the Report chain leaves no record marked as being written (R24). -/
def Mailbox.unmarkIf (m : Mailbox) (c : Chain) : Mailbox := if c = .report then m.unmark else m

/-- A chain becomes BROKEN (R11). The chain is the source instance of the raise; a cursor on the anchor is given as 0
(assumption log 40). -/
def Part.breakChain (p : Part) (c : Chain) (phase : BreakPhase) : Part :=
  let r := p.mbx.chains.get c
  let m := (p.mbx.unmarkIf c).setChain c r.broken
  { p with mbx := { m with attention := { m.attention with chainBroken := true } } }.raise
    { kind := .chainBroken, source := { block := .mailboxPort, inst := chainNumber c },
      items := [.large (r.cursor.getD 0), .small (breakPhaseCode phase)] }

/-! ### Moves (R7, R10) -/

/-- A chain would park (R7, R10). -/
def Part.parkChain (p : Part) (c : Chain) (w : Wait) : Part := { p with mbx := p.mbx.park p c w }

/-- No record is held on the Report chain, so no card is marked TAKEN there (R7, R8, R10). -/
def Mailbox.noRecord (m : Mailbox) (c : Chain) : Bool := c == .report && m.holding.isEmpty

/-- The cursor moves to a valid card, which is walked from its header read (R6, R8). -/
def Part.walkTo (p : Part) (c : Chain) (a : Word) : Part := { p with mbx := p.mbx.readHeader c a .headerRead }

/-- The cursor moves to a valid card, which is walked; a Report chain with no record held parks on it unread (R7, R10). -/
def Part.moveTo (p : Part) (c : Chain) (a : Word) : Part :=
  if p.mbx.noRecord c then
    { p with mbx := p.mbx.setChain c { p.mbx.chains.get c with cursor := some a } }.parkChain c .record
  else p.walkTo c a

/-- A card address the chain is to go to is valid for the base as it stands (R1). -/
def Part.validAddress (p : Part) (a : Word) : Bool :=
  match p.mbx.base with
  | some b => validCard b a
  | none => false

/-- A chain follows a next-card address: zero parks it, an invalid one breaks it, a valid one is gone to as `go` says
(R7, R8). -/
def Part.follow (p : Part) (c : Chain) (next : Word) (go : Part → Chain → Word → Part) : Part :=
  if next = 0 then p.parkChain c .link
  else if p.validAddress next then go p c next
  else p.breakChain c .link

/-- The link of a finished card: a pending rewind reads the anchor in its place (R7, R10). -/
def Part.followFinished (p : Part) (c : Chain) (next : Word) : Part :=
  if (p.mbx.chains.get c).rewindPending then { p with mbx := p.mbx.readAnchor c } else p.follow c next Part.moveTo

/-- An anchor entry has been read (R10). -/
def Part.takeAnchor (p : Part) (c : Chain) (entry : Word) : Part :=
  if entry = 0 then
    { p with mbx := p.mbx.setChain c { p.mbx.chains.get c with cursor := none } }.parkChain c .link
  else if p.validAddress entry then p.moveTo c entry
  else p.breakChain c .anchor

/-! ### Writes of a card (R3, R187) -/

/-- The address of the card in hand. -/
def ChainRec.address (r : ChainRec) : Word := r.cursor.getD 0

/-- A walker's record takes its next phase, and the access it needs is placed. -/
def Part.walk (p : Part) (c : Chain) (r : ChainRec) (a : Access) : Part :=
  { p with mbx := (p.mbx.setChain c r).place a }

/-- TAKEN is written (R3, R187). -/
def Part.writeTaken (p : Part) (c : Chain) (h : Header) : Part :=
  let r := p.mbx.chains.get c
  p.walk c { r with phase := .takenWrite, card := { header := h } }
    { op := .takenWrite c, addr := r.address, len := 1, data := [ownerWord ownerTaken .none (headerCheck h)] }

/-- The result detail is written (R3). -/
def Part.writeDetail (p : Part) (c : Chain) : Part :=
  let r := p.mbx.chains.get c
  p.walk c { r with phase := .detailWrite }
    { op := .detailWrite c, addr := r.address + 16, len := 1, data := [r.card.detail] }

/-- The owner field and result code are written (R3, R187). -/
def Part.writeOwner (p : Part) (c : Chain) : Part :=
  let r := p.mbx.chains.get c
  let owner := if r.card.result = .ok then ownerDone else ownerRefused
  p.walk c { r with phase := .ownerWrite }
    { op := .ownerWrite c, addr := r.address, len := 1, data := [ownerWord owner r.card.result (headerCheck r.card.header)] }

/-- The next burst of returned data, or the detail when none is left (R3, R14). -/
def Part.writeData (p : Part) (c : Chain) : Part :=
  let r := p.mbx.chains.get c
  let burst := r.card.dataLeft.take 16
  if burst = [] then p.writeDetail c
  else
    p.walk c { r with phase := .dataWrite }
      { op := .dataWrite c, addr := r.address + 20 + word (4 * r.card.dataDone), len := burst.length, data := burst }

/-- A card is decided: its outcome is kept and its writes begin (R3). -/
def Part.finish (p : Part) (c : Chain) (v : Verdict) : Part :=
  let r := p.mbx.chains.get c
  let card := { r.card with result := v.result, detail := v.detail, dataLeft := v.data, dataDone := 0 }
  { p with mbx := p.mbx.setChain c { r with card := card } }.writeData c

/-! ### The generic checks (R4) -/

/-- The checks of R4 on a card whose payload has been read, and its owner's decision (R6). -/
def Part.verdictOn (p : Part) (c : Chain) : Part × Verdict :=
  let card := (p.mbx.chains.get c).card
  let check := cardCheck card.header.word1 card.payload
  if check ≠ headerCheck card.header then refuse p .badCheck check
  else
    match cardKind c (headerKind card.header) with
    | none => refuse p .badKind
    | some k =>
      if p.mode = .halt ∧ c = .control ∧ !k.inHalt then refuse p .notInMode
      else p.own k { payload := card.payload, tag := card.header.tag }

/-- A card with its payload read is decided and finished (R4, R6). -/
def Part.judgeCard (p : Part) (c : Chain) : Part :=
  let d := p.verdictOn c
  d.1.finish c d.2

/-- The next payload burst, or the checks when the payload is whole (R4, R14). -/
def Part.readPayload (p : Part) (c : Chain) : Part :=
  let r := p.mbx.chains.get c
  let got := r.card.payload.length
  if headerLength r.card.header ≤ got then p.judgeCard c
  else
    p.walk c { r with phase := .payloadRead }
      { op := .payloadRead c, addr := r.address + 20 + word (4 * got), len := min 16 (headerLength r.card.header - got), data := [] }

/-- A payload that R4 and R24 refuse: above 124 words, or running past the window. -/
def Part.badPayload (p : Part) (c : Chain) : Bool :=
  let r := p.mbx.chains.get c
  decide (124 < headerLength r.card.header) || runsPast (p.mbx.base.getD 0) r.address (headerLength r.card.header)

/-- A Control or Setup card marked TAKEN (R4). -/
def Part.checkLength (p : Part) (c : Chain) : Part :=
  if p.badPayload c then p.finish c { result := .badLength } else p.readPayload c

/-! ### Report cards (R24) -/

/-- The oldest held record is marked as being written. -/
def markOldest : List ReportRec → List ReportRec
  | [] => []
  | r :: rs => { r with beingWritten := true } :: rs

/-- A POSTED report card takes the oldest held record, if it fits (R24). -/
def Part.fillReport (p : Part) : Part :=
  match p.mbx.holding with
  | [] => p.parkChain .report .record
  | oldest :: _ =>
    let r := p.mbx.chains.report
    let ws := reportWords oldest
    if p.badPayload .report || decide (headerLength r.card.header < ws.length) then p.finish .report { result := .badLength }
    else
      { p with mbx := { p.mbx with holding := markOldest p.mbx.holding } }.finish .report
        { result := .ok, detail := word ws.length, data := ws }

/-- The record whose card is written DONE leaves the list (R22, R23, R24). -/
def Mailbox.reportDone (m : Mailbox) : Mailbox :=
  let written := m.holding.filter (·.beingWritten)
  { m with
    holding := m.holding.filter (fun r => !r.beingWritten),
    written := m.written + word (written.map (·.repeats)).sum,
    reportCopy := none,
    attention := { m.attention with reportWritten := true } }

/-! ### Completions -/

/-- The access in flight is a walker's and its walker is in the phase that made it. -/
def Mailbox.completes (m : Mailbox) (c : Chain) (op : PortOp) (phase : WalkPhase) : Bool :=
  m.inFlightIs op && (m.chains.get c).phase == phase

/-- The port is free. -/
def Part.freePort (p : Part) : Part := { p with mbx := p.mbx.freePort }

/-- Completion of an anchor-entry read (R10). -/
def Part.anchorDone (p : Part) (c : Chain) (entry : Word) : Part :=
  if p.mbx.completes c (.anchorRead c) .anchorRead then p.freePort.takeAnchor c entry else p

/-- A header read that looks at the owner field (R6, R8). -/
def Part.byOwner (p : Part) (c : Chain) (h : Header) : Part :=
  if headerPosted h then
    if p.mbx.noRecord c then p.parkChain c .record else p.writeTaken c h
  else p.parkChain c .owner

/-- What a header read does, by what it was made for (R6, R8). -/
def Part.takeHeader (p : Part) (c : Chain) (h : Header) (phase : WalkPhase) : Part :=
  match phase with
  | .headerRead => p.byOwner c h
  | .rescanRead .link => p.follow c h.next Part.walkTo
  | .rescanRead .owner => p.byOwner c h
  | .rescanRead .record => p.byOwner c h
  | .rest | .anchorRead | .takenWrite | .payloadRead | .dataWrite | .detailWrite | .ownerWrite => p

/-- A phase in which a header read is awaited. -/
def WalkPhase.readsHeader : WalkPhase → Bool
  | .headerRead => true
  | .rescanRead _ => true
  | .rest | .anchorRead | .takenWrite | .payloadRead | .dataWrite | .detailWrite | .ownerWrite => false

/-- Completion of a header read (R6, R8). -/
def Part.headerDone (p : Part) (c : Chain) (h : Header) : Part :=
  let phase := (p.mbx.chains.get c).phase
  if p.mbx.inFlightIs (.headerRead c) && phase.readsHeader then p.freePort.takeHeader c h phase else p

/-- Completion of a TAKEN write (R4, R6, R24). -/
def Part.takenDone (p : Part) (c : Chain) : Part :=
  if p.mbx.completes c (.takenWrite c) .takenWrite then
    if c = .report then p.freePort.fillReport else p.freePort.checkLength c
  else p

/-- A card with more of its payload read. -/
def ChainRec.addPayload (r : ChainRec) (ws : List Word) : ChainRec :=
  { r with card := { r.card with payload := r.card.payload ++ ws } }

/-- The words of the access in flight. -/
def Mailbox.burstLength (m : Mailbox) : Nat := (m.port.inFlight.map (·.len)).getD 0

/-- Completion of a payload burst (R4, R14); a word list of another length is no completion of it (assumption log 3). -/
def Part.payloadDone (p : Part) (c : Chain) (ws : List Word) : Part :=
  if p.mbx.completes c (.payloadRead c) .payloadRead && ws.length == p.mbx.burstLength then
    let p := p.freePort
    { p with mbx := p.mbx.setChain c ((p.mbx.chains.get c).addPayload ws) }.readPayload c
  else p

/-- A card with one burst of its data written. -/
def ChainRec.dropData (r : ChainRec) : ChainRec :=
  { r with card := { r.card with dataLeft := r.card.dataLeft.drop 16, dataDone := r.card.dataDone + 16 } }

/-- Completion of a write of returned data (R3). -/
def Part.dataDone (p : Part) (c : Chain) : Part :=
  if p.mbx.completes c (.dataWrite c) .dataWrite then
    let p := p.freePort
    { p with mbx := p.mbx.setChain c (p.mbx.chains.get c).dropData }.writeData c
  else p

/-- Completion of a detail write (R3). -/
def Part.detailDone (p : Part) (c : Chain) : Part :=
  if p.mbx.completes c (.detailWrite c) .detailWrite then p.freePort.writeOwner c else p

/-- A report card has been written DONE (R24). -/
def Part.reportWritten (p : Part) (c : Chain) : Part :=
  if c = .report ∧ (p.mbx.chains.get c).card.result = .ok then { p with mbx := p.mbx.reportDone } else p

/-- Completion of the final owner write: the card is finished (R7). -/
def Part.ownerDone (p : Part) (c : Chain) : Part :=
  if p.mbx.completes c (.ownerWrite c) .ownerWrite then
    let next := (p.mbx.chains.get c).card.header.next
    (p.freePort.reportWritten c).followFinished c next
  else p

/-- Completion of a demand read (R17). -/
def Part.demandDone (p : Part) (s v c : Word) : Part :=
  if p.mbx.inFlightIs .demandRead then p.freePort.deliver (.read s v c) else p

/-- The mirror writer's part of the mirror write in flight. -/
def Mailbox.mirrorInFlight (m : Mailbox) : Option PortOp :=
  match m.port.inFlight with
  | some a => if a.op.requester = .mirror then some a.op else none
  | none => none

/-- Completion of a mirror burst (R19). -/
def Part.mirrorDone (p : Part) : Part :=
  match p.mbx.mirrorInFlight with
  | some op => p.freePort.mirrorNext op
  | none => p

/-! ### Failed accesses (R16) -/

/-- The phase at which a chain breaks when a walker's access fails (R11). -/
def PortOp.breakPhase : PortOp → BreakPhase
  | .anchorRead _ => .anchor
  | .headerRead _ => .headerRead
  | .takenWrite _ => .takenWrite
  | .payloadRead _ => .payloadRead
  | .demandRead | .dataWrite _ | .detailWrite _ | .ownerWrite _ | .mirrorFirst | .mirrorBody _ | .mirrorLast => .resultWrite

/-- What a failed access does to its requester (R16). -/
def Part.failed (p : Part) (op : PortOp) : Part :=
  match op.chain with
  | some c => p.breakChain c op.breakPhase
  | none => if op = .demandRead then p.deliver .failed else p.mirrorEnd

/-- MEMORY_PORT; the requester is the source instance (R16). -/
def Part.raiseMemoryPort (p : Part) (a : Access) : Part :=
  p.raise { kind := .memoryPort, source := { block := .mailboxPort, inst := requesterNumber a.op.requester },
            items := [.large a.addr] }

/-- A record being written is unmarked when an access of the Report walker fails (R24). -/
def Mailbox.unmarkFor (m : Mailbox) (op : PortOp) : Mailbox := if op.chain = some .report then m.unmark else m

/-- The access in flight fails (R16). No rule orders the MEMORY_PORT raise against what the failure does to the requester: the
raise, with any FAULT_STATE claim and cut frame it brings, goes before a chain breaks and before the governor judges a failed
demand read and makes its frame (R17, R130, R137; assumption log 13). -/
def Part.accessFails (p : Part) : Part :=
  match p.mbx.port.inFlight with
  | none => p
  | some a => ({ p with mbx := p.mbx.freePort.unmarkFor a.op }.raiseMemoryPort a).failed a.op

/-- Expiry of a chain's rescan timer (R8). -/
def Part.rescanExpired (p : Part) (c : Chain) : Part := { p with mbx := p.mbx.startRescan c }

/-- The port, free, grants a waiting request (R15). -/
def Part.grant (p : Part) : Part := { p with mbx := p.mbx.grantNext }

/-- Expiry of the mirror interval (R18). -/
def Part.mirrorInterval (p : Part) : Part := p.restartMirror.mirrorStart

end Sys2Proof.Machine
end

