-- ==== Sys2Proof/Machine/Event.lean ====
section
/-! DEFINITION. What every command has in common: its event acts on the part and leaves the queue alone; at its end the
auxiliaries that have entered the restart queue take their entry orders (R146) and REPORTS_HELD is brought up to date (R26). -/

namespace Sys2Proof.Machine

/-- The next state after an event on the part. -/
def State.event (s : State) (f : Part → Part) : Host.Outcome State Fault Refusal :=
  .next { s with part := ((f s.part).orderEntries s.part).settle }

end Sys2Proof.Machine
end

