-- ==== Sys2Proof/Machine/CollectorEvents.lean ====
section
/-! DEFINITION. The timers of the Fault Collector (R159, R162, R165). -/

namespace Sys2Proof.Machine

/-- A kind's edge hold has expired (R159). -/
def FaultRec.endEdgeHold (r : FaultRec) : FaultRec := { r with edgeHold := .stopped }

/-- A kind's test hold has expired: the test flag clears (R159). -/
def FaultRec.endTestHold (r : FaultRec) : FaultRec := { r with testHold := .stopped, test := false }

/-- Expiry of a kind's edge hold; the alarm outputs are evaluated (R159). -/
def Part.edgeHoldExpired (p : Part) (k : FaultKind) : Part := (p.modFault k FaultRec.endEdgeHold).evalAlarms

/-- Expiry of a kind's test hold; the alarm outputs are evaluated (R159). -/
def Part.testHoldExpired (p : Part) (k : FaultKind) : Part := (p.modFault k FaultRec.endTestHold).evalAlarms

/-- Expiry of the alert timer in ALERT (R162). -/
def Part.alertExpired (p : Part) : Part :=
  let p := { p with faults := { p.faults with alertTimer := .stopped } }
  if p.faults.state = .alert then p.moveCollector .fault .alertExpiry none 0 else p

/-- Expiry of the lamp hold timer (R165). -/
def Part.lampHoldExpired (p : Part) : Part := { p with faults := { p.faults with lampHold := .stopped } }.evalAlarms

/-- Expiry of the buzzer hold timer (R165). -/
def Part.buzzerHoldExpired (p : Part) : Part := { p with faults := { p.faults with buzzerHold := .stopped } }.evalAlarms

/-- EDGE_HOLD_EXPIRY (R159). -/
def execEdgeHoldExpiry (kind : FaultKind) (s : State) : Host.Outcome State Fault Refusal :=
  s.event (fun p => p.onExpiry (p.faults.get kind).edgeHold (·.edgeHoldExpired kind))

/-- TEST_HOLD_EXPIRY (R159). -/
def execTestHoldExpiry (kind : FaultKind) (s : State) : Host.Outcome State Fault Refusal :=
  s.event (fun p => p.onExpiry (p.faults.get kind).testHold (·.testHoldExpired kind))

/-- ALERT_TIMER_EXPIRY (R162). -/
def execAlertTimerExpiry (s : State) : Host.Outcome State Fault Refusal :=
  s.event (fun p => p.onExpiry p.faults.alertTimer Part.alertExpired)

/-- LAMP_HOLD_EXPIRY (R165). -/
def execLampHoldExpiry (s : State) : Host.Outcome State Fault Refusal :=
  s.event (fun p => p.onExpiry p.faults.lampHold Part.lampHoldExpired)

/-- BUZZER_HOLD_EXPIRY (R165). -/
def execBuzzerHoldExpiry (s : State) : Host.Outcome State Fault Refusal :=
  s.event (fun p => p.onExpiry p.faults.buzzerHold Part.buzzerHoldExpired)

end Sys2Proof.Machine
end

