-- ==== Sys2Proof/Machine/ContactEvents.lean ====
section
/-! DEFINITION. The events of the contact inputs and the drive outputs (R38 to R46). -/

namespace Sys2Proof.Machine

/-- CONTACT_RAW_CHANGE: the voltage at a sensed input, which gives its raw level by the sense type (R39, R40, R42). -/
def execContactRawChange (input : InputNo) (voltage : PinVoltage) (s : State) : Host.Outcome State Fault Refusal :=
  s.event (·.pinSensed input voltage)

/-- DEBOUNCE_EXPIRY (R40, R41). -/
def execDebounceExpiry (input : InputNo) (s : State) : Host.Outcome State Fault Refusal :=
  s.event (fun p => p.onExpiry (p.input input).debounce (·.debounced input))

/-- CLEANING_PULSE_END (R41). -/
def execCleaningPulseEnd (input : InputNo) (s : State) : Host.Outcome State Fault Refusal :=
  s.event (fun p => p.onExpiry (p.input input).cleaning (·.cleaningDone input))

/-- POLL_TIMER_EXPIRY (R43). -/
def execPollTimerExpiry (pins : Vector PinVoltage 16) (s : State) : Host.Outcome State Fault Refusal :=
  s.event (fun p => p.onExpiry p.contacts.pollTimer (·.polled pins))

/-- SECOND_SAMPLE (R43, R184). -/
def execSecondSample (pins : Vector PinVoltage 16) (s : State) : Host.Outcome State Fault Refusal :=
  s.event (fun p => p.onExpiry p.contacts.secondTimer (·.secondSampled pins))

/-- READBACK_CHANGE (R46). -/
def execReadbackChange (output : OutputNo) (on : Bool) (s : State) : Host.Outcome State Fault Refusal :=
  s.event (·.readbackChange output on)

/-- MISMATCH_TIMER_EXPIRY (R46). -/
def execMismatchTimerExpiry (output : OutputNo) (s : State) : Host.Outcome State Fault Refusal :=
  s.event (fun p => p.onExpiry (p.output output).mismatch (·.outputFails output))

end Sys2Proof.Machine
end

