-- ==== Sys2Proof/Machine/LinkEvents.lean ====
section
/-! DEFINITION. The events of the links (R27 to R37). -/

namespace Sys2Proof.Machine

/-- PL_FRAME_COMPLETE (R29, R30). -/
def execPlFrameComplete (link : PLink) (interval : Nat) (s : State) : Host.Outcome State Fault Refusal :=
  s.event (·.plComplete link interval)

/-- PL_FRAME_ABORT (R28). -/
def execPlFrameAbort (link : PLink) (interval : Nat) (s : State) : Host.Outcome State Fault Refusal :=
  s.event (·.plAbort link interval)

/-- LINK_FIRST_ACTIVITY (R32). -/
def execLinkFirstActivity (link : Link) (s : State) : Host.Outcome State Fault Refusal := s.event (·.firstActivity link)

/-- SILENCE_TIMER_EXPIRY (R32). -/
def execSilenceTimerExpiry (link : Link) (s : State) : Host.Outcome State Fault Refusal :=
  s.event (fun p => p.onExpiry (p.linkRec link).silence (·.silenceExpired link))

/-- SERIAL_FRAME_COMPLETE (R35, R36). -/
def execSerialFrameComplete (link : SLink) (s : State) : Host.Outcome State Fault Refusal := s.event (·.serialComplete link)

/-- SERIAL_FRAME_ERROR (R35). -/
def execSerialFrameError (link : SLink) (error : SerialError) (s : State) : Host.Outcome State Fault Refusal :=
  s.event (·.serialError link error)

/-- The last character of a frame on the drive link has left (R37). -/
def Part.sendDone (p : Part) : Part := { p with send := p.send.sent }

/-- DRIVE_LINK_SEND_DONE (R37). -/
def execDriveLinkSendDone (s : State) : Host.Outcome State Fault Refusal := s.event Part.sendDone

/-- SYNC_TAKEN (R27). -/
def execSyncTaken (link : PLink) (interval : Nat) (s : State) : Host.Outcome State Fault Refusal :=
  s.event (·.syncTaken link interval)

/-- SYMBOL_INTERVAL (R28). -/
def execSymbolInterval (link : PLink) (interval : Nat) (s : State) : Host.Outcome State Fault Refusal :=
  s.event (·.symbolTaken link interval)

/-- SERIAL_CHARACTER (R35). -/
def execSerialCharacter (link : SLink) (byte : Byte) (stopOk : Bool) (s : State) : Host.Outcome State Fault Refusal :=
  s.event (·.serialChar link byte stopOk)

end Sys2Proof.Machine
end

