-- ==== Sys2Proof/Machine/MemoryPort.lean ====
section
/-! DEFINITION. The grant, completions and failures of the memory port, and the Mailbox Port's timers (R3 to R19). -/

namespace Sys2Proof.Machine

/-- MEMORY_PORT_GRANT (R15). -/
def execMemoryPortGrant (s : State) : Host.Outcome State Fault Refusal := s.event Part.grant

/-- ANCHOR_READ_COMPLETE (R10). -/
def execAnchorReadComplete (chain : Chain) (entry : Word) (s : State) : Host.Outcome State Fault Refusal :=
  s.event (·.anchorDone chain entry)

/-- HEADER_READ_COMPLETE (R6, R8). -/
def execHeaderReadComplete (chain : Chain) (header : Header) (s : State) : Host.Outcome State Fault Refusal :=
  s.event (·.headerDone chain header)

/-- TAKEN_WRITE_COMPLETE (R4, R6, R24). -/
def execTakenWriteComplete (chain : Chain) (s : State) : Host.Outcome State Fault Refusal := s.event (·.takenDone chain)

/-- PAYLOAD_READ_COMPLETE (R4, R6). -/
def execPayloadReadComplete (chain : Chain) (words : List Word) (s : State) : Host.Outcome State Fault Refusal :=
  s.event (·.payloadDone chain words)

/-- CARD_DATA_WRITE_COMPLETE (R3). -/
def execCardDataWriteComplete (chain : Chain) (s : State) : Host.Outcome State Fault Refusal := s.event (·.dataDone chain)

/-- DETAIL_WRITE_COMPLETE (R3). -/
def execDetailWriteComplete (chain : Chain) (s : State) : Host.Outcome State Fault Refusal := s.event (·.detailDone chain)

/-- OWNER_WRITE_COMPLETE (R7). -/
def execOwnerWriteComplete (chain : Chain) (s : State) : Host.Outcome State Fault Refusal := s.event (·.ownerDone chain)

/-- DEMAND_READ_COMPLETE (R17). -/
def execDemandReadComplete (sequence value complement : Word) (s : State) : Host.Outcome State Fault Refusal :=
  s.event (·.demandDone sequence value complement)

/-- MIRROR_BURST_COMPLETE (R19). -/
def execMirrorBurstComplete (s : State) : Host.Outcome State Fault Refusal := s.event Part.mirrorDone

/-- MEMORY_ACCESS_ERROR (R16). -/
def execMemoryAccessError (s : State) : Host.Outcome State Fault Refusal := s.event Part.accessFails

/-- An access not completed within 50 µs of its grant fails as for an error response (R14, R16). -/
def Part.accessTimesOut (p : Part) : Part := p.accessFails

/-- MEMORY_ACCESS_TIMEOUT (R16). -/
def execMemoryAccessTimeout (s : State) : Host.Outcome State Fault Refusal := s.event Part.accessTimesOut

/-- LATE_COMPLETION: the completion is discarded (R14). -/
def execLateCompletion (s : State) : Host.Outcome State Fault Refusal := s.event id

/-- RESCAN_TIMER_EXPIRY (R8). -/
def execRescanTimerExpiry (chain : Chain) (s : State) : Host.Outcome State Fault Refusal :=
  s.event (fun p => p.onExpiry (p.mbx.chains.get chain).rescanTimer (·.rescanExpired chain))

/-- MIRROR_INTERVAL_EXPIRY (R18). -/
def execMirrorIntervalExpiry (s : State) : Host.Outcome State Fault Refusal :=
  s.event (fun p => p.onExpiry p.mbx.mirror.timer Part.mirrorInterval)

end Sys2Proof.Machine
end

