-- ==== Sys2Proof/Machine/Registers.lean ====
section
/-! DEFINITION. POWER_ON_RESET, writes to MAILBOX BASE and the commands of the COMMAND register (R2, R9, R12, R25, R26,
R178, R180, R182). -/

namespace Sys2Proof.Machine

/-- POWER_ON_RESET (R178). -/
def execPowerOnReset (s : State) : Host.Outcome State Fault Refusal := s.event Part.powerOn

/-- MAILBOX_BASE_WRITE (R2). -/
def execMailboxBaseWrite (value : Word) (s : State) : Host.Outcome State Fault Refusal := s.event (·.writeBase value)

/-- RUN (R180). -/
def execRun (s : State) : Host.Outcome State Fault Refusal := s.event Part.runCommand

/-- HALT (R182). -/
def execHalt (s : State) : Host.Outcome State Fault Refusal := s.event Part.haltCommand

/-- RESET (R178). -/
def execReset (s : State) : Host.Outcome State Fault Refusal := s.event Part.commandReset

/-- WAKE (R9). -/
def execWake (mask : Byte) (s : State) : Host.Outcome State Fault Refusal := s.event (·.wakeCommand mask)

/-- REWIND (R12). -/
def execRewind (chain : Byte) (s : State) : Host.Outcome State Fault Refusal := s.event (·.rewindCommand chain)

/-- ACK_ATTENTION (R26). -/
def execAckAttention (mask : Byte) (s : State) : Host.Outcome State Fault Refusal := s.event (·.ackCommand mask)

/-- BAD_COMMAND (R25). -/
def execBadCommand (word : Word) (s : State) : Host.Outcome State Fault Refusal := s.event (·.badCommand word)

end Sys2Proof.Machine
end

