-- ==== Sys2Proof/Machine/SupervisionEvents.lean ====
section
/-! DEFINITION. The timers of the line and the poles (R52, R56, R58, R72, R80, R86, R87, R99, R100). -/

namespace Sys2Proof.Machine

/-- GAP_TIMER_EXPIRY (R52). -/
def execGapTimerExpiry (s : State) : Host.Outcome State Fault Refusal :=
  s.event (fun p => p.onExpiry p.line.gapTimer Part.gapExpired)

/-- RESTORE_TIMER_EXPIRY (R56). -/
def execRestoreTimerExpiry (s : State) : Host.Outcome State Fault Refusal :=
  s.event (fun p => p.onExpiry p.line.restoreTimer Part.restoreExpired)

/-- HIGH_PERSIST_EXPIRY (R58). -/
def execHighPersistExpiry (s : State) : Host.Outcome State Fault Refusal :=
  s.event (fun p => p.onExpiry p.line.highTimer Part.highExpired)

/-- CONFIRM_TIMER_EXPIRY (R80). -/
def execConfirmTimerExpiry (pole : PoleId) (s : State) : Host.Outcome State Fault Refusal :=
  s.event (fun p => p.onExpiry (p.poles.get pole).confirmTimer (·.confirmExpired pole))

/-- RESOLUTION_TIMER_EXPIRY (R72). -/
def execResolutionTimerExpiry (pole : PoleId) (s : State) : Host.Outcome State Fault Refusal :=
  s.event (fun p => p.onExpiry (p.poles.get pole).resolutionTimer (·.resolutionExpired pole))

/-- RETRIEVER_HOLD_EXPIRY (R86, R101). -/
def execRetrieverHoldExpiry (pole : PoleId) (s : State) : Host.Outcome State Fault Refusal :=
  s.event (fun p => p.onExpiry (p.poles.get pole).holdTimer (·.holdExpired pole))

/-- LOWER_TIMER_EXPIRY (R87, R105). -/
def execLowerTimerExpiry (pole : PoleId) (s : State) : Host.Outcome State Fault Refusal :=
  s.event (fun p => p.onExpiry (p.poles.get pole).lowerTimer (·.lowerExpired pole))

/-- RAISE_TIMER_EXPIRY (R100). -/
def execRaiseTimerExpiry (pole : PoleId) (s : State) : Host.Outcome State Fault Refusal :=
  s.event (fun p => p.onExpiry (p.poles.get pole).raiseTimer (·.raiseExpired pole))

/-- SETTLE_TIMER_EXPIRY (R99). -/
def execSettleTimerExpiry (pole : PoleId) (s : State) : Host.Outcome State Fault Refusal :=
  s.event (fun p => p.onExpiry (p.poles.get pole).settleTimer (·.settleExpired pole))

end Sys2Proof.Machine
end

