-- ==== Sys2Proof/Machine/TractionEvents.lean ====
section
/-! DEFINITION. The events of distance and speed, the control period and the auxiliaries' timers (R108, R110, R129, R147,
R149, R154). -/

namespace Sys2Proof.Machine

/-- ODOMETRY_PULSE (R108, R110, R118). -/
def execOdometryPulse (s : State) : Host.Outcome State Fault Refusal := s.event Part.odometryPulse

/-- SPEED_TIMER_EXPIRY (R110, R123). -/
def execSpeedTimerExpiry (s : State) : Host.Outcome State Fault Refusal :=
  s.event (fun p => p.onExpiry p.zones.speedTimer Part.speedExpired)

/-- STATIONARY_TIMER_EXPIRY (R110). -/
def execStationaryTimerExpiry (s : State) : Host.Outcome State Fault Refusal :=
  s.event (fun p => p.onExpiry p.zones.stationaryTimer Part.stationaryExpired)

/-- CONTROL_PERIOD_EXPIRY (R129). -/
def execControlPeriodExpiry (s : State) : Host.Outcome State Fault Refusal :=
  s.event (fun p => p.onExpiry p.gov.period Part.periodExpired)

/-- STAGGER_TIMER_EXPIRY (R147). -/
def execStaggerTimerExpiry (s : State) : Host.Outcome State Fault Refusal :=
  s.event (fun p => p.onExpiry p.aux.stagger Part.staggerExpired)

/-- START_TIMER_EXPIRY (R149). -/
def execStartTimerExpiry (aux : AuxNo) (s : State) : Host.Outcome State Fault Refusal :=
  s.event (fun p => p.onExpiry (p.auxRec aux).startTimer (·.startExpired aux))

/-- OFF_TIMER_EXPIRY (R154). -/
def execOffTimerExpiry (aux : AuxNo) (s : State) : Host.Outcome State Fault Refusal :=
  s.event (fun p => p.onExpiry (p.auxRec aux).offTimer (·.offExpired aux))

end Sys2Proof.Machine
end

