-- ==== Sys2Proof/Machine/Dispatch.lean ====
section
/-! DEFINITION. The meaning of every command: one arm per constructor of Instr. -/

namespace Sys2Proof.Machine

def exec (i : Instr) (s : State) : Host.Outcome State Fault Refusal :=
  match i with
  | .powerOnReset => Sys2Proof.Machine.execPowerOnReset s
  | .mailboxBaseWrite value => Sys2Proof.Machine.execMailboxBaseWrite value s
  | .run => Sys2Proof.Machine.execRun s
  | .halt => Sys2Proof.Machine.execHalt s
  | .reset => Sys2Proof.Machine.execReset s
  | .wake mask => Sys2Proof.Machine.execWake mask s
  | .rewind chain => Sys2Proof.Machine.execRewind chain s
  | .ackAttention mask => Sys2Proof.Machine.execAckAttention mask s
  | .badCommand word => Sys2Proof.Machine.execBadCommand word s
  | .memoryPortGrant => Sys2Proof.Machine.execMemoryPortGrant s
  | .anchorReadComplete chain entry => Sys2Proof.Machine.execAnchorReadComplete chain entry s
  | .headerReadComplete chain header => Sys2Proof.Machine.execHeaderReadComplete chain header s
  | .takenWriteComplete chain => Sys2Proof.Machine.execTakenWriteComplete chain s
  | .payloadReadComplete chain words => Sys2Proof.Machine.execPayloadReadComplete chain words s
  | .cardDataWriteComplete chain => Sys2Proof.Machine.execCardDataWriteComplete chain s
  | .detailWriteComplete chain => Sys2Proof.Machine.execDetailWriteComplete chain s
  | .ownerWriteComplete chain => Sys2Proof.Machine.execOwnerWriteComplete chain s
  | .demandReadComplete sequence value complement => Sys2Proof.Machine.execDemandReadComplete sequence value complement s
  | .mirrorBurstComplete => Sys2Proof.Machine.execMirrorBurstComplete s
  | .memoryAccessError => Sys2Proof.Machine.execMemoryAccessError s
  | .memoryAccessTimeout => Sys2Proof.Machine.execMemoryAccessTimeout s
  | .lateCompletion => Sys2Proof.Machine.execLateCompletion s
  | .rescanTimerExpiry chain => Sys2Proof.Machine.execRescanTimerExpiry chain s
  | .mirrorIntervalExpiry => Sys2Proof.Machine.execMirrorIntervalExpiry s
  | .plFrameComplete link interval => Sys2Proof.Machine.execPlFrameComplete link interval s
  | .plFrameAbort link interval => Sys2Proof.Machine.execPlFrameAbort link interval s
  | .linkFirstActivity link => Sys2Proof.Machine.execLinkFirstActivity link s
  | .silenceTimerExpiry link => Sys2Proof.Machine.execSilenceTimerExpiry link s
  | .serialFrameComplete link => Sys2Proof.Machine.execSerialFrameComplete link s
  | .serialFrameError link error => Sys2Proof.Machine.execSerialFrameError link error s
  | .driveLinkSendDone => Sys2Proof.Machine.execDriveLinkSendDone s
  | .contactRawChange input voltage => Sys2Proof.Machine.execContactRawChange input voltage s
  | .debounceExpiry input => Sys2Proof.Machine.execDebounceExpiry input s
  | .cleaningPulseEnd input => Sys2Proof.Machine.execCleaningPulseEnd input s
  | .pollTimerExpiry pins => Sys2Proof.Machine.execPollTimerExpiry pins s
  | .secondSample pins => Sys2Proof.Machine.execSecondSample pins s
  | .readbackChange output on => Sys2Proof.Machine.execReadbackChange output on s
  | .mismatchTimerExpiry output => Sys2Proof.Machine.execMismatchTimerExpiry output s
  | .gapTimerExpiry => Sys2Proof.Machine.execGapTimerExpiry s
  | .restoreTimerExpiry => Sys2Proof.Machine.execRestoreTimerExpiry s
  | .highPersistExpiry => Sys2Proof.Machine.execHighPersistExpiry s
  | .confirmTimerExpiry pole => Sys2Proof.Machine.execConfirmTimerExpiry pole s
  | .resolutionTimerExpiry pole => Sys2Proof.Machine.execResolutionTimerExpiry pole s
  | .retrieverHoldExpiry pole => Sys2Proof.Machine.execRetrieverHoldExpiry pole s
  | .lowerTimerExpiry pole => Sys2Proof.Machine.execLowerTimerExpiry pole s
  | .raiseTimerExpiry pole => Sys2Proof.Machine.execRaiseTimerExpiry pole s
  | .settleTimerExpiry pole => Sys2Proof.Machine.execSettleTimerExpiry pole s
  | .odometryPulse => Sys2Proof.Machine.execOdometryPulse s
  | .speedTimerExpiry => Sys2Proof.Machine.execSpeedTimerExpiry s
  | .stationaryTimerExpiry => Sys2Proof.Machine.execStationaryTimerExpiry s
  | .controlPeriodExpiry => Sys2Proof.Machine.execControlPeriodExpiry s
  | .staggerTimerExpiry => Sys2Proof.Machine.execStaggerTimerExpiry s
  | .startTimerExpiry aux => Sys2Proof.Machine.execStartTimerExpiry aux s
  | .offTimerExpiry aux => Sys2Proof.Machine.execOffTimerExpiry aux s
  | .edgeHoldExpiry kind => Sys2Proof.Machine.execEdgeHoldExpiry kind s
  | .testHoldExpiry kind => Sys2Proof.Machine.execTestHoldExpiry kind s
  | .alertTimerExpiry => Sys2Proof.Machine.execAlertTimerExpiry s
  | .lampHoldExpiry => Sys2Proof.Machine.execLampHoldExpiry s
  | .buzzerHoldExpiry => Sys2Proof.Machine.execBuzzerHoldExpiry s
  | .syncTaken link interval => Sys2Proof.Machine.execSyncTaken link interval s
  | .symbolInterval link interval => Sys2Proof.Machine.execSymbolInterval link interval s
  | .serialCharacter link byte stopOk => Sys2Proof.Machine.execSerialCharacter link byte stopOk s

end Sys2Proof.Machine
end

