-- ==== Sys2Proof/Machine/Step.lean ====
section
/-! DEFINITION. One step: the command at the front of the queue; an idle millisecond when the queue is empty. -/

namespace Sys2Proof.Machine

/-- One millisecond of the timestamp passes with nothing commanded (R178, assumption log 1). -/
def State.idle (s : State) : State := { s with part := { s.part with now := s.part.now + 1 } }

/-- Take the command at the front of the queue and run it on the queue's rest; idle on an empty queue. -/
def step (s : State) : Host.Outcome State Fault Refusal :=
  match s.pending with
  | [] => .next s.idle
  | c :: rest => exec c { s with pending := rest }

/-- The state with the command a table word spells at the front of its queue; unchanged where the word spells none. -/
def State.withFetchWord (s : State) (nbits w : Nat) : State :=
  match decodeTableWord nbits w with
  | some c => { s with pending := c :: s.pending }
  | none => s

end Sys2Proof.Machine
end

