-- ==== Sys2Proof/WellFormed.lean ====
section
/-! DEFINITION. Well-formed commands: those a part can be sent. The meanings are total, so an ill-formed command is
harmless: it is one that no sender sends (assumption log 3). -/

namespace Sys2Proof

open Machine

/-- A payload burst carries 1 to 16 words (R14). -/
def wfBurst (words : List Word) : Bool := decide (1 ≤ words.length ∧ words.length ≤ 16)

/-- Two edges are apart (R27, R28). -/
def wfInterval (interval : Nat) : Bool := decide (0 < interval)

/-- An error of a frame in assembly: a length error carries a length that R35 does not accept. -/
def wfSerialError : SerialError → Bool
  | .framing => true
  | .length b => !goodLength b
  | .gap _ _ => true

/-- A kind whose raises can be edges, so that it can have an edge hold (R158, section 9.1). -/
def wfEdgeKind (k : FaultKind) : Bool := isEdge k .none || isEdge k .unhoused

/-- The checks on a command's operands. -/
def Instr.wf : Instr → Bool
  | .badCommand w => badCommandWord w
  | .payloadReadComplete _ words => wfBurst words
  | .plFrameComplete _ interval => wfInterval interval
  | .plFrameAbort _ interval => wfInterval interval
  | .syncTaken _ interval => wfInterval interval
  | .symbolInterval _ interval => wfInterval interval
  | .serialFrameError _ e => wfSerialError e
  | .edgeHoldExpiry k => wfEdgeKind k
  | _ => true

end Sys2Proof
end

