-- ==== Sys2Proof/Safety.lean ====
section
/-! DEFINITION. The words in which statements about the machine are made: what an event leaves unchanged, and the
properties that every step keeps. -/

namespace Sys2Proof.Machine

/-! ### Frames -/

/-- The pieces of the part that a frame speaks about. -/
inductive Piece
  | now | mode | lastReset | keptPoles
  | base | command | attention | chains | port | reports | mirror
  | tables | links | send | contacts | outputs
  | line | budget | poles | zones
  | inhibit | setpoint | demand | replies
  | aux | records | collector | alarms | free
deriving DecidableEq, Repr

/-- The line's own record without the budget, the grants and the last demanded excess. -/
def Line.own (l : Line) : Line := { l with budget := {}, grants := Vector.replicate 12 none, lastDemanded := 0 }

/-- Two states of the part agree on a piece. -/
def Part.same (p q : Part) : Piece → Prop
  | .now => q.now = p.now
  | .mode => q.mode = p.mode
  | .lastReset => q.lastReset = p.lastReset
  | .keptPoles => q.keptPoles = p.keptPoles
  | .base => q.mbx.base = p.mbx.base
  | .command => q.mbx.outcome = p.mbx.outcome ∧ q.mbx.missing = p.mbx.missing
  | .attention => q.mbx.attention = p.mbx.attention
  | .chains => q.mbx.chains = p.mbx.chains
  | .port => q.mbx.port = p.mbx.port
  | .reports => q.mbx.holding = p.mbx.holding ∧ q.mbx.reportCopy = p.mbx.reportCopy ∧ q.mbx.raised = p.mbx.raised
      ∧ q.mbx.written = p.mbx.written ∧ q.mbx.dropped = p.mbx.dropped
  | .mirror => q.mbx.mirror = p.mbx.mirror
  | .tables => q.tables = p.tables
  | .links => q.links = p.links
  | .send => q.send = p.send
  | .contacts => q.contacts = p.contacts
  | .outputs => q.outputs = p.outputs
  | .line => q.line.own = p.line.own
  | .budget => q.line.budget = p.line.budget ∧ q.line.grants = p.line.grants ∧ q.line.lastDemanded = p.line.lastDemanded
  | .poles => q.poles = p.poles
  | .zones => q.zones = p.zones
  | .inhibit => q.gov.inhibit = p.gov.inhibit ∧ q.gov.armed = p.gov.armed
  | .setpoint => q.gov.setpoint = p.gov.setpoint ∧ q.gov.counter = p.gov.counter ∧ q.gov.replyWait = p.gov.replyWait
  | .demand => q.gov.period = p.gov.period ∧ q.gov.lastFresh = p.gov.lastFresh ∧ q.gov.held = p.gov.held
      ∧ q.gov.stale = p.gov.stale
  | .replies => q.gov.misses = p.gov.misses ∧ q.gov.goodRun = p.gov.goodRun ∧ q.gov.inverter = p.gov.inverter
      ∧ q.gov.actual = p.gov.actual
  | .aux => q.aux = p.aux
  | .records => q.faults.recs = p.faults.recs
  | .collector => q.faults.state = p.faults.state ∧ q.faults.alertTimer = p.faults.alertTimer
  | .alarms => q.faults.lampHold = p.faults.lampHold ∧ q.faults.buzzerHold = p.faults.buzzerHold
      ∧ q.faults.lampFallback = p.faults.lampFallback ∧ q.faults.buzzerFallback = p.faults.buzzerFallback
  | .free => q.freeUses = p.freeUses

/-- Only the named pieces have changed from `p` to `q`. -/
def Part.onlyChanges (changed : List Piece) (p q : Part) : Prop := ∀ x, x ∉ changed → p.same q x

/-! ### What a kind of event may change -/

/-- A change of collector state, with its claim, its report and the read the report may start on the Report chain (R162). -/
def collectorPieces : List Piece := [.collector, .inhibit, .setpoint, .send, .attention, .reports, .chains, .port]

/-- A fault raised (R158 to R166). -/
def raisePieces : List Piece := collectorPieces ++ [.records, .alarms, .outputs]

/-- A break of a chain (R11). -/
def breakPieces : List Piece := raisePieces

/-- A shed demand, or a class shed (R62, R150 to R152). -/
def shedPieces : List Piece := [.outputs, .records, .budget, .aux, .reports, .chains, .port]

/-- A change of line state with its notices (R59). -/
def linePieces : List Piece := shedPieces ++ [.line, .poles, .zones]

/-- The same with a fault raised. -/
def lineRaisePieces : List Piece := linePieces ++ raisePieces

/-- A pole event with its notices and claims (R90, R91). -/
def polePieces : List Piece := lineRaisePieces ++ [.keptPoles]

/-- The same with a free value drawn. -/
def poleFreePieces : List Piece := polePieces ++ [.free]

/-- A computation of the governor, or a status reply (R129 to R143). -/
def govPieces : List Piece := raisePieces ++ [.demand, .replies]

/-- An event of the Auxiliary Scheduler. -/
def auxPieces : List Piece := shedPieces ++ raisePieces

/-- A frame delivered, or a contact change delivered. -/
def eventPieces : List Piece := polePieces ++ [.free, .demand, .replies, .contacts, .links]

/-- A card handled by its owner, without a change of mode. -/
def cardPieces : List Piece := polePieces ++ [.free, .tables, .contacts]

/-! ### Properties that every step keeps -/

/-- The reports raised since the last reset are accounted for, modulo 2³² (R23); at most 16 records are held (R21). -/
def Mailbox.accounted (m : Mailbox) : Prop :=
  m.raised = m.written + m.dropped + word (m.holding.map (·.repeats)).sum ∧ m.holding.length ≤ 16

/-- FAULT_STATE is in the inhibit set while the collector is in FAULT and only then (R135), and the governor is ARMED only
while the set is empty (R138). -/
def Part.guarded (p : Part) : Prop :=
  (p.gov.inhibit.faultState = true ↔ p.faults.state = .fault) ∧ (p.gov.armed = true → p.gov.inhibit.empty = true)

/-- The interlock of traction with the mode and the collector: `guarded`, and MODE is in the inhibit set outside RUN and
only there (R135). -/
def Part.interlocked (p : Part) : Prop := (p.gov.inhibit.mode = true ↔ p.mode ≠ .run) ∧ p.guarded

/-- The Pole Monitor's claims stand exactly while their conditions hold (R91, R135). -/
def Part.poleClaims (p : Part) : Prop :=
  (p.gov.inhibit.poleSuspect = true ↔ p.anyPole Pole.suspectClaim = true)
    ∧ (p.gov.inhibit.poleDewired = true ↔ p.anyPole Pole.dewiredClaim = true)
    ∧ (p.gov.inhibit.polesMoving = true ↔ p.anyPole Pole.movingClaim = true)

/-- A pole is blind only on the wire, ON_WIRE or SUSPECT (R81, R82). -/
def Part.blindOnWire (p : Part) : Prop := ∀ i, (p.poles.get i).blind = true → (p.poles.get i).onLine = true

/-- The Line Supervisor's copy and the record that the layover test reads agree with the states of the poles: every change
of a pole's state has reached both (R54, R90, R185). -/
def Part.noticed (p : Part) : Prop :=
  ∀ i, p.line.poleCopy.get i = (p.poles.get i).state ∧ p.keptPoles.get i = (p.poles.get i).state

/-- The five properties together: an invariant of the machine. -/
def Part.good (p : Part) : Prop := p.mbx.accounted ∧ p.interlocked ∧ p.poleClaims ∧ p.blindOnWire ∧ p.noticed

/-- The configuration check is that of the loaded tables (R175); the reactions of POLE_DEWIRED and ALARM_OUTPUT are the fixed
ones (R160). -/
def Tables.faithful (t : Tables) : Prop :=
  t.check = t.checkValue ∧ t.reactions.get (kindIndex .poleDewired) = defaultReactions.get (kindIndex .poleDewired)
    ∧ t.reactions.get (kindIndex .alarmOutput) = defaultReactions.get (kindIndex .alarmOutput)

/-- REPORTS_HELD is set while records are held and the Report chain is PARKED or BROKEN, and clear while none is held (R26). -/
def Mailbox.attended (m : Mailbox) : Prop :=
  (m.holding ≠ [] → m.chains.report.state ≠ .walking → m.attention.reportsHeld = true)
    ∧ (m.holding = [] → m.attention.reportsHeld = false)

/-! ### Words for the effects of one command -/

/-- The part with PART STATUS showing a command outcome and a set of missing tables, and nothing else changed (R25). -/
def Part.shows (p : Part) (o : CommandOutcome) (missing : BitVec 7) : Part :=
  { p with mbx := { p.mbx with outcome := o, missing := missing } }

/-- An access has been granted or waits for the port (R14). -/
def Port.requests (q : Port) (a : Access) : Prop := q.inFlight = some a ∨ q.waiting a.op.requester = some a

/-- A chain reads its anchor entry under the base `b` (R10). -/
def Mailbox.readsAnchor (m : Mailbox) (c : Chain) (b : Word) : Prop :=
  (m.chains.get c).state = .walking ∧ (m.chains.get c).phase = .anchorRead ∧ (m.chains.get c).rewindPending = false
    ∧ (m.chains.get c).rescanTimer = .stopped
    ∧ m.port.requests { op := .anchorRead c, addr := b + word (4 * chainNumber c), len := 1, data := [] }

/-- A chain reads the five-word header at `a`, for a walk or for a rescan (R6, R8). -/
def Mailbox.readsHeader (m : Mailbox) (c : Chain) (a : Word) (phase : WalkPhase) : Prop :=
  (m.chains.get c).state = .walking ∧ (m.chains.get c).phase = phase ∧ (m.chains.get c).cursor = some a
    ∧ (m.chains.get c).rescanPending = false ∧ (m.chains.get c).rescanTimer = .stopped
    ∧ m.port.requests { op := .headerRead c, addr := a, len := 5, data := [] }

/-- A chain that waited for `w` makes its rescan read: the anchor entry or the header at the cursor (R8). -/
def Mailbox.rescans (m : Mailbox) (c : Chain) (b : Word) (cursor : Option Word) (w : Wait) : Prop :=
  match cursor with
  | none => m.readsAnchor c b
  | some a => m.readsHeader c a (.rescanRead w)

/-- The rescan timer of a chain that has parked: stopped in LAYOVER, for wait RECORD and on a Report chain with no record
held; otherwise started with the chain's interval (R7, R8, R13). -/
def Part.parkedTimer (q : Part) (c : Chain) (w : Wait) : Timer :=
  if q.mode = .layover ∨ w = .record ∨ (c = .report ∧ q.mbx.holding = []) then .stopped
  else .running (q.now + word (rescanInterval q.tables.timers c))

/-- A chain is PARKED at a cursor with a wait, both flags clear. -/
def Part.parked (q : Part) (c : Chain) (cursor : Option Word) (w : Wait) : Prop :=
  (q.mbx.chains.get c).state = .parked ∧ (q.mbx.chains.get c).wait = w ∧ (q.mbx.chains.get c).cursor = cursor
    ∧ (q.mbx.chains.get c).phase = .rest ∧ (q.mbx.chains.get c).rescanPending = false
    ∧ (q.mbx.chains.get c).rewindPending = false ∧ (q.mbx.chains.get c).rescanTimer = q.parkedTimer c w

/-- What a chain that would park does, by the flags it stood with (R7, R10). -/
def Part.wouldPark (q : Part) (r : ChainRec) (c : Chain) (b : Word) (cursor : Option Word) (w : Wait) : Prop :=
  if r.rewindPending then q.mbx.readsAnchor c b
  else if r.rescanPending then q.mbx.rescans c b cursor w
  else q.parked c cursor w

/-- The other chains' records and the other requesters' waiting requests are unchanged. -/
def Mailbox.onlyChain (c : Chain) (m m' : Mailbox) : Prop :=
  (∀ d, d ≠ c → m'.chains.get d = m.chains.get d)
    ∧ ∀ r, r ≠ chainRequester c → m'.port.waiting r = m.port.waiting r

/-- The newest held record is this report, unless the list is full (R21, R22). -/
def Mailbox.newest (m : Mailbox) (kind : ReportKind) (block : Block) (inst : Nat) (tag : Word) (items : List Item) : Prop :=
  (∃ r, m.holding.getLast? = some r ∧ r.kind = kind ∧ r.block = block ∧ r.inst = inst ∧ r.tag = tag
      ∧ r.details = packItems items) ∨ 16 ≤ m.holding.length

/-- The collector state after an activation (R162). -/
def CollectorState.after (c : CollectorState) (x : Reactions) : CollectorState :=
  match c with
  | .fault => .fault
  | .normal => if x.escalate then .fault else if x.ackRequired then .alert else .normal
  | .alert => if x.escalate then .fault else .alert

/-- One activation of a kind other than ALARM_OUTPUT between two states, as the kind's record shows it (R158). -/
def Part.activated (p q : Part) (k : FaultKind) (s : Source) (items : List Item) : Prop :=
  (q.faults.get k).unack = true ∧ (q.faults.get k).test = false ∧ (q.faults.get k).testHold = .stopped
    ∧ (q.faults.get k).count = countUp (p.faults.get k).count 65535
    ∧ (q.faults.get k).first = (if (p.faults.get k).count = 0 then q.now else (p.faults.get k).first)
    ∧ (q.faults.get k).last = q.now ∧ (q.faults.get k).lastSource = s
    ∧ (q.faults.get k).lastDetail = (packItems items).headD 0
    ∧ (isEdge k s.cause = true → (q.faults.get k).edgeHold = .running (q.now + word q.tables.timers.minOnTime)
        ∧ (q.faults.get k).sources = (p.faults.get k).sources)
    ∧ (isEdge k s.cause = false → s ∈ (q.faults.get k).sources ∧ ∀ x ∈ (p.faults.get k).sources, x ∈ (q.faults.get k).sources)

/-- One raise of a kind is the only report of an event, but for the COLLECTOR_CHANGED it may bring (R161, R162). -/
def Part.oneRaise (p q : Part) (k : FaultKind) : Prop :=
  q.faults.state = p.faults.state.after (p.reactions k)
    ∧ q.mbx.raised = p.mbx.raised + 1 + (if q.faults.state = p.faults.state then 0 else 1)
    ∧ ∀ x, x ≠ k → x ≠ .alarmOutput → q.faults.get x = p.faults.get x

/-- A source is no longer in force for a kind (R159). -/
def Part.endedFault (q : Part) (k : FaultKind) (s : Source) : Prop := s ∉ (q.faults.get k).sources

/-- A waiting request has been granted, its burst in flight with its data as they stand at the grant (R14, R24). -/
def Part.granted (p : Part) (r : Requester) (a : Access) : Part := { p with mbx := p.mbx.grantTo r a }

/-- A chain has become BROKEN at a phase: flags clear, timer stopped, the cursor where it was, CHAIN_BROKEN set and raised
(R10, R11). -/
def Part.brokeChain (p q : Part) (c : Chain) (phase : BreakPhase) : Prop :=
  (q.mbx.chains.get c).state = .broken ∧ (q.mbx.chains.get c).phase = .rest
    ∧ (q.mbx.chains.get c).rescanPending = false ∧ (q.mbx.chains.get c).rewindPending = false
    ∧ (q.mbx.chains.get c).rescanTimer = .stopped
    ∧ (q.mbx.chains.get c).cursor = (p.mbx.chains.get c).cursor
    ∧ q.mbx.attention.chainBroken = true
    ∧ p.activated q .chainBroken { block := .mailboxPort, inst := chainNumber c }
        [.large ((p.mbx.chains.get c).cursor.getD 0), .small (breakPhaseCode phase)]

/-- A chain goes to a valid card: the header is read, or the Report chain with no record held would park on it (R7, R10). -/
def Part.goesTo (q : Part) (r : ChainRec) (c : Chain) (b : Word) (a : Word) : Prop :=
  if c = .report ∧ q.mbx.holding = [] then q.wouldPark r c b (some a) .record else q.mbx.readsHeader c a .headerRead

/-- The outcome of a decided card is being written: the returned data first, then the detail (R3, R14). -/
def Mailbox.writesOutcome (m : Mailbox) (c : Chain) (a : Word) (v : Verdict) : Prop :=
  (m.chains.get c).card.result = v.result ∧ (m.chains.get c).card.detail = v.detail
    ∧ (v.data = [] → (m.chains.get c).phase = .detailWrite
        ∧ m.port.requests { op := .detailWrite c, addr := a + 16, len := 1, data := [v.detail] })
    ∧ (v.data ≠ [] → (m.chains.get c).phase = .dataWrite
        ∧ m.port.requests { op := .dataWrite c, addr := a + 20, len := (v.data.take 16).length, data := v.data.take 16 })

/-- The owner's answer to the card in hand, by the generic checks of R4 and the owner (R6); the auxiliaries that entered the
restart queue in the event have their entry orders (R146). -/
def Part.decided (p q : Part) (c : Chain) (a : Word) : Prop :=
  q.mbx.writesOutcome c a (p.verdictOn c).2 ∧ ((p.verdictOn c).1.orderEntries p).onlyChanges [.chains, .port] q

/-! ### Words for the effects of an event: `p` before it, `q` after it -/

/-- The holding list tells of a report, unless it is full (R21, R22). -/
def Mailbox.tells (m : Mailbox) (kind : ReportKind) (block : Block) (inst : Nat) (tag : Word) (items : List Item) : Prop :=
  (∃ r ∈ m.holding, r.kind = kind ∧ r.block = block ∧ r.inst = inst ∧ r.tag = tag ∧ r.details = packItems items)
    ∨ 16 ≤ m.holding.length

/-- A pole's raise and retriever outputs are commanded so (R45). -/
def Part.driven (p q : Part) (i : PoleId) (raising retriever : Bool) : Prop :=
  (∀ o, p.outputFor (.raise i) = some o → (q.output o).commanded = raising)
    ∧ ∀ o, p.outputFor (.retriever i) = some o → (q.output o).commanded = retriever

/-- The source of a fault about a pole (section 9.2). -/
def aboutPole (i : PoleId) (c : SourceCause) : Source := { block := .poleMonitor, inst := poleNumber i, cause := c }

/-- A pole begins lowering; with its housed contact CLOSED it is HOUSED in the same event (R104, R105). -/
def Part.lowers (p q : Part) (i : PoleId) (cause : LoweringCause) (tag : Word) (zone : Option TagId) : Prop :=
  (q.poles.get i).state = (if p.housedClosed i then .housed else .lowering)
    ∧ (q.poles.get i).indicators = {} ∧ (q.poles.get i).blind = false ∧ (q.poles.get i).confirmTimer = .stopped
    ∧ p.driven q i false true
    ∧ (p.housedClosed i = false →
        (q.poles.get i).lowering = cause ∧ (q.poles.get i).requestTag = tag ∧ (q.poles.get i).zoneId = zone
        ∧ (q.poles.get i).lowerStart = p.now ∧ (q.poles.get i).lowerTimer = p.startTimer p.tables.timers.lowerTime
        ∧ q.gov.inhibit.polesMoving = true)
    ∧ (p.housedClosed i = true →
        (q.poles.get i).lowerTimer = .stopped ∧ (q.poles.get i).holdTimer = p.startTimer 500
        ∧ (q.poles.get i).lowering = .none
        ∧ q.mbx.tells .lowerComplete .poleMonitor (poleNumber i) tag
            (.small (loweringCode cause) :: bigNat 0 :: (if cause = .zone then zoneItem zone else [])))

/-- A retry follows a raise that ends so (R100). -/
def Part.retries (p : Part) (i : PoleId) (cause : AbandonCause) : Bool :=
  decide ((cause = .timeout ∨ cause = .aboveBand) ∧ (p.poles.get i).retryCount < p.tables.timers.raiseRetries)

/-- A RAISING pole abandons its raise, and RAISE_ABANDONED is reported under the raise's tag, with the zone of a zone raise last
among its items (R100, R107, assumption log 11). -/
def Part.abandons (p q : Part) (i : PoleId) (cause : AbandonCause) : Prop :=
  (q.poles.get i).state = (if p.housedClosed i then .housed else .lowering) ∧ (q.poles.get i).abandon = cause
    ∧ (q.poles.get i).raiseTimer = .stopped ∧ (q.poles.get i).settleTimer = .stopped ∧ p.driven q i false true
    ∧ (p.housedClosed i = false →
        (q.poles.get i).lowering = .abandonedRaise
        ∧ (q.poles.get i).lowerTimer = p.startTimer p.tables.timers.lowerTime ∧ q.gov.inhibit.polesMoving = true)
    ∧ (p.housedClosed i = true → (q.poles.get i).retryPending = p.retries i cause
        ∧ (q.poles.get i).holdTimer = p.startTimer 500)
    ∧ q.mbx.tells .raiseAbandoned .poleMonitor (poleNumber i) (p.poles.get i).requestTag
        ([.small (abandonCode cause), .small ((p.poles.get i).retryCount + 1), bigNat (q.poles.get i).elevation,
          bigInt (q.poles.get i).lateral, .small (flagCode (p.retries i cause))]
        ++ if (p.poles.get i).origin = .zone then zoneItem (p.poles.get i).zoneId else [])

/-- A pole begins raising; without sensor data the raise is abandoned in the same event (R97). -/
def Part.raises (p q : Part) (i : PoleId) (origin : RaiseOrigin) (tag : Word) (zone : Option TagId) : Prop :=
  ((p.poles.get i).sensorAvailable = true →
      (q.poles.get i).state = .raising ∧ (q.poles.get i).origin = origin ∧ (q.poles.get i).requestTag = tag
      ∧ (q.poles.get i).zoneId = zone ∧ (q.poles.get i).retryCount = 0 ∧ (q.poles.get i).startTime = p.now
      ∧ (q.poles.get i).raiseTimer = p.startTimer p.tables.timers.raiseTime ∧ p.driven q i true false
      ∧ q.gov.inhibit.polesMoving = true)
    ∧ ((p.poles.get i).sensorAvailable = false →
      (q.poles.get i).state = (if p.housedClosed i then .housed else .lowering)
      ∧ (q.poles.get i).abandon = .sensorLost ∧ p.driven q i false true
      ∧ q.mbx.tells .raiseAbandoned .poleMonitor (poleNumber i) tag
          ([.small (abandonCode .sensorLost), .small 1, bigNat (p.poles.get i).elevation,
            bigInt (p.poles.get i).lateral, .small 0] ++ if origin = .zone then zoneItem zone else []))

/-- A pole is confirmed DEWIRED on the set `ind`, and its mate lowers where POLE_LIMITS says so (R83, R84). -/
def Part.dewires (p q : Part) (i : PoleId) (basis : DewireBasis) (ind : Indicators) (blind : Bool) : Prop :=
  (q.poles.get i).state = .dewired ∧ (q.poles.get i).confirmTimer = .stopped ∧ (q.poles.get i).indicators = {}
    ∧ (q.poles.get i).blind = false ∧ (q.poles.get i).lowerTimer = p.startTimer p.tables.timers.lowerTime
    ∧ (q.poles.get i).latch = true ∧ (q.poles.get i).latchAck = false ∧ p.driven q i false true
    ∧ q.line.state = .lost ∧ q.gov.inhibit.poleDewired = true
    ∧ p.activated q .poleDewired (aboutPole i .none)
        [.small (indicatorsCode ind), .small basis.ctorIdx, bigNat (q.poles.get i).elevation,
         bigInt (q.poles.get i).lateral, .small (flagCode blind), .small (flagCode p.zones.effective.gapExpected)]
    ∧ ((p.tables.poleLimits.get i).mateLowering = true → (p.poles.get (mateOf i)).onLine = true →
        p.lowers q (mateOf i) .mateDewired 0 none)

/-- The Pole Monitor looks at the new set of an ON_WIRE or SUSPECT pole (R78, R79). -/
def Part.looks (p q : Part) (i : PoleId) (ind : Indicators) (blind : Bool) : Prop :=
  (ind.trip = true → p.dewires q i .trip ind blind)
    ∧ (ind.trip = false → 2 ≤ ind.count → p.dewires q i .twoIndicators ind blind)
    ∧ (ind.trip = false → ind.count < 2 →
        (q.poles.get i).indicators = ind ∧ (q.poles.get i).latch = (p.poles.get i).latch
        ∧ ((p.poles.get i).state = .suspect →
            (q.poles.get i).state = .suspect ∧ (q.poles.get i).confirmTimer = (p.poles.get i).confirmTimer
            ∧ (q.poles.get i).seen = (p.poles.get i).seen.union ind)
        ∧ ((p.poles.get i).state = .onWire → ind.count = 1 → ¬ (ind.lineGap = true ∧ (p.poles.get i).gapSpent = true) →
            (q.poles.get i).state = .suspect ∧ (q.poles.get i).seen = ind
            ∧ (q.poles.get i).confirmTimer = p.startTimer p.tables.timers.confirmWindow
            ∧ q.gov.inhibit.poleSuspect = true)
        ∧ ((p.poles.get i).state = .onWire → ind.count = 0 ∨ (ind.lineGap = true ∧ (p.poles.get i).gapSpent = true) →
            (q.poles.get i).state = .onWire))

/-- The rate run after a data frame (R75). -/
def Part.frameRun (p : Part) (i : PoleId) (elevation : Nat) : Nat :=
  match frameRate p (p.poles.get i) elevation with
  | some r => if r.above (p.tables.poleLimits.get i).rateLimit then countUp (p.poles.get i).rateRun 8 else 0
  | none => 0

/-- The indicator set after a data frame (R74, R75). -/
def Part.frameSet (p : Part) (i : PoleId) (elevation : Nat) (lateral : Int) : Indicators :=
  { (p.poles.get i).indicators with
    elevHigh := decide (p.ceiling i < elevation), lateral := decide (p.lateralLimit i < lateral.natAbs),
    elevRate := decide ((p.tables.poleLimits.get i).rateFrames ≤ p.frameRun i elevation) }

/-- The angles and the last line voltage put the pole on the wire (R72, R98). -/
def Part.onWireAt (p : Part) (i : PoleId) (elevation : Nat) (lateral : Int) : Prop :=
  (p.tables.poleLimits.get i).bandLow ≤ elevation ∧ elevation ≤ (p.tables.poleLimits.get i).bandHigh
    ∧ lateral.natAbs ≤ p.lateralLimit i ∧ 4 * p.tables.lineLimits.gapThreshold < p.line.voltage

/-- A RAISING pole's data frame (R98). -/
def Part.raisingFrame (p q : Part) (i : PoleId) (elevation : Nat) (lateral : Int) : Prop :=
  (p.ceiling i < elevation → p.abandons q i .aboveBand)
    ∧ (elevation ≤ p.ceiling i → (q.poles.get i).state = .raising
        ∧ (p.onWireAt i elevation lateral →
            (q.poles.get i).settleTimer = if (p.poles.get i).settleTimer.isRunning then (p.poles.get i).settleTimer
              else p.startTimer p.tables.timers.settleTime)
        ∧ (¬ p.onWireAt i elevation lateral → (q.poles.get i).settleTimer = .stopped))

/-- A resolving pole tries to resolve on its angles (R72); entering ON_WIRE it finds TRIP present at once (R77). -/
def Part.triesToResolve (p q : Part) (i : PoleId) (elevation : Nat) (lateral : Int) : Prop :=
  (p.housedClosed i = true → elevation < (p.tables.poleLimits.get i).housed →
      (q.poles.get i).state = .housed ∧ (q.poles.get i).resolving = false
      ∧ (q.poles.get i).resolutionTimer = .stopped
      ∧ q.mbx.tells .poleResolved .poleMonitor (poleNumber i) (p.poles.get i).resolveTag
          [.small (poleStateCode .housed), .small 0])
    ∧ (p.housedClosed i = false ∨ (p.tables.poleLimits.get i).housed ≤ elevation → p.onWireAt i elevation lateral →
      (q.poles.get i).resolving = false ∧ (q.poles.get i).resolutionTimer = .stopped
      ∧ q.mbx.tells .poleResolved .poleMonitor (poleNumber i) (p.poles.get i).resolveTag
          [.small (poleStateCode .onWire), .small 0]
      ∧ (p.tripClosed i = false → (q.poles.get i).state = .onWire ∧ (q.poles.get i).indicators = {})
      ∧ (p.tripClosed i = true → (q.poles.get i).state = .dewired ∧ (q.poles.get i).latch = true))
    ∧ (p.housedClosed i = false ∨ (p.tables.poleLimits.get i).housed ≤ elevation → ¬ p.onWireAt i elevation lateral →
      (q.poles.get i).state = (p.poles.get i).state ∧ (q.poles.get i).resolving = true)

/-- A FAULTED pole that CLEAR_POLE has made UNTRACKED and resolving under its tag (R73). -/
def Part.withResolving (p : Part) (i : PoleId) (tag : Word) : Part :=
  p.setPole i { p.poles.get i with state := .untracked, resolving := true, resolveTag := tag }

/-- A data frame of a pole sensor, delivered in GOOD (R69, R72, R74, R75, R78, R79, R82, R98). -/
def Part.takesPoleData (p q : Part) (i : PoleId) (c : SensorCondition) (elevation : Nat) (lateral : Int) : Prop :=
  (q.poles.get i).elevation = elevation ∧ (q.poles.get i).lateral = lateral ∧ (q.poles.get i).frameTime = p.now
    ∧ (q.poles.get i).condition = c ∧ (q.poles.get i).sensorAvailable = true ∧ (q.poles.get i).blind = false
    ∧ ((p.poles.get i).blind = true → q.endedFault .poleSensor (aboutPole i .blind))
    ∧ ((p.poles.get i).onLine = true →
        (q.poles.get i).rateRun = p.frameRun i elevation ∧ p.looks q i (p.frameSet i elevation lateral) false)
    ∧ ((p.poles.get i).state = .raising → p.raisingFrame q i elevation lateral)
    ∧ ((p.poles.get i).onLine = false → (p.poles.get i).state ≠ .raising → (p.poles.get i).resolving = true →
        p.triesToResolve q i elevation lateral)
    ∧ ((p.poles.get i).onLine = false → (p.poles.get i).state ≠ .raising → (p.poles.get i).resolving = false →
        (q.poles.get i).state = (p.poles.get i).state
        ∧ p.onlyChanges [.links, .poles, .outputs, .records, .free] q)

/-- A pole's sensor stops giving data (R69, R81, R100). -/
def Part.losesSensor (p q : Part) (i : PoleId) (link : LinkState) (c : SensorCondition) : Prop :=
  (q.poles.get i).sensorAvailable = false ∧ (q.poles.get i).condition = c
    ∧ (q.poles.get i).elevation = (p.poles.get i).elevation ∧ (q.poles.get i).lateral = (p.poles.get i).lateral
    ∧ ((p.poles.get i).sensorAvailable = false ∨ ((p.poles.get i).onLine = false ∧ (p.poles.get i).state ≠ .raising) →
        (q.poles.get i).state = (p.poles.get i).state ∧ p.onlyChanges [.links, .poles] q)
    ∧ ((p.poles.get i).sensorAvailable = true → (p.poles.get i).onLine = true →
        (q.poles.get i).state = (p.poles.get i).state ∧ (q.poles.get i).blind = true ∧ (q.poles.get i).rateRun = 0
        ∧ (q.poles.get i).indicators
            = { (p.poles.get i).indicators with elevHigh := false, elevRate := false, lateral := false }
        ∧ p.activated q .poleSensor (aboutPole i .blind)
            [.small (sourceCauseCode .blind), .small (linkStateCode link), .small (conditionCode c)])
    ∧ ((p.poles.get i).sensorAvailable = true → (p.poles.get i).state = .raising → p.abandons q i .sensorLost)

/-- The line state after a pole state notice, with the copies as they then stand (R54, R55). -/
def lineAfterNotice (l : LineState) (copy : PerPole PoleState) (entered : PoleState) : LineState :=
  if l = .gap ∧ copy.p ∈ [PoleState.lowering, .housed] ∧ copy.n ∈ [PoleState.lowering, .housed] then .offWire
  else if l ∈ [LineState.live, .sag, .high, .lost] ∧ copy.p = .housed ∧ copy.n = .housed then .offWire
  else if l = .offWire ∧ (entered = .onWire ∨ entered = .suspect) then .lost
  else l

/-- The line state and the copies of the poles' states after the notices of an event, taken one by one (R54, R55, R90). -/
def afterNotices (l : LineState × PerPole PoleState) (ns : List (PoleId × PoleState)) : LineState × PerPole PoleState :=
  ns.foldl (fun l n => (lineAfterNotice l.1 (l.2.set n.1 n.2) n.2, l.2.set n.1 n.2)) l

/-- The Line Supervisor follows the pole state notices of an event that moves the line in no other way (R54, R55, R90). -/
def Part.lineFollows (p q : Part) (ns : List (PoleId × PoleState)) : Prop :=
  (q.line.state, q.line.poleCopy) = afterNotices (p.line.state, p.line.poleCopy) ns

/-- The notices of a pole that begins lowering, HOUSED in the same event if its housed contact is CLOSED (R104). -/
def Part.loweringNotices (p : Part) (i : PoleId) : List (PoleId × PoleState) :=
  (i, .lowering) :: if p.housedClosed i then [(i, .housed)] else []

/-- A confirmed change of a pole's housed contact is delivered (R54, R85, R86, R88, R101, R105). -/
def Part.housedChanges (p q : Part) (i : PoleId) (l : Level) : Prop :=
  (l = .closed → (p.poles.get i).state = .dewired ∨ (p.poles.get i).state = .lowering →
      (q.poles.get i).state = .housed ∧ (q.poles.get i).lowerTimer = .stopped
      ∧ (q.poles.get i).holdTimer = p.startTimer 500
      ∧ (q.poles.get i).latch = ((p.poles.get i).latch && !(p.poles.get i).latchAck)
      ∧ p.lineFollows q [(i, .housed)])
    ∧ (l = .closed → (p.poles.get i).state = .dewired → q.endedFault .poleDewired (aboutPole i .none))
    ∧ (l = .closed → (p.poles.get i).state = .lowering →
      (q.poles.get i).lowering = .none
      ∧ ((p.poles.get i).lowering ≠ .abandonedRaise →
          q.mbx.tells .lowerComplete .poleMonitor (poleNumber i) (p.poles.get i).requestTag
            (.small (loweringCode (p.poles.get i).lowering) :: bigNat (p.since (p.poles.get i).lowerStart)
              :: if (p.poles.get i).lowering = .zone then zoneItem (p.poles.get i).zoneId else []))
      ∧ ((p.poles.get i).lowering = .abandonedRaise → p.retries i (p.poles.get i).abandon = true →
          (q.poles.get i).retryPending = true)
      ∧ ((p.poles.get i).lowering = .abandonedRaise → p.retries i (p.poles.get i).abandon = false →
          (q.poles.get i).origin = .none ∧ (q.poles.get i).retryCount = 0
          ∧ ((p.poles.get i).abandon = .timeout ∨ (p.poles.get i).abandon = .aboveBand →
              p.activated q .raiseFailed (aboutPole i .none)
                ([.small (abandonCode (p.poles.get i).abandon), .small ((p.poles.get i).retryCount + 1),
                  .small (originCode (p.poles.get i).origin)] ++ zoneItem (p.poles.get i).zoneId))))
    ∧ (l = .opened → (p.poles.get i).state = .housed →
      p.lowers q i .unhoused 0 none ∧ (q.poles.get i).retryPending = false ∧ p.lineFollows q (p.loweringNotices i)
      ∧ p.activated q .poleSensor (aboutPole i .unhoused)
          [.small (sourceCauseCode .unhoused), bigNat (p.poles.get i).elevation])
    ∧ ((l = .closed → (p.poles.get i).state ≠ .dewired ∧ (p.poles.get i).state ≠ .lowering) →
      (l = .opened → (p.poles.get i).state ≠ .housed) → q = p)

/-- A confirmed change of a pole's retriever trip contact is delivered (R77, R78, R100). -/
def Part.tripChanges (p q : Part) (i : PoleId) (l : Level) : Prop :=
  ((p.poles.get i).onLine = true →
      p.looks q i { (p.poles.get i).indicators with trip := l == .closed } (p.poles.get i).blind)
    ∧ ((p.poles.get i).state = .raising → l = .closed → p.abandons q i .trip ∧ p.lineFollows q (p.loweringNotices i))
    ∧ ((p.poles.get i).onLine = false → (p.poles.get i).state ≠ .raising ∨ l = .opened → q = p)

/-! ### Words for the line -/

/-- The gap tolerance of a gap that begins now (R50). -/
def Part.tolerated (p : Part) : Nat :=
  if p.zones.effective.gapExpected then p.zones.effective.gapTolerance else p.tables.timers.gapTolerance

/-- The Power Budget record as a recompute leaves it (R61): powers in 0.1 kW, voltages in 0.25 V, the regen cap in A. -/
def Line.budgeted (l : Line) (t : Tables) : Prop :=
  (l.state ∈ [LineState.live, .high] → l.budget.available = t.budget.lineLimit)
    ∧ (l.state = .sag → t.lineLimits.gapThreshold < t.lineLimits.lowLimit →
        l.budget.available = min t.budget.lineLimit (t.budget.lineLimit * (l.voltage - 4 * t.lineLimits.gapThreshold)
          / (4 * (t.lineLimits.lowLimit - t.lineLimits.gapThreshold))))
    ∧ (l.state.supplied = true → l.budget.source = .line
        ∧ l.budget.regenCap = if l.state = .high then 0 else t.budget.regenLimit)
    ∧ (l.state.supplied = false → l.battery.available = true →
        l.budget.available = l.battery.discharge ∧ l.budget.source = .battery
        ∧ (0 < t.budget.nominal → l.budget.regenCap = l.battery.charge * 100 / t.budget.nominal))
    ∧ (l.state.supplied = false → l.battery.available = false →
        l.budget.available = 0 ∧ l.budget.source = .none ∧ l.budget.regenCap = 0)
    ∧ l.budget.claims = (allAux.map (fun a => (l.grants.get a).getD 0)).sum ∧ l.budget.reserve = t.budget.reserve
    ∧ l.budget.allowance = l.budget.available - l.budget.claims - l.budget.reserve

/-- The restore timer as its conditions leave it, read with the copies of `q` and with the gap threshold as it stands (R56,
assumption log 37). -/
def Part.restoring (p q : Part) (before : Timer) : Timer :=
  if 4 * q.tables.lineLimits.gapThreshold ≤ q.line.voltage ∧ q.line.poleCopy.p = .onWire ∧ q.line.poleCopy.n = .onWire then
    if before.isRunning then before else p.startTimer p.tables.timers.restoreTime
  else .stopped

/-- A pole state notice reaches the Line Supervisor, the Zone Matcher and the mode logic (R54 to R56, R90, R124, R185). -/
def Part.takesNotice (p q : Part) (i : PoleId) (entered : PoleState) : Prop :=
  p.lineFollows q [(i, entered)] ∧ q.keptPoles = p.keptPoles.set i entered
    ∧ (∀ j, (q.poles.get j).state = (p.poles.get j).state)
    ∧ q.zones.active.map (·.events) = p.zones.active.map (fun z => z.events.set i ((z.events.get i).add entered))
    ∧ (q.line.state ≠ p.line.state → q.line.budgeted q.tables)
    ∧ (p.line.state = .gap → q.line.state = .offWire →
        q.line.gapTimer = .stopped ∧ ∀ z ∈ q.zones.active, z.gapCount ≠ 0 → z.lastGap = some .offWire)
    ∧ (p.line.state = .lost → q.line.state = .offWire →
        q.line.restoreTimer = .stopped ∧ q.endedFault .lineLost { block := .lineSupervisor })
    ∧ (p.line.state = .offWire → q.line.state = .lost →
        q.faults.get .lineLost = p.faults.get .lineLost ∧ q.line.restoreTimer = p.restoring q .stopped)
    ∧ (q.line.state = p.line.state → q.line.state = .lost ∨ q.line.state = .unknown →
        q.line.restoreTimer = p.restoring q p.line.restoreTimer)
    ∧ p.onlyChanges (linePieces ++ [.keptPoles]) q

/-- The line takes a data frame whose poles' sets call for nothing (R48 to R57, R61, R62, R76). -/
def Part.takesConverterData (p q : Part) (v : Nat) (i : Int) : Prop :=
  q.line.voltage = v ∧ q.line.current = i
    ∧ (q.line.state ≠ p.line.state ∨ q.line.state = .sag → q.line.budgeted q.tables)
    ∧ (p.line.state.supplied = true → 4 * p.tables.lineLimits.gapThreshold ≤ v →
        q.line.state = classify p.tables.lineLimits p.line.state v ∧ q.poles = p.poles
        ∧ (q.line.state = .high → p.line.state ≠ .high →
            q.line.highTimer = p.startTimer p.tables.timers.highPersist ∧ q.line.highEntry = p.now))
    ∧ (p.line.state.supplied = true → v < 4 * p.tables.lineLimits.gapThreshold → p.bothDownBound = true →
        q.line.state = .offWire ∧ q.poles = p.poles)
    ∧ (p.line.state.supplied = true → v < 4 * p.tables.lineLimits.gapThreshold → p.bothDownBound = false →
        (p.tolerated ≠ 0 → p.zones.effective.gapExpected = true ∨ (∀ x, (p.poles.get x).indicators = {}) →
          q.line.state = .gap ∧ q.line.gapTimer = p.startTimer p.tolerated
          ∧ q.line.gap.entry = p.now ∧ q.line.gap.before = p.line.state ∧ q.line.gap.tolerance = p.tolerated
          ∧ q.line.gap.expected = p.zones.effective.gapExpected ∧ q.line.gap.peak = i.natAbs
          ∧ q.zones.active.map (·.gapCount) = p.zones.active.map (fun z => countUp z.gapCount 255)
          ∧ (p.zones.effective.gapExpected = true → q.poles = p.poles)
          ∧ (p.zones.effective.gapExpected = false → ∀ x, (p.poles.get x).onLine = true →
              (q.poles.get x).state = .suspect ∧ (q.poles.get x).indicators = { lineGap := true }
              ∧ ((p.poles.get x).state = .onWire → q.gov.inhibit.poleSuspect = true
                  ∧ (q.poles.get x).confirmTimer = p.startTimer p.tables.timers.confirmWindow)))
        ∧ (p.tolerated = 0 →
          q.line.state = .lost
          ∧ p.activated q .lineLost { block := .lineSupervisor }
              [bigNat 0, .small (lineStateCode p.line.state), .small (flagCode p.zones.effective.gapExpected),
               bigNat i.natAbs]))
    ∧ (p.line.state = .gap →
        (2 * p.tables.lineLimits.gapDraw < i.natAbs → p.line.gap.drawRaised = false →
          p.activated q .gapDraw { block := .lineSupervisor }
            [bigInt i, bigNat (p.since p.line.gap.entry), .small (lineStateCode p.line.gap.before)])
        ∧ q.line.gap.peak = max p.line.gap.peak i.natAbs
        ∧ (v < 4 * p.tables.lineLimits.gapThreshold → q.line.state = .gap ∧ q.line.gapTimer = p.line.gapTimer)
        ∧ (4 * p.tables.lineLimits.gapThreshold ≤ v →
            q.line.state = classify p.tables.lineLimits p.line.gap.before v ∧ q.line.gapTimer = .stopped
            ∧ q.line.gap.duration = p.since p.line.gap.entry
            ∧ (∀ z ∈ q.zones.active, z.gapCount ≠ 0 → z.lastGap = some .bridged)
            ∧ ∀ x, (p.poles.get x).onLine = true → (q.poles.get x).indicators.lineGap = false))
    ∧ (p.line.state = .lost ∨ (p.line.state = .unknown ∧ p.bothHoused = false) →
        q.line.state = p.line.state
        ∧ (4 * p.tables.lineLimits.gapThreshold ≤ v → p.line.poleCopy.p = .onWire → p.line.poleCopy.n = .onWire →
            q.line.restoreTimer = if p.line.restoreTimer.isRunning then p.line.restoreTimer
              else p.startTimer p.tables.timers.restoreTime)
        ∧ (v < 4 * p.tables.lineLimits.gapThreshold ∨ p.line.poleCopy.p ≠ .onWire ∨ p.line.poleCopy.n ≠ .onWire →
            q.line.restoreTimer = .stopped))
    ∧ (p.line.state = .unknown → p.bothHoused = true → q.line.state = .offWire)
    ∧ (p.line.state = .offWire → q.line = { p.line with voltage := v, current := i })

/-! ### Words for zones -/

/-- The zones that enter, in queue order (R118 step 2). -/
def Zones.entering (z : Zones) : List Zone := z.pendingZones.takeWhile (fun x => z.reached x.start)

/-- An active set with a zone entered: of four, the one of lowest precedence is displaced (R119, R120). -/
def withEntered (odometer : Word) (active : List Zone) (z : Zone) : List Zone :=
  (match (sortBy (zoneBefore odometer) active).getLast? with
    | some x => if 4 ≤ active.length then active.filter (·.order != x.order) else active
    | none => active) ++ [z]

/-- A zone's record without what it has observed and done. -/
def Zone.asArrived (z : Zone) : Zone :=
  { z with gapCount := 0, lastGap := none, longest := 0, peak := 0, events := ⟨{}, {}⟩, action := .pending }

/-- A pole's state, resolving flag and dewire latch are as they were, so that the claims are not tested (R91). -/
def Part.watchesAlike (p q : Part) (i : PoleId) : Prop :=
  (q.poles.get i).state = (p.poles.get i).state ∧ (q.poles.get i).resolving = (p.poles.get i).resolving
    ∧ (q.poles.get i).latch = (p.poles.get i).latch

/-- Steps 2 and 3 of R118: the reached zones enter and the effective profile follows; `ended` says that step 1 ended zones. -/
def Part.entersZones (p q : Part) (ended : Bool) : Prop :=
  q.zones.pendingZones = p.zones.pendingZones.dropWhile (fun z => p.zones.reached z.start)
    ∧ q.zones.active = p.zones.entering.foldl (withEntered p.zones.odometer) p.zones.active
    ∧ q.zones.effective = (if ended = true ∨ p.zones.entering ≠ [] then
        effectiveOf (q.zones.precedence.map (fun z => p.tables.profile z.profile)) else p.zones.effective)
    ∧ q.zones.odometer = p.zones.odometer ∧ q.zones.speed = p.zones.speed
    ∧ (p.zones.entering = [] → p.onlyChanges [.zones] q)
    ∧ p.onlyChanges (raisePieces ++ [.zones]) q

/-- An active zone ends (R123, R125). -/
def Part.endsZone (p q : Part) (z : Zone) (cause : EndCause) (tag : Word) : Prop :=
  q.zones = { p.zones with active := p.zones.active.filter (·.order != z.order) }
    ∧ (z.action = .waiting → p.activated q .rewireMissed { block := .zoneMatcher, inst := identityCode z.id }
        [.small z.feature, .small 2, .small 0xFF, bigNat p.zones.speed])
    ∧ (cause = .displaced → q.mbx.newest .zoneDisplaced .zoneMatcher (identityCode z.id) tag (z.atEnd.endItems cause))
    ∧ (cause ≠ .displaced → (p.tables.profile z.profile).reportOnPass = true ∨ z.observed = true →
        q.mbx.newest .zonePassed .zoneMatcher (identityCode z.id) tag (z.atEnd.endItems cause))
    ∧ (cause ≠ .displaced → (p.tables.profile z.profile).reportOnPass = false → z.observed = false →
        z.action ≠ .waiting → p.onlyChanges [.zones] q)
    ∧ p.onlyChanges (raisePieces ++ [.zones]) q

/-- The action of an active zone stands at a value. -/
def Part.actionIs (q : Part) (order : Nat) (a : ActionState) : Prop := ∀ x ∈ q.zones.active, x.order = order → x.action = a

/-- A zone raise request is made for an active zone and its answer followed (R107, R122, R123). -/
def Part.asksRaise (p q : Part) (z : Zone) : Prop :=
  (p.mode = .run → p.zones.speed ≤ 10 * p.tables.timers.raiseSpeed →
      (∀ i, (p.poles.get i).state = .housed ∧ (p.poles.get i).latch = false) →
      (∀ i, p.raises q i .zone 0 (some z.id)) ∧ q.actionIs z.order .done ∧ ∀ x ∈ q.zones.active, x.action ≠ .waiting)
    ∧ (p.mode = .run → 10 * p.tables.timers.raiseSpeed < p.zones.speed →
      (∀ i, (p.poles.get i).state = .housed ∧ (p.poles.get i).latch = false) →
      q.actionIs z.order .waiting ∧ p.onlyChanges [.zones] q)
    ∧ (∀ why : Precondition,
      (p.mode ≠ .run ∧ why = .mode)
        ∨ (p.mode = .run ∧ p.stateOrLatch [.p, .n] = some why) →
      q.actionIs z.order .missed
      ∧ p.activated q .rewireMissed { block := .zoneMatcher, inst := identityCode z.id }
          [.small z.feature, .small why.code, .small why.poleCode, bigNat p.zones.speed]
      ∧ p.onlyChanges (raisePieces ++ [.zones]) q)

/-- A zone lower request reaches a pole in RUN (R106). -/
def Part.zoneLowers (p q : Part) (i : PoleId) (zone : TagId) : Prop :=
  ((p.poles.get i).onLine = true → p.lowers q i .zone 0 (some zone))
    ∧ ((p.poles.get i).state = .raising → p.abandons q i .zoneLower)
    ∧ ((p.poles.get i).onLine = false → (p.poles.get i).state ≠ .raising →
        (q.poles.get i).state = (p.poles.get i).state
        ∧ ((p.poles.get i).state = .housed → (q.poles.get i).retryPending = false))

/-- The pole action of a zone that has entered (R118 step 4, R122). -/
def Part.firesAction (p q : Part) (z : Zone) : Prop :=
  ((p.tables.profile z.profile).action = .none → q.actionIs z.order .done ∧ p.onlyChanges [.zones] q)
    ∧ ((p.tables.profile z.profile).action = .lower →
        q.actionIs z.order .done ∧ (p.mode ≠ .run → p.onlyChanges [.zones] q)
        ∧ (p.mode = .run → ∀ i, p.zoneLowers q i z.id))
    ∧ ((p.tables.profile z.profile).action = .raise → p.asksRaise q z)

/-- The record of a new zone (R115). -/
def Part.arriving (p : Part) (t : TagRead) (n : Nat) (e : WatchEntry) (z : Zone) : Prop :=
  z.id = t.id ∧ z.feature = t.feature ∧ z.entry = n ∧ z.profile = e.profile
    ∧ z.specific = (e.lineCare && e.placeCare && e.featureCare) ∧ z.order = p.zones.arrivals + 1
    ∧ z.start = p.zones.odometer + word (10 * t.distance)
    ∧ z.stop = z.start + word (10 * if t.length = 0 then p.tables.timers.pointWidth else t.length)
    ∧ z.action = .pending ∧ z.gapCount = 0

/-- An accepted tag is noted and matched; a zone whose start lies ahead joins the pending queue (R112, R114 to R117). -/
def Part.acceptsTag (p q : Part) (t : TagRead) : Prop :=
  q.zones.recent = (if p.zones.recent.any (·.id == t.id) then p.zones.recent.filter (·.id != t.id)
      else if p.zones.recent.length < 4 then p.zones.recent else p.zones.recent.drop 1)
      ++ [{ id := t.id, odometer := p.zones.odometer }]
    ∧ (∀ k < 512, q.zones.seen.getLsbD k = (p.zones.seen.getLsbD k || k == t.id.place))
    ∧ (p.firstFit t false = none →
        q.mbx.newest .tagUnmatched .zoneMatcher 0 0
          [bigNat (identityCode t.id), .small t.feature, bigNat t.distance, .small ((p.firstFit t true).getD 12)]
        ∧ q.zones = { p.zones with recent := q.zones.recent, seen := q.zones.seen }
        ∧ p.onlyChanges [.links, .zones, .reports, .chains, .port] q)
    ∧ (∀ n : Fin 12, p.firstFit t false = some n.val → (∀ y ∈ p.zones.pendingZones, p.zones.reached y.start = false) →
        q.zones.arrivals = p.zones.arrivals + 1
        ∧ (0 < t.distance → t.distance < 256 →
          q.zones.active = p.zones.active ∧ q.zones.effective = p.zones.effective
          ∧ (p.zones.pendingZones.length < 8 ∨ (∃ y ∈ p.zones.pendingZones, y.id = t.id) →
              (∃ z ∈ q.zones.pendingZones, p.arriving t n.val p.tables.watch[n] z)
              ∧ (∀ y ∈ p.zones.pendingZones, y.id ≠ t.id → y ∈ q.zones.pendingZones)
              ∧ (∀ y ∈ q.zones.pendingZones, y.id ≠ t.id → y ∈ p.zones.pendingZones)
              ∧ p.onlyChanges [.links, .zones] q)
          ∧ (p.zones.pendingZones.length = 8 → (∀ y ∈ p.zones.pendingZones, y.id ≠ t.id) →
              ∀ far, p.zones.pendingZones.getLast? = some far →
              (aheadOf far.start (p.zones.odometer + word (10 * t.distance)) = true →
                (∃ z ∈ q.zones.pendingZones, p.arriving t n.val p.tables.watch[n] z)
                ∧ (∀ y ∈ p.zones.pendingZones.dropLast, y ∈ q.zones.pendingZones)
                ∧ q.zones.pendingZones.length = 8
                ∧ p.activated q .zoneOverflow { block := .zoneMatcher }
                    [bigNat (identityCode far.id), .small far.feature, .large far.start, .small 1])
              ∧ (aheadOf far.start (p.zones.odometer + word (10 * t.distance)) = false →
                q.zones.pendingZones = p.zones.pendingZones
                ∧ p.activated q .zoneOverflow { block := .zoneMatcher }
                    [bigNat (identityCode t.id), .small t.feature,
                     .large (p.zones.odometer + word (10 * t.distance)), .small 0]))))
    ∧ (∀ n : Fin 12, p.firstFit t false = some n.val → p.zones.pendingZones = [] → t.distance = 0 →
        q.zones.pendingZones = []
        ∧ (p.zones.active.length < 4 → ∃ z, p.arriving t n.val p.tables.watch[n] z
          ∧ q.zones.active.map Zone.asArrived = (p.zones.active ++ [z]).map Zone.asArrived
          ∧ q.zones.effective = effectiveOf (q.zones.precedence.map (fun x => p.tables.profile x.profile))))

/-- A frame of the tag link, delivered in a link state (R111, R112). -/
def Part.takesTagFrame (p q : Part) (link : LinkState) (payload : List Byte) : Prop :=
  (link ≠ .good →
      q.mbx.newest .tagLinkNotReady .zoneMatcher 0 0
        [.small (linkStateCode link), .small (byteAt payload 0).toNat]
      ∧ p.onlyChanges [.links, .reports, .chains, .port] q)
    ∧ (link = .good → byteAt payload 0 = 0x10 → payload.length = 1 → p.onlyChanges [.links] q)
    ∧ (link = .good → ¬ (byteAt payload 0 = 0x10 ∧ payload.length = 1) → ¬ (byteAt payload 0 = 0x11 ∧ payload.length = 7) →
      q.mbx.newest .tagFrameInvalid .zoneMatcher 0 0 [.small payload.length, .small (byteAt payload 0).toNat]
      ∧ p.onlyChanges [.links, .reports, .chains, .port] q)
    ∧ (link = .good → byteAt payload 0 = 0x11 → payload.length = 7 →
      ((tagRead payload).quality < p.tables.timers.minQuality →
        q.mbx.newest .tagLowQuality .zoneMatcher 0 0
          [bigNat (identityCode (tagRead payload).id), .small (tagRead payload).feature, .small (tagRead payload).quality]
        ∧ p.onlyChanges [.links, .reports, .chains, .port] q)
      ∧ (p.tables.timers.minQuality ≤ (tagRead payload).quality → p.duplicateTag (tagRead payload).id = true →
        p.onlyChanges [.links] q)
      ∧ (p.tables.timers.minQuality ≤ (tagRead payload).quality → p.duplicateTag (tagRead payload).id = false →
        p.acceptsTag q (tagRead payload)))

/-! ### Words for the drive link, the auxiliaries and the mode -/

/-- The target of a computation under the two ceilings, in A, positive when motoring (R132). -/
def Part.targets (p : Part) (t : Int) : Prop :=
  (0 < p.gov.held → t = min (p.gov.held * p.tables.timers.motoringLimit / 1000) p.motoringCeiling)
    ∧ (p.gov.held = 0 → t = 0)
    ∧ (p.gov.held < 0 → t = -min (-p.gov.held * p.tables.timers.regenLimit / 1000) p.brakingCeiling)

/-- The setpoint `x` that lies one step from `last` toward the target `t`, before the bounds of the ceilings (R133). -/
def stepsToward (last t rise fall x : Int) : Prop :=
  (0 ≤ last → last ≤ t → x = min t (last + rise)) ∧ (0 ≤ t → t < last → x = max t (last - fall))
    ∧ (last ≤ 0 → t ≤ last → x = max t (last - rise)) ∧ (t ≤ 0 → last < t → x = min t (last + fall))
    ∧ (0 < last → t < 0 → x = max 0 (last - fall)) ∧ (last < 0 → 0 < t → x = min 0 (last + fall))

/-- The setpoint of a computation with the set empty and the governor ARMED (R132, R133). -/
def Part.follows (p : Part) (s : Int) : Prop :=
  ∃ t x : Int, p.targets t
    ∧ stepsToward p.gov.setpoint t (max 1 (p.tables.timers.rampRate * p.tables.timers.controlPeriod / 1000))
        (max 1 (p.tables.timers.inhibitRamp * p.tables.timers.controlPeriod / 1000)) x
    ∧ s = max (-(p.brakingCeiling : Int)) (min x p.motoringCeiling)

/-- The third missed reply in a row: DRIVE_LINK is claimed with its cut frame, and DRIVE_LINK_LOST raised (R137, R141, R142). -/
def Part.losesDriveLink (p q : Part) (awaited : Byte) : Prop :=
  q.gov.misses = 3 ∧ q.gov.goodRun = 0 ∧ q.gov.inhibit.driveLink = true ∧ q.gov.setpoint = 0
    ∧ (p.guarded → q.gov.armed = false)
    ∧ (∃ f, (q.send.sending = some f ∨ q.send.waiting = some f) ∧ f.mode = .cut ∧ f.current = 0)
    ∧ p.activated q .driveLinkLost { block := .tractionGovernor, inst := linkNumber .drive }
        [.small 3, .small awaited.toNat, .small (linkStateCode p.links.recs.drive.state),
         .small (inverterCode p.gov.inverter)]

/-- A requested auxiliary in OFF enters the queue (R146), with the layover-keep setting that holds (R144). -/
def Part.queues (p q : Part) (a : AuxNo) : Prop :=
  (q.auxRec a).state =
      (if p.mode = .layover ∧ (p.auxRec a).keptInLayover = false then .off
       else if (p.auxEntry a).cls = .deferrable ∧ p.line.state.classHold = true then .shed
       else if (p.auxRec a).offTimer.isRunning = true then .locked else .waiting)
    ∧ ((q.auxRec a).state = .waiting → a ∈ q.aux.queue)

/-- The part has left LAYOVER for RUN (R13, R18, R44, R71, R139, R146, R156, R184). That every input record stays as it was is
the model's choice (assumption log 33): a raw level reaches an input as a command of its own, which starts the debounce timer, while
the example of section 2.10 starts it at the return to RUN. -/
def Part.resumes (p q : Part) : Prop :=
  q.mode = .run ∧ q.mbx.attention.modeChange = true
    ∧ (∀ l, (q.linkRec l).started = true ∧ (q.linkRec l).state = .silent) ∧ q.line.state = .unknown
    ∧ q.gov.armed = false ∧ q.gov.period = p.startTimer p.tables.timers.controlPeriod
    ∧ q.gov.inhibit.mode = false ∧ q.gov.setpoint = 0
    ∧ q.gov.inhibit.doorOpen = (p.gov.inhibit.doorOpen || p.roleLevel .doorInterlock == .opened)
    ∧ q.contacts.pollTimer = .stopped ∧ q.contacts.second = 0 ∧ q.contacts.secondTimer = .stopped
    ∧ (∀ i, q.input i = p.input i)
    ∧ q.mbx.mirror.timer = p.startTimer p.tables.timers.mirrorInterval
    ∧ (∀ i, (q.poles.get i).state = (p.poles.get i).state ∧ (q.poles.get i).resolving = (p.poles.get i).resolving)
    ∧ (∀ c b, p.mbx.base = some b → (p.mbx.chains.get c).state = .parked →
        q.mbx.rescans c b (p.mbx.chains.get c).cursor (p.mbx.chains.get c).wait)
    ∧ (∀ c, (p.mbx.chains.get c).state ≠ .parked → q.mbx.chains.get c = p.mbx.chains.get c)
    ∧ q.aux.stagger = p.startTimer p.tables.timers.stagger
    ∧ (∀ a, (p.auxRec a).requested = true → (p.auxRec a).state = .off →
        (q.auxRec a).state = (if (p.auxEntry a).cls = .deferrable then .shed
          else if (p.auxRec a).offTimer.isRunning = true then .locked else .waiting)
        ∧ ((q.auxRec a).state = .waiting → a ∈ q.aux.queue))
    ∧ (p.line.state = .unknown → p.demandDue = false →
        ∀ a, (p.auxRec a).requested = false ∨ (p.auxRec a).state ≠ .off → q.auxRec a = p.auxRec a)
    ∧ q.lastReset = p.lastReset ∧ q.tables = p.tables ∧ q.mbx.base = p.mbx.base ∧ q.now = p.now

/-- The part has entered LAYOVER (R13, R18, R43, R57, R92, R128, R156, R183). -/
def Part.laysOver (p q : Part) (tag : Word) : Prop :=
  q.mode = .layover ∧ q.mbx.attention.modeChange = true
    ∧ q.mbx.newest .layoverEntered .modeLogic 0 tag []
    ∧ (∀ l, (q.linkRec l).started = false ∧ (q.linkRec l).state = .silent)
    ∧ q.line.state = .unknown ∧ q.line.battery = p.line.battery
    ∧ q.gov.inhibit.mode = true ∧ q.gov.armed = false ∧ q.gov.setpoint = 0 ∧ q.gov.period = .stopped
    ∧ (p.gov.inhibit.mode = false →
        ∃ f, (q.send.sending = some f ∨ q.send.waiting = some f) ∧ f.mode = .cut ∧ f.current = 0)
    ∧ (∀ c, (q.mbx.chains.get c).rescanTimer = .stopped ∧ (q.mbx.chains.get c).state = (p.mbx.chains.get c).state)
    ∧ q.mbx.mirror.timer = .stopped ∧ (p.mbx.base ≠ none → q.mbx.mirror.writing ≠ none)
    ∧ q.contacts.pollTimer = p.startTimer p.tables.timers.pollInterval ∧ q.contacts.second = 0
    ∧ q.contacts.secondTimer = .stopped
    ∧ (∀ i, (q.input i).confirmed = (p.input i).confirmed ∧ (q.input i).raw = none
        ∧ (q.input i).debounce = .stopped ∧ (q.input i).cleaning = .stopped
        ∧ (q.input i).reference =
            (if (p.tables.inputs.get i).wakeEnabled then (p.input i).confirmed else (p.input i).reference))
    ∧ (∀ i, (q.poles.get i).state = (p.poles.get i).state ∧ (q.poles.get i).latch = (p.poles.get i).latch
        ∧ (q.poles.get i).sensorAvailable = false ∧ (q.poles.get i).holdTimer = .stopped
        ∧ (q.poles.get i).retryPending = false)
    ∧ (∀ i o, p.outputFor (.retriever i) = some o → (q.output o).commanded = false)
    ∧ q.zones.active.map Zone.asArrived = p.zones.active.map Zone.asArrived
    ∧ q.zones.pendingZones = p.zones.pendingZones ∧ q.zones.effective = p.zones.effective
    ∧ q.aux.stagger = p.startTimer p.tables.timers.stagger
    ∧ (∀ a, (q.auxRec a).requested = (p.auxRec a).requested
        ∧ (q.auxRec a).keptInLayover = (p.auxEntry a).layoverKeep)
    ∧ (∀ a, (p.auxEntry a).layoverKeep = false →
        (q.auxRec a).state = (if (p.auxRec a).state = .faulted then .faulted else .off)
        ∧ (q.auxRec a).offTimer = (p.auxRec a).offTimer
        ∧ ((p.auxRec a).state = .waiting → a ∉ q.aux.queue)
        ∧ ((p.auxRec a).state.drawing = true → q.line.grants.get a = none
            ∧ ∀ o, p.outputFor (.auxRun a) = some o → (q.output o).commanded = false))
    ∧ q.tables = p.tables ∧ q.mbx.base = p.mbx.base ∧ q.now = p.now ∧ q.lastReset = p.lastReset

/-- Where an auxiliary stands that enters the restart queue with its off timer stopped: the tests of R146. -/
def Part.entryState (p : Part) (a : AuxNo) : AuxState :=
  if p.mode = .layover ∧ (p.auxRec a).keptInLayover = false then .off
  else if (p.auxEntry a).cls = .deferrable ∧ p.line.state.classHold = true then .shed
  else .waiting

/-- Where an auxiliary stands that becomes LOCKED: a minimum off time of 0 is over in the same event (R154). -/
def Part.lockedState (p : Part) (a : AuxNo) (requested : Bool) : AuxState :=
  if (p.auxEntry a).minOff ≠ 0 then .locked else if requested then p.entryState a else .off

/-- A STARTING or RUNNING auxiliary gives its output and its claim back, and its off time begins; one of 0 is over at once
(section 8.2, R154). -/
def Part.auxStops (p q : Part) (a : AuxNo) : Prop :=
  q.line.grants.get a = none
    ∧ (q.auxRec a).offTimer =
        (if (p.auxEntry a).minOff = 0 then .stopped else p.startTimer ((p.auxEntry a).minOff * 1000))
    ∧ ∀ o, p.outputFor (.auxRun a) = some o → (q.output o).commanded = false

/-- A STARTING or RUNNING auxiliary is shed: its output OFF, its claim released, its off timer started, no start failure
counted, and AUX_SHED reported (R152); a minimum off time of 0 is over at once (R154). -/
def Part.sheds (p q : Part) (a : AuxNo) (cause : ShedCause) : Prop :=
  p.auxStops q a ∧ (q.auxRec a).startTimer = .stopped ∧ (q.auxRec a).requested = (p.auxRec a).requested
    ∧ (q.auxRec a).startFails = (p.auxRec a).startFails
    ∧ ((p.auxEntry a).minOff ≠ 0 → (q.auxRec a).state = .shed ∧ (q.auxRec a).offDone = false)
    ∧ ((p.auxEntry a).minOff = 0 → (q.auxRec a).state = if (p.auxRec a).requested then q.entryState a else .off)
    ∧ q.mbx.tells .auxShed .auxiliaryScheduler a.val 0
        [.small (auxClassCode (p.auxEntry a).cls), bigNat ((p.line.grants.get a).getD 0),
         .small (auxStateCode (p.auxRec a).state), .small cause.ctorIdx]

/-- An auxiliary that a shed demand may shed (R150). -/
def Part.mayShed (p : Part) (a : AuxNo) : Prop :=
  (p.auxRec a).state ∈ [AuxState.starting, .running] ∧ (p.auxEntry a).cls ≠ .essential

/-- `a` is shed before `b`: DEFERRABLE first, then the lower priority, then the later start (R150). -/
def Part.shedsFirst (p : Part) (a b : AuxNo) : Prop :=
  ((p.auxEntry a).cls = .deferrable ∧ (p.auxEntry b).cls ≠ .deferrable)
    ∨ (((p.auxEntry a).cls = .deferrable ↔ (p.auxEntry b).cls = .deferrable)
      ∧ ((p.auxEntry a).priority < (p.auxEntry b).priority
        ∨ ((p.auxEntry a).priority = (p.auxEntry b).priority ∧ (p.auxRec b).startOrder < (p.auxRec a).startOrder)))

/-- The excess of the claims and the reserve over the available power (R62, R150). -/
def Part.excess (p : Part) : Nat := p.line.budget.claims + p.line.budget.reserve - p.line.budget.available

/-- A shed demand: auxiliaries are shed one at a time, the first of R150's order first, until the excess, read before each
shed, is 0 or none is left (R150). -/
def Part.meetsDemand (p : Part) : Prop :=
  (p.excess = 0 ∨ (∀ a, ¬ p.mayShed a) → p.shedDemand = p)
    ∧ (∀ a, p.excess ≠ 0 → p.mayShed a → (∀ b, b ≠ a → p.mayShed b → p.shedsFirst a b) →
        p.sheds (p.shed a .demand) a .demand ∧ (∀ b, b ≠ a → (p.shed a .demand).auxRec b = p.auxRec b)
        ∧ p.shedDemand = (p.shed a .demand).shedDemand)
    ∧ (p.shedDemand.excess = 0 ∨ ∀ a, ¬ p.shedDemand.mayShed a)

/-- A class-shed notice in the event of an unsupplied line's entry (R151). -/
def Part.classSheds (p q : Part) : Prop :=
  ∀ a, ((p.auxEntry a).cls = .deferrable → (p.auxRec a).state ∈ [AuxState.starting, .running] → p.sheds q a .cls)
    ∧ ((p.auxEntry a).cls = .deferrable → (p.auxRec a).state = .waiting → p.line.state ≠ .offWire →
        (q.auxRec a).state = .shed ∧ (q.auxRec a).offDone = true ∧ a ∉ q.aux.queue)
    ∧ ((p.auxEntry a).cls ≠ .deferrable ∨ (p.auxRec a).state ∈ [AuxState.off, .shed, .locked, .faulted]
          ∨ ((p.auxRec a).state = .waiting ∧ p.line.state = .offWire) → q.auxRec a = p.auxRec a)

/-- A line that leaves GAP for LOST: what becomes of the auxiliaries under the class-shed notice and a shed demand (R150 to
R152). -/
def Part.losesSupply (p q : Part) : Prop :=
  ∀ a, ((p.auxEntry a).cls = .deferrable → (p.auxRec a).state ∈ [AuxState.starting, .running] → p.sheds q a .cls)
    ∧ ((p.auxEntry a).cls = .deferrable → (p.auxRec a).state = .waiting →
        (q.auxRec a).state = .shed ∧ (q.auxRec a).offDone = true ∧ a ∉ q.aux.queue)
    ∧ ((p.auxEntry a).cls = .comfort → (p.auxRec a).state ∈ [AuxState.starting, .running] →
        q.auxRec a = p.auxRec a ∨ p.sheds q a .demand)
    ∧ ((p.auxEntry a).cls = .essential ∨ (p.auxRec a).state ∈ [AuxState.off, .shed, .locked, .faulted]
          ∨ ((p.auxEntry a).cls = .comfort ∧ (p.auxRec a).state = .waiting) → q.auxRec a = p.auxRec a)

/-- A confirmed change of an auxiliary's feedback contact is delivered (R148, R153). The order of the three trip times among the
items of AUX_FAULTED, oldest first, is the model's choice (assumption log 42). -/
def Part.feedbackChanges (p q : Part) (a : AuxNo) (l : Level) : Prop :=
  (l = .closed → (p.auxRec a).state = .starting →
      q = p.setAux a { p.auxRec a with state := .running, startTimer := .stopped, startFails := 0 })
    ∧ (l = .opened → (p.auxRec a).state = .running →
      p.auxStops q a ∧ (q.auxRec a).requested = (p.auxRec a).requested
      ∧ ((p.recentTrips a).length < 2 →
          (q.auxRec a).state = p.lockedState a (p.auxRec a).requested ∧ (q.auxRec a).trips = p.recentTrips a ++ [p.now]
          ∧ q.mbx.newest .auxTripped .auxiliaryScheduler a.val 0 [.small ((p.recentTrips a).length + 1)])
      ∧ (2 ≤ (p.recentTrips a).length →
          (q.auxRec a).state = .faulted ∧ (q.auxRec a).trips = []
          ∧ p.activated q .auxFaulted { block := .auxiliaryScheduler, inst := a.val }
              ([.small 1, .small (auxClassCode (p.auxEntry a).cls)]
                ++ (p.recentTrips a ++ [p.now]).map Item.large)))
    ∧ ((l = .closed → (p.auxRec a).state ≠ .starting) → (l = .opened → (p.auxRec a).state ≠ .running) → q = p)

/-- An AUX_REQUEST for a valid auxiliary is accepted (R145). -/
def Part.takesRequest (p q : Part) (a : AuxNo) (on : Bool) : Prop :=
  (q.auxRec a).requested = on
    ∧ (on = true → (p.auxRec a).state = .off → p.queues q a)
    ∧ (on = true → (p.auxRec a).state ≠ .off → q.auxRec a = { p.auxRec a with requested := true })
    ∧ (on = false → (p.auxRec a).state = .waiting ∨ (p.auxRec a).state = .off → (q.auxRec a).state = .off)
    ∧ (on = false → (p.auxRec a).state = .waiting → a ∉ q.aux.queue)
    ∧ (on = false → (p.auxRec a).state.drawing = true → (q.auxRec a).state = p.lockedState a false ∧ p.auxStops q a)
    ∧ (on = false → (p.auxRec a).state = .locked → q.auxRec a = { p.auxRec a with requested := false })
    ∧ (on = false → (p.auxRec a).state = .shed →
        (q.auxRec a).state = if (p.auxRec a).offDone then .off else .shed)
    ∧ (on = false → (p.auxRec a).state = .faulted →
        (q.auxRec a).state = .off ∧ q.endedFault .auxFaulted { block := .auxiliaryScheduler, inst := a.val })

/-- An INJECT_TEST of a kind is accepted (R167). -/
def Part.injects (p q : Part) (k : FaultKind) (tag : Word) : Prop :=
  (q.faults.get k).test = true ∧ (q.faults.get k).unack = true
    ∧ (q.faults.get k).testHold = p.startTimer p.tables.timers.minOnTime
    ∧ (q.faults.get k).count = (p.faults.get k).count ∧ (q.faults.get k).sources = (p.faults.get k).sources
    ∧ q.faults.state = (if p.faults.state = .normal then .alert else p.faults.state)
    ∧ q.mbx.raised = p.mbx.raised + (if p.faults.state = .normal then 2 else 1)
    ∧ q.mbx.tells (.fault k) .faultCollector 0 tag []
    ∧ ∀ x, x ≠ k → x ≠ .alarmOutput → q.faults.get x = p.faults.get x

/-- An acknowledgement (R85, R163). -/
def Part.acknowledges (p q : Part) : Prop :=
  (∀ k, (q.faults.get k).unack = false) ∧ q.faults.lampFallback = false ∧ q.faults.buzzerFallback = false
    ∧ q.faults.state = (if p.faults.state = .fault then .fault else .normal)
    ∧ (∀ i, (q.poles.get i).state = (p.poles.get i).state
        ∧ (q.poles.get i).latch = ((p.poles.get i).latch && (p.poles.get i).state != .housed)
        ∧ (q.poles.get i).latchAck = ((p.poles.get i).latchAck || (p.poles.get i).latch))

/-! ### Words for table loads -/

/-- The entries of a load stand in the tables: those it names with its values, the fixed reactions apart, the others as they
were (R172, R174). -/
def Tables.takesEntries (t u : Tables) (x : Load) : Prop :=
  (∀ y, y ≠ x.table → u.entries y = t.entries y)
    ∧ (∀ k < x.count, x.table ≠ .faultReactions ∨ (x.first + k ≠ 0 ∧ x.first + k ≠ 14) →
        (u.entries x.table)[x.first + k]? = x.entries[k]?)
    ∧ (∀ k < entryCount x.table, k < x.first ∨ x.first + x.count ≤ k → (u.entries x.table)[k]? = (t.entries x.table)[k]?)

/-- A table load is stored (R174, R175). -/
def Tables.stores (t u : Tables) (x : Load) : Prop :=
  u.loaded x.table = true ∧ u.check = u.checkValue
    ∧ (∀ y, y ≠ x.table → u.loaded y = t.loaded y ∧ u.complete y = t.complete y)
    ∧ t.takesEntries u x

/-- The load that a payload carries: after the head of three words, as many entries of the table's length as the count says
(section 10.2). -/
abbrev Load.carriedBy (x : Load) (payload : List Word) : Prop :=
  x.first = (payload.getD 1 0).toNat ∧ x.count = (payload.getD 2 0).toNat ∧ x.entries.length = x.count
    ∧ ∀ k < x.count, x.entries[k]? =
        some (((payload.drop (3 + k * entryWords x.table)).take (entryWords x.table)).map (·.toNat))

/-- The tests within an entry, in the units of section 12.5 (R47, R70, R121, R144): the gap threshold below the low limit, and the
low limit plus the hysteresis below the high limit minus the hysteresis; the housed elevation below the band low, this below the
band high, this plus 15° at most 102.375°; no lateral override of 1 to 4; no standing request but for an ESSENTIAL auxiliary. -/
abbrev coherent (t : TableId) (v : List Nat) : Prop :=
  (t = .lineLimits → fieldAt v 0 < fieldAt v 1 ∧ fieldAt v 1 + 2 * fieldAt v 3 < fieldAt v 2)
    ∧ (t = .poleLimits → fieldAt v 0 < fieldAt v 1 ∧ fieldAt v 1 < fieldAt v 2 ∧ fieldAt v 2 + 600 ≤ 4095)
    ∧ (t = .profiles → fieldAt v 4 = 0 ∨ 4 < fieldAt v 4)
    ∧ (t = .auxTable → fieldAt v 9 = 0 ∨ fieldAt v 1 = 0)

/-- An entry's fields lie within the ranges of its table, and it passes the tests within an entry (R172). -/
abbrev entryStands (t : TableId) (index : Nat) (v : List Nat) : Prop :=
  v.length = (fieldRanges t index).length
    ∧ (∀ k < v.length, ((fieldRanges t index).getD k (0, 0)).1 ≤ fieldAt v k
        ∧ fieldAt v k ≤ ((fieldRanges t index).getD k (0, 0)).2)
    ∧ coherent t v

/-- The entry of an index in the card fails its own tests (R172). -/
abbrev Load.failsAt (x : Load) (i : Nat) : Prop :=
  x.first ≤ i ∧ i < x.first + x.count ∧ ¬ entryStands x.table i (x.entries.getD (i - x.first) [])

/-- The entry of an index holds the role of an earlier one, other than NONE; of AUX_FEEDBACK and AUX_RUN, with its auxiliary number
(R38, R45, R172). -/
abbrev Tables.repeatsRole (t : Tables) (id : TableId) (i : Nat) : Prop :=
  (id = .contactRoles ∧ ∃ a b : InputNo, b.val = i ∧ a < b ∧ (t.inputs.get a).role = (t.inputs.get b).role
      ∧ (t.inputs.get b).role ≠ .none
      ∧ ((t.inputs.get b).role ≠ .auxFeedback ∨ (t.inputs.get a).aux = (t.inputs.get b).aux))
    ∨ (id = .outputRoles ∧ ∃ a b : OutputNo, b.val = i ∧ a < b ∧ (t.outputs.get a).role = (t.outputs.get b).role
      ∧ (t.outputs.get b).role ≠ .none
      ∧ ((t.outputs.get b).role ≠ .auxRun ∨ (t.outputs.get a).aux = (t.outputs.get b).aux))

/-- A valid auxiliary's run output does not hold AUX_RUN with its number (R144, R172). -/
abbrev Tables.runMissing (t : Tables) (a : AuxNo) : Prop :=
  (t.aux.get a).valid = true
    ∧ ¬ ∃ o : OutputNo, o.val = (t.aux.get a).runOutput ∧ (t.outputs.get o).role = .auxRun ∧ (t.outputs.get o).aux = a.val

/-- A valid auxiliary's feedback input is not NONE, 16, and does not hold AUX_FEEDBACK with its number (R144, R172). -/
abbrev Tables.feedbackMissing (t : Tables) (a : AuxNo) : Prop :=
  (t.aux.get a).valid = true ∧ (t.aux.get a).feedback ≠ 16
    ∧ ¬ ∃ i : InputNo, i.val = (t.aux.get a).feedback ∧ (t.inputs.get i).role = .auxFeedback ∧ (t.inputs.get i).aux = a.val

/-- The entry of an index clashes with another table (R172). -/
abbrev Tables.clashesAcross (t : Tables) (id : TableId) (i : Nat) : Prop :=
  (id = .contactRoles ∧ ∃ a : AuxNo, t.feedbackMissing a ∧ (t.aux.get a).feedback = i)
    ∨ (id = .outputRoles ∧ ∃ a : AuxNo, t.runMissing a ∧ (t.aux.get a).runOutput = i)
    ∨ (id = .auxTable ∧ ∃ a : AuxNo, (t.runMissing a ∨ t.feedbackMissing a) ∧ a.val = i)

/-- The entry of an index would change the valid flag, run output or feedback input of an auxiliary that is neither OFF nor FAULTED
(R144, R171 step 8). -/
abbrev Part.disturbs (p : Part) (t : Tables) (i : Nat) : Prop :=
  ∃ a : AuxNo, a.val = i
    ∧ ((p.auxEntry a).valid ≠ (t.aux.get a).valid ∨ (p.auxEntry a).runOutput ≠ (t.aux.get a).runOutput
        ∨ (p.auxEntry a).feedback ≠ (t.aux.get a).feedback)
    ∧ (p.auxRec a).state ≠ .off ∧ (p.auxRec a).state ≠ .faulted

/-- The first index at which something holds. -/
abbrev firstAt (holds : Nat → Prop) (i : Nat) : Prop := holds i ∧ ∀ j < i, ¬ holds j

/-- What an owner answers to a load whose head stands: steps 7 and 8 of R171, or the load is stored (R172, R174). That the tests of
the single entries go before those across entries, and these before those across tables, is assumption log 20. -/
def Part.judgesLoad (p : Part) (x : Load) (q : Part × Verdict) : Prop :=
  (∀ i, firstAt x.failsAt i → q = (p, { result := .badValue, detail := word i }))
    ∧ ((∀ i, ¬ x.failsAt i) →
      p.tables.takesEntries (p.tables.apply x) x
      ∧ (∀ i, firstAt ((p.tables.apply x).repeatsRole x.table) i → q = (p, { result := .badValue, detail := word i }))
      ∧ ((∀ i, ¬ (p.tables.apply x).repeatsRole x.table i) →
        (∀ i, firstAt ((p.tables.apply x).clashesAcross x.table) i → q = (p, { result := .badValue, detail := word i }))
        ∧ ((∀ i, ¬ (p.tables.apply x).clashesAcross x.table i) →
          (∀ i, x.table = .auxTable → p.mode ≠ .halt → firstAt (p.disturbs (p.tables.apply x)) i →
              q = (p, { result := .busy, detail := word i }))
          ∧ (x.table ≠ .auxTable ∨ p.mode = .halt ∨ (∀ i, ¬ p.disturbs (p.tables.apply x) i) →
              q.2 = { result := .ok, detail := q.1.tables.check } ∧ p.tables.stores q.1.tables x))))

/-! ### Words for the records in the window (chapter 12) -/

/-- A report record is laid out so (section 12.6). -/
def ReportRec.laidOut (r : ReportRec) (ws : List Word) : Prop :=
  ws.length = 4 + r.details.length
    ∧ field (ws.getD 0 0) 0 8 = reportKindCode r.kind ∧ field (ws.getD 0 0) 8 2 = severityCode r.severity
    ∧ (ws.getD 0 0).getLsbD 10 = r.test ∧ field (ws.getD 0 0) 11 3 = r.details.length ∧ field (ws.getD 0 0) 14 2 = 0
    ∧ field (ws.getD 0 0) 16 8 = r.repeats ∧ field (ws.getD 0 0) 24 8 = r.droppedAfter
    ∧ field (ws.getD 1 0) 0 8 = blockCode r.block ∧ field (ws.getD 1 0) 8 16 = r.inst ∧ field (ws.getD 1 0) 24 8 = 0
    ∧ ws.getD 2 0 = r.time ∧ ws.getD 3 0 = r.tag ∧ ws.drop 4 = r.details

/-- The 101 words that READ_FAULT_TABLE returns (section 12.4); a kind that has not occurred has the source 0 (R168). -/
def Part.tabulates (p : Part) (ws : List Word) : Prop :=
  ws.length = 101
    ∧ field (ws.getD 0 0) 0 2 = collectorCode p.faults.state ∧ (ws.getD 0 0).getLsbD 2 = p.faults.alertTimer.isRunning
    ∧ (ws.getD 0 0).getLsbD 3 = p.faults.lampFallback ∧ (ws.getD 0 0).getLsbD 4 = p.faults.buzzerFallback
    ∧ (ws.getD 0 0).getLsbD 5 = p.roleFailed .lamp ∧ (ws.getD 0 0).getLsbD 6 = p.roleFailed .buzzer
    ∧ field (ws.getD 0 0) 7 25 = 0
    ∧ ∀ k, let first := ws.getD (5 * kindNumber k - 4) 0
      first.getLsbD 0 = (p.faults.get k).active ∧ first.getLsbD 1 = (p.faults.get k).test
      ∧ first.getLsbD 2 = (p.faults.get k).unack ∧ first.getLsbD 3 = false
      ∧ first.getLsbD 4 = (p.reactions k).lamp ∧ first.getLsbD 5 = (p.reactions k).buzzer
      ∧ first.getLsbD 6 = (p.reactions k).ackRequired ∧ first.getLsbD 7 = (p.reactions k).escalate
      ∧ field first 8 8 = 0 ∧ ((p.faults.get k).count ≤ 65535 → field first 16 16 = (p.faults.get k).count)
      ∧ ws.getD (5 * kindNumber k - 3) 0 = (p.faults.get k).first ∧ ws.getD (5 * kindNumber k - 2) 0 = (p.faults.get k).last
      ∧ ws.getD (5 * kindNumber k - 1) 0 = (if (p.faults.get k).count = 0 then 0
          else word (blockCode (p.faults.get k).lastSource.block + 256 * ((p.faults.get k).lastSource.inst % 65536)))
      ∧ ws.getD (5 * kindNumber k) 0 = (p.faults.get k).lastDetail

/-- The word of a mirror body at an offset from the Mailbox Base (section 12.7). -/
def wordAt (body : List Word) (offset : Nat) : Word := body.getD ((offset - 0x104) / 4) 0

/-- A mirror body shows the part (R20, section 12.7). -/
def Part.mirroredBy (p : Part) (b : List Word) : Prop :=
  b.length = 190 ∧ wordAt b 0x104 = word (modeCode p.mode)
    ∧ wordAt b 0x108 = word (lineStateCode p.line.state) ∧ wordAt b 0x10C = word p.line.voltage
    ∧ wordAt b 0x110 = BitVec.ofInt 32 p.line.current
    ∧ wordAt b 0x114 = word p.line.budget.available ∧ wordAt b 0x118 = word (supplyCode p.line.budget.source)
    ∧ wordAt b 0x11C = word p.line.budget.claims ∧ wordAt b 0x120 = word p.line.budget.reserve
    ∧ wordAt b 0x124 = word p.line.budget.allowance ∧ wordAt b 0x128 = word p.line.budget.regenCap
    ∧ (∀ i, wordAt b (0x12C + 12 * poleNumber i) = word (poleStateCode (p.poles.get i).state)
        ∧ wordAt b (0x130 + 12 * poleNumber i) = word (p.poles.get i).elevation
        ∧ wordAt b (0x134 + 12 * poleNumber i) = BitVec.ofInt 32 (p.poles.get i).lateral)
    ∧ (∀ r : Reason, (wordAt b 0x144).getLsbD r.ctorIdx = p.gov.inhibit.has r) ∧ field (wordAt b 0x144) 10 22 = 0
    ∧ wordAt b 0x148 = word (if p.gov.armed then 0 else 1) ∧ wordAt b 0x14C = BitVec.ofInt 32 p.gov.setpoint
    ∧ wordAt b 0x150 = word (inverterCode p.gov.inverter) ∧ wordAt b 0x154 = BitVec.ofInt 32 p.gov.actual
    ∧ wordAt b 0x158 = word p.zones.active.length
    ∧ (∀ k < 4, (∀ z, p.zones.precedence[k]? = some z →
          wordAt b (0x15C + 16 * k) = word (z.id.line * 512 + z.id.place)
          ∧ wordAt b (0x160 + 16 * k) = word (z.entry + 2 ^ 8 * z.profile + 2 ^ 16 * (if z.specific then 0 else 1)
              + 2 ^ 24 * actionCode z.action)
          ∧ wordAt b (0x164 + 16 * k) = z.start ∧ wordAt b (0x168 + 16 * k) = z.stop)
        ∧ (p.zones.active.length ≤ k → ∀ j < 4, wordAt b (0x15C + 16 * k + 4 * j) = 0))
    ∧ wordAt b 0x19C = word p.zones.pendingZones.length ∧ wordAt b 0x1A0 = p.zones.odometer
    ∧ wordAt b 0x1A4 = word p.zones.speed
    ∧ (∀ a : AuxNo, wordAt b (0x1A8 + 4 * a.val) = word (auxStateCode (p.auxRec a).state))
    ∧ wordAt b 0x1D8 = word (collectorCode p.faults.state)
    ∧ (∀ k, (wordAt b 0x1DC).getLsbD (kindNumber k - 1) = (p.faults.get k).unack) ∧ field (wordAt b 0x1DC) 20 12 = 0
    ∧ wordAt b 0x1E0 = p.tables.check
    ∧ (∀ t, (wordAt b 0x1E4).getLsbD (tableNumber t) = p.tables.loaded t) ∧ field (wordAt b 0x1E4) 11 21 = 0
    ∧ wordAt b 0x1E8 = p.mbx.raised ∧ wordAt b 0x1EC = p.mbx.written ∧ wordAt b 0x1F0 = p.mbx.dropped
    ∧ (∀ c, wordAt b (0x1F4 + 8 * chainNumber c) = word (chainStateCode (p.mbx.chains.get c).state)
        ∧ wordAt b (0x1F8 + 8 * chainNumber c) = (p.mbx.chains.get c).cursor.getD 0)
    ∧ ∀ k < 190, 66 ≤ k → b.getD k 0 = 0

end Sys2Proof.Machine
end

