-- ==== Sys2Proof/Certificates/Slice0/Obligations.lean ====
section
/-! DEFINITION. The statements for the provers. In each, `q` is the part after the command's own effect and `q.settle` that
part with REPORTS_HELD brought up to date (R26), which EndOfEventSetsReportsHeld states. That an expiry takes effect at its
timer's own time is the manual's (section 00, Conventions); that the timestamp moves there, Part.clockTo, is the model's mechanism
(assumption log 1), in every statement about an expiry. Words such as lowers, dewires or resumes are those of Safety.lean. -/

open Sys2Proof Sys2Proof.Machine

/-! ### Steps and invariants -/

/-- A step runs the command at the front of the queue on the queue's rest. On an empty queue it idles one millisecond and
changes nothing else, which is the model's choice (assumption log 1). -/
def Obligations.StepRunsTheFrontCommand : Prop :=
  ∀ s : State,
    (∀ (c : Instr) (rest : List Instr), step { s with pending := c :: rest } = exec c { s with pending := rest })
    ∧ (s.pending = [] → step s = .next { s with part := { s.part with now := s.part.now + 1 } })

/-- Every command completes with a next state and leaves the queue alone (sections 00 to 12: none is undefined). -/
def Obligations.EveryCommandCompletes : Prop :=
  ∀ (c : Instr) (s : State), ∃ q : Part, exec c s = .next { s with part := q.settle }

/-- The end of an event brings REPORTS_HELD up to date and changes nothing else (R26). That it is judged once, at the end of an event,
and stays as it was while records are held and the Report chain is WALKING, is the model's choice (assumption log 22). -/
def Obligations.EndOfEventSetsReportsHeld : Prop :=
  ∀ p : Part,
    p.onlyChanges [.attention] p.settle
    ∧ p.settle.mbx.attention.reportWritten = p.mbx.attention.reportWritten
    ∧ p.settle.mbx.attention.collectorChange = p.mbx.attention.collectorChange
    ∧ p.settle.mbx.attention.chainBroken = p.mbx.attention.chainBroken
    ∧ p.settle.mbx.attention.modeChange = p.mbx.attention.modeChange
    ∧ (p.mbx.holding ≠ [] → p.mbx.chains.report.state ≠ .walking → p.settle.mbx.attention.reportsHeld = true)
    ∧ (p.mbx.holding = [] → p.settle.mbx.attention.reportsHeld = false)
    ∧ (p.mbx.holding ≠ [] → p.mbx.chains.report.state = .walking →
        p.settle.mbx.attention.reportsHeld = p.mbx.attention.reportsHeld)

/-- The values the manual gives for a power-on reset (R1, R2, R5, R19, R21, R23, R25, R26, R33, R45, R46, R60, R93, R127, R128,
R157, R169, R174, R178). -/
def Obligations.PowerOnResetValues : Prop :=
  State.reset.pending = [] ∧ State.reset.part.mode = .halt ∧ State.reset.part.now = 0
    ∧ State.reset.part.lastReset = .powerOn
    ∧ State.reset.part.mbx.base = none ∧ State.reset.part.baseRegister = 0
    ∧ State.reset.part.mbx.outcome = .none ∧ State.reset.part.mbx.missing = 0
    ∧ State.reset.part.mbx.attention.line = false ∧ State.reset.part.attentionRegister = 0
    ∧ State.reset.part.mbx.holding = [] ∧ State.reset.part.mbx.raised = 0 ∧ State.reset.part.mbx.written = 0
    ∧ State.reset.part.mbx.dropped = 0 ∧ State.reset.part.mbx.mirror.seq = 0
    ∧ State.reset.part.mbx.port.inFlight = none ∧ State.reset.part.mbx.port.firstRequester = none
    ∧ (∀ c, (State.reset.part.mbx.chains.get c).state = .parked ∧ (State.reset.part.mbx.chains.get c).wait = .link
      ∧ (State.reset.part.mbx.chains.get c).cursor = none ∧ (State.reset.part.mbx.chains.get c).rescanTimer = .stopped
      ∧ (State.reset.part.mbx.chains.get c).rescanPending = false
      ∧ (State.reset.part.mbx.chains.get c).rewindPending = false)
    ∧ (∀ t, State.reset.part.tables.loaded t = false ∧ State.reset.part.tables.complete t = false)
    ∧ State.reset.part.tables.check = 0
    ∧ (∀ l, (State.reset.part.linkRec l).state = .silent ∧ (State.reset.part.linkRec l).started = false)
    ∧ (∀ o, (State.reset.part.output o).commanded = false ∧ (State.reset.part.output o).failed = false)
    ∧ State.reset.part.line.state = .unknown ∧ (∀ i, (State.reset.part.poles.get i).state = .untracked)
    ∧ State.reset.part.zones.odometer = 0 ∧ State.reset.part.zones.active = [] ∧ State.reset.part.zones.seen = 0
    ∧ State.reset.part.gov.armed = false ∧ State.reset.part.gov.inhibit = { mode := true }
    ∧ (∀ a, (State.reset.part.auxRec a).state = .off) ∧ State.reset.part.faults.state = .normal

/-- What every step keeps holds after a power-on reset: no record is held and the report counters are 0 (R21, R23), the reasons of
attention are clear (R26), the mode is HALT (R178), the inhibit set is {MODE} and the governor DISARMED (R128), the collector is
NORMAL (R169), the poles and the line's copy of them are UNTRACKED with no latch, no blind flag and no claim (R60, R93), the
configuration check is 0 with no table loaded (R174, R175, R178), and the reactions are the defaults with the fixed ones (R160,
R169). That the mode logic's kept record of the poles is UNTRACKED there, like the poles, is the model's choice (assumption
log 5). -/
def Obligations.InvariantsHoldAtReset : Prop :=
  State.reset.part.good ∧ State.reset.part.tables.faithful ∧ State.reset.part.mbx.attended

/-- Every step keeps the invariant: the reports raised since the last reset stay accounted for, modulo 2³² (R23), at most 16
are held (R21); MODE stands in the inhibit set just outside RUN, FAULT_STATE just while the collector is in FAULT, the Pole
Monitor's claims just while their conditions hold (R91, R135), and the governor is ARMED only while the set is empty (R138); a pole
is blind only while it is ON_WIRE or SUSPECT (R81, R82); and every pole state notice has been given: the Line Supervisor's copy and
the mode logic's record agree with the states of the poles (R54, R90, R185). That the mode logic's record is UNTRACKED at HALT entry
and after a reset, which give no notice, is the model's choice (assumption logs 12 and 5). -/
def Obligations.EveryStepKeepsAccountsAndInterlock : Prop :=
  ∀ s s' : State, s.part.good → step s = .next s' → s'.part.good

/-- The governor is never ARMED outside RUN, with a pole suspect, dewired, moving or FAULTED, or with the collector in FAULT
(R91, R135, R138): in a state that keeps the invariant, and so in every later one. -/
def Obligations.ArmedMeansSafe : Prop :=
  ∀ s s' : State, s.part.good → step s = .next s' → s'.part.gov.armed = true →
    s'.part.mode = .run ∧ s'.part.faults.state ≠ .fault ∧ s'.part.gov.inhibit.empty = true
    ∧ ∀ i, (s'.part.poles.get i).state ∉ [PoleState.suspect, .dewired, .raising, .lowering, .faulted]
        ∧ (s'.part.poles.get i).latch = false ∧ (s'.part.poles.get i).resolving = false

/-- R160, R175: through every step the configuration check stays the check of the loaded tables as they stand, and the
reactions of POLE_DEWIRED and ALARM_OUTPUT stay fixed. -/
def Obligations.EveryStepKeepsTablesFaithful : Prop :=
  ∀ s s' : State, s.part.tables.faithful → step s = .next s' → s'.part.tables.faithful

/-- R26: every step leaves REPORTS_HELD set while records are held and the Report chain is PARKED or BROKEN, and clear while
none is held. -/
def Obligations.EveryStepKeepsReportsHeld : Prop :=
  ∀ s s' : State, s.part.mbx.attended → step s = .next s' → s'.part.mbx.attended

/-! ### Resets and register writes -/

/-- R178: POWER_ON_RESET puts everything at its power-on value. The read-backs are levels of pins and stay, and the model's own
count of free values goes on (assumption logs 5 and 6). -/
def Obligations.PowerOnResetRestoresEverything : Prop :=
  ∀ s : State, ∃ q : Part, exec .powerOnReset s = .next { s with part := q.settle }
    ∧ q.settle = q
    ∧ q = { State.reset.part with outputs := q.outputs, freeUses := s.part.freeUses }
    ∧ ∀ o, q.output o = { readback := (s.part.output o).readback }

/-- R178: RESET keeps the base and the tables, reads each anchor and sends one cut frame; the rest takes its reset value. Where
no rule gives that value it is the model's choice: the kept pole notices, the link cause, the HIGH entry time, the rate, the
sensor condition and the entry and start orders (assumption log 5), the count of free values (log 6), and the OPEN level of an
input until its first raw level, in setUp (log 15). -/
def Obligations.CommandResetKeepsBaseAndTables : Prop :=
  ∀ s : State, ∃ q : Part, exec .reset s = .next { s with part := q.settle }
    ∧ q.settle = q
    ∧ q.mode = .halt ∧ q.now = 0 ∧ q.lastReset = .command ∧ q.tables = s.part.tables ∧ q.mbx.base = s.part.mbx.base
    ∧ q.mbx.outcome = .accepted ∧ q.mbx.missing = 0 ∧ q.mbx.attention = {} ∧ q.mbx.holding = []
    ∧ q.mbx.reportCopy = none ∧ q.mbx.raised = 0 ∧ q.mbx.written = 0 ∧ q.mbx.dropped = 0
    ∧ q.mbx.mirror = { timer := .running (word s.part.tables.timers.mirrorInterval) }
    ∧ (s.part.mbx.base = none → q.mbx.chains = ⟨{}, {}, {}⟩ ∧ q.mbx.port = {})
    ∧ (∀ b c, s.part.mbx.base = some b → q.mbx.readsAnchor c b ∧ (q.mbx.chains.get c).cursor = none)
    ∧ q.links = {} ∧ q.poles = ⟨{}, {}⟩ ∧ q.keptPoles = ⟨.untracked, .untracked⟩ ∧ q.zones = {} ∧ q.aux = {} ∧ q.faults = {}
    ∧ q.line.own = ({} : Line).own ∧ q.line.lastDemanded = 0 ∧ (∀ a, q.line.grants.get a = none)
    ∧ q.gov = { counter := 1, replyWait := some 0 }
    ∧ q.send = { sending := some { seq := 0, current := 0, mode := .cut, regen := false } }
    ∧ (∀ o, (q.output o).commanded = false ∧ (q.output o).failed = false ∧ (q.output o).readback = (s.part.output o).readback)
    ∧ (∀ i, q.input i = (s.part.tables.inputs.get i).setUp) ∧ q.freeUses = s.part.freeUses

/-- R2: a write to MAILBOX BASE outside HALT, or of a value that is no base, is ignored with its cause. In HALT a base is set,
and every chain is ordered to the new anchor block: PARKED or BROKEN reads its anchor at once, WALKING sets its rewind-pending
flag. -/
def Obligations.BaseWriteIsTakenInHalt : Prop :=
  ∀ (s : State) (v : Word),
    (s.part.mode ≠ .halt →
      exec (.mailboxBaseWrite v) s = .next { s with part := (s.part.shows .notInHalt 0).settle })
    ∧ (s.part.mode = .halt → (v.toNat % 4096 ≠ 0 ∨ 0xFFF00000 < v.toNat) →
      exec (.mailboxBaseWrite v) s = .next { s with part := (s.part.shows .badBase 0).settle })
    ∧ (s.part.mode = .halt → v.toNat % 4096 = 0 → v.toNat ≤ 0xFFF00000 →
      ∃ q : Part, exec (.mailboxBaseWrite v) s = .next { s with part := q.settle }
        ∧ q.mbx.base = some v ∧ q.mbx.outcome = .accepted ∧ q.mbx.missing = 0
        ∧ (∀ c, (s.part.mbx.chains.get c).state ≠ .walking → q.mbx.readsAnchor c v)
        ∧ (∀ c, (s.part.mbx.chains.get c).state = .walking →
            q.mbx.chains.get c = { s.part.mbx.chains.get c with rewindPending := true }
            ∧ q.mbx.port.waiting (chainRequester c) = s.part.mbx.port.waiting (chainRequester c))
        ∧ (∀ a, s.part.mbx.port.inFlight = some a → q.mbx.port.inFlight = some a)
        ∧ s.part.onlyChanges [.base, .command, .chains, .port] q)

/-- R180: a RUN command is taken by the mode as it stands; the base is tested before the tables, and PART STATUS shows the
missing tables after a refusal. -/
def Obligations.RunIsTakenByTheMode : Prop :=
  ∀ s : State,
    (s.part.mode = .halt → s.part.mbx.base = none →
      exec .run s = .next { s with part := (s.part.shows .baseNotSet s.part.tables.missing).settle })
    ∧ (s.part.mode = .halt → s.part.mbx.base ≠ none → s.part.tables.missing ≠ 0 →
      exec .run s = .next { s with part := (s.part.shows .tablesMissing s.part.tables.missing).settle })
    ∧ (s.part.mode = .halt → s.part.mbx.base ≠ none → s.part.tables.missing = 0 →
      ∃ q : Part, exec .run s = .next { s with part := q.settle } ∧ q.mbx.outcome = .accepted ∧ q.mode = .run
        ∧ q.mbx.newest .runEntered .modeLogic 0 0 [.small (resetKindCode s.part.lastReset)])
    ∧ (s.part.mode = .layover →
      ∃ q : Part, exec .run s = .next { s with part := q.settle } ∧ q.mbx.outcome = .accepted ∧ q.mode = .run
        ∧ q.mbx.newest .wake .modeLogic 0 0 [.small WakeCause.command.ctorIdx])
    ∧ (s.part.mode = .run →
      exec .run s = .next { s with part := (s.part.shows .alreadyInRun s.part.tables.missing).settle })

/-- R181: RUN in HALT, with the base set and the tables complete, enters RUN. That the mode logic's kept record of the poles is
UNTRACKED there is the model's choice: no rule gives it at HALT entry or after a reset (assumption logs 12 and 5). -/
def Obligations.RunEntersRunFromHalt : Prop :=
  ∀ s : State, s.part.mode = .halt → s.part.mbx.base ≠ none → s.part.tables.missing = 0 →
    ∃ q : Part, exec .run s = .next { s with part := q.settle }
      ∧ q.mode = .run ∧ q.lastReset = .none ∧ q.mbx.outcome = .accepted ∧ q.mbx.missing = 0
      ∧ q.mbx.attention.modeChange = true
      ∧ (∀ l, (q.linkRec l).started = true ∧ (q.linkRec l).state = .silent)
      ∧ q.line.state = .unknown
      ∧ (∀ i, (q.poles.get i).state = .untracked ∧ (q.poles.get i).resolving = true
          ∧ (q.poles.get i).resolutionTimer = s.part.startTimer s.part.tables.timers.resolutionWindow
          ∧ (q.poles.get i).latch = (s.part.poles.get i).latch
          ∧ q.line.poleCopy.get i = .untracked ∧ q.keptPoles.get i = .untracked)
      ∧ q.gov.armed = false ∧ q.gov.period = s.part.startTimer s.part.tables.timers.controlPeriod
      ∧ q.gov.inhibit.mode = false ∧ q.gov.inhibit.poleSuspect = true ∧ q.gov.setpoint = 0
      ∧ q.aux.stagger = s.part.startTimer s.part.tables.timers.stagger
      ∧ (∀ a, (s.part.auxEntry a).valid = true → (s.part.auxEntry a).cls = .essential → (s.part.auxEntry a).standing = true →
          (s.part.auxRec a).state = .off → (s.part.auxRec a).offTimer = .stopped →
          (q.auxRec a).requested = true ∧ (q.auxRec a).state = .waiting ∧ a ∈ q.aux.queue)
      ∧ q.mbx.newest .runEntered .modeLogic 0 0 [.small (resetKindCode s.part.lastReset)]
      ∧ s.part.onlyChanges [.mode, .lastReset, .command, .attention, .chains, .port, .reports, .mirror, .links, .send, .outputs,
          .line, .budget, .poles, .zones, .inhibit, .setpoint, .demand, .replies, .aux, .records, .collector, .alarms,
          .keptPoles] q

/-- R180, R184: RUN in LAYOVER leaves layover with cause COMMAND: each PARKED chain makes its rescan read (R13), the requested
auxiliaries enter the queue (R146, R156), the door contact is read (R139), the poles keep their states and none resolves. That every
input record stays as it was, with no debounce timer started, is the model's choice (assumption log 33): the raw level comes with a
command of its own, while the example of section 2.10 starts the timer at the return to RUN. -/
def Obligations.RunLeavesLayover : Prop :=
  ∀ s : State, s.part.mode = .layover →
    ∃ q : Part, exec .run s = .next { s with part := q.settle }
      ∧ q.mbx.outcome = .accepted ∧ q.mbx.missing = 0 ∧ s.part.resumes q
      ∧ q.mbx.newest .wake .modeLogic 0 0 [.small WakeCause.command.ctorIdx]

/-- R182: HALT in HALT only shows ACCEPTED. From RUN or LAYOVER it drives every output OFF, stops the links, makes the poles
UNTRACKED with their latches kept, clears the zones, makes every auxiliary OFF with its request cleared, and claims MODE with its
cut frame. A raise in hand is reported abandoned (R107). The chain records stay as they are (R5); of the Report chain, which a
record that joins the list may start, nothing is said. The model's choices: HALT_ENTERED is the newest report, after those of the
abandoned raises and lowerings, and the mode logic's kept record of the poles becomes UNTRACKED, though R92 gives no pole state notice
at HALT entry (assumption log 12); the zone goes last in RAISE_ABANDONED (log 11). -/
def Obligations.HaltEntersHalt : Prop :=
  ∀ s : State,
    (s.part.mode = .halt → exec .halt s = .next { s with part := (s.part.shows .accepted 0).settle })
    ∧ (s.part.mode ≠ .halt →
    ∃ q : Part, exec .halt s = .next { s with part := q.settle }
      ∧ q.mode = .halt ∧ q.mbx.outcome = .accepted ∧ q.mbx.missing = 0 ∧ q.mbx.attention.modeChange = true
      ∧ (∀ o, (q.output o).commanded = false ∧ (q.output o).failed = false)
      ∧ (∀ l, (q.linkRec l).started = false ∧ (q.linkRec l).state = .silent)
      ∧ q.line.state = .unknown ∧ q.line.battery = s.part.line.battery
      ∧ (∀ i, (q.poles.get i).state = .untracked ∧ (q.poles.get i).resolving = false
          ∧ q.line.poleCopy.get i = .untracked ∧ q.keptPoles.get i = .untracked
          ∧ (q.poles.get i).latch = (s.part.poles.get i).latch ∧ (q.poles.get i).elevation = (s.part.poles.get i).elevation
          ∧ (q.poles.get i).lateral = (s.part.poles.get i).lateral)
      ∧ q.zones.pendingZones = [] ∧ q.zones.active = [] ∧ q.zones.recent = [] ∧ q.zones.effective = {}
      ∧ q.zones.odometer = s.part.zones.odometer ∧ q.zones.seen = s.part.zones.seen
      ∧ (∀ a, (q.auxRec a).state = .off ∧ (q.auxRec a).requested = false) ∧ q.aux.queue = []
      ∧ q.gov.inhibit.mode = true ∧ q.gov.armed = false ∧ q.gov.setpoint = 0 ∧ q.gov.period = .stopped
      ∧ (s.part.gov.inhibit.mode = false →
          ∃ f, (q.send.sending = some f ∨ q.send.waiting = some f) ∧ f.mode = .cut ∧ f.current = 0)
      ∧ q.faults.lampHold = .stopped ∧ q.faults.buzzerHold = .stopped
      ∧ q.mbx.newest .haltEntered .modeLogic 0 0 [.small (modeCode s.part.mode)]
      ∧ q.tables = s.part.tables ∧ q.mbx.base = s.part.mbx.base ∧ q.now = s.part.now ∧ q.lastReset = s.part.lastReset
      ∧ (∀ c, c ≠ .report → q.mbx.chains.get c = s.part.mbx.chains.get c)
      ∧ (∀ i, (s.part.poles.get i).state = .raising →
          q.mbx.tells .raiseAbandoned .poleMonitor (poleNumber i) (s.part.poles.get i).requestTag
            ([.small (abandonCode .halt), .small ((s.part.poles.get i).retryCount + 1),
              bigNat (s.part.poles.get i).elevation, bigInt (s.part.poles.get i).lateral, .small 0]
            ++ if (s.part.poles.get i).origin = .zone then zoneItem (s.part.poles.get i).zoneId else [])))

/-- R9, R12, R25: WAKE and REWIND. WAKE: a mask beyond the chains and an unset base are ignored; otherwise each PARKED chain named
makes its rescan read, each WALKING chain named sets its rescan-pending flag, and the others are not changed. REWIND: a chain number
above 2 and an unset base are ignored; otherwise a BROKEN or PARKED chain reads its anchor and a WALKING one sets its rewind-pending
flag. A mask of 8 or more, or a chain number above 2, while the base is unset shows BAD_COMMAND: which of the two causes is tested
first is the model's choice (assumption log 7). -/
def Obligations.WakeAndRewindByChainState : Prop :=
  (∀ (s : State) (mask : Byte),
    (8 ≤ mask.toNat →
      exec (.wake mask) s = .next { s with part := (s.part.shows .badCommand 0).settle })
    ∧ (mask.toNat < 8 → s.part.mbx.base = none →
      exec (.wake mask) s = .next { s with part := (s.part.shows .baseNotSet 0).settle })
    ∧ (mask.toNat < 8 → ∀ b, s.part.mbx.base = some b →
      ∃ q : Part, exec (.wake mask) s = .next { s with part := q.settle }
        ∧ q.mbx.outcome = .accepted ∧ q.mbx.missing = 0
        ∧ (∀ c, mask.getLsbD (chainNumber c) = true → (s.part.mbx.chains.get c).state = .parked →
            q.mbx.rescans c b (s.part.mbx.chains.get c).cursor (s.part.mbx.chains.get c).wait)
        ∧ (∀ c, mask.getLsbD (chainNumber c) = true → (s.part.mbx.chains.get c).state = .walking →
            q.mbx.chains.get c = { s.part.mbx.chains.get c with rescanPending := true })
        ∧ (∀ c, mask.getLsbD (chainNumber c) = false ∨ (s.part.mbx.chains.get c).state = .broken →
            q.mbx.chains.get c = s.part.mbx.chains.get c)
        ∧ s.part.onlyChanges [.command, .chains, .port] q))
  ∧ (∀ (s : State) (n : Byte),
      (2 < n.toNat →
        exec (.rewind n) s = .next { s with part := (s.part.shows .badCommand 0).settle })
      ∧ (n.toNat ≤ 2 → s.part.mbx.base = none →
        exec (.rewind n) s = .next { s with part := (s.part.shows .baseNotSet 0).settle })
      ∧ (∀ c b, n.toNat = chainNumber c → s.part.mbx.base = some b →
        ∃ q : Part, exec (.rewind n) s = .next { s with part := q.settle }
          ∧ q.mbx.outcome = .accepted ∧ q.mbx.missing = 0
          ∧ ((s.part.mbx.chains.get c).state ≠ .walking → q.mbx.readsAnchor c b)
          ∧ ((s.part.mbx.chains.get c).state = .walking →
              q.mbx.chains.get c = { s.part.mbx.chains.get c with rewindPending := true })
          ∧ s.part.mbx.onlyChain c q.mbx ∧ s.part.onlyChanges [.command, .chains, .port] q))

/-- R25, R26: ACK_ATTENTION clears exactly the reasons named, and REPORTS_HELD stands again at once while its condition holds.
A mask beyond the reasons, and a word that names no command, are ignored with BAD_COMMAND. -/
def Obligations.AckAttentionAndBadCommand : Prop :=
  ∀ s : State,
    (∀ mask : Byte, 32 ≤ mask.toNat →
      exec (.ackAttention mask) s = .next { s with part := (s.part.shows .badCommand 0).settle })
    ∧ (∀ mask : Byte, mask.toNat < 32 →
      ∃ q : Part, exec (.ackAttention mask) s = .next { s with part := q.settle }
        ∧ q.mbx.outcome = .accepted ∧ q.mbx.missing = 0
        ∧ (∀ i < 5, (word (setCode [q.mbx.attention.reportWritten, q.mbx.attention.reportsHeld,
              q.mbx.attention.collectorChange, q.mbx.attention.chainBroken, q.mbx.attention.modeChange])).getLsbD i
            = (s.part.attentionRegister.getLsbD i && !mask.getLsbD i))
        ∧ s.part.onlyChanges [.command, .attention] q)
    ∧ (∀ w : Word, 0x10000 ≤ w.toNat ∨ w.toNat / 16 % 16 ≠ 0 ∨ w.toNat % 16 = 0 ∨ 6 < w.toNat % 16 →
      exec (.badCommand w) s = .next { s with part := (s.part.shows .badCommand 0).settle })

/-- R2, R25, section 12.8: the registers as they are read. -/
def Obligations.RegistersRead : Prop :=
  ∀ p : Part,
    field p.partStatus 16 16 = 0x0C40 ∧ field p.partStatus 14 2 = 1
    ∧ field p.partStatus 12 2 = modeCode p.mode ∧ field p.partStatus 11 1 = flagCode p.mbx.base.isSome
    ∧ field p.partStatus 7 4 = outcomeCode p.mbx.outcome ∧ field p.partStatus 0 7 = p.mbx.missing.toNat
    ∧ (p.mbx.base = none → p.baseRegister = 0) ∧ (∀ b, p.mbx.base = some b → p.baseRegister = b)
    ∧ p.attentionRegister.getLsbD 0 = p.mbx.attention.reportWritten
    ∧ p.attentionRegister.getLsbD 1 = p.mbx.attention.reportsHeld
    ∧ p.attentionRegister.getLsbD 2 = p.mbx.attention.collectorChange
    ∧ p.attentionRegister.getLsbD 3 = p.mbx.attention.chainBroken
    ∧ p.attentionRegister.getLsbD 4 = p.mbx.attention.modeChange
    ∧ (p.mbx.attention.line = true ↔ p.attentionRegister ≠ 0)

/-! ### The memory port and the chains -/

/-- R15: the port, free, grants one waiting request, the demand sampler's before the Control walker's, the report writer's, the
mirror writer's and the Setup walker's; the others stay waiting. Nothing is granted while an access is in flight. -/
def Obligations.ArbiterGrantsInOrder : Prop :=
  ∀ s : State,
    (s.part.mbx.port.inFlight ≠ none → exec .memoryPortGrant s = .next { s with part := s.part.settle })
    ∧ (s.part.mbx.port.inFlight = none →
      (∀ a, s.part.mbx.port.demand = some a →
        exec .memoryPortGrant s = .next { s with part := (s.part.granted .demand a).settle })
      ∧ (s.part.mbx.port.demand = none →
        (∀ a, s.part.mbx.port.control = some a →
          exec .memoryPortGrant s = .next { s with part := (s.part.granted .control a).settle })
        ∧ (s.part.mbx.port.control = none →
          (∀ a, s.part.mbx.port.report = some a →
            exec .memoryPortGrant s = .next { s with part := (s.part.granted .report a).settle })
          ∧ (s.part.mbx.port.report = none →
            (∀ a, s.part.mbx.port.mirror = some a →
              exec .memoryPortGrant s = .next { s with part := (s.part.granted .mirror a).settle })
            ∧ (s.part.mbx.port.mirror = none →
              (∀ a, s.part.mbx.port.setup = some a →
                exec .memoryPortGrant s = .next { s with part := (s.part.granted .setup a).settle })
              ∧ (s.part.mbx.port.setup = none →
                exec .memoryPortGrant s = .next { s with part := s.part.settle }))))))

/-- R10: an anchor entry of zero parks the chain on the anchor, a valid one is walked, an invalid one breaks the chain. Where a
chain breaks with its cursor on the anchor, CHAIN_BROKEN carries 0 for it by assumption log 40. -/
def Obligations.AnchorEntryPlacesTheCursor : Prop :=
  ∀ (s : State) (c : Chain) (entry b : Word) (a : Access),
    s.part.mbx.port.inFlight = some a → a.op = .anchorRead c → (s.part.mbx.chains.get c).phase = .anchorRead →
    s.part.mbx.base = some b →
    ∃ q : Part, exec (.anchorReadComplete c entry) s = .next { s with part := q.settle }
      ∧ (entry = 0 → q.wouldPark (s.part.mbx.chains.get c) c b none .link)
      ∧ (entry ≠ 0 → validCard b entry = true → q.goesTo (s.part.mbx.chains.get c) c b entry)
      ∧ (entry = 0 ∨ validCard b entry = true → s.part.mbx.onlyChain c q.mbx ∧ s.part.onlyChanges [.chains, .port] q)
      ∧ (entry ≠ 0 → validCard b entry = false →
          s.part.brokeChain q c .anchor ∧ s.part.oneRaise q .chainBroken ∧ s.part.onlyChanges breakPieces q)

/-- R6, R8: a header read of a walk, or of a rescan for an OWNER or RECORD wait, acts on the owner field: POSTED is written
TAKEN with result NONE and the check as read; anything else parks the chain on the card with wait OWNER; on the Report chain a
POSTED card with no record held parks it with wait RECORD. That a rescan for wait RECORD which finds a card not POSTED parks with
wait OWNER is the model's reading of R8 (assumption log 8). -/
def Obligations.HeaderReadActsOnTheOwnerField : Prop :=
  ∀ (s : State) (c : Chain) (h : Header) (b x : Word) (a : Access) (phase : WalkPhase),
    s.part.mbx.port.inFlight = some a → a.op = .headerRead c → (s.part.mbx.chains.get c).phase = phase →
    phase ∈ [WalkPhase.headerRead, .rescanRead .owner, .rescanRead .record] →
    s.part.mbx.base = some b → (s.part.mbx.chains.get c).cursor = some x →
    ∃ q : Part, exec (.headerReadComplete c h) s = .next { s with part := q.settle }
      ∧ (headerPosted h = false → q.wouldPark (s.part.mbx.chains.get c) c b (some x) .owner)
      ∧ (headerPosted h = true → c = .report → s.part.mbx.holding = [] →
          q.wouldPark (s.part.mbx.chains.get c) c b (some x) .record)
      ∧ (headerPosted h = true → (c ≠ .report ∨ s.part.mbx.holding ≠ []) →
          (q.mbx.chains.get c).phase = .takenWrite ∧ (q.mbx.chains.get c).card = { header := h }
          ∧ (q.mbx.chains.get c).state = (s.part.mbx.chains.get c).state
          ∧ q.mbx.port.requests { op := .takenWrite c, addr := x, len := 1, data := [ownerWord 2 .none (headerCheck h)] })
      ∧ s.part.mbx.onlyChain c q.mbx ∧ s.part.onlyChanges [.chains, .port] q

/-- R8: a rescan read for a LINK wait looks only at the next-card address: zero parks the chain again, a valid one is walked by
R6 from its header read, on the Report chain with no record held too, and an invalid one breaks the chain. -/
def Obligations.RescanForLinkFollowsTheNextCard : Prop :=
  ∀ (s : State) (c : Chain) (h : Header) (b x : Word) (a : Access),
    s.part.mbx.port.inFlight = some a → a.op = .headerRead c → (s.part.mbx.chains.get c).phase = .rescanRead .link →
    s.part.mbx.base = some b → (s.part.mbx.chains.get c).cursor = some x →
    ∃ q : Part, exec (.headerReadComplete c h) s = .next { s with part := q.settle }
      ∧ (h.next = 0 → q.wouldPark (s.part.mbx.chains.get c) c b (some x) .link)
      ∧ (h.next ≠ 0 → validCard b h.next = true → q.mbx.readsHeader c h.next .headerRead
          ∧ (q.mbx.chains.get c).rewindPending = (s.part.mbx.chains.get c).rewindPending)
      ∧ (h.next = 0 ∨ validCard b h.next = true → s.part.mbx.onlyChain c q.mbx ∧ s.part.onlyChanges [.chains, .port] q)
      ∧ (h.next ≠ 0 → validCard b h.next = false →
          s.part.brokeChain q c .link ∧ s.part.oneRaise q .chainBroken ∧ s.part.onlyChanges breakPieces q)

/-- R4, R6: after TAKEN, a Control or Setup card whose payload is above 124 words or runs past the window is refused BAD_LENGTH
with its payload unread; a payload is read from its first burst; a card without one is decided. -/
def Obligations.TakenCardIsReadOrDecided : Prop :=
  ∀ (s : State) (c : Chain) (b x : Word) (h : Header) (a : Access),
    c ≠ .report → s.part.mbx.port.inFlight = some a → a.op = .takenWrite c →
    (s.part.mbx.chains.get c).phase = .takenWrite → (s.part.mbx.chains.get c).card = { header := h } →
    s.part.mbx.base = some b → (s.part.mbx.chains.get c).cursor = some x →
    ∃ q : Part, exec (.takenWriteComplete c) s = .next { s with part := q.settle }
      ∧ (124 < headerLength h ∨ runsPast b x (headerLength h) = true →
          q.mbx.writesOutcome c x { result := .badLength } ∧ s.part.mbx.onlyChain c q.mbx
          ∧ s.part.onlyChanges [.chains, .port] q)
      ∧ (0 < headerLength h → headerLength h ≤ 124 → runsPast b x (headerLength h) = false →
          (q.mbx.chains.get c).phase = .payloadRead
          ∧ q.mbx.port.requests { op := .payloadRead c, addr := x + 20, len := min 16 (headerLength h), data := [] }
          ∧ s.part.mbx.onlyChain c q.mbx ∧ s.part.onlyChanges [.chains, .port] q)
      ∧ (headerLength h = 0 → runsPast b x 0 = false → s.part.freePort.decided q c x)

/-- R4, R6, R14: a payload is read in bursts of 16 words with the remainder last; after the last one the card is decided. -/
def Obligations.PayloadIsReadInBurstsThenDecided : Prop :=
  ∀ (s : State) (c : Chain) (words : List Word) (x : Word) (r : ChainRec) (a : Access),
    s.part.mbx.port.inFlight = some a → a.op = .payloadRead c → a.len = words.length →
    s.part.mbx.chains.get c = r → r.phase = .payloadRead → r.cursor = some x →
    ∃ q : Part, exec (.payloadReadComplete c words) s = .next { s with part := q.settle }
      ∧ (r.card.payload.length + words.length < headerLength r.card.header →
          (q.mbx.chains.get c).phase = .payloadRead ∧ (q.mbx.chains.get c).card.payload = r.card.payload ++ words
          ∧ q.mbx.port.requests
              { op := .payloadRead c, addr := x + 20 + word (4 * (r.card.payload.length + words.length)),
                len := min 16 (headerLength r.card.header - (r.card.payload.length + words.length)), data := [] }
          ∧ s.part.mbx.onlyChain c q.mbx ∧ s.part.onlyChanges [.chains, .port] q)
      ∧ (headerLength r.card.header ≤ r.card.payload.length + words.length →
          ∃ p : Part, p.mbx.chains.get c = { r with card := { r.card with payload := r.card.payload ++ words } }
            ∧ s.part.onlyChanges [.chains, .port] p ∧ p.decided q c x)

/-- R4: the generic checks, in their order, on a card whose payload has been read. -/
def Obligations.GenericChecksInOrder : Prop :=
  ∀ (p : Part) (c : Chain) (card : Card), (p.mbx.chains.get c).card = card →
    (cardCheck card.header.word1 card.payload ≠ headerCheck card.header →
      p.verdictOn c = (p, { result := .badCheck, detail := word (cardCheck card.header.word1 card.payload) }))
    ∧ (cardCheck card.header.word1 card.payload = headerCheck card.header →
      (cardKind c (headerKind card.header) = none → p.verdictOn c = (p, { result := .badKind }))
      ∧ (∀ k, cardKind c (headerKind card.header) = some k →
        (p.mode = .halt → c = .control → k ∉ [CardKind.readFaultTable, .ackFaults, .copySeenMap] →
          p.verdictOn c = (p, { result := .notInMode }))
        ∧ (p.mode ≠ .halt ∨ c ≠ .control ∨ k ∈ [CardKind.readFaultTable, .ackFaults, .copySeenMap] →
          p.verdictOn c = p.own k { payload := card.payload, tag := card.header.tag })))

/-- A refused card changes nothing and returns no data (R3, R4); what the sixteen owners answer and what they do with a card
they accept (R66, R73, R96, R97, R103, R104, R113, R126, R140, R145, R163, R164, R167, R168, R174 to R176, R183, R184). That a
refusal by an owner carries the detail 0 where its own rule names no detail is the model's reading (assumption log 31). The model's
choices in laysOver and acknowledges: LAYOVER_ENTERED is the newest report, after the AUX_SHED reports of its event (log 12); LAYOVER
entry forgets every raw level and stops debounce and cleaning, of wake-enabled inputs too, and leaving LAYOVER leaves every input
record as it was (log 33); the acknowledged mark of a latch stands when the latch of a HOUSED pole clears (log 27); the zone goes last
in the RAISE_ABANDONED of a LOWER_POLES card (log 11). The checks of a
table load are LoadTableIsCheckedInOrder's, the words of the fault table WindowRecordsHaveTheirLayouts'. -/
def Obligations.CardsAreDoneOrRefusedWhole : Prop :=
  ∀ (p : Part) (r : Request),
    (∀ k, (p.own k r).2.result ≠ .ok → (p.own k r).1 = p ∧ (p.own k r).2.data = [])
    ∧ (∀ k, k ∈ [CardKind.raisePoles, .lowerPoles, .clearPole, .cardInhibit, .injectTest, .verifyConfig] →
        r.payload.length ≠ 1 → (p.own k r).2 = { result := .badLength })
    ∧ (∀ k, k ∈ [CardKind.ackFaults, .clearFaultState, .clearZones, .enterLayover, .exitLayover] →
        r.payload ≠ [] → (p.own k r).2 = { result := .badLength })
    ∧ (r.payload.length ≠ 3 → (p.own .batteryLimits r).2 = { result := .badLength })
    ∧ (r.payload.length ≠ 2 → (p.own .auxRequest r).2 = { result := .badLength })
    ∧ (r.payload.length < 16 → (p.own .copySeenMap r).2 = { result := .badLength })
    ∧ (16 ≤ r.payload.length → 1 < r.at 0 → (p.own .copySeenMap r).2 = { result := .badValue })
    ∧ (r.payload.length < 101 → (p.own .readFaultTable r).2 = { result := .badLength })
    ∧ (∀ v : Word, r.payload = [v] →
        (1 < v.toNat → (p.own .cardInhibit r).2 = { result := .badValue })
        ∧ (v = 1 → (p.own .cardInhibit r).2 = { result := .ok, detail := if p.gov.inhibit.cardInhibit then 0 else 1 }
            ∧ (p.own .cardInhibit r).1.gov.inhibit.cardInhibit = true
            ∧ (p.gov.inhibit.empty = true → (p.own .cardInhibit r).1.gov.armed = false))
        ∧ (v = 0 → (p.own .cardInhibit r).2 = { result := .ok, detail := if p.gov.inhibit.cardInhibit then 1 else 0 }
            ∧ (p.own .cardInhibit r).1.gov.inhibit = { p.gov.inhibit with cardInhibit := false })
        ∧ ((v = 0 ∨ 3 < v.toNat) → (p.own .raisePoles r).2 = { result := .badValue })
        ∧ ((v = 0 ∨ 3 < v.toNat) → (p.own .lowerPoles r).2 = { result := .badValue })
        ∧ (1 < v.toNat → (p.own .clearPole r).2 = { result := .badValue })
        ∧ (∀ x, 1 ≤ v.toNat → v.toNat ≤ 3 → p.raiseBarred (poleSet v.toNat) = some x →
            (p.own .raisePoles r).2 = { result := .precondition, detail := word (x.code + 256 * x.poleCode) })
        ∧ (∀ i ∈ poleSet v.toNat, 1 ≤ v.toNat → v.toNat ≤ 3 → (p.poles.get i).state ∈ [PoleState.faulted, .untracked] →
            (p.own .lowerPoles r).2 = { result := .busy })
        ∧ (∀ i, v.toNat = poleNumber i → (p.poles.get i).state ≠ .faulted → (p.own .clearPole r).2 = { result := .busy })
        ∧ ((v = 0 ∨ 20 < v.toNat) → (p.own .injectTest r).2 = { result := .badValue })
        ∧ (∀ k, v.toNat = kindNumber k → (p.faults.get k).inForce = true → (p.own .injectTest r).2 = { result := .busy })
        ∧ (v = p.tables.check → p.own .verifyConfig r = (p, { result := .ok, detail := p.tables.check })))
    ∧ (∀ f d c : Word, r.payload = [f, d, c] → 1 < f.toNat ∨ 5000 < d.toNat ∨ 5000 < c.toNat →
        (p.own .batteryLimits r).2 = { result := .badValue })
    ∧ (∀ f d c : Word, r.payload = [f, d, c] → f.toNat ≤ 1 → d.toNat ≤ 5000 → c.toNat ≤ 5000 →
        (p.own .batteryLimits r).2 = { result := .ok, detail := word (p.own .batteryLimits r).1.line.budget.available }
        ∧ (p.own .batteryLimits r).1.line.battery = { available := f == 1, discharge := d.toNat, charge := c.toNat }
        ∧ (p.line.state = .unknown → (p.own .batteryLimits r).1.line.budget.available = if f = 1 then d.toNat else 0)
        ∧ (p.own .batteryLimits r).1.line.budgeted p.tables)
    ∧ (∀ x v : Word, r.payload = [x, v] → 12 ≤ x.toNat → (p.own .auxRequest r).2 = { result := .badIndex })
    ∧ (∀ (a : AuxNo) (v : Word), r.payload = [word a.val, v] → 1 < v.toNat → (p.own .auxRequest r).2 = { result := .badValue })
    ∧ (∀ (a : AuxNo) (v : Word), r.payload = [word a.val, v] → v.toNat ≤ 1 → (p.auxEntry a).valid = false →
        (p.own .auxRequest r).2 = { result := .precondition })
    ∧ (101 ≤ r.payload.length → (p.own .readFaultTable r).1 = p ∧ (p.own .readFaultTable r).2.result = .ok
        ∧ (p.own .readFaultTable r).2.detail = word (allKinds.filter (fun k => (p.faults.get k).active)).length
        ∧ (p.own .readFaultTable r).2.data.length = 101)
    ∧ (16 ≤ r.payload.length → r.at 0 ≤ 1 → (p.own .copySeenMap r).2.result = .ok
        ∧ (∀ i < 512, ((p.own .copySeenMap r).2.data.getD (i / 32) 0).getLsbD (i % 32) = p.zones.seen.getLsbD i)
        ∧ (p.own .copySeenMap r).1.zones.seen = (if r.at 0 = 1 then 0 else p.zones.seen))
    ∧ (r.payload = [] → p.faults.state ≠ .fault →
        p.own .clearFaultState r = (p, { result := .ok, detail := word (collectorCode p.faults.state) }))
    ∧ (r.payload = [] → p.mode ≠ .run → (p.own .enterLayover r).2 = { result := .notInMode })
    ∧ (r.payload = [] → p.mode ≠ .layover → (p.own .exitLayover r).2 = { result := .notInMode })
    ∧ (r.payload = [] → p.mode = .layover → (p.own .exitLayover r).2 = { result := .ok }
        ∧ p.resumes (p.own .exitLayover r).1
        ∧ (p.own .exitLayover r).1.mbx.newest .wake .modeLogic 0 r.tag [.small WakeCause.card.ctorIdx])
    ∧ (r.payload = [] → p.mode = .run →
        ((∀ i, p.keptPoles.get i = .housed) → p.zones.stationary = true →
            p.gov.setpoint = 0 →
            (p.own .enterLayover r).2 = { result := .ok } ∧ p.laysOver (p.own .enterLayover r).1 r.tag)
        ∧ (p.keptPoles.p ≠ .housed → (p.own .enterLayover r).2 = { result := .precondition, detail := 0 })
        ∧ (p.keptPoles.p = .housed → p.keptPoles.n ≠ .housed →
            (p.own .enterLayover r).2 = { result := .precondition, detail := 1 })
        ∧ (p.keptPoles.p = .housed → p.keptPoles.n = .housed → p.zones.stationary = false →
            (p.own .enterLayover r).2 = { result := .precondition, detail := 2 })
        ∧ (p.keptPoles.p = .housed → p.keptPoles.n = .housed → p.zones.stationary = true → p.gov.setpoint ≠ 0 →
            (p.own .enterLayover r).2 = { result := .precondition, detail := 3 }))
    ∧ (∀ v : Word, r.payload = [v] →
        (1 ≤ v.toNat → v.toNat ≤ 3 → p.raiseBarred (poleSet v.toNat) = none →
            (p.own .raisePoles r).2 = { result := .ok, detail := v }
            ∧ ∀ i ∈ poleSet v.toNat, p.raises (p.own .raisePoles r).1 i .card r.tag none)
        ∧ (1 ≤ v.toNat → v.toNat ≤ 3 → (∀ i ∈ poleSet v.toNat, (p.poles.get i).barsLowering = false) →
            (p.own .lowerPoles r).2 =
              { result := .ok, detail := word (p.outcomeOf (poleSet v.toNat) .p + 256 * p.outcomeOf (poleSet v.toNat) .n) }
            ∧ ∀ i ∈ poleSet v.toNat,
              ((p.poles.get i).onLine = true → p.lowers (p.own .lowerPoles r).1 i .request r.tag none)
              ∧ ((p.poles.get i).state = .raising → p.abandons (p.own .lowerPoles r).1 i .lowerRequest
                  ∧ (p.housedClosed i = false → ((p.own .lowerPoles r).1.poles.get i).requestTag = r.tag))
              ∧ ((p.poles.get i).onLine = false → (p.poles.get i).state ≠ .raising →
                  ((p.own .lowerPoles r).1.poles.get i).state = (p.poles.get i).state
                  ∧ ((p.poles.get i).state = .housed → ((p.own .lowerPoles r).1.poles.get i).retryPending = false)))
        ∧ (∀ i, v.toNat = poleNumber i → (p.poles.get i).state = .faulted →
            (p.own .clearPole r).2 = { result := .ok }
            ∧ ((p.poles.get i).fault = some .poleStuck →
                (p.own .clearPole r).1.endedFault .poleStuck (aboutPole i .none))
            ∧ ((p.poles.get i).fault = some .unresolved →
                (p.own .clearPole r).1.endedFault .poleSensor (aboutPole i .unresolved))
            ∧ ((p.poles.get i).sensorAvailable = false →
                ((p.own .clearPole r).1.poles.get i).state = .untracked
                ∧ ((p.own .clearPole r).1.poles.get i).resolving = true
                ∧ ((p.own .clearPole r).1.poles.get i).resolveTag = r.tag
                ∧ ((p.own .clearPole r).1.poles.get i).fault = none
                ∧ ((p.own .clearPole r).1.poles.get i).resolutionTimer = p.startTimer p.tables.timers.resolutionWindow
                ∧ (p.own .clearPole r).1.gov.inhibit.poleSuspect = true)
            ∧ ((p.poles.get i).sensorAvailable = true →
                (p.withResolving i r.tag).triesToResolve (p.own .clearPole r).1 i (p.poles.get i).elevation
                  (p.poles.get i).lateral))
        ∧ (∀ k, v.toNat = kindNumber k → (p.faults.get k).inForce = false →
            (p.own .injectTest r).2 = { result := .ok, detail := v } ∧ p.injects (p.own .injectTest r).1 k r.tag)
        ∧ (v ≠ p.tables.check → (p.own .verifyConfig r).2 = { result := .ok, detail := p.tables.check }
            ∧ p.activated (p.own .verifyConfig r).1 .configMismatch { block := .configurationTables }
                [.large v, .large p.tables.check, bigNat p.tables.loadedCode]))
    ∧ (∀ (a : AuxNo) (v : Word), r.payload = [word a.val, v] → (p.auxEntry a).valid = true →
        (v = 1 → (p.auxRec a).state = .faulted → (p.own .auxRequest r).2 = { result := .busy })
        ∧ (v.toNat ≤ 1 → (v = 0 ∨ (p.auxRec a).state ≠ .faulted) →
            (p.own .auxRequest r).2 =
              { result := .ok, detail := word (auxStateCode ((p.own .auxRequest r).1.auxRec a).state) }
            ∧ p.takesRequest (p.own .auxRequest r).1 a (v == 1)))
    ∧ (r.payload = [] → (p.own .ackFaults r).2 =
            { result := .ok, detail := word (allKinds.filter (fun k => (p.faults.get k).unack)).length }
        ∧ p.acknowledges (p.own .ackFaults r).1)
    ∧ (r.payload = [] → p.faults.state = .fault →
        (∀ k, allKinds.find? (fun x => (p.faults.get x).unack || ((p.reactions x).escalate && (p.faults.get x).inForce))
              = some k →
            (p.own .clearFaultState r).2 = { result := .stillActive, detail := word (kindNumber k) })
        ∧ ((∀ x, (p.faults.get x).unack = false ∧ ((p.reactions x).escalate = false ∨ (p.faults.get x).inForce = false)) →
            (p.own .clearFaultState r).2 = { result := .ok, detail := word (collectorCode .normal) }
            ∧ (p.own .clearFaultState r).1.faults.state = .normal
            ∧ (p.own .clearFaultState r).1.gov.inhibit = { p.gov.inhibit with faultState := false }
            ∧ (p.own .clearFaultState r).1.mbx.attention.collectorChange = true
            ∧ (p.own .clearFaultState r).1.mbx.newest .collectorChanged .faultCollector 0 r.tag
                [.small (collectorCode .fault), .small (collectorCode .normal), .small CollectorCause.clear.ctorIdx]))
    ∧ (r.payload = [] → (p.own .clearZones r).2 =
            { result := .ok, detail := word (p.zones.pendingZones.length + p.zones.active.length) }
        ∧ (p.own .clearZones r).1.zones = { p.zones with pendingZones := [], active := [], effective := {} })
    ∧ (∀ e, p.readLoad r.payload = .error e →
        (p.own .loadTable r).2 = { result := e.code, detail := word e.detail })
    ∧ (∀ x, p.readLoad r.payload = .ok x →
        p.tables.stores (p.own .loadTable r).1.tables x
        ∧ (p.own .loadTable r).2 = { result := .ok, detail := (p.own .loadTable r).1.tables.check }
        ∧ (p.own .loadTable r).1.mode = p.mode)

/-- R170 to R173, section 10.2: the eight checks of a LOAD_TABLE card in their order, of which the first that fails decides the
refusal. A payload below three words is BAD_LENGTH; a table number above 10 or a count of 0 BAD_VALUE; five tables are NOT_IN_MODE
outside HALT; LINE_LIMITS and BUDGET are FROZEN while the line is HIGH; entries past the table's end are BAD_INDEX; another payload
length is BAD_LENGTH; failing content tests are BAD_VALUE and an AUX_TABLE entry in use is BUSY, with the index of the first entry at
fault as the detail. A card that passes is stored. The entry lengths and ranges are those of section 12.5 and the owning chapters. That
the entries' own tests go before those across entries and across tables, and which entry a clash names, is assumption log 20; the
detail 0 of the other refusals is R171's. -/
def Obligations.LoadTableIsCheckedInOrder : Prop :=
  (allTables.map entryCount = [1, 1, 2, 8, 12, 12, 16, 16, 20, 1, 5]
    ∧ allTables.map entryWords = [5, 4, 7, 9, 9, 10, 8, 2, 1, 28, 3] ∧ allTables.map tableNumber = List.range 11
    ∧ (∀ i, fieldRanges .lineLimits i = [(50, 400), (300, 750), (600, 1000), (0, 50), (10, 200)]
      ∧ fieldRanges .budget i = [(0, 10000), (0, 2000), (0, 1000), (200, 800)]
      ∧ fieldRanges .poleLimits i = [(0, 20 * 40), (10 * 40, 70 * 40), (15 * 40, 80 * 40), (5 * 40, 40 * 40), (5, 200), (1, 8), (0, 1)]
      ∧ fieldRanges .profiles i = [(0, 100), (0, 100), (0, 1), (0, 2000), (0, 40), (0, 15), (0, 1), (0, 2), (0, 1)]
      ∧ fieldRanges .watchTable i = [(0, 1), (0, 1), (0, 63), (0, 1), (0, 511), (0, 1), (0, 7), (0, 1), (0, 7)]
      ∧ fieldRanges .auxTable i =
          [(0, 1), (0, 2), (0, 2000), (0, 15), (0, 16), (100, 10000), (0, 60), (0, 15), (0, 1), (0, 1)]
      ∧ fieldRanges .contactRoles i = [(0, 7), (0, 11), (0, 1), (0, 1), (0, 1), (0, 1), (1, 64), (0, 1)]
      ∧ fieldRanges .outputRoles i = [(0, 7), (0, 11)] ∧ fieldRanges .faultReactions i = [(0, 15)]
      ∧ (fieldRanges .timers i).take 14 = [(1, 50), (10, 1000), (5, 200), (10, 200), (20, 2000), (50, 2000), (100, 10000),
          (10, 200), (200, 5000), (2000, 15000), (2000, 15000), (100, 1000), (0, 15), (0, 3)]
      ∧ (fieldRanges .timers i).drop 14 = [(16, 1024), (1, 255), (0, 3), (0, 255), (1, 50), (5, 50), (3, 20), (0, 1000),
          (0, 1000), (50, 5000), (500, 20000), (100, 5000), (500, 30000), (500, 10000)]
      ∧ fieldRanges .linkSettings i =
          (if i < 3 then [(2, 16), (2, 50), (2, 16)] else [(19200, 1000000), (20, 2000), (2, 16)])))
  ∧ ∀ (p : Part) (r : Request),
    (r.payload.length < 3 → p.own .loadTable r = (p, { result := .badLength }))
    ∧ (3 ≤ r.payload.length → 10 < r.at 0 ∨ r.at 2 = 0 → p.own .loadTable r = (p, { result := .badValue }))
    ∧ ∀ t : TableId, 3 ≤ r.payload.length → r.at 0 = tableNumber t → r.at 2 ≠ 0 →
      (t ∈ [TableId.poleLimits, .contactRoles, .outputRoles, .timers, .linkSettings] → p.mode ≠ .halt →
        p.own .loadTable r = (p, { result := .notInMode }))
      ∧ (t ∉ [TableId.poleLimits, .contactRoles, .outputRoles, .timers, .linkSettings] ∨ p.mode = .halt →
        (t ∈ [TableId.lineLimits, .budget] → p.line.state = .high → p.own .loadTable r = (p, { result := .frozen }))
        ∧ (t ∉ [TableId.lineLimits, .budget] ∨ p.line.state ≠ .high →
          (entryCount t < r.at 1 + r.at 2 → p.own .loadTable r = (p, { result := .badIndex }))
          ∧ (r.at 1 + r.at 2 ≤ entryCount t →
            (r.payload.length ≠ 3 + r.at 2 * entryWords t → p.own .loadTable r = (p, { result := .badLength }))
            ∧ (r.payload.length = 3 + r.at 2 * entryWords t →
              ∃ x : Load, x.table = t ∧ x.carriedBy r.payload ∧ p.judgesLoad x (p.own .loadTable r)))))

/-- R24: a TAKEN report card that fits takes the oldest held record, marked as being written; one that is too short, above 124
words or past the window is refused BAD_LENGTH and the record stays as it is; that the refusal's detail is 0 is the model's reading
(assumption log 31). -/
def Obligations.ReportCardTakesTheOldestRecord : Prop :=
  ∀ (s : State) (b x : Word) (r : ChainRec) (a : Access) (oldest : ReportRec) (rest : List ReportRec),
    s.part.mbx.port.inFlight = some a → a.op = .takenWrite .report → s.part.mbx.chains.report = r →
    r.phase = .takenWrite → s.part.mbx.base = some b → r.cursor = some x → s.part.mbx.holding = oldest :: rest →
    ∃ q : Part, exec (.takenWriteComplete .report) s = .next { s with part := q.settle }
      ∧ s.part.mbx.onlyChain .report q.mbx
      ∧ (124 < headerLength r.card.header ∨ runsPast b x (headerLength r.card.header) = true
            ∨ headerLength r.card.header < 4 + oldest.details.length →
          q.mbx.writesOutcome .report x { result := .badLength } ∧ s.part.onlyChanges [.chains, .port] q)
      ∧ (headerLength r.card.header ≤ 124 → runsPast b x (headerLength r.card.header) = false →
            4 + oldest.details.length ≤ headerLength r.card.header → oldest.details.length ≤ 5 →
          q.mbx.holding = { oldest with beingWritten := true } :: rest
          ∧ q.mbx.writesOutcome .report x
              { result := .ok, detail := word (4 + oldest.details.length), data := reportWords oldest }
          ∧ q.mbx.raised = s.part.mbx.raised ∧ q.mbx.written = s.part.mbx.written ∧ q.mbx.dropped = s.part.mbx.dropped
          ∧ s.part.onlyChanges [.reports, .chains, .port] q)

/-- R3, R14: after a burst of returned data the next burst is written, then the detail; after the detail the word that holds
the owner field (DONE 3, REFUSED 4), the result code and the check as read. -/
def Obligations.OutcomeIsWrittenInOrder : Prop :=
  ∀ (s : State) (c : Chain) (x : Word) (r : ChainRec) (a : Access),
    s.part.mbx.port.inFlight = some a → s.part.mbx.chains.get c = r → r.cursor = some x →
    (a.op = .dataWrite c → r.phase = .dataWrite →
      ∃ q : Part, exec (.cardDataWriteComplete c) s = .next { s with part := q.settle }
        ∧ (r.card.dataLeft.drop 16 = [] → (q.mbx.chains.get c).phase = .detailWrite
            ∧ q.mbx.port.requests { op := .detailWrite c, addr := x + 16, len := 1, data := [r.card.detail] })
        ∧ (c ≠ .report → r.card.dataLeft.drop 16 ≠ [] → (q.mbx.chains.get c).phase = .dataWrite
            ∧ q.mbx.port.requests
                { op := .dataWrite c, addr := x + 20 + word (4 * (r.card.dataDone + 16)),
                  len := ((r.card.dataLeft.drop 16).take 16).length, data := (r.card.dataLeft.drop 16).take 16 })
        ∧ s.part.mbx.onlyChain c q.mbx ∧ s.part.onlyChanges [.chains, .port] q)
    ∧ (a.op = .detailWrite c → r.phase = .detailWrite →
      ∃ q : Part, exec (.detailWriteComplete c) s = .next { s with part := q.settle }
        ∧ (q.mbx.chains.get c).phase = .ownerWrite
        ∧ q.mbx.port.requests
            { op := .ownerWrite c, addr := x, len := 1,
              data := [ownerWord (if r.card.result = .ok then 3 else 4) r.card.result (headerCheck r.card.header)] }
        ∧ s.part.mbx.onlyChain c q.mbx ∧ s.part.onlyChanges [.chains, .port] q)

/-- R7, R10: a finished card's walker reads the anchor if a rewind is pending; otherwise it parks on a next-card address of zero,
walks a valid one, and breaks on an invalid one (CHAIN_BROKEN's cursor: assumption log 40). -/
def Obligations.FinishedCardIsFollowed : Prop :=
  ∀ (s : State) (c : Chain) (b x : Word) (r : ChainRec) (a : Access),
    s.part.mbx.port.inFlight = some a → a.op = .ownerWrite c → s.part.mbx.chains.get c = r → r.phase = .ownerWrite →
    s.part.mbx.base = some b → r.cursor = some x →
    ∃ q : Part, exec (.ownerWriteComplete c) s = .next { s with part := q.settle }
      ∧ (r.rewindPending = true → q.mbx.readsAnchor c b)
      ∧ (r.rewindPending = false → r.card.header.next = 0 → q.wouldPark r c b (some x) .link)
      ∧ (r.rewindPending = false → r.card.header.next ≠ 0 → validCard b r.card.header.next = true →
          q.goesTo r c b r.card.header.next)
      ∧ (r.rewindPending = true ∨ r.card.header.next = 0 ∨ validCard b r.card.header.next = true →
          s.part.mbx.onlyChain c q.mbx ∧ (c ≠ .report → s.part.onlyChanges [.chains, .port] q))
      ∧ (r.rewindPending = false → r.card.header.next ≠ 0 → validCard b r.card.header.next = false →
          s.part.brokeChain q c .link)
      ∧ s.part.onlyChanges breakPieces q

/-- R23, R24: when a report card is written DONE, the records marked as being written leave the list, reports written grows by
their repeat counts, and REPORT_WRITTEN is set; a refused report card leaves every record held. An invalid next-card address
then breaks the chain, with no record left marked and CHAIN_BROKEN raised (R7, R11, R24). -/
def Obligations.WrittenReportLeavesTheList : Prop :=
  ∀ (s : State) (r : ChainRec) (a : Access),
    s.part.mbx.port.inFlight = some a → a.op = .ownerWrite .report → s.part.mbx.chains.report = r → r.phase = .ownerWrite →
    ∃ q : Part, exec (.ownerWriteComplete .report) s = .next { s with part := q.settle }
      ∧ q.mbx.written = s.part.mbx.written + (if r.card.result = .ok then
          word ((s.part.mbx.holding.filter (fun x => x.beingWritten)).map (·.repeats)).sum else 0)
      ∧ q.mbx.attention.reportWritten = (s.part.mbx.attention.reportWritten || decide (r.card.result = .ok))
      ∧ (r.rewindPending = true ∨ r.card.header.next = 0
            ∨ (∃ b, s.part.mbx.base = some b ∧ validCard b r.card.header.next = true) →
          q.mbx.raised = s.part.mbx.raised ∧ q.mbx.dropped = s.part.mbx.dropped
          ∧ (r.card.result = .ok → q.mbx.holding = s.part.mbx.holding.filter (fun x => !x.beingWritten))
          ∧ (r.card.result ≠ .ok → q.mbx.holding = s.part.mbx.holding ∧ q.mbx.attention = s.part.mbx.attention)
          ∧ s.part.onlyChanges [.reports, .attention, .chains, .port] q)
      ∧ (r.rewindPending = false → r.card.header.next ≠ 0 →
            (∀ b, s.part.mbx.base = some b → validCard b r.card.header.next = false) →
          s.part.brokeChain q .report .link ∧ s.part.oneRaise q .chainBroken
          ∧ (∀ x ∈ q.mbx.holding, x.beingWritten = false)
          ∧ s.part.onlyChanges breakPieces q)

/-- R17, R129 to R134, R138: a demand read completes. Outside RUN its delivery is discarded. In RUN a fresh sample (complement
and range right, sequence changed) is stored, ends DEMAND_STALE, arms the governor at or below 0 on an empty inhibit set, and a
setpoint frame with the next sequence is handed over; another sample counts as stale, and at the limit claims DEMAND_STALE. R141,
R142: a reply wait still OPEN at the hand-over is a missed reply, and the third in a row loses the drive link; a fresh sample of that
event ends DEMAND_STALE after the claim (R136), so the set passes through no empty moment and TRACTION_ARMED is not reported. That the
miss is counted after the frame is the model's order, the withdrawal of that event after both its reading, and the awaited sequence
that DRIVE_LINK_LOST carries is that of the missed wait (assumption log 24). The sequence is a small item (log 38), and a last fresh
sequence that does not exist is given as 0 in DEMAND_STALE (log 11). -/
def Obligations.DemandReadIsJudged : Prop :=
  ∀ (s : State) (sq v cm : Word) (a : Access), s.part.mbx.port.inFlight = some a → a.op = .demandRead →
    (s.part.mode ≠ .run → exec (.demandReadComplete sq v cm) s = .next { s with part := s.part.freePort.settle })
    ∧ (s.part.mode = .run → cm = ~~~v → -1000 ≤ v.toInt → v.toInt ≤ 1000 → s.part.gov.lastFresh ≠ some sq →
      ∃ q : Part, exec (.demandReadComplete sq v cm) s = .next { s with part := q.settle }
        ∧ q.gov.lastFresh = some sq ∧ q.gov.held = v.toInt ∧ q.gov.stale = 0 ∧ q.gov.inhibit.demandStale = false
        ∧ (s.part.gov.inhibit.demandStale = true → q.endedFault .demandStale { block := .tractionGovernor })
        ∧ (s.part.gov.replyWait = none ∨ s.part.gov.misses ≠ 2 ∨ s.part.gov.inhibit.driveLink = true →
            q.gov.inhibit = { s.part.gov.inhibit with demandStale := false }
            ∧ q.gov.armed = (s.part.gov.armed || (decide (v.toInt ≤ 0) && q.gov.inhibit.empty))
            ∧ q.gov.counter = s.part.gov.counter + 1 ∧ q.gov.replyWait = some s.part.gov.counter
            ∧ q.send = s.part.send.hand
                { seq := s.part.gov.counter, current := q.gov.setpoint, mode := q.frameMode q.gov.setpoint,
                  regen := q.regenPermitted }
            ∧ (q.gov.inhibit.empty = false ∨ q.gov.armed = false → q.gov.setpoint = 0)
            ∧ (q.gov.inhibit.empty = true → q.gov.armed = true →
                { s.part with gov := { s.part.gov with held := v.toInt } }.follows q.gov.setpoint)
            ∧ q.gov.setpoint ≤ q.motoringCeiling ∧ -(q.brakingCeiling : Int) ≤ q.gov.setpoint)
        ∧ (s.part.gov.replyWait ≠ none → s.part.gov.misses = 2 → s.part.gov.inhibit.driveLink = false →
            s.part.gov.inhibit.demandStale = true →
            q.mbx.raised = s.part.mbx.raised + 1 + (if q.faults.state = s.part.faults.state then 0 else 1)))
    ∧ (s.part.mode = .run → (cm ≠ ~~~v ∨ v.toInt < -1000 ∨ 1000 < v.toInt ∨ s.part.gov.lastFresh = some sq) →
      ∃ q : Part, exec (.demandReadComplete sq v cm) s = .next { s with part := q.settle }
        ∧ q.gov.lastFresh = s.part.gov.lastFresh ∧ q.gov.held = s.part.gov.held
        ∧ q.gov.stale = countUp s.part.gov.stale 255
        ∧ (s.part.gov.stale < s.part.tables.timers.staleLimit →
            countUp s.part.gov.stale 255 = s.part.tables.timers.staleLimit →
            q.gov.inhibit.demandStale = true ∧ q.gov.setpoint = 0
            ∧ s.part.activated q .demandStale { block := .tractionGovernor }
                [.small (if cm ≠ ~~~v then StaleCause.mismatch
                    else if v.toInt < -1000 ∨ 1000 < v.toInt then .range else .unchanged).ctorIdx,
                 .small (countUp s.part.gov.stale 255), .large (s.part.gov.lastFresh.getD 0)])
        ∧ (s.part.tables.timers.staleLimit ≤ s.part.gov.stale
            ∨ countUp s.part.gov.stale 255 ≠ s.part.tables.timers.staleLimit →
            s.part.gov.replyWait = none ∨ s.part.gov.misses ≠ 2 →
            s.part.gov.inhibit.empty = true → s.part.gov.armed = true → s.part.follows q.gov.setpoint))
    ∧ (s.part.mode = .run →
      ∃ q : Part, exec (.demandReadComplete sq v cm) s = .next { s with part := q.settle }
        ∧ (s.part.gov.replyWait ≠ none → s.part.gov.misses = 2 → s.part.gov.inhibit.driveLink = false →
            ∃ awaited : Byte, s.part.losesDriveLink q awaited
              ∧ (s.part.gov.staleCause (.read sq v cm) = none
                  ∨ ¬ (s.part.gov.stale < s.part.tables.timers.staleLimit
                    ∧ countUp s.part.gov.stale 255 = s.part.tables.timers.staleLimit) →
                  s.part.gov.replyWait = some awaited))
        ∧ (s.part.gov.replyWait ≠ none → s.part.gov.misses ≠ 2 ∨ s.part.gov.inhibit.driveLink = true →
            q.gov.misses = countUp s.part.gov.misses 255 ∧ q.gov.goodRun = 0
            ∧ q.gov.inhibit.driveLink = s.part.gov.inhibit.driveLink)
        ∧ (s.part.gov.replyWait = none → cm = ~~~v → -1000 ≤ v.toInt → v.toInt ≤ 1000 → s.part.gov.lastFresh ≠ some sq →
            q.gov.misses = s.part.gov.misses ∧ q.gov.goodRun = s.part.gov.goodRun)
        ∧ s.part.onlyChanges (govPieces ++ [.port]) q)

/-- R132, R133: the two ceilings and the allowance current. The setpoint of a computation is 0 unless the governor is ARMED on
an empty set; then it moves from the last setpoint toward the target of the held demand: it rises by at most the ramp step and
falls by at most the fall step without passing the target, and from the opposite sign it falls toward 0 and stops there; the two
ceilings bound it at once. What a quotient by a line voltage of 0 is, quotient gives as a free value (assumption log 6). -/
def Obligations.SetpointStaysWithinBounds : Prop :=
  ∀ p : Part,
    (p.gov.inhibit.empty = false ∨ p.gov.armed = false → p.nextSetpoint = 0)
    ∧ p.nextSetpoint ≤ p.motoringCeiling ∧ -(p.brakingCeiling : Int) ≤ p.nextSetpoint
    ∧ p.nextSetpoint ≤ max p.gov.setpoint 0 + rampStep p.tables.timers.rampRate p.tables.timers.controlPeriod
    ∧ min p.gov.setpoint 0 - rampStep p.tables.timers.rampRate p.tables.timers.controlPeriod ≤ p.nextSetpoint
    ∧ (0 < p.gov.setpoint → 0 ≤ p.nextSetpoint) ∧ (p.gov.setpoint < 0 → p.nextSetpoint ≤ 0)
    ∧ (p.gov.inhibit.empty = true → p.gov.armed = true → p.follows p.nextSetpoint)
    ∧ p.motoringCeiling = min (p.tables.timers.motoringLimit * p.zones.effective.tractionCap / 100) p.allowanceCurrent
    ∧ p.brakingCeiling = min (p.tables.timers.regenLimit * p.zones.effective.regenCap / 100) p.line.budget.regenCap
    ∧ (p.line.budget.source = .line → 0 < p.line.voltage →
        p.allowanceCurrent = p.line.budget.allowance * 400 / p.line.voltage)
    ∧ (p.line.budget.source = .battery → 0 < p.tables.budget.nominal →
        p.allowanceCurrent = p.line.budget.allowance * 100 / p.tables.budget.nominal)
    ∧ (p.line.budget.source = .none → p.allowanceCurrent = 0)

/-- R18, R19: the parts of a mirror write follow one another: the first word, the body in twelve bursts, the last word; then the
write ends, and a pending start begins with the next sequence number and a new snapshot, whose words are those of
WindowRecordsHaveTheirLayouts. -/
def Obligations.MirrorIsWrittenInParts : Prop :=
  ∀ (s : State) (w : MirrorWrite) (a : Access), s.part.mbx.port.inFlight = some a → a.op.requester = .mirror →
    s.part.mbx.mirror.writing = some w →
    ∃ q : Part, exec .mirrorBurstComplete s = .next { s with part := q.settle }
      ∧ (a.op = .mirrorFirst → q.mbx.mirror = s.part.mbx.mirror
          ∧ q.mbx.port.requests
              { op := .mirrorBody 0, addr := w.base + 0x104, len := (w.body.take 16).length, data := w.body.take 16 })
      ∧ (∀ i, a.op = .mirrorBody i → i < 11 → q.mbx.mirror = s.part.mbx.mirror
          ∧ q.mbx.port.requests
              { op := .mirrorBody (i + 1), addr := w.base + word (0x104 + 64 * (i + 1)),
                len := ((w.body.drop (16 * (i + 1))).take 16).length, data := (w.body.drop (16 * (i + 1))).take 16 })
      ∧ (a.op = .mirrorBody 11 → q.mbx.mirror = s.part.mbx.mirror
          ∧ q.mbx.port.requests { op := .mirrorLast, addr := w.base + 0x3FC, len := 1, data := [s.part.mbx.mirror.seq] })
      ∧ (a.op = .mirrorLast → s.part.mbx.mirror.pendingStart = false →
          q.mbx.mirror = { s.part.mbx.mirror with writing := none })
      ∧ (a.op = .mirrorLast → s.part.mbx.mirror.pendingStart = true → ∀ b, s.part.mbx.base = some b →
          q.mbx.mirror.seq = s.part.mbx.mirror.seq + 1 ∧ q.mbx.mirror.pendingStart = false
          ∧ q.mbx.mirror.writing = some { base := b, body := s.part.mirrorBody }
          ∧ q.mbx.port.requests { op := .mirrorFirst, addr := b + 0x100, len := 1, data := [s.part.mbx.mirror.seq + 1] })
      ∧ s.part.onlyChanges [.mirror, .port] q

/-- R20, R168, sections 12.4, 12.6 and 12.7: what the words of a status mirror body, of a report record and of a fault table hold. The
codes that chapter 12 gives are these; the codes of other named values, a set flag coded 1, and ARMED and SPECIFIC coded 0, are assumption
log 10. -/
def Obligations.WindowRecordsHaveTheirLayouts : Prop :=
  (∀ p : Part, p.mirroredBy p.mirrorBody)
    ∧ (∀ r : ReportRec, r.details.length ≤ 5 → r.repeats ≤ 255 → r.droppedAfter ≤ 255 → r.inst ≤ 65535 →
        r.laidOut (reportWords r))
    ∧ (∀ (p : Part) (r : Request), 101 ≤ r.payload.length → p.tabulates (p.own .readFaultTable r).2.data)
    ∧ (∀ k, reportKindCode (.fault k) = kindNumber k)
    ∧ [ReportKind.runEntered, .haltEntered, .layoverEntered, .wake, .collectorChanged, .lineRestored, .poleResolved,
        .suspectCleared, .raiseComplete, .raiseAbandoned, .lowerComplete, .lowerAbandoned, .tagLowQuality, .tagUnmatched,
        .tagLinkNotReady, .tagFrameInvalid, .zonePassed, .zoneDisplaced, .tractionArmed, .auxShed, .auxTripped].map
          reportKindCode = List.range' 32 21
    ∧ [Severity.info, .warning, .alarm].map severityCode = [0, 1, 2]
    ∧ [Block.mailboxPort, .linkReceivers, .contactAndDrive, .lineSupervisor, .poleMonitor, .zoneMatcher, .tractionGovernor,
        .auxiliaryScheduler, .faultCollector, .configurationTables, .modeLogic].map blockCode = List.range 11
    ∧ [Mode.halt, .run, .layover].map modeCode = [0, 1, 2]

/-- R11, R14, R16, R19: an error response and a timeout alike raise MEMORY_PORT with the requester and the burst's address; a
walker's chain breaks at the phase of the access (CHAIN_BROKEN's cursor: assumption log 40); a mirror write is abandoned; in RUN
a demand read that fails is a delivery that is not fresh, with cause FAILED_READ (R17, R130, R131). A late completion is
discarded. The model's choices: an error or a timeout with no access in flight changes nothing (assumption log 3), and a last fresh
sequence that does not exist is given as 0 in DEMAND_STALE (log 11). -/
def Obligations.FailedAccessAffectsItsRequester : Prop :=
  ∀ s : State,
    exec .lateCompletion s = .next { s with part := s.part.settle }
    ∧ ∀ c ∈ [Instr.memoryAccessError, .memoryAccessTimeout],
      (s.part.mbx.port.inFlight = none → exec c s = .next { s with part := s.part.settle })
      ∧ (∀ a, s.part.mbx.port.inFlight = some a →
        ∃ q : Part, exec c s = .next { s with part := q.settle }
          ∧ s.part.activated q .memoryPort { block := .mailboxPort, inst := requesterNumber a.op.requester } [.large a.addr]
          ∧ (∀ ch, a.op.chain = some ch → s.part.brokeChain q ch a.op.breakPhase)
          ∧ (a.op.requester = .mirror → s.part.mbx.mirror.pendingStart = false →
              q.mbx.mirror = { s.part.mbx.mirror with writing := none } ∧ s.part.oneRaise q .memoryPort)
          ∧ (a.op = .demandRead → s.part.mode ≠ .run → s.part.oneRaise q .memoryPort)
          ∧ (a.op = .demandRead → s.part.mode = .run →
              q.gov.lastFresh = s.part.gov.lastFresh ∧ q.gov.held = s.part.gov.held
              ∧ q.gov.stale = countUp s.part.gov.stale 255 ∧ q.gov.replyWait ≠ none
              ∧ (s.part.gov.stale < s.part.tables.timers.staleLimit →
                  countUp s.part.gov.stale 255 = s.part.tables.timers.staleLimit →
                  q.gov.inhibit.demandStale = true
                  ∧ s.part.activated q .demandStale { block := .tractionGovernor }
                      [.small StaleCause.failedRead.ctorIdx, .small (countUp s.part.gov.stale 255),
                       .large (s.part.gov.lastFresh.getD 0)]))
          ∧ (∀ ch, ch ≠ .report → a.op.chain ≠ some ch → q.mbx.chains.get ch = s.part.mbx.chains.get ch)
          ∧ s.part.onlyChanges (govPieces ++ [.mirror]) q)

/-- R8, R18: a rescan timer that runs out makes the chain's rescan read; the mirror interval restarts and starts a mirror write,
or keeps one pending start; nothing is read or written while the base is unset. The timestamp moves to the expiry (assumption
log 1). -/
def Obligations.MailboxTimersStartReadsAndMirrors : Prop :=
  ∀ (s : State) (e : Word),
    (∀ c, (s.part.mbx.chains.get c).rescanTimer = .running e →
      (s.part.mbx.base = none → exec (.rescanTimerExpiry c) s = .next { s with part := (s.part.clockTo e).settle })
      ∧ (∀ b, s.part.mbx.base = some b →
        ∃ q : Part, exec (.rescanTimerExpiry c) s = .next { s with part := q.settle }
          ∧ q.mbx.rescans c b (s.part.mbx.chains.get c).cursor (s.part.mbx.chains.get c).wait
          ∧ s.part.mbx.onlyChain c q.mbx ∧ (s.part.clockTo e).onlyChanges [.chains, .port] q))
    ∧ (s.part.mbx.mirror.timer = .running e →
      ∃ q : Part, exec .mirrorIntervalExpiry s = .next { s with part := q.settle }
        ∧ q.mbx.mirror.timer = (s.part.clockTo e).startTimer s.part.tables.timers.mirrorInterval
        ∧ (s.part.mbx.base = none → q.mbx.port = s.part.mbx.port
            ∧ q.mbx.mirror = { s.part.mbx.mirror with timer := q.mbx.mirror.timer })
        ∧ (∀ b, s.part.mbx.base = some b → s.part.mbx.mirror.writing = none →
            q.mbx.mirror.seq = s.part.mbx.mirror.seq + 1
            ∧ q.mbx.mirror.writing = some { base := b, body := (s.part.clockTo e).mirrorBody }
            ∧ q.mbx.port.requests { op := .mirrorFirst, addr := b + 0x100, len := 1, data := [s.part.mbx.mirror.seq + 1] })
        ∧ (s.part.mbx.base ≠ none → s.part.mbx.mirror.writing ≠ none →
            q.mbx.mirror = { s.part.mbx.mirror with timer := q.mbx.mirror.timer, pendingStart := true })
        ∧ (s.part.clockTo e).onlyChanges [.mirror, .port] q)

/-- The model's choice (assumption log 2): the expiry of a timer that does not run changes nothing. -/
def Obligations.ExpiryOfStoppedTimerChangesNothing : Prop :=
  ∀ s : State,
    (∀ c, (s.part.mbx.chains.get c).rescanTimer = .stopped → exec (.rescanTimerExpiry c) s = .next { s with part := s.part.settle })
    ∧ (s.part.mbx.mirror.timer = .stopped → exec .mirrorIntervalExpiry s = .next { s with part := s.part.settle })
    ∧ (∀ l, (s.part.linkRec l).silence = .stopped → exec (.silenceTimerExpiry l) s = .next { s with part := s.part.settle })
    ∧ (∀ i, (s.part.input i).debounce = .stopped → exec (.debounceExpiry i) s = .next { s with part := s.part.settle })
    ∧ (∀ i, (s.part.input i).cleaning = .stopped → exec (.cleaningPulseEnd i) s = .next { s with part := s.part.settle })
    ∧ (∀ x, s.part.contacts.pollTimer = .stopped → exec (.pollTimerExpiry x) s = .next { s with part := s.part.settle })
    ∧ (∀ x, s.part.contacts.secondTimer = .stopped → exec (.secondSample x) s = .next { s with part := s.part.settle })
    ∧ (∀ o, (s.part.output o).mismatch = .stopped → exec (.mismatchTimerExpiry o) s = .next { s with part := s.part.settle })
    ∧ (s.part.line.gapTimer = .stopped → exec .gapTimerExpiry s = .next { s with part := s.part.settle })
    ∧ (s.part.line.restoreTimer = .stopped → exec .restoreTimerExpiry s = .next { s with part := s.part.settle })
    ∧ (s.part.line.highTimer = .stopped → exec .highPersistExpiry s = .next { s with part := s.part.settle })
    ∧ (∀ i, (s.part.poles.get i).confirmTimer = .stopped → exec (.confirmTimerExpiry i) s = .next { s with part := s.part.settle })
    ∧ (∀ i, (s.part.poles.get i).resolutionTimer = .stopped →
        exec (.resolutionTimerExpiry i) s = .next { s with part := s.part.settle })
    ∧ (∀ i, (s.part.poles.get i).holdTimer = .stopped → exec (.retrieverHoldExpiry i) s = .next { s with part := s.part.settle })
    ∧ (∀ i, (s.part.poles.get i).lowerTimer = .stopped → exec (.lowerTimerExpiry i) s = .next { s with part := s.part.settle })
    ∧ (∀ i, (s.part.poles.get i).raiseTimer = .stopped → exec (.raiseTimerExpiry i) s = .next { s with part := s.part.settle })
    ∧ (∀ i, (s.part.poles.get i).settleTimer = .stopped → exec (.settleTimerExpiry i) s = .next { s with part := s.part.settle })
    ∧ (s.part.zones.speedTimer = .stopped → exec .speedTimerExpiry s = .next { s with part := s.part.settle })
    ∧ (s.part.zones.stationaryTimer = .stopped → exec .stationaryTimerExpiry s = .next { s with part := s.part.settle })
    ∧ (s.part.gov.period = .stopped → exec .controlPeriodExpiry s = .next { s with part := s.part.settle })
    ∧ (s.part.aux.stagger = .stopped → exec .staggerTimerExpiry s = .next { s with part := s.part.settle })
    ∧ (∀ a, (s.part.auxRec a).startTimer = .stopped → exec (.startTimerExpiry a) s = .next { s with part := s.part.settle })
    ∧ (∀ a, (s.part.auxRec a).offTimer = .stopped → exec (.offTimerExpiry a) s = .next { s with part := s.part.settle })
    ∧ (∀ k, (s.part.faults.get k).edgeHold = .stopped → exec (.edgeHoldExpiry k) s = .next { s with part := s.part.settle })
    ∧ (∀ k, (s.part.faults.get k).testHold = .stopped → exec (.testHoldExpiry k) s = .next { s with part := s.part.settle })
    ∧ (s.part.faults.alertTimer = .stopped → exec .alertTimerExpiry s = .next { s with part := s.part.settle })
    ∧ (s.part.faults.lampHold = .stopped → exec .lampHoldExpiry s = .next { s with part := s.part.settle })
    ∧ (s.part.faults.buzzerHold = .stopped → exec .buzzerHoldExpiry s = .next { s with part := s.part.settle })

/-! ### Links, contacts and outputs -/

/-- R27: while a started receiver looks for a SYNC, an interval of 36 to 60 nominal units begins a frame: it sets the unit time
and the SYNC reference, and the frame is errored from the start if it differs from the last reference by more than one part in
32. Another interval begins nothing. R32: a SILENT link goes to HUNTING at the edge. -/
def Obligations.SyncBeginsAFrame : Prop :=
  ∀ (s : State) (l : PLink) (n : Nat) (r : LinkRec), s.part.linkRec (plLink l) = r → r.started = true →
    (s.part.links.pl.get l).frame = none →
    ∃ q : Part, exec (.syncTaken l n) s = .next { s with part := q.settle }
      ∧ (36000 * (s.part.tables.links.get (plLink l)).unitOrRate ≤ n →
          n ≤ 60000 * (s.part.tables.links.get (plLink l)).unitOrRate →
          (q.links.pl.get l).syncRef = some n ∧ (q.links.pl.get l).unit48 = some n
          ∧ ∃ f, (q.links.pl.get l).frame = some f ∧ f.symbols = []
            ∧ (f.error = some .syncDrift ↔
                ∃ last, (s.part.links.pl.get l).syncRef = some last ∧ (last : Int) < 32 * |(n : Int) - last|)
            ∧ (f.error = none ∨ f.error = some .syncDrift))
      ∧ (n < 36000 * (s.part.tables.links.get (plLink l)).unitOrRate
            ∨ 60000 * (s.part.tables.links.get (plLink l)).unitOrRate < n → q.links.pl.get l = s.part.links.pl.get l)
      ∧ (r.state ≠ .silent → q.links.recs = s.part.links.recs)
      ∧ (r.state = .silent → q.linkRec (plLink l) =
          { r with state := .hunting, goodRun := 0, errorRun := 0, silence := s.part.silenceTimer (plLink l) })
      ∧ s.part.onlyChanges [.links] q

/-- R28: a STATUS or DATA interval of 9.5 to 25.5 units gives the symbol nearest to its length less 10 units, 0 to 15; another
one, up to 40 units, takes the symbol's place and marks the frame errored with SYMBOL_INVALID, unless it is errored already. -/
def Obligations.SymbolIntervalIsDecoded : Prop :=
  ∀ (s : State) (l : PLink) (n u : Nat) (f : PlFrame), (s.part.linkRec (plLink l)).started = true →
    (s.part.linkRec (plLink l)).state ≠ .silent → (s.part.links.pl.get l).unit48 = some u → 0 < u →
    (s.part.links.pl.get l).frame = some f → f.symbols.length < 7 → 48 * n ≤ 40 * u →
    ∃ (q : Part) (g : PlFrame) (v : Nat), exec (.symbolInterval l n) s = .next { s with part := q.settle }
      ∧ q.links.pl.get l = { s.part.links.pl.get l with frame := some g } ∧ g.symbols = f.symbols ++ [v] ∧ v ≤ 15
      ∧ (19 * u ≤ 96 * n → 96 * n < 51 * u → g.error = f.error
          ∧ 2 * u * (v + 10) ≤ 96 * n + u ∧ 96 * n + u < 2 * u * (v + 11))
      ∧ (96 * n < 19 * u ∨ 51 * u ≤ 96 * n → g.error = (if f.error = none then some .symbolInvalid else f.error))
      ∧ q.links.recs = s.part.links.recs ∧ s.part.onlyChanges [.links] q

/-- R29, R30, R32: an accepted frame clears the error run and restarts the silence timer; the fourth in a row makes the link
GOOD. In GOOD a pole sensor frame of STATUS 0 or 1 gives the pole its angles, and the pole's indicators, suspicion, dewirement,
resolution or raise follow (R69, R72, R74 to R79, R82, R83, R98); a converter frame gives the line its values and its class (R48
to R57), here while no pole's set calls for action already. A SENSOR_FAULT frame stops a pole's data (R30, R81) or makes the line
UNKNOWN (R48, R57). What a rate over two frames of one millisecond is, frameRate draws as a free value (assumption log 6). The
model's choices: the error run clears in HUNTING and DEGRADED too (log 25), the cause goes first in the BLIND raise of POLE_SENSOR and
the zone last in RAISE_ABANDONED (log 11), the causes of POLE_SENSOR have the codes of log 10, the order of the poles (log 14), the line
is LOST in the event of a gap of tolerance 0 (log 30), and the basis TRIP beside another indicator (log 36). -/
def Obligations.AcceptedFrameIsDelivered : Prop :=
  ∀ (s : State) (l : PLink) (n u v : Nat) (f : PlFrame) (r : LinkRec), s.part.linkRec (plLink l) = r → r.started = true →
    r.state ≠ .silent → (s.part.links.pl.get l).unit48 = some u → (s.part.links.pl.get l).frame = some f →
    f.symbols.length = 7 → f.error = none → 48 * n ≤ 40 * u → symbolValue u n = some v → plCheck f.symbols = v →
    ∃ q : Part, exec (.plFrameComplete l n) s = .next { s with part := q.settle }
      ∧ q.links.pl.get l = { s.part.links.pl.get l with frame := none }
      ∧ (q.linkRec (plLink l)).errorRun = 0 ∧ (q.linkRec (plLink l)).silence = s.part.silenceTimer (plLink l)
      ∧ (q.linkRec (plLink l)).state = (if r.state = .good ∨ countUp r.goodRun 4 = 4 then .good else r.state)
      ∧ (r.state ≠ .good → (q.linkRec (plLink l)).goodRun = countUp r.goodRun 4)
      ∧ ((q.linkRec (plLink l)).state ≠ .good → s.part.onlyChanges [.links] q)
      ∧ (∀ i : PoleId, l = (if i = .p then .pl0 else .pl1) → (q.linkRec (plLink l)).state = .good → symbolAt f.symbols 0 ≤ 1 →
          s.part.mode ≠ .halt →
          (q.poles.get i).elevation = firstQuantity f.symbols ∧ (q.poles.get i).lateral = secondQuantity f.symbols
          ∧ (q.poles.get i).frameTime = s.part.now ∧ (q.poles.get i).condition = conditionOf (symbolAt f.symbols 0))
      ∧ (l = .pl2 → (q.linkRec (plLink l)).state = .good → symbolAt f.symbols 0 ≤ 1 →
          q.line.voltage = firstQuantity f.symbols ∧ q.line.current = secondQuantity f.symbols)
      ∧ (∀ i : PoleId, l = (if i = .p then .pl0 else .pl1) → (q.linkRec (plLink l)).state = .good →
          (symbolAt f.symbols 0 ≤ 1 → s.part.mode ≠ .halt →
            s.part.takesPoleData q i (conditionOf (symbolAt f.symbols 0)) (firstQuantity f.symbols)
              (secondQuantity f.symbols))
          ∧ (2 ≤ symbolAt f.symbols 0 → s.part.losesSensor q i .good .sensorFault))
      ∧ (l = .pl2 → (q.linkRec (plLink l)).state = .good →
          (symbolAt f.symbols 0 ≤ 1 → (∀ x, (s.part.poles.get x).finding = .nothing) →
            s.part.takesConverterData q (firstQuantity f.symbols) (secondQuantity f.symbols))
          ∧ (2 ≤ symbolAt f.symbols 0 → q.line.state = .unknown ∧ q.line.voltage = 0 ∧ q.line.current = 0
            ∧ q.line.gapTimer = .stopped ∧ q.line.restoreTimer = .stopped ∧ q.line.highTimer = .stopped))
      ∧ s.part.onlyChanges eventPieces q

/-- R28, R29, R32: a frame that completes errored, or is aborted by an interval above 40 units, ends the run of good frames and
adds to the error run; at the limit a GOOD link is DEGRADED and LINK_DEGRADED is raised with the cause. An aborting interval is
tried as a SYNC: at 36 to 60 nominal units it begins a new frame with no symbols, sets the unit time and the SYNC reference, and
the frame is errored with SYNC_DRIFT exactly when it differs from the last reference by more than one part in 32 (R27); another
one begins nothing. The codes of the causes are the model's reading (assumption log 10). -/
def Obligations.ErroredFrameCountsAgainstTheLink : Prop :=
  ∀ (s : State) (c : Instr) (l : PLink) (n u : Nat) (f : PlFrame) (r : LinkRec) (cause : LinkCause),
    s.part.linkRec (plLink l) = r → r.started = true → r.state ≠ .silent →
    (s.part.links.pl.get l).unit48 = some u → (s.part.links.pl.get l).frame = some f →
    (c = .plFrameComplete l n ∧ f.symbols.length = 7 ∧ 48 * n ≤ 40 * u
        ∧ ((∃ e, f.error = some e ∧ cause = e)
          ∨ (f.error = none ∧ symbolValue u n = none ∧ cause = .symbolInvalid)
          ∨ (f.error = none ∧ (∃ v, symbolValue u n = some v ∧ plCheck f.symbols ≠ v) ∧ cause = .checkError)))
      ∨ (c = .plFrameAbort l n ∧ 40 * u < 48 * n ∧ cause = f.error.getD .frameAborted) →
    ∃ q : Part, exec c s = .next { s with part := q.settle }
      ∧ (q.linkRec (plLink l)).cause = some cause ∧ (q.linkRec (plLink l)).errorRun = countUp r.errorRun 16
      ∧ (q.linkRec (plLink l)).silence = r.silence
      ∧ (r.state ≠ .good → (q.linkRec (plLink l)).goodRun = 0 ∧ (q.linkRec (plLink l)).state = r.state
          ∧ s.part.onlyChanges [.links] q)
      ∧ (r.state = .good → countUp r.errorRun 16 < (s.part.tables.links.get (plLink l)).errorLimit →
          (q.linkRec (plLink l)).state = .good ∧ s.part.onlyChanges [.links] q)
      ∧ (r.state = .good → (s.part.tables.links.get (plLink l)).errorLimit ≤ countUp r.errorRun 16 →
          (q.linkRec (plLink l)).state = .degraded ∧ (q.linkRec (plLink l)).goodRun = 0
          ∧ s.part.activated q .linkDegraded { block := .linkReceivers, inst := linkNumber (plLink l) }
              [.small (linkStateCode .degraded), .small (linkCauseCode (some cause)), .small (countUp r.errorRun 16)])
      ∧ ((c = .plFrameComplete l n ∨ ¬ (36000 * (s.part.tables.links.get (plLink l)).unitOrRate ≤ n
              ∧ n ≤ 60000 * (s.part.tables.links.get (plLink l)).unitOrRate)) →
          q.links.pl.get l = { s.part.links.pl.get l with frame := none })
      ∧ (c = .plFrameAbort l n → 36000 * (s.part.tables.links.get (plLink l)).unitOrRate ≤ n →
          n ≤ 60000 * (s.part.tables.links.get (plLink l)).unitOrRate →
          (q.links.pl.get l).syncRef = some n ∧ (q.links.pl.get l).unit48 = some n
          ∧ ∃ g, (q.links.pl.get l).frame = some g ∧ g.symbols = []
            ∧ (g.error = some .syncDrift ↔
                ∃ last, (s.part.links.pl.get l).syncRef = some last ∧ (last : Int) < 32 * |(n : Int) - last|)
            ∧ (g.error = none ∨ g.error = some .syncDrift))
      ∧ s.part.onlyChanges eventPieces q

/-- R32: a first edge or character moves a SILENT started link to HUNTING and starts its silence timer; at its expiry the link
is SILENT with its runs and its SYNC reference clear, and if it was GOOD, LINK_DEGRADED is raised and its consumer told. The
error run that the raise carries is the one before it is cleared (assumption log 11), and the code of its cause NONE is the
model's (assumption log 10). The timestamp moves to the expiry (assumption log 1). -/
def Obligations.LinkActivityAndSilence : Prop :=
  ∀ (s : State) (l : Link) (r : LinkRec), s.part.linkRec l = r →
    (r.started = true → r.state = .silent →
      exec (.linkFirstActivity l) s = .next { s with part := (s.part.setLink l
        { r with state := .hunting, goodRun := 0, errorRun := 0, silence := s.part.silenceTimer l }).settle })
    ∧ (r.started = false ∨ r.state ≠ .silent → exec (.linkFirstActivity l) s = .next { s with part := s.part.settle })
    ∧ (∀ e, r.silence = .running e → r.state ≠ .silent →
      ∃ q : Part, exec (.silenceTimerExpiry l) s = .next { s with part := q.settle }
        ∧ (q.linkRec l).state = .silent ∧ (q.linkRec l).goodRun = 0 ∧ (q.linkRec l).errorRun = 0
        ∧ (q.linkRec l).silence = .stopped ∧ (q.linkRec l).started = r.started
        ∧ (∀ x, plLink x = l → (q.links.pl.get x).syncRef = none)
        ∧ (r.state ≠ .good → (s.part.clockTo e).onlyChanges [.links] q)
        ∧ (r.state = .good → s.part.activated q .linkDegraded { block := .linkReceivers, inst := linkNumber l }
            [.small (linkStateCode .silent), .small (linkCauseCode none), .small r.errorRun])
        ∧ (r.state = .good → l = .pl0 → q.poles.p.sensorAvailable = false)
        ∧ (r.state = .good → l = .pl1 → q.poles.n.sensorAvailable = false)
        ∧ (r.state = .good → l = .pl2 → q.line.state = .unknown ∧ q.line.voltage = 0 ∧ q.line.current = 0)
        ∧ (s.part.clockTo e).onlyChanges eventPieces q)

/-- R35: characters of a serial link: a start byte begins a frame, a length byte of 1 to 32 sets the payload's length, payload
and check bytes are kept in order; a framing error or another length byte ends the frame errored. How these events are divided
among SERIAL_CHARACTER, SERIAL_FRAME_ERROR and SERIAL_FRAME_COMPLETE is the model's (assumption log 19). R37: when the last character
of a frame has left the drive link, the waiting frame, if any, is sent. -/
def Obligations.SerialLinkReceivesAndSends : Prop :=
  (∀ (s : State) (l : SLink) (byte : Byte) (r : LinkRec), s.part.linkRec (serialLink l) = r → r.started = true →
    r.state ≠ .silent →
    (s.part.links.serial.get l = .waiting →
      (byte = 0xC3 → exec (.serialCharacter l byte true) s = .next { s with part := (s.part.setSerialRx l .length).settle })
      ∧ (byte ≠ 0xC3 → exec (.serialCharacter l byte true) s = .next { s with part := (s.part.setSerialRx l .waiting).settle })
      ∧ exec (.serialCharacter l byte false) s = .next { s with part := (s.part.setSerialRx l .waiting).settle })
    ∧ (s.part.links.serial.get l = .length → 1 ≤ byte.toNat → byte.toNat ≤ 32 →
      exec (.serialCharacter l byte true) s = .next { s with part := (s.part.setSerialRx l (.body byte.toNat [])).settle })
    ∧ (∀ n bytes, s.part.links.serial.get l = .body n bytes → bytes.length < n + 2 →
      exec (.serialCharacter l byte true) s = .next { s with part := (s.part.setSerialRx l (.body n (bytes ++ [byte]))).settle })
    ∧ (∀ c cause, (s.part.links.serial.get l).assembling = true →
        ((c = .serialCharacter l byte false ∧ cause = LinkCause.framing)
          ∨ (c = .serialCharacter l byte true ∧ s.part.links.serial.get l = .length ∧ goodLength byte = false
              ∧ cause = LinkCause.length)
          ∨ (c = .serialFrameError l .framing ∧ cause = LinkCause.framing)
          ∨ (c = .serialFrameError l (.length byte) ∧ s.part.links.serial.get l = .length ∧ goodLength byte = false
              ∧ cause = LinkCause.length)
          ∨ (c = .serialFrameError l (.gap byte false) ∧ cause = LinkCause.gap)) →
      ∃ q : Part, exec c s = .next { s with part := q.settle }
        ∧ q.links.serial.get l = .waiting ∧ (q.linkRec (serialLink l)).cause = some cause
        ∧ (q.linkRec (serialLink l)).errorRun = countUp r.errorRun 16
        ∧ (r.state ≠ .good → (q.linkRec (serialLink l)).goodRun = 0)
        ∧ (r.state = .good → (s.part.tables.links.get (serialLink l)).errorLimit ≤ countUp r.errorRun 16 →
            (q.linkRec (serialLink l)).state = .degraded)
        ∧ s.part.onlyChanges (raisePieces ++ [.links]) q)
    ∧ ((s.part.links.serial.get l).assembling = true →
      ∃ q : Part, exec (.serialFrameError l (.gap 0xC3 true)) s = .next { s with part := q.settle }
        ∧ q.links.serial.get l = .length ∧ (q.linkRec (serialLink l)).cause = some .gap))
  ∧ ∀ s : State, exec .driveLinkSendDone s =
    .next { s with part := Part.settle { s.part with send := { sending := s.part.send.waiting, waiting := none } } }

/-- R32, R35, R36: a whole serial frame whose check agrees is accepted: the error run clears, in HUNTING too (section 2.3,
assumption log 25), the silence timer restarts and the frame counts toward GOOD; one whose check differs counts against the
link. R111 to R117: what a tag frame brings. R141 to R143: a good STATUS_REPLY that echoes the awaited sequence on a GOOD drive
link closes the wait, the third in a row ends DRIVE_LINK, and its inverter state claims or withdraws DRIVE_FAULT; any other frame
of the drive link is discarded. The model's choices: a TAG_UNMATCHED distance takes a word of its own (assumption log 38),
ZONE_OVERFLOW has instance 0 and the zone identity as an item, and DRIVE_FAULT the drive link as its instance (log 11), the recent-tag list is kept in order of acceptance (log 26),
and the echoed sequence is a small item (log 38). -/
def Obligations.SerialFrameIsCheckedAndDelivered : Prop :=
  ∀ (s : State) (l : SLink) (n : Nat) (bytes : List Byte) (r : LinkRec), s.part.linkRec (serialLink l) = r →
    r.started = true → r.state ≠ .silent → s.part.links.serial.get l = .body n bytes → bytes.length = n + 2 →
    ∃ q : Part, exec (.serialFrameComplete l) s = .next { s with part := q.settle }
      ∧ q.links.serial.get l = .waiting
      ∧ (checkAgrees n bytes = true →
          (q.linkRec (serialLink l)).errorRun = 0
          ∧ (q.linkRec (serialLink l)).silence = s.part.silenceTimer (serialLink l)
          ∧ (q.linkRec (serialLink l)).state = (if r.state = .good ∨ countUp r.goodRun 4 = 4 then .good else r.state))
      ∧ (checkAgrees n bytes = false →
          (q.linkRec (serialLink l)).cause = some .check ∧ (q.linkRec (serialLink l)).errorRun = countUp r.errorRun 16
          ∧ s.part.onlyChanges (raisePieces ++ [.links]) q)
      ∧ (checkAgrees n bytes = true → l = .tag →
          s.part.takesTagFrame q (q.linkRec (serialLink l)).state (bytes.take n))
      ∧ (checkAgrees n bytes = true → l = .drive → (q.linkRec (serialLink l)).state = .good → n = 5 →
          byteAt bytes 0 = 0x21 → s.part.gov.replyWait = some (byteAt bytes 1) →
          ∀ i, inverterOfByte (byteAt bytes 4) = some i →
          q.gov.misses = 0 ∧ q.gov.goodRun = countUp s.part.gov.goodRun 3 ∧ q.gov.inverter = i
          ∧ q.gov.actual = (join16 (byteAt bytes 2) (byteAt bytes 3)).toInt
          ∧ (i.bad = true → q.gov.inhibit.driveFault = true) ∧ (i.bad = false → q.gov.inhibit.driveFault = false)
          ∧ (i.bad = true → s.part.gov.inhibit.driveFault = false →
              s.part.activated q .driveFault { block := .tractionGovernor, inst := linkNumber .drive }
                [.small (inverterCode i), bigInt q.gov.actual, .small (byteAt bytes 1).toNat])
          ∧ (i.bad = false → s.part.gov.inhibit.driveFault = true →
              q.endedFault .driveFault { block := .tractionGovernor, inst := linkNumber .drive })
          ∧ (i.bad = false ∨ s.part.gov.inhibit.driveFault = true → q.gov.replyWait = none)
          ∧ (countUp s.part.gov.goodRun 3 = 3 → q.gov.inhibit.driveLink = false
              ∧ (s.part.gov.inhibit.driveLink = true →
                q.endedFault .driveLinkLost { block := .tractionGovernor, inst := linkNumber .drive }))
          ∧ (countUp s.part.gov.goodRun 3 ≠ 3 → q.gov.inhibit.driveLink = s.part.gov.inhibit.driveLink))
      ∧ (checkAgrees n bytes = true → l = .drive →
          ((q.linkRec (serialLink l)).state ≠ .good ∨ n ≠ 5 ∨ byteAt bytes 0 ≠ 0x21
            ∨ s.part.gov.replyWait ≠ some (byteAt bytes 1) ∨ inverterOfByte (byteAt bytes 4) = none) →
          s.part.onlyChanges [.links] q)
      ∧ s.part.onlyChanges eventPieces q

/-- R39: the raw level of a sensed input follows the voltage at it by its sense type: CLOSED near ground for TO_GROUND, near the
supply for TO_SUPPLY. R40 to R42: the first raw level of an input that is set up is its confirmed state; a later change of the raw
level starts the debounce timer, or stops it on a return to the confirmed state, and a level as it was changes nothing; an input
without a role, or in LAYOVER, is not sensed and drives no sense current. At the expiry the raw level is confirmed, a cleaning pulse
of 20 ms at a HIGH continuous current begins unless it is off, and the change is delivered to the owner of the role: a housed
contact (R86, R88, R105), a trip contact (R77, R78, R100), the door (R139), a feedback contact (R148, R153). The line follows the
pole state notices that a change brings, as at the end of a RAISING pole's raise (R54, R55, R90). At the end of the pulse
the input is back at its configured current and sensing. A pole is blind only on the wire (R81, R82), which every step keeps
(EveryStepKeepsAccountsAndInterlock). The model's choices: the basis TRIP of POLE_DEWIRED beside another indicator (assumption
log 36), the items of the reports and the source instances not repeated among them (log 11), the order of the three
trip times in AUX_FAULTED, oldest first (log 42), RAISE_ABANDONED and the BLIND end notice in their places (logs 23 and 12), and
the timestamp that moves to the expiry (log 1). -/
def Obligations.ContactIsDebounced : Prop :=
  ∀ (s : State) (i : InputNo) (v : PinVoltage) (level : Level) (r : InputRec) (e : InputEntry), s.part.input i = r →
    s.part.tables.inputs.get i = e → s.part.blindOnWire →
    level = (if v = (if e.toSupply then PinVoltage.nearSupply else .nearGround) then Level.closed else .opened) →
    (e.role = .none ∨ s.part.mode = .layover →
      exec (.contactRawChange i v) s = .next { s with part := s.part.settle } ∧ s.part.senseDrive i = .none)
    ∧ (e.role ≠ .none → s.part.mode ≠ .layover →
      s.part.senseDrive i =
        (let current : SenseCurrent := if e.highCurrent then .high else .low
         if r.cleaning.isRunning then .continuous .high else if e.pulsed then .pulsed current else .continuous current))
    ∧ (e.role ≠ .none → s.part.mode ≠ .layover → r.awaitingFirst = true →
      exec (.contactRawChange i v) s = .next { s with part :=
        (s.part.setInput i { r with raw := some level, confirmed := level, awaitingFirst := false }).settle })
    ∧ (e.role ≠ .none → s.part.mode ≠ .layover → r.awaitingFirst = false → r.raw ≠ some level →
      exec (.contactRawChange i v) s = .next { s with part := (s.part.setInput i
        { r with raw := some level, debounce := if level = r.confirmed then .stopped else s.part.startTimer e.debounce }).settle })
    ∧ (r.awaitingFirst = false → r.raw = some level →
      exec (.contactRawChange i v) s = .next { s with part := s.part.settle })
    ∧ (∀ t, r.debounce = .running t → r.raw = some level →
      ∃ q : Part, exec (.debounceExpiry i) s = .next { s with part := q.settle }
        ∧ q.input i = { r with confirmed := level, debounce := .stopped,
                               cleaning := if e.cleaningOff then r.cleaning else (s.part.clockTo t).startTimer 20 }
        ∧ (e.role ≠ .none → s.part.mode ≠ .layover → e.cleaningOff = false → q.senseDrive i = .continuous .high)
        ∧ (∀ j, j ≠ i → q.input j = s.part.input j)
        ∧ (e.role = .wakeRequest ∨ e.role = .none → (s.part.clockTo t).onlyChanges [.contacts] q)
        ∧ (e.role = .doorInterlock → s.part.mode = .run →
            q.gov.inhibit.doorOpen = (level == .opened) ∧ (s.part.clockTo t).onlyChanges [.contacts, .inhibit] q)
        ∧ (e.role = .doorInterlock → s.part.mode ≠ .run → (s.part.clockTo t).onlyChanges [.contacts] q)
        ∧ (∀ x, e.role = housedRole x → ((s.part.clockTo t).setInput i (q.input i)).housedChanges q x level)
        ∧ (∀ x, e.role = tripRole x → ((s.part.clockTo t).setInput i (q.input i)).tripChanges q x level)
        ∧ (∀ a : AuxNo, e.role = .auxFeedback → e.aux = a.val → (s.part.auxEntry a).feedback ≠ noFeedback →
            ((s.part.clockTo t).setInput i (q.input i)).feedbackChanges q a level)
        ∧ (s.part.clockTo t).onlyChanges eventPieces q)
    ∧ (∀ t, r.cleaning = .running t →
      ∃ q : Part, exec (.cleaningPulseEnd i) s = .next { s with part := q.settle }
        ∧ q = (s.part.clockTo t).setInput i { r with cleaning := .stopped }
        ∧ (e.role ≠ .none → s.part.mode ≠ .layover → q.senseDrive i = e.drive))

/-- R43, R184: a poll notes each wake-enabled input whose sample, taken by its sense type (R39), differs from its reference and
sets a second sample 5 ms later if there is one; the first input that still differs then wakes the part from LAYOVER, which it
leaves whole (R13, R139, R146). That leaving LAYOVER leaves every input record as it was, with no debounce timer started, is the
model's choice (assumption log 33); the example of section 2.10 starts the timer at the return to RUN. The timestamp moves to the
expiry (assumption log 1). -/
def Obligations.LayoverPollWakesThePart : Prop :=
  ∀ (s : State) (pins : Vector PinVoltage 16) (t : Word),
    (s.part.contacts.pollTimer = .running t →
      ∃ q : Part, exec (.pollTimerExpiry pins) s = .next { s with part := q.settle }
        ∧ q.contacts.pollTimer = (s.part.clockTo t).startTimer s.part.tables.timers.pollInterval
        ∧ (∀ i : InputNo, q.contacts.second.getLsbD i.val =
            ((s.part.tables.inputs.get i).role != .none && (s.part.tables.inputs.get i).wakeEnabled
              && ((s.part.tables.inputs.get i).levelOf (pins.get i) != (s.part.input i).reference)))
        ∧ q.contacts.secondTimer = (if q.contacts.second = 0 then .stopped else (s.part.clockTo t).startTimer 5)
        ∧ q.contacts.inputs = s.part.contacts.inputs ∧ (s.part.clockTo t).onlyChanges [.contacts] q)
    ∧ (s.part.contacts.secondTimer = .running t →
      ∃ q : Part, exec (.secondSample pins) s = .next { s with part := q.settle }
        ∧ q.contacts.second = 0 ∧ q.contacts.secondTimer = .stopped
        ∧ (s.part.wakes pins = [] ∨ s.part.mode ≠ .layover → (s.part.clockTo t).onlyChanges [.contacts] q)
        ∧ (∀ i rest, s.part.wakes pins = i :: rest → s.part.mode = .layover →
            (s.part.clockTo t).resumes q
            ∧ q.mbx.newest .wake .modeLogic 0 0
                [.small (if (s.part.tables.inputs.get i).role = .polePHoused ∨ (s.part.tables.inputs.get i).role = .poleNHoused
                    then WakeCause.unhoused.ctorIdx else WakeCause.input.ctorIdx),
                 .small i.val, .small (inputRoleCode (s.part.tables.inputs.get i).role)]))

/-- R46: a read-back that comes to differ from the commanded state starts the 20 ms mismatch timer, and one that comes to agree
stops it and ends a failure; at the expiry the failed flag is set and OUTPUT_MISMATCH raised, ALARM_OUTPUT for an alarm output.
R166: a failed lamp gives the fallback to the buzzer and a failed buzzer to the lamp, unless that output has failed too (a role
that no output holds counts as not failed, assumption log 39); the outputs are then evaluated, and one commanded anew is
supervised anew (R46, R165). The timestamp moves to the expiry (assumption log 1). -/
def Obligations.OutputMismatchIsSupervised : Prop :=
  ∀ (s : State) (o : OutputNo) (r : OutputRec) (role : OutputRole), s.part.output o = r →
    (s.part.tables.outputs.get o).role = role →
    (∀ on, r.readback = on → exec (.readbackChange o on) s = .next { s with part := s.part.settle })
    ∧ (∀ on, r.readback ≠ on → role = .none →
      exec (.readbackChange o on) s = .next { s with part := (s.part.setOutput o { r with readback := on }).settle })
    ∧ (∀ on, r.readback ≠ on → role ≠ .none → on ≠ r.commanded →
      exec (.readbackChange o on) s = .next { s with part := (s.part.setOutput o
        { r with readback := on, mismatch := if r.mismatch.isRunning then r.mismatch else s.part.startTimer 20 }).settle })
    ∧ (∀ on, r.readback ≠ on → role ≠ .none → on = r.commanded → r.failed = false →
      exec (.readbackChange o on) s = .next { s with part := (s.part.setOutput o
        { r with readback := on, mismatch := .stopped }).settle })
    ∧ (∀ on, r.readback ≠ on → role ≠ .none → on = r.commanded → r.failed = true →
      ∃ q : Part, exec (.readbackChange o on) s = .next { s with part := q.settle }
        ∧ (q.output o).failed = false ∧ (q.output o).readback = on
        ∧ q.endedFault (mismatchKind role) { block := .contactAndDrive, inst := o.val }
        ∧ s.part.onlyChanges [.outputs, .records] q)
    ∧ (∀ t, r.mismatch = .running t → role ≠ .alarmLamp → role ≠ .alarmBuzzer →
      ∃ q : Part, exec (.mismatchTimerExpiry o) s = .next { s with part := q.settle }
        ∧ q.output o = { r with failed := true, mismatch := .stopped }
        ∧ s.part.activated q .outputMismatch { block := .contactAndDrive, inst := o.val }
            [.small (outputRoleCode role), .small (firstOfTwo r.commanded), .small (firstOfTwo r.readback)]
        ∧ s.part.oneRaise q .outputMismatch ∧ (s.part.clockTo t).onlyChanges raisePieces q)
    ∧ (∀ t, r.mismatch = .running t → role = .alarmLamp ∨ role = .alarmBuzzer →
      ∃ q : Part, exec (.mismatchTimerExpiry o) s = .next { s with part := q.settle }
        ∧ (q.faults.get .alarmOutput).unack = true
        ∧ (q.faults.get .alarmOutput).count = countUp (s.part.faults.get .alarmOutput).count 65535
        ∧ s.part.oneRaise q .alarmOutput
        ∧ ((q.output o).commanded = r.commanded → q.output o = { r with failed := true, mismatch := .stopped })
        ∧ ((q.output o).commanded ≠ r.commanded → (q.output o).readback = r.readback
            ∧ (q.output o).failed = ((q.output o).commanded != r.readback)
            ∧ (q.output o).mismatch = if (q.output o).commanded = r.readback then .stopped
                else (s.part.clockTo t).startTimer 20)
        ∧ (q.faults.get .alarmOutput).last = q.now
        ∧ (q.faults.get .alarmOutput).lastSource = { block := .contactAndDrive, inst := o.val }
        ∧ (q.faults.get .alarmOutput).lastDetail =
            (packItems [.small (outputRoleCode role), .small (firstOfTwo r.commanded), .small (firstOfTwo r.readback)]).headD 0
        ∧ (role = .alarmLamp →
            q.faults.buzzerFallback = (s.part.faults.buzzerFallback || !s.part.roleFailed .buzzer)
            ∧ q.faults.lampFallback = s.part.faults.lampFallback)
        ∧ (role = .alarmBuzzer →
            q.faults.lampFallback = (s.part.faults.lampFallback || !s.part.roleFailed .lamp)
            ∧ q.faults.buzzerFallback = s.part.faults.buzzerFallback)
        ∧ (∀ x, q.outputFor .lamp = some x → (q.output x).commanded = q.lampWanted)
        ∧ (∀ x, q.outputFor .buzzer = some x → (q.output x).commanded = q.buzzerWanted)
        ∧ (s.part.clockTo t).onlyChanges raisePieces q)

/-! ### The line and the poles -/

/-- R52, R59, R61: when the gap timer runs out the line is LOST, LINE_LOST is raised with the gap's tolerance, the budget is
recomputed on the battery limits, and each active zone that saw the gap notes the outcome LOST. R150 to R152: every STARTING or
RUNNING DEFERRABLE auxiliary is shed by the class-shed notice, every WAITING one is SHED with its off time done, and COMFORT ones
may be shed by the shed demand, ESSENTIAL ones never; what a class-shed notice and a shed demand do in any event. The timestamp
moves to the expiry (assumption log 1). -/
def Obligations.GapTimerLosesTheLine : Prop :=
  ∀ (s : State) (e : Word),
    (s.part.line.gapTimer = .running e → s.part.line.state = .gap →
    ∃ q : Part, exec .gapTimerExpiry s = .next { s with part := q.settle }
      ∧ q.line.state = .lost ∧ q.line.gapTimer = .stopped ∧ q.line.restoreTimer = .stopped ∧ q.line.highTimer = .stopped
      ∧ q.line.voltage = s.part.line.voltage ∧ q.line.current = s.part.line.current
      ∧ s.part.activated q .lineLost { block := .lineSupervisor }
          [bigNat s.part.line.gap.tolerance, .small (lineStateCode s.part.line.gap.before),
           .small (flagCode s.part.line.gap.expected), bigNat s.part.line.gap.peak]
      ∧ q.line.budgeted q.tables ∧ q.line.battery = s.part.line.battery
      ∧ (∀ z ∈ q.zones.active, z.gapCount ≠ 0 → z.lastGap = some .lost)
      ∧ (s.part.clockTo e).losesSupply q
      ∧ (s.part.clockTo e).onlyChanges lineRaisePieces q)
    ∧ s.part.meetsDemand
    ∧ (s.part.line.state.supplied = false → s.part.classSheds (s.part.classShed s.part.line.state))

/-- R56: when the restore timer runs out the line takes the fresh class of the last voltage, LINE_LOST ends, the budget is
recomputed on the line (R61), and LINE_RESTORED is reported. R58: when the high-persist timer runs out LINE_HIGH is raised. A last
voltage below a gap threshold that a LINE_LIMITS load has raised has no fresh class in R49: SAG is the model's choice (assumption
log 37). The timestamp moves to the expiry (assumption log 1). -/
def Obligations.RestoreAndHighPersist : Prop :=
  ∀ (s : State) (e : Word),
    (s.part.line.restoreTimer = .running e → s.part.line.state ∈ [LineState.lost, .unknown] →
      ∃ q : Part, exec .restoreTimerExpiry s = .next { s with part := q.settle }
        ∧ q.line.state = (if s.part.line.voltage < 4 * s.part.tables.lineLimits.lowLimit then .sag
            else if 4 * s.part.tables.lineLimits.highLimit < s.part.line.voltage then .high else .live)
        ∧ q.line.restoreTimer = .stopped
        ∧ q.line.budget.source = .line ∧ q.line.budgeted q.tables
        ∧ (s.part.line.state = .lost → q.endedFault .lineLost { block := .lineSupervisor })
        ∧ (q.line.state = .high → q.line.highTimer = (s.part.clockTo e).startTimer s.part.tables.timers.highPersist)
        ∧ q.mbx.newest .lineRestored .lineSupervisor 0 0
            [.small (lineStateCode s.part.line.state), .small (lineStateCode q.line.state), bigNat s.part.line.voltage]
        ∧ (s.part.clockTo e).onlyChanges linePieces q)
    ∧ (s.part.line.highTimer = .running e →
      ∃ q : Part, exec .highPersistExpiry s = .next { s with part := q.settle }
        ∧ q.line = { s.part.line with highTimer := .stopped }
        ∧ s.part.activated q .lineHigh { block := .lineSupervisor }
            [bigNat s.part.line.voltage, bigNat ((s.part.clockTo e).since s.part.line.highEntry)]
        ∧ s.part.oneRaise q .lineHigh ∧ (s.part.clockTo e).onlyChanges (raisePieces ++ [.line]) q)

/-- R80, R83: at the end of the confirm window a SUSPECT pole with an angle indicator is confirmed DEWIRED: the latch is set,
the lower timer starts, POLE_DEWIRED is raised and claimed, and the line is LOST. Without one it returns to ON_WIRE, and the
line follows the notice (R54, R55). The timestamp moves to the expiry (assumption log 1). -/
def Obligations.ConfirmWindowDecides : Prop :=
  ∀ (s : State) (i : PoleId) (e : Word) (r : Pole), s.part.poles.get i = r → r.confirmTimer = .running e →
    ∃ q : Part, exec (.confirmTimerExpiry i) s = .next { s with part := q.settle }
      ∧ (q.poles.get i).confirmTimer = .stopped
      ∧ (r.state = .suspect → r.indicators.angle = true →
          (q.poles.get i).state = .dewired ∧ (q.poles.get i).latch = true ∧ (q.poles.get i).latchAck = false
          ∧ (q.poles.get i).lowerTimer = (s.part.clockTo e).startTimer s.part.tables.timers.lowerTime
          ∧ q.gov.inhibit.poleDewired = true ∧ q.line.state = .lost
          ∧ (∃ items, s.part.activated q .poleDewired { block := .poleMonitor, inst := poleNumber i }
              (.small (indicatorsCode r.indicators) :: .small DewireBasis.confirmExpiry.ctorIdx :: items)))
      ∧ (r.state = .suspect → r.indicators.angle = false →
          (q.poles.get i).state = .onWire ∧ (q.poles.get i).gapSpent = (r.indicators.lineGap || r.gapSpent)
          ∧ (q.poles.get i).latch = r.latch ∧ s.part.lineFollows q [(i, .onWire)]
          ∧ (q.gov.inhibit.poleSuspect = true ↔ q.anyPole Pole.suspectClaim = true))
      ∧ (r.state ≠ .suspect →
          q = (s.part.clockTo e).setPole i { r with confirmTimer := .stopped })
      ∧ (s.part.clockTo e).onlyChanges polePieces q

/-- R72: at the end of the resolution window a resolving pole is HOUSED if its housed contact is CLOSED and its sensor gives no
data; otherwise it is FAULTED, POLE_SENSOR is raised with cause UNRESOLVED and POLE_SUSPECT stands claimed. The line follows the
pole state notice: both poles HOUSED make it OFF_WIRE (R54). The timestamp moves to the expiry (assumption log 1). -/
def Obligations.ResolutionWindowSettles : Prop :=
  ∀ (s : State) (i : PoleId) (e : Word) (r : Pole), s.part.poles.get i = r → r.resolutionTimer = .running e →
    ∃ q : Part, exec (.resolutionTimerExpiry i) s = .next { s with part := q.settle }
      ∧ (q.poles.get i).resolutionTimer = .stopped
      ∧ (r.resolving = false → q = (s.part.clockTo e).setPole i { r with resolutionTimer := .stopped })
      ∧ (r.resolving = true → s.part.housedClosed i = true → r.sensorAvailable = false →
          (q.poles.get i).state = .housed ∧ (q.poles.get i).resolving = false ∧ s.part.lineFollows q [(i, .housed)])
      ∧ (r.resolving = true → s.part.housedClosed i = false ∨ r.sensorAvailable = true →
          (q.poles.get i).state = .faulted ∧ (q.poles.get i).resolving = false
          ∧ (q.poles.get i).fault = some .unresolved ∧ q.gov.inhibit.poleSuspect = true
          ∧ s.part.lineFollows q [(i, .faulted)]
          ∧ ∃ items, s.part.activated q .poleSensor { block := .poleMonitor, inst := poleNumber i, cause := .unresolved } items)
      ∧ (s.part.clockTo e).onlyChanges poleFreePieces q

/-- R86, R101: at the end of the retriever hold the retriever goes OFF; a pending retry begins if its preconditions hold, with
the next retry count, and is given up with RAISE_FAILED if they do not; without sensor data the retry is abandoned in the same
event with cause SENSOR_LOST (R97). R87, R105: at the end of the lower time a DEWIRED or LOWERING pole is FAULTED with
POLE_STUCK, both its outputs OFF. The line follows the pole state notices (R54). The timestamp moves to the expiry
(assumption log 1). -/
def Obligations.HoldAndLowerTimers : Prop :=
  ∀ (s : State) (i : PoleId) (e : Word) (r : Pole), s.part.poles.get i = r →
    (r.holdTimer = .running e →
      ∃ q : Part, exec (.retrieverHoldExpiry i) s = .next { s with part := q.settle }
        ∧ (r.retryPending = false ∨ r.sensorAvailable = true ∨ s.part.raiseBarred [i] ≠ none →
            (q.poles.get i).holdTimer = .stopped
            ∧ ∀ o, s.part.outputFor (.retriever i) = some o → (q.output o).commanded = false)
        ∧ (r.retryPending = false → (q.poles.get i).state = r.state)
        ∧ (r.retryPending = true → s.part.raiseBarred [i] = none → r.sensorAvailable = true →
            (q.poles.get i).state = .raising ∧ (q.poles.get i).retryCount = r.retryCount + 1
            ∧ (q.poles.get i).retryPending = false ∧ (q.poles.get i).requestTag = r.requestTag
            ∧ (q.poles.get i).raiseTimer = (s.part.clockTo e).startTimer s.part.tables.timers.raiseTime
            ∧ q.gov.inhibit.polesMoving = true ∧ s.part.lineFollows q [(i, .raising)])
        ∧ (r.retryPending = true → s.part.raiseBarred [i] = none → r.sensorAvailable = false →
            (q.poles.get i).state = (if s.part.housedClosed i then .housed else .lowering)
            ∧ (q.poles.get i).abandon = .sensorLost ∧ (q.poles.get i).retryPending = false
            ∧ s.part.lineFollows q ((i, .raising) :: s.part.loweringNotices i))
        ∧ (∀ x, r.retryPending = true → s.part.raiseBarred [i] = some x →
            (q.poles.get i).retryPending = false ∧ (q.poles.get i).retryCount = 0 ∧ (q.poles.get i).state = r.state
            ∧ ∃ items, s.part.activated q .raiseFailed { block := .poleMonitor, inst := poleNumber i } items)
        ∧ (s.part.clockTo e).onlyChanges polePieces q)
    ∧ (r.lowerTimer = .running e →
      ∃ q : Part, exec (.lowerTimerExpiry i) s = .next { s with part := q.settle }
        ∧ (q.poles.get i).lowerTimer = .stopped
        ∧ (r.state = .dewired ∨ r.state = .lowering →
            (q.poles.get i).state = .faulted ∧ (q.poles.get i).fault = some .poleStuck
            ∧ (q.poles.get i).retryCount = 0 ∧ q.gov.inhibit.poleSuspect = true
            ∧ s.part.lineFollows q [(i, .faulted)]
            ∧ s.part.activated q .poleStuck { block := .poleMonitor, inst := poleNumber i }
                [.small (poleStateCode r.state), bigNat r.elevation, .small (flagCode r.sensorAvailable)]
            ∧ ∀ o, s.part.outputFor (.raise i) = some o ∨ s.part.outputFor (.retriever i) = some o →
                (q.output o).commanded = false)
        ∧ (r.state ≠ .dewired → r.state ≠ .lowering → q = (s.part.clockTo e).setPole i { r with lowerTimer := .stopped })
        ∧ (s.part.clockTo e).onlyChanges polePieces q)

/-- R99: when the settle timer of a RAISING pole runs out the raise is complete: the pole is ON_WIRE, its raise output OFF.
R100, R104: when its raise timer runs out the raise is abandoned with cause TIMEOUT and the pole LOWERING, and RAISE_ABANDONED
reported, with the zone of a zone raise (R107). The line follows the pole state notices: it is LOST when a pole enters ON_WIRE
from OFF_WIRE (R55). What any pole state notice does: the copies and the zones' pole events take it, and the line leaves GAP or a
supplied state, or LOST, for OFF_WIRE, or OFF_WIRE for LOST, without a raise of LINE_LOST (R54 to R56, R90, R124, R185). The
model's choices: the restore conditions are judged at a notice with the gap threshold as it stands (assumption log 37), the zone goes
last in RAISE_ABANDONED (log 11), and the timestamp moves to the expiry (log 1). -/
def Obligations.RaiseCompletesOrTimesOut : Prop :=
  ∀ (s : State) (i : PoleId) (e : Word) (r : Pole), s.part.poles.get i = r →
    (r.settleTimer = .running e →
      ∃ q : Part, exec (.settleTimerExpiry i) s = .next { s with part := q.settle }
        ∧ (q.poles.get i).settleTimer = .stopped
        ∧ (r.state = .raising → s.part.tripClosed i = false →
            (q.poles.get i).state = .onWire ∧ (q.poles.get i).raiseTimer = .stopped ∧ (q.poles.get i).origin = .none
            ∧ s.part.lineFollows q [(i, .onWire)]
            ∧ (q.poles.get i).retryCount = 0
            ∧ ∀ o, s.part.outputFor (.raise i) = some o → (q.output o).commanded = false)
        ∧ (r.state = .raising → s.part.tripClosed i = true → (q.poles.get i).state = .dewired ∧ (q.poles.get i).latch = true)
        ∧ (r.state ≠ .raising → q = (s.part.clockTo e).setPole i { r with settleTimer := .stopped })
        ∧ (s.part.clockTo e).onlyChanges polePieces q)
    ∧ (r.raiseTimer = .running e →
      ∃ q : Part, exec (.raiseTimerExpiry i) s = .next { s with part := q.settle }
        ∧ (q.poles.get i).raiseTimer = .stopped
        ∧ (r.state = .raising → s.part.housedClosed i = false →
            (q.poles.get i).state = .lowering ∧ (q.poles.get i).abandon = .timeout
            ∧ (q.poles.get i).lowering = .abandonedRaise ∧ (q.poles.get i).requestTag = r.requestTag
            ∧ (q.poles.get i).lowerTimer = (s.part.clockTo e).startTimer s.part.tables.timers.lowerTime
            ∧ q.gov.inhibit.polesMoving = true
            ∧ ∀ o, s.part.outputFor (.raise i) = some o → (q.output o).commanded = false)
        ∧ (r.state = .raising → s.part.housedClosed i = true → (q.poles.get i).state = .housed)
        ∧ (r.state = .raising → (s.part.clockTo e).abandons q i .timeout ∧ s.part.lineFollows q (s.part.loweringNotices i))
        ∧ (r.state ≠ .raising → q = (s.part.clockTo e).setPole i { r with raiseTimer := .stopped })
        ∧ (s.part.clockTo e).onlyChanges polePieces q)
    ∧ (∀ j x, s.part.takesNotice (s.part.sendNotice { pole := j, entered := x }) j x)

/-! ### Distance, traction and auxiliaries -/

/-- R108, R110, R118: a pulse adds 10 to the residue; each whole pulses-per-metre of it advances the odometer by a decimetre,
clears the stationary flag and starts the stationary timer. At an advance the active zones whose end is passed end one after the
other, in precedence order, each with its reports and raises (R118 step 1, R125), every pending zone whose start is reached enters
from the head of the queue, a fifth displacing the lowest (R119), the effective profile is computed anew (R121), and each entered
zone's pole action is taken (R122, R123); the auxiliaries that it has brought into the restart queue have their entry orders in
number order (R146). Once the actions of the pulse have changed a pole's state, resolving flag or dewire latch, the Pole Monitor's
claims follow their conditions (R91). The model's choices: REWIRE_MISSED carries feature, precondition, pole (0xFF for none) and speed,
and the zone identity as its source instance, and RAISE_ABANDONED carries a zone as its last item (assumption log 11); the
precondition's code 1 to 4 in REWIRE_MISSED, outcome code 5 for no gap and the places of the pole events in the details of ZONE_PASSED
and ZONE_DISPLACED (log 10). -/
def Obligations.OdometryPulseAdvances : Prop :=
  (∀ (s : State) (n : Nat), n = (s.part.zones.residue + 10) / s.part.tables.timers.pulsesPerMetre →
    ∃ q : Part, exec .odometryPulse s = .next { s with part := q.settle }
      ∧ q.zones.residue = (s.part.zones.residue + 10) % s.part.tables.timers.pulsesPerMetre
      ∧ (n = 0 → s.part.onlyChanges [.zones] q ∧ q.zones = { s.part.zones with residue := q.zones.residue })
      ∧ (n ≠ 0 → q.zones.odometer = s.part.zones.odometer + word n ∧ q.zones.stationary = false
          ∧ q.zones.stationaryTimer = s.part.startTimer 2000
          ∧ q.zones.pendingZones = s.part.zones.pendingZones.dropWhile
              (fun z => decide ((s.part.zones.odometer + word n - z.start).toNat < 2 ^ 31)))
      ∧ (n ≠ 0 → ∃ moved ended p1 : Part,
          moved = { s.part with zones := { s.part.zones with
            odometer := s.part.zones.odometer + word n, residue := q.zones.residue, stationary := false,
            stationaryTimer := s.part.startTimer 2000 } }
          ∧ ended = moved.forEach ((moved.zones.precedence.filter
              (fun z => aheadOf (s.part.zones.odometer + word n) z.stop)).map (·.order)) (fun p o => p.endZone o .passed 0)
          ∧ ended.zones.active = s.part.zones.active.filter (fun z => !(s.part.zones.active.any (fun y =>
            y.order == z.order && aheadOf (s.part.zones.odometer + word n) y.stop)))
          ∧ ended.zones = { s.part.zones with
              active := ended.zones.active, odometer := q.zones.odometer, residue := q.zones.residue, stationary := false,
              stationaryTimer := q.zones.stationaryTimer }
          ∧ s.part.onlyChanges (raisePieces ++ [.zones]) ended
          ∧ ((∀ z ∈ s.part.zones.active, aheadOf (s.part.zones.odometer + word n) z.stop = false) →
              s.part.onlyChanges [.zones] ended)
          ∧ ended.entersZones p1 (s.part.zones.active.any (fun z => aheadOf (s.part.zones.odometer + word n) z.stop))
          ∧ q = ((p1.forEach (ended.zones.entering.map (·.order)) Part.fireAction).followPoles p1).orderEntries s.part)
      ∧ q.zones.speed = s.part.zones.speed ∧ q.zones.recent = s.part.zones.recent ∧ q.zones.seen = s.part.zones.seen
      ∧ s.part.onlyChanges polePieces q)
  ∧ (∀ (p : Part) (z : Zone), p.zones.activeZone z.order = some z →
      p.firesAction ((p.fireAction z.order).followPoles p) z
      ∧ ∀ cause tag, p.endsZone (p.endZone z.order cause tag) z cause tag)
  ∧ (∀ p q : Part,
      ((∀ i, p.watchesAlike q i) → q.followPoles p = q)
      ∧ (¬ (∀ i, p.watchesAlike q i) →
          (q.followPoles p).poleClaims ∧ q.onlyChanges [.inhibit, .setpoint, .send] (q.followPoles p)))
  ∧ (∀ (w : Profile) (rest : List Profile),
      effectiveOf [] = {}
      ∧ (∀ x ∈ w :: rest, (effectiveOf (w :: rest)).tractionCap ≤ x.tractionCap
          ∧ (effectiveOf (w :: rest)).regenCap ≤ x.regenCap
          ∧ (x.gapExpected = true → x.gapTolerance ≤ (effectiveOf (w :: rest)).gapTolerance))
      ∧ ((∀ x ∈ w :: rest, x.tractionCap ≤ 100 ∧ x.regenCap ≤ 100) →
          (∃ x ∈ w :: rest, (effectiveOf (w :: rest)).tractionCap = x.tractionCap)
          ∧ (∃ x ∈ w :: rest, (effectiveOf (w :: rest)).regenCap = x.regenCap))
      ∧ ((effectiveOf (w :: rest)).gapExpected = true →
          ∃ x ∈ w :: rest, x.gapExpected = true ∧ (effectiveOf (w :: rest)).gapTolerance = x.gapTolerance)
      ∧ ((effectiveOf (w :: rest)).gapExpected = true ↔ ∃ x ∈ w :: rest, x.gapExpected = true)
      ∧ ((effectiveOf (w :: rest)).auxHold = true ↔ ∃ x ∈ w :: rest, x.auxHold = true)
      ∧ (effectiveOf (w :: rest)).lateralOverride = w.lateralOverride
      ∧ (effectiveOf (w :: rest)).bandWidening = w.bandWidening)

/-- R110: each speed expiry gives the speed of the last 500 ms of travel, at most 2000, and restarts; in RUN it then tries each
WAITING pole action again, in precedence order (R123), the Pole Monitor's claims then follow the poles that this has changed (R91), and
the auxiliaries that it has brought into the restart queue have their entry orders (R146); two seconds without an advance set the
stationary flag. The timestamp moves to the expiry (assumption log 1).
That REWIRE_MISSED carries feature, precondition, pole (0xFF for none) and speed, with the zone identity as its source instance,
and that RAISE_ABANDONED carries a zone as its last item, is the model's choice (assumption log 11), as is the precondition's code 1
to 4 in REWIRE_MISSED (log 10). -/
def Obligations.SpeedAndStationary : Prop :=
  (∀ (s : State) (e : Word),
    (s.part.zones.speedTimer = .running e →
      ∃ q : Part, exec .speedTimerExpiry s = .next { s with part := q.settle }
        ∧ q.zones.speed = min 2000 ((s.part.zones.odometer - s.part.zones.samples[0]).toNat * 72 / 10)
        ∧ q.zones.samples = #v[s.part.zones.samples[1], s.part.zones.samples[2], s.part.zones.samples[3],
            s.part.zones.samples[4], s.part.zones.odometer]
        ∧ q.zones.speedTimer = (s.part.clockTo e).startTimer 100
        ∧ q.zones.odometer = s.part.zones.odometer ∧ q.zones.residue = s.part.zones.residue
        ∧ q.zones.stationary = s.part.zones.stationary
        ∧ (s.part.mode ≠ .run → (s.part.clockTo e).onlyChanges [.zones] q)
        ∧ ((∀ z ∈ s.part.zones.active, z.action ≠ .waiting) → (s.part.clockTo e).onlyChanges [.zones] q
            ∧ q.zones.active = s.part.zones.active)
        ∧ (∀ z, s.part.mode = .run → s.part.zones.active = [z] → z.action = .waiting →
            { s.part.clockTo e with zones := { s.part.zones with
                speed := q.zones.speed, samples := q.zones.samples, speedTimer := q.zones.speedTimer } }.asksRaise q z)
        ∧ (s.part.mode = .run → ∃ p1 : Part,
            p1.zones = { s.part.zones with
              speed := q.zones.speed, samples := q.zones.samples, speedTimer := q.zones.speedTimer }
            ∧ (s.part.clockTo e).onlyChanges [.zones] p1
            ∧ q = ((p1.forEach (s.part.zones.precedence.map (·.order)) Part.retryAction).followPoles p1).orderEntries s.part)
        ∧ (s.part.clockTo e).onlyChanges polePieces q)
    ∧ (s.part.zones.stationaryTimer = .running e →
      ∃ q : Part, exec .stationaryTimerExpiry s = .next { s with part := q.settle }
        ∧ q.zones = { s.part.zones with stationary := true, stationaryTimer := .stopped }
        ∧ (s.part.clockTo e).onlyChanges [.zones] q))
  ∧ (∀ (p : Part) (z : Zone), p.zones.activeZone z.order = some z →
      (z.action = .waiting → p.asksRaise ((p.retryAction z.order).followPoles p) z)
      ∧ (z.action ≠ .waiting → p.retryAction z.order = p))

/-- R17, R129: at each control period the timer restarts and a demand read is asked for, unless one waits or is in flight; while
the base is unset a failed read is delivered at once, which in RUN counts as stale and hands over a frame. The timestamp moves
to the expiry (assumption log 1). -/
def Obligations.ControlPeriodAsksForDemand : Prop :=
  ∀ (s : State) (e : Word), s.part.gov.period = .running e →
    ∃ q : Part, exec .controlPeriodExpiry s = .next { s with part := q.settle }
      ∧ q.gov.period = (s.part.clockTo e).startTimer s.part.tables.timers.controlPeriod
      ∧ (∀ b, s.part.mbx.base = some b → s.part.mbx.port.demand = none →
          (∀ a, s.part.mbx.port.inFlight = some a → a.op ≠ .demandRead) →
          q.mbx.port.requests { op := .demandRead, addr := b + 0x20, len := 3, data := [] }
          ∧ (s.part.clockTo e).onlyChanges [.demand, .port] q)
      ∧ (s.part.mbx.base ≠ none →
          (s.part.mbx.port.demand ≠ none ∨ ∃ a, s.part.mbx.port.inFlight = some a ∧ a.op = .demandRead) →
          (s.part.clockTo e).onlyChanges [.demand] q ∧ q.gov.stale = s.part.gov.stale)
      ∧ (s.part.mbx.base = none → s.part.mode = .run →
          q.gov.stale = countUp s.part.gov.stale 255 ∧ q.gov.replyWait ≠ none ∧ q.gov.lastFresh = s.part.gov.lastFresh)
      ∧ (s.part.mbx.base = none → s.part.mode ≠ .run → (s.part.clockTo e).onlyChanges [.demand] q)
      ∧ (s.part.clockTo e).onlyChanges govPieces q

/-- R147: each stagger expiry restarts the timer and lets the head of the queue, unless it is held, ask for its claim; granted,
it starts. R149: the first expiry of a start timer makes the auxiliary LOCKED with AUX_START_FAIL, the next FAULTED with
AUX_FAULTED, its output OFF and its claim released; a minimum off time of 0 is over at once (R154). R152, R154: at the end of its
off time a SHED or LOCKED auxiliary that is not requested is OFF, and one that is requested enters the queue as R146 lays down. The
timestamp moves to the expiry (assumption log 1). -/
def Obligations.AuxiliaryTimers : Prop :=
  ∀ (s : State) (e : Word),
    (s.part.aux.stagger = .running e →
      ∃ q : Part, exec .staggerTimerExpiry s = .next { s with part := q.settle }
        ∧ q.aux.stagger = (s.part.clockTo e).startTimer s.part.tables.timers.stagger
        ∧ (s.part.aux.queue = [] → (s.part.clockTo e).onlyChanges [.aux] q ∧ q.aux.recs = s.part.aux.recs)
        ∧ (∀ a rest, s.part.aux.queue = a :: rest → (s.part.auxRec a).state = .waiting →
            ((s.part.zones.effective.auxHold = true ∧ (s.part.auxEntry a).cls ≠ .essential)
              ∨ s.part.claimGranted a = false →
                (s.part.clockTo e).onlyChanges [.aux] q ∧ q.aux.recs = s.part.aux.recs ∧ q.aux.queue = s.part.aux.queue)
            ∧ (¬ (s.part.zones.effective.auxHold = true ∧ (s.part.auxEntry a).cls ≠ .essential) →
                s.part.claimGranted a = true →
                (q.auxRec a).state = (if s.part.confirmedAtGrant a then .running else .starting)
                ∧ a ∉ q.aux.queue ∧ (q.line.grants.get a).isSome = true))
        ∧ (s.part.clockTo e).onlyChanges auxPieces q)
    ∧ (∀ a, (s.part.auxRec a).startTimer = .running e →
      ∃ q : Part, exec (.startTimerExpiry a) s = .next { s with part := q.settle }
        ∧ (q.auxRec a).startTimer = .stopped
        ∧ ((s.part.auxRec a).state = .starting →
            (s.part.clockTo e).auxStops q a
            ∧ ((s.part.auxRec a).startFails = 0 →
                (q.auxRec a).state = s.part.lockedState a (s.part.auxRec a).requested ∧ (q.auxRec a).startFails = 1
                ∧ ∃ items, s.part.activated q .auxStartFail { block := .auxiliaryScheduler, inst := a.val } items)
            ∧ ((s.part.auxRec a).startFails ≠ 0 → (q.auxRec a).state = .faulted
                ∧ ∃ items, s.part.activated q .auxFaulted { block := .auxiliaryScheduler, inst := a.val }
                    (.small AuxFault.start.ctorIdx :: items)))
        ∧ (s.part.clockTo e).onlyChanges auxPieces q)
    ∧ (∀ a, (s.part.auxRec a).offTimer = .running e →
      ∃ q : Part, exec (.offTimerExpiry a) s = .next { s with part := q.settle }
        ∧ (q.auxRec a).offTimer = .stopped
        ∧ ((s.part.auxRec a).state = .shed ∨ (s.part.auxRec a).state = .locked → (s.part.auxRec a).requested = false →
            (q.auxRec a).state = .off)
        ∧ ((s.part.auxRec a).state = .shed ∨ (s.part.auxRec a).state = .locked → (s.part.auxRec a).requested = true →
            (q.auxRec a).state = (if s.part.mode = .layover ∧ (s.part.auxRec a).keptInLayover = false then .off
              else if (s.part.auxEntry a).cls = .deferrable ∧ s.part.line.state.classHold = true then .shed else .waiting))
        ∧ ((s.part.auxRec a).state ≠ .shed → (s.part.auxRec a).state ≠ .locked →
            q = (s.part.clockTo e).setAux a { s.part.auxRec a with offTimer := .stopped })
        ∧ (s.part.clockTo e).onlyChanges [.aux] q)

/-! ### The Fault Collector -/

/-- R159, R165: at the end of an edge hold, a test hold (whose test flag clears) and the two output holds the alarm outputs are
evaluated: each is commanded as R165 wants it then. R162: at the end of the alert time ALERT becomes FAULT, FAULT_STATE is
claimed and COLLECTOR_CHANGE set. The timestamp moves to the expiry (assumption log 1). -/
def Obligations.CollectorTimers : Prop :=
  (∀ (s : State) (e : Word) (c : Instr) (k : FaultKind) (p : Part),
    (c = .edgeHoldExpiry k ∧ (s.part.faults.get k).edgeHold = .running e
        ∧ p = (s.part.clockTo e).modFault k FaultRec.endEdgeHold)
      ∨ (c = .testHoldExpiry k ∧ (s.part.faults.get k).testHold = .running e
        ∧ p = (s.part.clockTo e).modFault k FaultRec.endTestHold)
      ∨ (c = .lampHoldExpiry ∧ s.part.faults.lampHold = .running e
        ∧ p = { s.part.clockTo e with faults := { s.part.faults with lampHold := .stopped } })
      ∨ (c = .buzzerHoldExpiry ∧ s.part.faults.buzzerHold = .running e
        ∧ p = { s.part.clockTo e with faults := { s.part.faults with buzzerHold := .stopped } }) →
    ∃ q : Part, exec c s = .next { s with part := q.settle }
      ∧ (∀ o, s.part.outputFor .lamp = some o → (q.output o).commanded = p.lampWanted)
      ∧ (∀ o, s.part.outputFor .buzzer = some o → (q.output o).commanded = p.buzzerWanted)
      ∧ (∀ x, x ≠ .alarmOutput → q.faults.get x = p.faults.get x)
      ∧ p.onlyChanges [.outputs, .records] q)
  ∧ (∀ (s : State) (e : Word), s.part.faults.alertTimer = .running e →
    ∃ q : Part, exec .alertTimerExpiry s = .next { s with part := q.settle }
      ∧ q.faults.alertTimer = .stopped
      ∧ (s.part.faults.state = .alert →
          q.faults.state = .fault ∧ q.gov.inhibit.faultState = true ∧ q.mbx.attention.collectorChange = true
          ∧ q.mbx.raised = s.part.mbx.raised + 1
          ∧ q.mbx.newest .collectorChanged .faultCollector 0 0
              [.small (collectorCode .alert), .small (collectorCode .fault), .small CollectorCause.alertExpiry.ctorIdx]
          ∧ q.faults.recs = s.part.faults.recs)
      ∧ (s.part.faults.state ≠ .alert →
          q = { s.part.clockTo e with faults := { s.part.faults with alertTimer := .stopped } })
      ∧ (s.part.clockTo e).onlyChanges collectorPieces q)
end

