-- ==== Sys2Proof/Laws/State.lean ====
section
/-! SUPPORT. What each named update of the state leaves in each field: one equation per field, true by definition. -/

set_option Elab.async false

namespace Sys2Proof.Machine

/-! ### Families -/

@[simp] theorem PerChain.get_set_same {α : Type} (f : PerChain α) (i : Chain) (x : α) : (f.set i x).get i = x := by
  cases i <;> rfl

theorem PerChain.get_set_other {α : Type} (f : PerChain α) (i j : Chain) (x : α) (h : j ≠ i) : (f.set i x).get j = f.get j := by
  cases i <;> cases j <;> first | rfl | exact absurd rfl h

@[simp] theorem PerPole.get_set_same {α : Type} (f : PerPole α) (i : PoleId) (x : α) : (f.set i x).get i = x := by
  cases i <;> rfl

theorem PerPole.get_set_other {α : Type} (f : PerPole α) (i j : PoleId) (x : α) (h : j ≠ i) : (f.set i x).get j = f.get j := by
  cases i <;> cases j <;> first | rfl | exact absurd rfl h

@[simp] theorem PerPL.get_set_same {α : Type} (f : PerPL α) (i : PLink) (x : α) : (f.set i x).get i = x := by
  cases i <;> rfl

theorem PerPL.get_set_other {α : Type} (f : PerPL α) (i j : PLink) (x : α) (h : j ≠ i) : (f.set i x).get j = f.get j := by
  cases i <;> cases j <;> first | rfl | exact absurd rfl h

@[simp] theorem PerSerial.get_set_same {α : Type} (f : PerSerial α) (i : SLink) (x : α) : (f.set i x).get i = x := by
  cases i <;> rfl

theorem PerSerial.get_set_other {α : Type} (f : PerSerial α) (i j : SLink) (x : α) (h : j ≠ i) : (f.set i x).get j = f.get j := by
  cases i <;> cases j <;> first | rfl | exact absurd rfl h

@[simp] theorem PerLink.get_set_same {α : Type} (f : PerLink α) (i : Link) (x : α) : (f.set i x).get i = x := by
  cases i <;> rfl

theorem PerLink.get_set_other {α : Type} (f : PerLink α) (i j : Link) (x : α) (h : j ≠ i) : (f.set i x).get j = f.get j := by
  cases i <;> cases j <;> first | rfl | exact absurd rfl h

/-! ### Updates of the part -/

@[simp] theorem Part.setPole_now (p : Part) (i : PoleId) (r : Pole) : (p.setPole i r).now = p.now := rfl
@[simp] theorem Part.setPole_mode (p : Part) (i : PoleId) (r : Pole) : (p.setPole i r).mode = p.mode := rfl
@[simp] theorem Part.setPole_lastReset (p : Part) (i : PoleId) (r : Pole) : (p.setPole i r).lastReset = p.lastReset := rfl
@[simp] theorem Part.setPole_keptPoles (p : Part) (i : PoleId) (r : Pole) : (p.setPole i r).keptPoles = p.keptPoles := rfl
@[simp] theorem Part.setPole_mbx (p : Part) (i : PoleId) (r : Pole) : (p.setPole i r).mbx = p.mbx := rfl
@[simp] theorem Part.setPole_tables (p : Part) (i : PoleId) (r : Pole) : (p.setPole i r).tables = p.tables := rfl
@[simp] theorem Part.setPole_links (p : Part) (i : PoleId) (r : Pole) : (p.setPole i r).links = p.links := rfl
@[simp] theorem Part.setPole_send (p : Part) (i : PoleId) (r : Pole) : (p.setPole i r).send = p.send := rfl
@[simp] theorem Part.setPole_contacts (p : Part) (i : PoleId) (r : Pole) : (p.setPole i r).contacts = p.contacts := rfl
@[simp] theorem Part.setPole_outputs (p : Part) (i : PoleId) (r : Pole) : (p.setPole i r).outputs = p.outputs := rfl
@[simp] theorem Part.setPole_line (p : Part) (i : PoleId) (r : Pole) : (p.setPole i r).line = p.line := rfl
@[simp] theorem Part.setPole_poles (p : Part) (i : PoleId) (r : Pole) : (p.setPole i r).poles = p.poles.set i r := rfl
@[simp] theorem Part.setPole_zones (p : Part) (i : PoleId) (r : Pole) : (p.setPole i r).zones = p.zones := rfl
@[simp] theorem Part.setPole_gov (p : Part) (i : PoleId) (r : Pole) : (p.setPole i r).gov = p.gov := rfl
@[simp] theorem Part.setPole_aux (p : Part) (i : PoleId) (r : Pole) : (p.setPole i r).aux = p.aux := rfl
@[simp] theorem Part.setPole_faults (p : Part) (i : PoleId) (r : Pole) : (p.setPole i r).faults = p.faults := rfl
@[simp] theorem Part.setPole_freeUses (p : Part) (i : PoleId) (r : Pole) : (p.setPole i r).freeUses = p.freeUses := rfl

@[simp] theorem Part.modPole_now (p : Part) (i : PoleId) (f : Pole → Pole) : (p.modPole i f).now = p.now := rfl
@[simp] theorem Part.modPole_mode (p : Part) (i : PoleId) (f : Pole → Pole) : (p.modPole i f).mode = p.mode := rfl
@[simp] theorem Part.modPole_lastReset (p : Part) (i : PoleId) (f : Pole → Pole) : (p.modPole i f).lastReset = p.lastReset := rfl
@[simp] theorem Part.modPole_keptPoles (p : Part) (i : PoleId) (f : Pole → Pole) : (p.modPole i f).keptPoles = p.keptPoles := rfl
@[simp] theorem Part.modPole_mbx (p : Part) (i : PoleId) (f : Pole → Pole) : (p.modPole i f).mbx = p.mbx := rfl
@[simp] theorem Part.modPole_tables (p : Part) (i : PoleId) (f : Pole → Pole) : (p.modPole i f).tables = p.tables := rfl
@[simp] theorem Part.modPole_links (p : Part) (i : PoleId) (f : Pole → Pole) : (p.modPole i f).links = p.links := rfl
@[simp] theorem Part.modPole_send (p : Part) (i : PoleId) (f : Pole → Pole) : (p.modPole i f).send = p.send := rfl
@[simp] theorem Part.modPole_contacts (p : Part) (i : PoleId) (f : Pole → Pole) : (p.modPole i f).contacts = p.contacts := rfl
@[simp] theorem Part.modPole_outputs (p : Part) (i : PoleId) (f : Pole → Pole) : (p.modPole i f).outputs = p.outputs := rfl
@[simp] theorem Part.modPole_line (p : Part) (i : PoleId) (f : Pole → Pole) : (p.modPole i f).line = p.line := rfl
@[simp] theorem Part.modPole_poles (p : Part) (i : PoleId) (f : Pole → Pole) : (p.modPole i f).poles = p.poles.set i (f (p.poles.get i)) := rfl
@[simp] theorem Part.modPole_zones (p : Part) (i : PoleId) (f : Pole → Pole) : (p.modPole i f).zones = p.zones := rfl
@[simp] theorem Part.modPole_gov (p : Part) (i : PoleId) (f : Pole → Pole) : (p.modPole i f).gov = p.gov := rfl
@[simp] theorem Part.modPole_aux (p : Part) (i : PoleId) (f : Pole → Pole) : (p.modPole i f).aux = p.aux := rfl
@[simp] theorem Part.modPole_faults (p : Part) (i : PoleId) (f : Pole → Pole) : (p.modPole i f).faults = p.faults := rfl
@[simp] theorem Part.modPole_freeUses (p : Part) (i : PoleId) (f : Pole → Pole) : (p.modPole i f).freeUses = p.freeUses := rfl

@[simp] theorem Part.setAux_now (p : Part) (a : AuxNo) (r : AuxRec) : (p.setAux a r).now = p.now := rfl
@[simp] theorem Part.setAux_mode (p : Part) (a : AuxNo) (r : AuxRec) : (p.setAux a r).mode = p.mode := rfl
@[simp] theorem Part.setAux_lastReset (p : Part) (a : AuxNo) (r : AuxRec) : (p.setAux a r).lastReset = p.lastReset := rfl
@[simp] theorem Part.setAux_keptPoles (p : Part) (a : AuxNo) (r : AuxRec) : (p.setAux a r).keptPoles = p.keptPoles := rfl
@[simp] theorem Part.setAux_mbx (p : Part) (a : AuxNo) (r : AuxRec) : (p.setAux a r).mbx = p.mbx := rfl
@[simp] theorem Part.setAux_tables (p : Part) (a : AuxNo) (r : AuxRec) : (p.setAux a r).tables = p.tables := rfl
@[simp] theorem Part.setAux_links (p : Part) (a : AuxNo) (r : AuxRec) : (p.setAux a r).links = p.links := rfl
@[simp] theorem Part.setAux_send (p : Part) (a : AuxNo) (r : AuxRec) : (p.setAux a r).send = p.send := rfl
@[simp] theorem Part.setAux_contacts (p : Part) (a : AuxNo) (r : AuxRec) : (p.setAux a r).contacts = p.contacts := rfl
@[simp] theorem Part.setAux_outputs (p : Part) (a : AuxNo) (r : AuxRec) : (p.setAux a r).outputs = p.outputs := rfl
@[simp] theorem Part.setAux_line (p : Part) (a : AuxNo) (r : AuxRec) : (p.setAux a r).line = p.line := rfl
@[simp] theorem Part.setAux_poles (p : Part) (a : AuxNo) (r : AuxRec) : (p.setAux a r).poles = p.poles := rfl
@[simp] theorem Part.setAux_zones (p : Part) (a : AuxNo) (r : AuxRec) : (p.setAux a r).zones = p.zones := rfl
@[simp] theorem Part.setAux_gov (p : Part) (a : AuxNo) (r : AuxRec) : (p.setAux a r).gov = p.gov := rfl
@[simp] theorem Part.setAux_aux (p : Part) (a : AuxNo) (r : AuxRec) : (p.setAux a r).aux = { p.aux with recs := p.aux.recs.set a r } := rfl
@[simp] theorem Part.setAux_faults (p : Part) (a : AuxNo) (r : AuxRec) : (p.setAux a r).faults = p.faults := rfl
@[simp] theorem Part.setAux_freeUses (p : Part) (a : AuxNo) (r : AuxRec) : (p.setAux a r).freeUses = p.freeUses := rfl

@[simp] theorem Part.setInput_now (p : Part) (i : InputNo) (r : InputRec) : (p.setInput i r).now = p.now := rfl
@[simp] theorem Part.setInput_mode (p : Part) (i : InputNo) (r : InputRec) : (p.setInput i r).mode = p.mode := rfl
@[simp] theorem Part.setInput_lastReset (p : Part) (i : InputNo) (r : InputRec) : (p.setInput i r).lastReset = p.lastReset := rfl
@[simp] theorem Part.setInput_keptPoles (p : Part) (i : InputNo) (r : InputRec) : (p.setInput i r).keptPoles = p.keptPoles := rfl
@[simp] theorem Part.setInput_mbx (p : Part) (i : InputNo) (r : InputRec) : (p.setInput i r).mbx = p.mbx := rfl
@[simp] theorem Part.setInput_tables (p : Part) (i : InputNo) (r : InputRec) : (p.setInput i r).tables = p.tables := rfl
@[simp] theorem Part.setInput_links (p : Part) (i : InputNo) (r : InputRec) : (p.setInput i r).links = p.links := rfl
@[simp] theorem Part.setInput_send (p : Part) (i : InputNo) (r : InputRec) : (p.setInput i r).send = p.send := rfl
@[simp] theorem Part.setInput_contacts (p : Part) (i : InputNo) (r : InputRec) : (p.setInput i r).contacts = { p.contacts with inputs := p.contacts.inputs.set i r } := rfl
@[simp] theorem Part.setInput_outputs (p : Part) (i : InputNo) (r : InputRec) : (p.setInput i r).outputs = p.outputs := rfl
@[simp] theorem Part.setInput_line (p : Part) (i : InputNo) (r : InputRec) : (p.setInput i r).line = p.line := rfl
@[simp] theorem Part.setInput_poles (p : Part) (i : InputNo) (r : InputRec) : (p.setInput i r).poles = p.poles := rfl
@[simp] theorem Part.setInput_zones (p : Part) (i : InputNo) (r : InputRec) : (p.setInput i r).zones = p.zones := rfl
@[simp] theorem Part.setInput_gov (p : Part) (i : InputNo) (r : InputRec) : (p.setInput i r).gov = p.gov := rfl
@[simp] theorem Part.setInput_aux (p : Part) (i : InputNo) (r : InputRec) : (p.setInput i r).aux = p.aux := rfl
@[simp] theorem Part.setInput_faults (p : Part) (i : InputNo) (r : InputRec) : (p.setInput i r).faults = p.faults := rfl
@[simp] theorem Part.setInput_freeUses (p : Part) (i : InputNo) (r : InputRec) : (p.setInput i r).freeUses = p.freeUses := rfl

@[simp] theorem Part.setOutput_now (p : Part) (o : OutputNo) (r : OutputRec) : (p.setOutput o r).now = p.now := rfl
@[simp] theorem Part.setOutput_mode (p : Part) (o : OutputNo) (r : OutputRec) : (p.setOutput o r).mode = p.mode := rfl
@[simp] theorem Part.setOutput_lastReset (p : Part) (o : OutputNo) (r : OutputRec) : (p.setOutput o r).lastReset = p.lastReset := rfl
@[simp] theorem Part.setOutput_keptPoles (p : Part) (o : OutputNo) (r : OutputRec) : (p.setOutput o r).keptPoles = p.keptPoles := rfl
@[simp] theorem Part.setOutput_mbx (p : Part) (o : OutputNo) (r : OutputRec) : (p.setOutput o r).mbx = p.mbx := rfl
@[simp] theorem Part.setOutput_tables (p : Part) (o : OutputNo) (r : OutputRec) : (p.setOutput o r).tables = p.tables := rfl
@[simp] theorem Part.setOutput_links (p : Part) (o : OutputNo) (r : OutputRec) : (p.setOutput o r).links = p.links := rfl
@[simp] theorem Part.setOutput_send (p : Part) (o : OutputNo) (r : OutputRec) : (p.setOutput o r).send = p.send := rfl
@[simp] theorem Part.setOutput_contacts (p : Part) (o : OutputNo) (r : OutputRec) : (p.setOutput o r).contacts = p.contacts := rfl
@[simp] theorem Part.setOutput_outputs (p : Part) (o : OutputNo) (r : OutputRec) : (p.setOutput o r).outputs = p.outputs.set o r := rfl
@[simp] theorem Part.setOutput_line (p : Part) (o : OutputNo) (r : OutputRec) : (p.setOutput o r).line = p.line := rfl
@[simp] theorem Part.setOutput_poles (p : Part) (o : OutputNo) (r : OutputRec) : (p.setOutput o r).poles = p.poles := rfl
@[simp] theorem Part.setOutput_zones (p : Part) (o : OutputNo) (r : OutputRec) : (p.setOutput o r).zones = p.zones := rfl
@[simp] theorem Part.setOutput_gov (p : Part) (o : OutputNo) (r : OutputRec) : (p.setOutput o r).gov = p.gov := rfl
@[simp] theorem Part.setOutput_aux (p : Part) (o : OutputNo) (r : OutputRec) : (p.setOutput o r).aux = p.aux := rfl
@[simp] theorem Part.setOutput_faults (p : Part) (o : OutputNo) (r : OutputRec) : (p.setOutput o r).faults = p.faults := rfl
@[simp] theorem Part.setOutput_freeUses (p : Part) (o : OutputNo) (r : OutputRec) : (p.setOutput o r).freeUses = p.freeUses := rfl

@[simp] theorem Part.setLink_now (p : Part) (l : Link) (r : LinkRec) : (p.setLink l r).now = p.now := rfl
@[simp] theorem Part.setLink_mode (p : Part) (l : Link) (r : LinkRec) : (p.setLink l r).mode = p.mode := rfl
@[simp] theorem Part.setLink_lastReset (p : Part) (l : Link) (r : LinkRec) : (p.setLink l r).lastReset = p.lastReset := rfl
@[simp] theorem Part.setLink_keptPoles (p : Part) (l : Link) (r : LinkRec) : (p.setLink l r).keptPoles = p.keptPoles := rfl
@[simp] theorem Part.setLink_mbx (p : Part) (l : Link) (r : LinkRec) : (p.setLink l r).mbx = p.mbx := rfl
@[simp] theorem Part.setLink_tables (p : Part) (l : Link) (r : LinkRec) : (p.setLink l r).tables = p.tables := rfl
@[simp] theorem Part.setLink_links (p : Part) (l : Link) (r : LinkRec) : (p.setLink l r).links = { p.links with recs := p.links.recs.set l r } := rfl
@[simp] theorem Part.setLink_send (p : Part) (l : Link) (r : LinkRec) : (p.setLink l r).send = p.send := rfl
@[simp] theorem Part.setLink_contacts (p : Part) (l : Link) (r : LinkRec) : (p.setLink l r).contacts = p.contacts := rfl
@[simp] theorem Part.setLink_outputs (p : Part) (l : Link) (r : LinkRec) : (p.setLink l r).outputs = p.outputs := rfl
@[simp] theorem Part.setLink_line (p : Part) (l : Link) (r : LinkRec) : (p.setLink l r).line = p.line := rfl
@[simp] theorem Part.setLink_poles (p : Part) (l : Link) (r : LinkRec) : (p.setLink l r).poles = p.poles := rfl
@[simp] theorem Part.setLink_zones (p : Part) (l : Link) (r : LinkRec) : (p.setLink l r).zones = p.zones := rfl
@[simp] theorem Part.setLink_gov (p : Part) (l : Link) (r : LinkRec) : (p.setLink l r).gov = p.gov := rfl
@[simp] theorem Part.setLink_aux (p : Part) (l : Link) (r : LinkRec) : (p.setLink l r).aux = p.aux := rfl
@[simp] theorem Part.setLink_faults (p : Part) (l : Link) (r : LinkRec) : (p.setLink l r).faults = p.faults := rfl
@[simp] theorem Part.setLink_freeUses (p : Part) (l : Link) (r : LinkRec) : (p.setLink l r).freeUses = p.freeUses := rfl

@[simp] theorem Part.setPlRx_now (p : Part) (l : PLink) (r : PlRx) : (p.setPlRx l r).now = p.now := rfl
@[simp] theorem Part.setPlRx_mode (p : Part) (l : PLink) (r : PlRx) : (p.setPlRx l r).mode = p.mode := rfl
@[simp] theorem Part.setPlRx_lastReset (p : Part) (l : PLink) (r : PlRx) : (p.setPlRx l r).lastReset = p.lastReset := rfl
@[simp] theorem Part.setPlRx_keptPoles (p : Part) (l : PLink) (r : PlRx) : (p.setPlRx l r).keptPoles = p.keptPoles := rfl
@[simp] theorem Part.setPlRx_mbx (p : Part) (l : PLink) (r : PlRx) : (p.setPlRx l r).mbx = p.mbx := rfl
@[simp] theorem Part.setPlRx_tables (p : Part) (l : PLink) (r : PlRx) : (p.setPlRx l r).tables = p.tables := rfl
@[simp] theorem Part.setPlRx_links (p : Part) (l : PLink) (r : PlRx) : (p.setPlRx l r).links = { p.links with pl := p.links.pl.set l r } := rfl
@[simp] theorem Part.setPlRx_send (p : Part) (l : PLink) (r : PlRx) : (p.setPlRx l r).send = p.send := rfl
@[simp] theorem Part.setPlRx_contacts (p : Part) (l : PLink) (r : PlRx) : (p.setPlRx l r).contacts = p.contacts := rfl
@[simp] theorem Part.setPlRx_outputs (p : Part) (l : PLink) (r : PlRx) : (p.setPlRx l r).outputs = p.outputs := rfl
@[simp] theorem Part.setPlRx_line (p : Part) (l : PLink) (r : PlRx) : (p.setPlRx l r).line = p.line := rfl
@[simp] theorem Part.setPlRx_poles (p : Part) (l : PLink) (r : PlRx) : (p.setPlRx l r).poles = p.poles := rfl
@[simp] theorem Part.setPlRx_zones (p : Part) (l : PLink) (r : PlRx) : (p.setPlRx l r).zones = p.zones := rfl
@[simp] theorem Part.setPlRx_gov (p : Part) (l : PLink) (r : PlRx) : (p.setPlRx l r).gov = p.gov := rfl
@[simp] theorem Part.setPlRx_aux (p : Part) (l : PLink) (r : PlRx) : (p.setPlRx l r).aux = p.aux := rfl
@[simp] theorem Part.setPlRx_faults (p : Part) (l : PLink) (r : PlRx) : (p.setPlRx l r).faults = p.faults := rfl
@[simp] theorem Part.setPlRx_freeUses (p : Part) (l : PLink) (r : PlRx) : (p.setPlRx l r).freeUses = p.freeUses := rfl

@[simp] theorem Part.setSerialRx_now (p : Part) (l : SLink) (r : SerialRx) : (p.setSerialRx l r).now = p.now := rfl
@[simp] theorem Part.setSerialRx_mode (p : Part) (l : SLink) (r : SerialRx) : (p.setSerialRx l r).mode = p.mode := rfl
@[simp] theorem Part.setSerialRx_lastReset (p : Part) (l : SLink) (r : SerialRx) : (p.setSerialRx l r).lastReset = p.lastReset := rfl
@[simp] theorem Part.setSerialRx_keptPoles (p : Part) (l : SLink) (r : SerialRx) : (p.setSerialRx l r).keptPoles = p.keptPoles := rfl
@[simp] theorem Part.setSerialRx_mbx (p : Part) (l : SLink) (r : SerialRx) : (p.setSerialRx l r).mbx = p.mbx := rfl
@[simp] theorem Part.setSerialRx_tables (p : Part) (l : SLink) (r : SerialRx) : (p.setSerialRx l r).tables = p.tables := rfl
@[simp] theorem Part.setSerialRx_links (p : Part) (l : SLink) (r : SerialRx) : (p.setSerialRx l r).links = { p.links with serial := p.links.serial.set l r } := rfl
@[simp] theorem Part.setSerialRx_send (p : Part) (l : SLink) (r : SerialRx) : (p.setSerialRx l r).send = p.send := rfl
@[simp] theorem Part.setSerialRx_contacts (p : Part) (l : SLink) (r : SerialRx) : (p.setSerialRx l r).contacts = p.contacts := rfl
@[simp] theorem Part.setSerialRx_outputs (p : Part) (l : SLink) (r : SerialRx) : (p.setSerialRx l r).outputs = p.outputs := rfl
@[simp] theorem Part.setSerialRx_line (p : Part) (l : SLink) (r : SerialRx) : (p.setSerialRx l r).line = p.line := rfl
@[simp] theorem Part.setSerialRx_poles (p : Part) (l : SLink) (r : SerialRx) : (p.setSerialRx l r).poles = p.poles := rfl
@[simp] theorem Part.setSerialRx_zones (p : Part) (l : SLink) (r : SerialRx) : (p.setSerialRx l r).zones = p.zones := rfl
@[simp] theorem Part.setSerialRx_gov (p : Part) (l : SLink) (r : SerialRx) : (p.setSerialRx l r).gov = p.gov := rfl
@[simp] theorem Part.setSerialRx_aux (p : Part) (l : SLink) (r : SerialRx) : (p.setSerialRx l r).aux = p.aux := rfl
@[simp] theorem Part.setSerialRx_faults (p : Part) (l : SLink) (r : SerialRx) : (p.setSerialRx l r).faults = p.faults := rfl
@[simp] theorem Part.setSerialRx_freeUses (p : Part) (l : SLink) (r : SerialRx) : (p.setSerialRx l r).freeUses = p.freeUses := rfl

@[simp] theorem Part.modFault_now (p : Part) (k : FaultKind) (f : FaultRec → FaultRec) : (p.modFault k f).now = p.now := rfl
@[simp] theorem Part.modFault_mode (p : Part) (k : FaultKind) (f : FaultRec → FaultRec) : (p.modFault k f).mode = p.mode := rfl
@[simp] theorem Part.modFault_lastReset (p : Part) (k : FaultKind) (f : FaultRec → FaultRec) : (p.modFault k f).lastReset = p.lastReset := rfl
@[simp] theorem Part.modFault_keptPoles (p : Part) (k : FaultKind) (f : FaultRec → FaultRec) : (p.modFault k f).keptPoles = p.keptPoles := rfl
@[simp] theorem Part.modFault_mbx (p : Part) (k : FaultKind) (f : FaultRec → FaultRec) : (p.modFault k f).mbx = p.mbx := rfl
@[simp] theorem Part.modFault_tables (p : Part) (k : FaultKind) (f : FaultRec → FaultRec) : (p.modFault k f).tables = p.tables := rfl
@[simp] theorem Part.modFault_links (p : Part) (k : FaultKind) (f : FaultRec → FaultRec) : (p.modFault k f).links = p.links := rfl
@[simp] theorem Part.modFault_send (p : Part) (k : FaultKind) (f : FaultRec → FaultRec) : (p.modFault k f).send = p.send := rfl
@[simp] theorem Part.modFault_contacts (p : Part) (k : FaultKind) (f : FaultRec → FaultRec) : (p.modFault k f).contacts = p.contacts := rfl
@[simp] theorem Part.modFault_outputs (p : Part) (k : FaultKind) (f : FaultRec → FaultRec) : (p.modFault k f).outputs = p.outputs := rfl
@[simp] theorem Part.modFault_line (p : Part) (k : FaultKind) (f : FaultRec → FaultRec) : (p.modFault k f).line = p.line := rfl
@[simp] theorem Part.modFault_poles (p : Part) (k : FaultKind) (f : FaultRec → FaultRec) : (p.modFault k f).poles = p.poles := rfl
@[simp] theorem Part.modFault_zones (p : Part) (k : FaultKind) (f : FaultRec → FaultRec) : (p.modFault k f).zones = p.zones := rfl
@[simp] theorem Part.modFault_gov (p : Part) (k : FaultKind) (f : FaultRec → FaultRec) : (p.modFault k f).gov = p.gov := rfl
@[simp] theorem Part.modFault_aux (p : Part) (k : FaultKind) (f : FaultRec → FaultRec) : (p.modFault k f).aux = p.aux := rfl
@[simp] theorem Part.modFault_faults (p : Part) (k : FaultKind) (f : FaultRec → FaultRec) : (p.modFault k f).faults = p.faults.set k (f (p.faults.get k)) := rfl
@[simp] theorem Part.modFault_freeUses (p : Part) (k : FaultKind) (f : FaultRec → FaultRec) : (p.modFault k f).freeUses = p.freeUses := rfl

@[simp] theorem Part.setPending_now (p : Part) (q : List Zone) : (p.setPending q).now = p.now := rfl
@[simp] theorem Part.setPending_mode (p : Part) (q : List Zone) : (p.setPending q).mode = p.mode := rfl
@[simp] theorem Part.setPending_lastReset (p : Part) (q : List Zone) : (p.setPending q).lastReset = p.lastReset := rfl
@[simp] theorem Part.setPending_keptPoles (p : Part) (q : List Zone) : (p.setPending q).keptPoles = p.keptPoles := rfl
@[simp] theorem Part.setPending_mbx (p : Part) (q : List Zone) : (p.setPending q).mbx = p.mbx := rfl
@[simp] theorem Part.setPending_tables (p : Part) (q : List Zone) : (p.setPending q).tables = p.tables := rfl
@[simp] theorem Part.setPending_links (p : Part) (q : List Zone) : (p.setPending q).links = p.links := rfl
@[simp] theorem Part.setPending_send (p : Part) (q : List Zone) : (p.setPending q).send = p.send := rfl
@[simp] theorem Part.setPending_contacts (p : Part) (q : List Zone) : (p.setPending q).contacts = p.contacts := rfl
@[simp] theorem Part.setPending_outputs (p : Part) (q : List Zone) : (p.setPending q).outputs = p.outputs := rfl
@[simp] theorem Part.setPending_line (p : Part) (q : List Zone) : (p.setPending q).line = p.line := rfl
@[simp] theorem Part.setPending_poles (p : Part) (q : List Zone) : (p.setPending q).poles = p.poles := rfl
@[simp] theorem Part.setPending_zones (p : Part) (q : List Zone) : (p.setPending q).zones = { p.zones with pendingZones := q } := rfl
@[simp] theorem Part.setPending_gov (p : Part) (q : List Zone) : (p.setPending q).gov = p.gov := rfl
@[simp] theorem Part.setPending_aux (p : Part) (q : List Zone) : (p.setPending q).aux = p.aux := rfl
@[simp] theorem Part.setPending_faults (p : Part) (q : List Zone) : (p.setPending q).faults = p.faults := rfl
@[simp] theorem Part.setPending_freeUses (p : Part) (q : List Zone) : (p.setPending q).freeUses = p.freeUses := rfl

@[simp] theorem Part.leaveQueue_now (p : Part) (a : AuxNo) : (p.leaveQueue a).now = p.now := rfl
@[simp] theorem Part.leaveQueue_mode (p : Part) (a : AuxNo) : (p.leaveQueue a).mode = p.mode := rfl
@[simp] theorem Part.leaveQueue_lastReset (p : Part) (a : AuxNo) : (p.leaveQueue a).lastReset = p.lastReset := rfl
@[simp] theorem Part.leaveQueue_keptPoles (p : Part) (a : AuxNo) : (p.leaveQueue a).keptPoles = p.keptPoles := rfl
@[simp] theorem Part.leaveQueue_mbx (p : Part) (a : AuxNo) : (p.leaveQueue a).mbx = p.mbx := rfl
@[simp] theorem Part.leaveQueue_tables (p : Part) (a : AuxNo) : (p.leaveQueue a).tables = p.tables := rfl
@[simp] theorem Part.leaveQueue_links (p : Part) (a : AuxNo) : (p.leaveQueue a).links = p.links := rfl
@[simp] theorem Part.leaveQueue_send (p : Part) (a : AuxNo) : (p.leaveQueue a).send = p.send := rfl
@[simp] theorem Part.leaveQueue_contacts (p : Part) (a : AuxNo) : (p.leaveQueue a).contacts = p.contacts := rfl
@[simp] theorem Part.leaveQueue_outputs (p : Part) (a : AuxNo) : (p.leaveQueue a).outputs = p.outputs := rfl
@[simp] theorem Part.leaveQueue_line (p : Part) (a : AuxNo) : (p.leaveQueue a).line = p.line := rfl
@[simp] theorem Part.leaveQueue_poles (p : Part) (a : AuxNo) : (p.leaveQueue a).poles = p.poles := rfl
@[simp] theorem Part.leaveQueue_zones (p : Part) (a : AuxNo) : (p.leaveQueue a).zones = p.zones := rfl
@[simp] theorem Part.leaveQueue_gov (p : Part) (a : AuxNo) : (p.leaveQueue a).gov = p.gov := rfl
@[simp] theorem Part.leaveQueue_aux (p : Part) (a : AuxNo) : (p.leaveQueue a).aux = { p.aux with queue := p.aux.queue.filter (· != a) } := rfl
@[simp] theorem Part.leaveQueue_faults (p : Part) (a : AuxNo) : (p.leaveQueue a).faults = p.faults := rfl
@[simp] theorem Part.leaveQueue_freeUses (p : Part) (a : AuxNo) : (p.leaveQueue a).freeUses = p.freeUses := rfl

@[simp] theorem Part.withdraw_now (p : Part) (r : Reason) : (p.withdraw r).now = p.now := rfl
@[simp] theorem Part.withdraw_mode (p : Part) (r : Reason) : (p.withdraw r).mode = p.mode := rfl
@[simp] theorem Part.withdraw_lastReset (p : Part) (r : Reason) : (p.withdraw r).lastReset = p.lastReset := rfl
@[simp] theorem Part.withdraw_keptPoles (p : Part) (r : Reason) : (p.withdraw r).keptPoles = p.keptPoles := rfl
@[simp] theorem Part.withdraw_mbx (p : Part) (r : Reason) : (p.withdraw r).mbx = p.mbx := rfl
@[simp] theorem Part.withdraw_tables (p : Part) (r : Reason) : (p.withdraw r).tables = p.tables := rfl
@[simp] theorem Part.withdraw_links (p : Part) (r : Reason) : (p.withdraw r).links = p.links := rfl
@[simp] theorem Part.withdraw_send (p : Part) (r : Reason) : (p.withdraw r).send = p.send := rfl
@[simp] theorem Part.withdraw_contacts (p : Part) (r : Reason) : (p.withdraw r).contacts = p.contacts := rfl
@[simp] theorem Part.withdraw_outputs (p : Part) (r : Reason) : (p.withdraw r).outputs = p.outputs := rfl
@[simp] theorem Part.withdraw_line (p : Part) (r : Reason) : (p.withdraw r).line = p.line := rfl
@[simp] theorem Part.withdraw_poles (p : Part) (r : Reason) : (p.withdraw r).poles = p.poles := rfl
@[simp] theorem Part.withdraw_zones (p : Part) (r : Reason) : (p.withdraw r).zones = p.zones := rfl
@[simp] theorem Part.withdraw_gov (p : Part) (r : Reason) : (p.withdraw r).gov = { p.gov with inhibit := p.gov.inhibit.put r false } := rfl
@[simp] theorem Part.withdraw_aux (p : Part) (r : Reason) : (p.withdraw r).aux = p.aux := rfl
@[simp] theorem Part.withdraw_faults (p : Part) (r : Reason) : (p.withdraw r).faults = p.faults := rfl
@[simp] theorem Part.withdraw_freeUses (p : Part) (r : Reason) : (p.withdraw r).freeUses = p.freeUses := rfl

@[simp] theorem Part.rebudget_now (p : Part) : p.rebudget.now = p.now := rfl
@[simp] theorem Part.rebudget_mode (p : Part) : p.rebudget.mode = p.mode := rfl
@[simp] theorem Part.rebudget_lastReset (p : Part) : p.rebudget.lastReset = p.lastReset := rfl
@[simp] theorem Part.rebudget_keptPoles (p : Part) : p.rebudget.keptPoles = p.keptPoles := rfl
@[simp] theorem Part.rebudget_mbx (p : Part) : p.rebudget.mbx = p.mbx := rfl
@[simp] theorem Part.rebudget_tables (p : Part) : p.rebudget.tables = p.tables := rfl
@[simp] theorem Part.rebudget_links (p : Part) : p.rebudget.links = p.links := rfl
@[simp] theorem Part.rebudget_send (p : Part) : p.rebudget.send = p.send := rfl
@[simp] theorem Part.rebudget_contacts (p : Part) : p.rebudget.contacts = p.contacts := rfl
@[simp] theorem Part.rebudget_outputs (p : Part) : p.rebudget.outputs = p.outputs := rfl
@[simp] theorem Part.rebudget_line (p : Part) : p.rebudget.line = (p.line.recompute p.tables).noteDemand := rfl
@[simp] theorem Part.rebudget_poles (p : Part) : p.rebudget.poles = p.poles := rfl
@[simp] theorem Part.rebudget_zones (p : Part) : p.rebudget.zones = p.zones := rfl
@[simp] theorem Part.rebudget_gov (p : Part) : p.rebudget.gov = p.gov := rfl
@[simp] theorem Part.rebudget_aux (p : Part) : p.rebudget.aux = p.aux := rfl
@[simp] theorem Part.rebudget_faults (p : Part) : p.rebudget.faults = p.faults := rfl
@[simp] theorem Part.rebudget_freeUses (p : Part) : p.rebudget.freeUses = p.freeUses := rfl

@[simp] theorem Part.settle_now (p : Part) : p.settle.now = p.now := rfl
@[simp] theorem Part.settle_mode (p : Part) : p.settle.mode = p.mode := rfl
@[simp] theorem Part.settle_lastReset (p : Part) : p.settle.lastReset = p.lastReset := rfl
@[simp] theorem Part.settle_keptPoles (p : Part) : p.settle.keptPoles = p.keptPoles := rfl
@[simp] theorem Part.settle_mbx (p : Part) : p.settle.mbx = p.mbx.settle := rfl
@[simp] theorem Part.settle_tables (p : Part) : p.settle.tables = p.tables := rfl
@[simp] theorem Part.settle_links (p : Part) : p.settle.links = p.links := rfl
@[simp] theorem Part.settle_send (p : Part) : p.settle.send = p.send := rfl
@[simp] theorem Part.settle_contacts (p : Part) : p.settle.contacts = p.contacts := rfl
@[simp] theorem Part.settle_outputs (p : Part) : p.settle.outputs = p.outputs := rfl
@[simp] theorem Part.settle_line (p : Part) : p.settle.line = p.line := rfl
@[simp] theorem Part.settle_poles (p : Part) : p.settle.poles = p.poles := rfl
@[simp] theorem Part.settle_zones (p : Part) : p.settle.zones = p.zones := rfl
@[simp] theorem Part.settle_gov (p : Part) : p.settle.gov = p.gov := rfl
@[simp] theorem Part.settle_aux (p : Part) : p.settle.aux = p.aux := rfl
@[simp] theorem Part.settle_faults (p : Part) : p.settle.faults = p.faults := rfl
@[simp] theorem Part.settle_freeUses (p : Part) : p.settle.freeUses = p.freeUses := rfl

@[simp] theorem Part.putReport_now (p : Part) (r : ReportRec) : (p.putReport r).now = p.now := rfl
@[simp] theorem Part.putReport_mode (p : Part) (r : ReportRec) : (p.putReport r).mode = p.mode := rfl
@[simp] theorem Part.putReport_lastReset (p : Part) (r : ReportRec) : (p.putReport r).lastReset = p.lastReset := rfl
@[simp] theorem Part.putReport_keptPoles (p : Part) (r : ReportRec) : (p.putReport r).keptPoles = p.keptPoles := rfl
@[simp] theorem Part.putReport_mbx (p : Part) (r : ReportRec) : (p.putReport r).mbx = p.mbx.takeReport p r := rfl
@[simp] theorem Part.putReport_tables (p : Part) (r : ReportRec) : (p.putReport r).tables = p.tables := rfl
@[simp] theorem Part.putReport_links (p : Part) (r : ReportRec) : (p.putReport r).links = p.links := rfl
@[simp] theorem Part.putReport_send (p : Part) (r : ReportRec) : (p.putReport r).send = p.send := rfl
@[simp] theorem Part.putReport_contacts (p : Part) (r : ReportRec) : (p.putReport r).contacts = p.contacts := rfl
@[simp] theorem Part.putReport_outputs (p : Part) (r : ReportRec) : (p.putReport r).outputs = p.outputs := rfl
@[simp] theorem Part.putReport_line (p : Part) (r : ReportRec) : (p.putReport r).line = p.line := rfl
@[simp] theorem Part.putReport_poles (p : Part) (r : ReportRec) : (p.putReport r).poles = p.poles := rfl
@[simp] theorem Part.putReport_zones (p : Part) (r : ReportRec) : (p.putReport r).zones = p.zones := rfl
@[simp] theorem Part.putReport_gov (p : Part) (r : ReportRec) : (p.putReport r).gov = p.gov := rfl
@[simp] theorem Part.putReport_aux (p : Part) (r : ReportRec) : (p.putReport r).aux = p.aux := rfl
@[simp] theorem Part.putReport_faults (p : Part) (r : ReportRec) : (p.putReport r).faults = p.faults := rfl
@[simp] theorem Part.putReport_freeUses (p : Part) (r : ReportRec) : (p.putReport r).freeUses = p.freeUses := rfl

/-! ### Updates of the Mailbox Port -/

@[simp] theorem Mailbox.setChain_base (m : Mailbox) (c : Chain) (r : ChainRec) : (m.setChain c r).base = m.base := rfl
@[simp] theorem Mailbox.setChain_outcome (m : Mailbox) (c : Chain) (r : ChainRec) : (m.setChain c r).outcome = m.outcome := rfl
@[simp] theorem Mailbox.setChain_missing (m : Mailbox) (c : Chain) (r : ChainRec) : (m.setChain c r).missing = m.missing := rfl
@[simp] theorem Mailbox.setChain_attention (m : Mailbox) (c : Chain) (r : ChainRec) : (m.setChain c r).attention = m.attention := rfl
@[simp] theorem Mailbox.setChain_chains (m : Mailbox) (c : Chain) (r : ChainRec) : (m.setChain c r).chains = m.chains.set c r := rfl
@[simp] theorem Mailbox.setChain_port (m : Mailbox) (c : Chain) (r : ChainRec) : (m.setChain c r).port = m.port := rfl
@[simp] theorem Mailbox.setChain_holding (m : Mailbox) (c : Chain) (r : ChainRec) : (m.setChain c r).holding = m.holding := rfl
@[simp] theorem Mailbox.setChain_reportCopy (m : Mailbox) (c : Chain) (r : ChainRec) : (m.setChain c r).reportCopy = m.reportCopy := rfl
@[simp] theorem Mailbox.setChain_raised (m : Mailbox) (c : Chain) (r : ChainRec) : (m.setChain c r).raised = m.raised := rfl
@[simp] theorem Mailbox.setChain_written (m : Mailbox) (c : Chain) (r : ChainRec) : (m.setChain c r).written = m.written := rfl
@[simp] theorem Mailbox.setChain_dropped (m : Mailbox) (c : Chain) (r : ChainRec) : (m.setChain c r).dropped = m.dropped := rfl
@[simp] theorem Mailbox.setChain_mirror (m : Mailbox) (c : Chain) (r : ChainRec) : (m.setChain c r).mirror = m.mirror := rfl

@[simp] theorem Mailbox.freePort_base (m : Mailbox) : m.freePort.base = m.base := rfl
@[simp] theorem Mailbox.freePort_outcome (m : Mailbox) : m.freePort.outcome = m.outcome := rfl
@[simp] theorem Mailbox.freePort_missing (m : Mailbox) : m.freePort.missing = m.missing := rfl
@[simp] theorem Mailbox.freePort_attention (m : Mailbox) : m.freePort.attention = m.attention := rfl
@[simp] theorem Mailbox.freePort_chains (m : Mailbox) : m.freePort.chains = m.chains := rfl
@[simp] theorem Mailbox.freePort_port (m : Mailbox) : m.freePort.port = { m.port with inFlight := none } := rfl
@[simp] theorem Mailbox.freePort_holding (m : Mailbox) : m.freePort.holding = m.holding := rfl
@[simp] theorem Mailbox.freePort_reportCopy (m : Mailbox) : m.freePort.reportCopy = m.reportCopy := rfl
@[simp] theorem Mailbox.freePort_raised (m : Mailbox) : m.freePort.raised = m.raised := rfl
@[simp] theorem Mailbox.freePort_written (m : Mailbox) : m.freePort.written = m.written := rfl
@[simp] theorem Mailbox.freePort_dropped (m : Mailbox) : m.freePort.dropped = m.dropped := rfl
@[simp] theorem Mailbox.freePort_mirror (m : Mailbox) : m.freePort.mirror = m.mirror := rfl

@[simp] theorem Mailbox.settle_base (m : Mailbox) : m.settle.base = m.base := rfl
@[simp] theorem Mailbox.settle_outcome (m : Mailbox) : m.settle.outcome = m.outcome := rfl
@[simp] theorem Mailbox.settle_missing (m : Mailbox) : m.settle.missing = m.missing := rfl
@[simp] theorem Mailbox.settle_chains (m : Mailbox) : m.settle.chains = m.chains := rfl
@[simp] theorem Mailbox.settle_port (m : Mailbox) : m.settle.port = m.port := rfl
@[simp] theorem Mailbox.settle_holding (m : Mailbox) : m.settle.holding = m.holding := rfl
@[simp] theorem Mailbox.settle_reportCopy (m : Mailbox) : m.settle.reportCopy = m.reportCopy := rfl
@[simp] theorem Mailbox.settle_raised (m : Mailbox) : m.settle.raised = m.raised := rfl
@[simp] theorem Mailbox.settle_written (m : Mailbox) : m.settle.written = m.written := rfl
@[simp] theorem Mailbox.settle_dropped (m : Mailbox) : m.settle.dropped = m.dropped := rfl
@[simp] theorem Mailbox.settle_mirror (m : Mailbox) : m.settle.mirror = m.mirror := rfl

/-! ### The machine -/

@[simp] theorem Part.auxRec_set_same (p : Part) (a : AuxNo) (r : AuxRec) : (p.setAux a r).auxRec a = r := by
  simp [Part.auxRec, Part.setAux, Vector.get_eq_getElem]

theorem Part.auxRec_set_other (p : Part) (a j : AuxNo) (r : AuxRec) (h : j ≠ a) : (p.setAux a r).auxRec j = p.auxRec j := by
  have : a.val ≠ j.val := fun e => h (Fin.ext e.symm)
  simp [Part.auxRec, Part.setAux, Vector.get_eq_getElem, Vector.getElem_set_ne _ _ this]

@[simp] theorem Part.input_set_same (p : Part) (i : InputNo) (r : InputRec) : (p.setInput i r).input i = r := by
  simp [Part.input, Part.setInput, Vector.get_eq_getElem]

theorem Part.input_set_other (p : Part) (i j : InputNo) (r : InputRec) (h : j ≠ i) : (p.setInput i r).input j = p.input j := by
  have : i.val ≠ j.val := fun e => h (Fin.ext e.symm)
  simp [Part.input, Part.setInput, Vector.get_eq_getElem, Vector.getElem_set_ne _ _ this]

@[simp] theorem Part.output_set_same (p : Part) (o : OutputNo) (r : OutputRec) : (p.setOutput o r).output o = r := by
  simp [Part.output, Part.setOutput, Vector.get_eq_getElem]

theorem Part.output_set_other (p : Part) (o j : OutputNo) (r : OutputRec) (h : j ≠ o) : (p.setOutput o r).output j = p.output j := by
  have : o.val ≠ j.val := fun e => h (Fin.ext e.symm)
  simp [Part.output, Part.setOutput, Vector.get_eq_getElem, Vector.getElem_set_ne _ _ this]

@[simp] theorem State.event_next (s : State) (f : Part → Part) : s.event f = .next { s with part := ((f s.part).orderEntries s.part).settle } := rfl

end Sys2Proof.Machine
end

