-- ==== Sys2Proof/Laws/Moves.lean ====
section
/-! SUPPORT. What an operation can do, said once: the pieces it may change, and that it keeps the five properties of
Safety.lean. `Drifts`, `Turns`, `Told` and `Asked` are for operations inside a Pole Monitor event, before its claims are
updated. -/

set_option Elab.async false

namespace Sys2Proof.Machine

/-! ### Frames -/

theorem Part.same_refl (p : Part) (x : Piece) : p.same p x := by cases x <;> simp [Part.same]

theorem Part.same_trans {p q r : Part} {x : Piece} (h : p.same q x) (k : q.same r x) : p.same r x := by
  cases x <;> simp_all [Part.same]

/-- Every piece of one list is in another. -/
def within (xs ys : List Piece) : Bool := xs.all ys.contains

theorem mem_of_within {xs ys : List Piece} (h : within xs ys = true) {x : Piece} (hx : x ∈ xs) : x ∈ ys := by
  have := List.all_eq_true.mp h x hx
  simpa using this

theorem Part.onlyChanges_refl (xs : List Piece) (p : Part) : p.onlyChanges xs p := fun x _ => p.same_refl x

theorem Part.onlyChanges_trans {xs : List Piece} {p q r : Part} (h : p.onlyChanges xs q) (k : q.onlyChanges xs r) :
    p.onlyChanges xs r := fun x hx => Part.same_trans (h x hx) (k x hx)

theorem Part.onlyChanges_mono {xs ys : List Piece} {p q : Part} (h : p.onlyChanges xs q) (hs : within xs ys = true) :
    p.onlyChanges ys q := fun x hx => h x (fun hy => hx (mem_of_within hs hy))

/-! ### The relation -/

/-- From `p` to `q` only the named pieces change, the reason MODE is as it was, and the accounting, the guard of traction and
the blindness of poles on the wire alone are kept. -/
structure Part.Drifts (xs : List Piece) (p q : Part) : Prop where
  only : p.onlyChanges xs q
  modeReason : q.gov.inhibit.mode = p.gov.inhibit.mode
  accounted : p.mbx.accounted → q.mbx.accounted
  guarded : p.guarded → q.guarded
  blind : p.blindOnWire → q.blindOnWire

/-- A pole's state after some notices, from the state last noticed. -/
def PoleNotice.lastFor (i : PoleId) (ns : List PoleNotice) (s : PoleState) : PoleState :=
  ns.foldl (fun s n => if n.pole = i then n.entered else s) s

/-- The copies agree with the states of the poles once the notices `ns` are given (R90). -/
def Part.owes (p : Part) (ns : List PoleNotice) : Prop :=
  ∀ i, PoleNotice.lastFor i ns (p.line.poleCopy.get i) = (p.poles.get i).state
    ∧ PoleNotice.lastFor i ns (p.keptPoles.get i) = (p.poles.get i).state

/-- The three reasons that the Pole Monitor claims (R91). -/
def InhibitSet.poleReasons (s : InhibitSet) : Bool × Bool × Bool := (s.poleSuspect, s.poleDewired, s.polesMoving)

/-- As `Drifts`, what `q` owes beyond `p` is the notices `ns`, and the Pole Monitor's reasons are as they were: an operation
of a pole event before its notices. -/
structure Part.Turns (xs : List Piece) (p : Part) (ns : List PoleNotice) (q : Part) : Prop where
  drifts : p.Drifts xs q
  owing : ∀ ms, p.owes ms → q.owes (ms ++ ns)
  reasons : q.gov.inhibit.poleReasons = p.gov.inhibit.poleReasons

/-- As `Drifts`, and the copies of the poles' states still agree: an operation of a pole event with its notices given. -/
structure Part.Told (xs : List Piece) (p q : Part) : Prop where
  drifts : p.Drifts xs q
  noticed : p.noticed → q.noticed

/-- As `Told`, and the Pole Monitor's reasons are as they were: a request of an event that makes several. -/
structure Part.Asked (xs : List Piece) (p q : Part) : Prop where
  told : p.Told xs q
  reasons : q.gov.inhibit.poleReasons = p.gov.inhibit.poleReasons

/-- As `Told`, and the Pole Monitor's claims still follow their conditions. -/
structure Part.Moves (xs : List Piece) (p q : Part) : Prop where
  drifts : p.Drifts xs q
  noticed : p.noticed → q.noticed
  claims : p.poleClaims → q.poleClaims

theorem Part.Moves.told {xs : List Piece} {p q : Part} (h : p.Moves xs q) : p.Told xs q := ⟨h.drifts, h.noticed⟩

theorem Part.Drifts.refl (xs : List Piece) (p : Part) : p.Drifts xs p := ⟨p.onlyChanges_refl xs, rfl, id, id, id⟩

theorem Part.Turns.refl (xs : List Piece) (p : Part) : p.Turns xs [] p :=
  ⟨.refl xs p, fun ms h => by rw [List.append_nil]; exact h, rfl⟩

theorem Part.Told.refl (xs : List Piece) (p : Part) : p.Told xs p := ⟨.refl xs p, id⟩

theorem Part.Asked.refl (xs : List Piece) (p : Part) : p.Asked xs p := ⟨.refl xs p, rfl⟩

theorem Part.Moves.refl (xs : List Piece) (p : Part) : p.Moves xs p := ⟨.refl xs p, id, id⟩

theorem Part.Drifts.andThen {xs ys : List Piece} {p q r : Part} (h : p.Drifts xs q) (k : q.Drifts ys r)
    (hs : within ys xs = true := by decide) : p.Drifts xs r :=
  ⟨Part.onlyChanges_trans h.only (Part.onlyChanges_mono k.only hs), k.modeReason.trans h.modeReason,
    k.accounted ∘ h.accounted, k.guarded ∘ h.guarded, k.blind ∘ h.blind⟩

theorem Part.Turns.andThen {xs ys : List Piece} {p q r : Part} {ns ms : List PoleNotice} (h : p.Turns xs ns q)
    (k : q.Turns ys ms r) (hs : within ys xs = true := by decide) : p.Turns xs (ns ++ ms) r :=
  ⟨h.drifts.andThen k.drifts hs, fun os ho => by rw [← List.append_assoc]; exact k.owing _ (h.owing _ ho),
    k.reasons.trans h.reasons⟩

theorem Part.Told.andThen {xs ys : List Piece} {p q r : Part} (h : p.Told xs q) (k : q.Told ys r)
    (hs : within ys xs = true := by decide) : p.Told xs r :=
  ⟨h.drifts.andThen k.drifts hs, k.noticed ∘ h.noticed⟩

theorem Part.Asked.andThen {xs ys : List Piece} {p q r : Part} (h : p.Asked xs q) (k : q.Asked ys r)
    (hs : within ys xs = true := by decide) : p.Asked xs r := ⟨h.told.andThen k.told hs, k.reasons.trans h.reasons⟩

theorem Part.Moves.andThen {xs ys : List Piece} {p q r : Part} (h : p.Moves xs q) (k : q.Moves ys r)
    (hs : within ys xs = true := by decide) : p.Moves xs r :=
  ⟨h.drifts.andThen k.drifts hs, k.noticed ∘ h.noticed, k.claims ∘ h.claims⟩

/-- The last change first: `andThen` for a goal whose last operation is known. -/
theorem Part.Moves.before {xs ys : List Piece} {p q r : Part} (k : q.Moves ys r) (h : p.Moves xs q)
    (hs : within ys xs = true := by decide) : p.Moves xs r := h.andThen k hs

theorem Part.Drifts.before {xs ys : List Piece} {p q r : Part} (k : q.Drifts ys r) (h : p.Drifts xs q)
    (hs : within ys xs = true := by decide) : p.Drifts xs r := h.andThen k hs

theorem Part.Told.before {xs ys : List Piece} {p q r : Part} (k : q.Told ys r) (h : p.Told xs q)
    (hs : within ys xs = true := by decide) : p.Told xs r := h.andThen k hs

theorem Part.Asked.before {xs ys : List Piece} {p q r : Part} (k : q.Asked ys r) (h : p.Asked xs q)
    (hs : within ys xs = true := by decide) : p.Asked xs r := h.andThen k hs

theorem Part.Turns.before {xs ys : List Piece} {p q r : Part} {ns ms : List PoleNotice} (k : q.Turns ys ms r)
    (h : p.Turns xs ns q) (hs : within ys xs = true := by decide) : p.Turns xs (ns ++ ms) r := h.andThen k hs

/-- A last operation that owes no notice. -/
theorem Part.Turns.quietly {xs ys : List Piece} {p q r : Part} {ns : List PoleNotice} (k : q.Turns ys [] r)
    (h : p.Turns xs ns q) (hs : within ys xs = true := by decide) : p.Turns xs ns r :=
  List.append_nil ns ▸ h.andThen k hs

theorem Part.Drifts.mono {xs ys : List Piece} {p q : Part} (h : p.Drifts xs q) (hs : within xs ys = true := by decide) :
    p.Drifts ys q := ⟨Part.onlyChanges_mono h.only hs, h.modeReason, h.accounted, h.guarded, h.blind⟩

theorem Part.Turns.mono {xs ys : List Piece} {p q : Part} {ns : List PoleNotice} (h : p.Turns xs ns q)
    (hs : within xs ys = true := by decide) : p.Turns ys ns q := ⟨h.drifts.mono hs, h.owing, h.reasons⟩

theorem Part.Told.mono {xs ys : List Piece} {p q : Part} (h : p.Told xs q) (hs : within xs ys = true := by decide) :
    p.Told ys q := ⟨h.drifts.mono hs, h.noticed⟩

theorem Part.Asked.mono {xs ys : List Piece} {p q : Part} (h : p.Asked xs q) (hs : within xs ys = true := by decide) :
    p.Asked ys q := ⟨h.told.mono hs, h.reasons⟩

theorem Part.Moves.mono {xs ys : List Piece} {p q : Part} (h : p.Moves xs q) (hs : within xs ys = true := by decide) :
    p.Moves ys q := ⟨h.drifts.mono hs, h.noticed, h.claims⟩

/-- An operation that owes no notice keeps the copies. -/
theorem Part.Turns.told {xs : List Piece} {p q : Part} (h : p.Turns xs [] q) : p.Told xs q := ⟨h.drifts, h.owing []⟩

/-- Pieces that none of the five properties reads. -/
def plainPieces (xs : List Piece) : Bool :=
  xs.all (fun x => !([Piece.reports, .inhibit, .collector, .poles, .line, .keptPoles].contains x))

theorem not_mem_of_plain {xs : List Piece} (h : plainPieces xs = true) {x : Piece}
    (hx : x ∈ [Piece.reports, .inhibit, .collector, .poles, .line, .keptPoles]) : x ∉ xs := by
  intro hm
  have := List.all_eq_true.mp h x hm
  simp_all

theorem accounted_of_same {p q : Part} (h : p.same q .reports) (k : p.mbx.accounted) : q.mbx.accounted := by
  simp only [Part.same] at h
  simp_all [Mailbox.accounted]

theorem guarded_of_same {p q : Part} (hi : p.same q .inhibit) (hc : p.same q .collector) (k : p.guarded) : q.guarded := by
  simp only [Part.same] at hi hc
  simp_all [Part.guarded]

/-- A drift that leaves the mode alone keeps the interlock. -/
theorem Part.Drifts.interlocked {xs : List Piece} {p q : Part} (h : p.Drifts xs q) (hm : Piece.mode ∉ xs)
    (k : p.interlocked) : q.interlocked := by
  have h1 : q.mode = p.mode := h.only .mode hm
  exact ⟨by rw [h.modeReason, h1]; exact k.1, h.guarded k.2⟩

theorem poleClaims_of_same {p q : Part} (hi : p.same q .inhibit) (hp : p.same q .poles) (k : p.poleClaims) :
    q.poleClaims := by
  simp only [Part.same] at hi hp
  simp_all [Part.poleClaims, Part.anyPole]

theorem blindOnWire_of_same {p q : Part} (hp : p.same q .poles) (k : p.blindOnWire) : q.blindOnWire := by
  simp only [Part.same] at hp
  simp_all [Part.blindOnWire]

/-- From `p` to `q` no pole changes its state and both copies stay: no notice is due (R90). -/
structure Part.Quiet (p q : Part) : Prop where
  states : ∀ i, (q.poles.get i).state = (p.poles.get i).state
  copy : q.line.poleCopy = p.line.poleCopy
  kept : q.keptPoles = p.keptPoles

theorem Part.Quiet.refl (p : Part) : p.Quiet p := ⟨fun _ => rfl, rfl, rfl⟩

theorem Part.Quiet.andThen {p q r : Part} (h : p.Quiet q) (k : q.Quiet r) : p.Quiet r :=
  ⟨fun i => (k.states i).trans (h.states i), k.copy.trans h.copy, k.kept.trans h.kept⟩

theorem Part.Quiet.owes {p q : Part} (h : p.Quiet q) {ns : List PoleNotice} (k : p.owes ns) : q.owes ns := by
  intro i
  rw [h.copy, h.kept, h.states]
  exact k i

theorem quiet_of_same {p q : Part} (hl : p.same q .line) (hp : p.same q .poles) (hk : p.same q .keptPoles) : p.Quiet q := by
  have hl : q.line.own = p.line.own := hl
  have hc : q.line.own.poleCopy = p.line.own.poleCopy := congrArg Line.poleCopy hl
  have hp : q.poles = p.poles := hp
  exact ⟨fun i => by rw [hp], hc, hk⟩

/-- A drift that touches neither the line, the poles nor the record of the mode logic is quiet. -/
theorem Part.Drifts.quiet {xs : List Piece} {p q : Part} (h : p.Drifts xs q)
    (hs : (xs.contains .line || xs.contains .poles || xs.contains .keptPoles) = false := by decide) : p.Quiet q := by
  have no : ∀ x, xs.contains x = false → x ∉ xs := fun x hx hm => by simp_all
  simp only [Bool.or_eq_false_iff] at hs
  exact quiet_of_same (h.only _ (no _ hs.1.1)) (h.only _ (no _ hs.1.2)) (h.only _ (no _ hs.2))

/-- A drift that leaves the inhibit set alone leaves the Pole Monitor's reasons. -/
theorem Part.Drifts.reasons {xs : List Piece} {p q : Part} (h : p.Drifts xs q)
    (hs : xs.contains .inhibit = false := by decide) : q.gov.inhibit.poleReasons = p.gov.inhibit.poleReasons :=
  congrArg InhibitSet.poleReasons (h.only .inhibit (fun hm => by simp_all)).1

/-- A quiet drift owes no notice. -/
theorem Part.Drifts.turns {xs : List Piece} {p q : Part} (h : p.Drifts xs q) (hq : p.Quiet q)
    (hr : q.gov.inhibit.poleReasons = p.gov.inhibit.poleReasons) : p.Turns xs [] q :=
  ⟨h, fun ms k => by rw [List.append_nil]; exact hq.owes k, hr⟩

/-- A drift that keeps the Pole Monitor's claims and touches neither the line, the poles nor the record of the mode logic. -/
theorem Part.Drifts.moves {xs : List Piece} {p q : Part} (h : p.Drifts xs q) (hc : p.poleClaims → q.poleClaims)
    (hs : (xs.contains .line || xs.contains .poles || xs.contains .keptPoles) = false := by decide) : p.Moves xs q :=
  ⟨h, (h.quiet hs).owes (ns := []), hc⟩

theorem Part.Moves.turns {xs : List Piece} {p q : Part} (h : p.Moves xs q)
    (hs : (xs.contains .line || xs.contains .poles || xs.contains .keptPoles) = false := by decide)
    (hi : xs.contains .inhibit = false := by decide) : p.Turns xs [] q :=
  h.drifts.turns (h.drifts.quiet hs) (h.drifts.reasons hi)

/-- A change that leaves the inhibit set alone, inside an event that makes several requests. -/
theorem Part.Moves.asked {xs : List Piece} {p q : Part} (h : p.Moves xs q) (hi : xs.contains .inhibit = false := by decide) :
    p.Asked xs q := ⟨h.told, h.drifts.reasons hi⟩

/-- A change of pieces that none of the five properties reads. -/
theorem Part.Moves.ofOnly {xs : List Piece} {p q : Part} (h : p.onlyChanges xs q)
    (hs : plainPieces xs = true := by decide) : p.Moves xs q :=
  have same : ∀ {x}, x ∈ [Piece.reports, .inhibit, .collector, .poles, .line, .keptPoles] → p.same q x := fun hx => h _ (not_mem_of_plain hs hx)
  ⟨⟨h, congrArg InhibitSet.mode (same (x := .inhibit) (by simp)).1, accounted_of_same (same (by simp)),
      guarded_of_same (same (by simp)) (same (by simp)), blindOnWire_of_same (same (by simp))⟩,
    (quiet_of_same (same (by simp)) (same (by simp)) (same (by simp))).owes (ns := []), poleClaims_of_same (same (by simp)) (same (by simp))⟩

/-! ### Replacements of whole fields -/

theorem moves_send (p : Part) (d : SendSide) : p.Moves [.send] { p with send := d } :=
  .ofOnly (fun x _ => by cases x <;> simp_all [Part.same])
theorem moves_outputs (p : Part) (o : Vector OutputRec 16) : p.Moves [.outputs] { p with outputs := o } :=
  .ofOnly (fun x _ => by cases x <;> simp_all [Part.same])
theorem moves_contacts (p : Part) (c : Contacts) : p.Moves [.contacts] { p with contacts := c } :=
  .ofOnly (fun x _ => by cases x <;> simp_all [Part.same])
theorem moves_links (p : Part) (l : Links) : p.Moves [.links] { p with links := l } :=
  .ofOnly (fun x _ => by cases x <;> simp_all [Part.same])
theorem moves_aux (p : Part) (a : Auxiliaries) : p.Moves [.aux] { p with aux := a } :=
  .ofOnly (fun x _ => by cases x <;> simp_all [Part.same])
theorem moves_zones (p : Part) (z : Zones) : p.Moves [.zones] { p with zones := z } :=
  .ofOnly (fun x _ => by cases x <;> simp_all [Part.same])
theorem moves_tables (p : Part) (t : Tables) : p.Moves [.tables] { p with tables := t } :=
  .ofOnly (fun x _ => by cases x <;> simp_all [Part.same])
theorem drifts_kept (p : Part) (k : PerPole PoleState) : p.Drifts [.keptPoles] { p with keptPoles := k } :=
  ⟨fun x _ => by cases x <;> simp_all [Part.same], rfl, id, id, id⟩
theorem moves_now (p : Part) (t : Word) : p.Moves [.now] { p with now := t } :=
  .ofOnly (fun x _ => by cases x <;> simp_all [Part.same])
theorem moves_mode (p : Part) (m : Mode) : p.Moves [.mode] { p with mode := m } :=
  .ofOnly (fun x _ => by cases x <;> simp_all [Part.same])
theorem moves_lastReset (p : Part) (k : ResetKind) : p.Moves [.lastReset] { p with lastReset := k } :=
  .ofOnly (fun x _ => by cases x <;> simp_all [Part.same])
theorem moves_free (p : Part) (n : Nat) : p.Moves [.free] { p with freeUses := n } :=
  .ofOnly (fun x _ => by cases x <;> simp_all [Part.same])
theorem drifts_line (p : Part) (l : Line) : p.Drifts [.line, .budget] { p with line := l } :=
  ⟨fun x _ => by cases x <;> simp_all [Part.same], rfl, id, id, id⟩
theorem moves_line (p : Part) (l : Line) (h : l.poleCopy = p.line.poleCopy := by rfl) :
    p.Moves [.line, .budget] { p with line := l } :=
  ⟨drifts_line p l, fun k i => by simpa [h] using k i, id⟩
theorem drifts_poles (p : Part) (r : PerPole Pole)
    (h : p.blindOnWire → ∀ i, (r.get i).blind = true → (r.get i).onLine = true) : p.Drifts [.poles] { p with poles := r } :=
  ⟨fun x _ => by cases x <;> simp_all [Part.same], rfl, id, id, h⟩
theorem moves_attention (p : Part) (a : Attention) : p.Moves [.attention] { p with mbx := { p.mbx with attention := a } } :=
  .ofOnly (fun x _ => by cases x <;> simp_all [Part.same])
theorem moves_mirror (p : Part) (m : Mirror) : p.Moves [.mirror] { p with mbx := { p.mbx with mirror := m } } :=
  .ofOnly (fun x _ => by cases x <;> simp_all [Part.same])

/-- The end of an event (R26). -/
theorem settle_moves (p : Part) : p.Moves [.attention] p.settle :=
  .ofOnly (fun x _ => by cases x <;> simp_all [Part.same])

theorem within_self (xs : List Piece) : within xs xs = true := by simp [within]

/-- A list of like requests of one event, whose claims are still to be updated. -/
theorem forEach_asked {α : Type} {ys : List Piece} (f : Part → α → Part) (h : ∀ p x, Part.Asked ys p (f p x))
    (xs : List α) (p : Part) : p.Asked ys (p.forEach xs f) := by
  induction xs generalizing p with
  | nil => exact .refl _ _
  | cons x xs ih => exact (h p x).andThen (ih (f p x)) (within_self ys)

/-- A list of like changes. -/
theorem forEach_moves {α : Type} {ys : List Piece} (f : Part → α → Part) (h : ∀ p x, Part.Moves ys p (f p x))
    (xs : List α) (p : Part) : p.Moves ys (p.forEach xs f) := by
  induction xs generalizing p with
  | nil => exact .refl _ _
  | cons x xs ih => exact (h p x).andThen (ih (f p x)) (within_self ys)

end Sys2Proof.Machine
end

