-- ==== Sys2Proof/Laws/Port.lean ====
section
/-! SUPPORT. The memory port, the walkers' reads and the reports: what they can change, and the accounting (R14 to R26). -/

set_option Elab.async false

namespace Sys2Proof.Machine

/-! ### Chains and port -/

/-- Only the chain records and the port differ. -/
def Mailbox.WalksTo (m n : Mailbox) : Prop := ∃ c q, n = { m with chains := c, port := q }

theorem Mailbox.WalksTo.refl (m : Mailbox) : m.WalksTo m := ⟨_, _, rfl⟩

theorem Mailbox.WalksTo.trans {m n k : Mailbox} (h : m.WalksTo n) (h' : n.WalksTo k) : m.WalksTo k := by
  obtain ⟨c, q, rfl⟩ := h
  obtain ⟨c', q', rfl⟩ := h'
  exact ⟨c', q', rfl⟩

theorem place_port (m : Mailbox) (a : Access) : ∃ q, m.place a = { m with port := q } := by
  unfold Mailbox.place; split <;> exact ⟨_, rfl⟩

theorem place_walks (m : Mailbox) (a : Access) : m.WalksTo (m.place a) := by
  obtain ⟨q, h⟩ := place_port m a
  exact ⟨m.chains, q, h⟩

theorem setChain_walks (m : Mailbox) (c : Chain) (r : ChainRec) : m.WalksTo (m.setChain c r) := ⟨_, _, rfl⟩

theorem freePort_walks (m : Mailbox) : m.WalksTo m.freePort := ⟨_, _, rfl⟩

theorem grantNext_walks (m : Mailbox) : m.WalksTo m.grantNext := by
  unfold Mailbox.grantNext
  split
  · split <;> exact ⟨_, _, rfl⟩
  · exact .refl m

theorem readAnchor_walks (m : Mailbox) (c : Chain) : m.WalksTo (m.readAnchor c) := by
  unfold Mailbox.readAnchor
  split
  · exact .refl m
  · exact (setChain_walks m c _).trans (place_walks _ _)

theorem readHeader_walks (m : Mailbox) (c : Chain) (a : Word) (ph : WalkPhase) : m.WalksTo (m.readHeader c a ph) :=
  (setChain_walks m c _).trans (place_walks _ _)

theorem startRescan_walks (m : Mailbox) (c : Chain) : m.WalksTo (m.startRescan c) := by
  unfold Mailbox.startRescan
  split
  · exact .refl m
  · exact readAnchor_walks m c
  · exact readHeader_walks m c _ _

theorem park_walks (p : Part) (m : Mailbox) (c : Chain) (w : Wait) : m.WalksTo (m.park p c w) := by
  unfold Mailbox.park
  dsimp only
  split
  · exact readAnchor_walks m c
  · split
    · exact (setChain_walks m c _).trans (startRescan_walks _ c)
    · exact setChain_walks m c _

theorem rescanParked_walks (m : Mailbox) (c : Chain) : m.WalksTo (m.rescanParked c) := by
  unfold Mailbox.rescanParked
  split
  · exact startRescan_walks m c
  · exact .refl m

theorem rewind_walks (m : Mailbox) (c : Chain) : m.WalksTo (m.rewind c) := by
  unfold Mailbox.rewind
  dsimp only
  split
  · exact setChain_walks m c _
  · exact readAnchor_walks m c

theorem wake_walks (m : Mailbox) (c : Chain) : m.WalksTo (m.wake c) := by
  unfold Mailbox.wake
  dsimp only
  split
  · exact startRescan_walks m c
  · exact setChain_walks m c _
  · exact .refl m

theorem wakeIf_walks (m : Mailbox) (b : Bool) (c : Chain) : m.WalksTo (m.wakeIf b c) := by
  unfold Mailbox.wakeIf
  split
  · exact wake_walks m c
  · exact .refl m

theorem afterJoin_walks (p : Part) (m : Mailbox) (b : Bool) : m.WalksTo (m.afterJoin p b) := by
  unfold Mailbox.afterJoin
  dsimp only
  split
  · exact .refl m
  · split
    · exact startRescan_walks m .report
    · split
      · exact .refl m
      · exact setChain_walks m .report _

/-- A walk of the chains and the port. -/
theorem moves_walk {p : Part} {m : Mailbox} (h : p.mbx.WalksTo m) : p.Moves [.chains, .port] { p with mbx := m } := by
  obtain ⟨c, q, rfl⟩ := h
  exact .ofOnly (fun x _ => by cases x <;> simp_all [Part.same])

/-! ### Reports (R21 to R23) -/

/-- The repeat counts of a list, added up. -/
def heldRepeats (rs : List ReportRec) : Nat := (rs.map (·.repeats)).sum

theorem heldRepeats_append (xs ys : List ReportRec) : heldRepeats (xs ++ ys) = heldRepeats xs + heldRepeats ys := by
  simp [heldRepeats]

theorem modLast_length {α : Type} (f : α → α) (xs : List α) : (modLast f xs).length = xs.length := by
  fun_induction modLast f xs <;> simp_all

theorem heldRepeats_modLast_same (f : ReportRec → ReportRec) (hf : ∀ r, (f r).repeats = r.repeats) (xs : List ReportRec) :
    heldRepeats (modLast f xs) = heldRepeats xs := by
  fun_induction modLast f xs <;> simp_all [heldRepeats]

theorem heldRepeats_modLast_succ (f : ReportRec → ReportRec) (hf : ∀ r, (f r).repeats = r.repeats + 1)
    (xs : List ReportRec) (h : xs ≠ []) : heldRepeats (modLast f xs) = heldRepeats xs + 1 := by
  fun_induction modLast f xs <;> simp_all [heldRepeats, Nat.add_assoc]

theorem dropAt_length {α : Type} (xs : List α) (i : Nat) (h : i < xs.length) : (dropAt xs i).length + 1 = xs.length := by
  fun_induction dropAt xs i <;> simp_all

theorem heldRepeats_dropAt (xs : List ReportRec) (i : Nat) (r : ReportRec) (h : xs[i]? = some r) :
    heldRepeats (dropAt xs i) + r.repeats = heldRepeats xs := by
  fun_induction dropAt xs i with
  | case1 => simp at h
  | case2 x xs =>
    simp only [List.getElem?_cons_zero, Option.some.injEq] at h
    subst h
    simp [heldRepeats, Nat.add_comm]
  | case3 x xs n ih =>
    have := ih (by simpa using h)
    simp only [heldRepeats, List.map_cons, List.sum_cons] at this ⊢
    omega

theorem firstIndex_lt {α : Type} (t : α → Bool) (xs : List α) (i : Nat) (h : firstIndex t xs = some i) : i < xs.length := by
  fun_induction firstIndex t xs generalizing i with
  | case1 => simp at h
  | case2 x xs hx =>
    have h : 0 = i := by simpa using h
    simp [← h]
  | case3 x xs hx ih =>
    simp only [Option.map_eq_some_iff] at h
    obtain ⟨j, hj, rfl⟩ := h
    simpa using ih j hj

theorem word_add (a b : Nat) : word (a + b) = word a + word b := by
  simp [word, BitVec.ofNat_add]

/-- The counters of a mailbox agree, with `extra` raises more than are counted elsewhere. -/
def Mailbox.owes (m : Mailbox) (extra : Nat) : Prop := m.raised = m.written + m.dropped + word (heldRepeats m.holding + extra)

theorem accounted_iff (m : Mailbox) : m.accounted ↔ m.owes 0 ∧ m.holding.length ≤ 16 := by
  simp [Mailbox.accounted, Mailbox.owes, heldRepeats]

theorem WalksTo.owes {m n : Mailbox} {k : Nat} (h : m.WalksTo n) : n.owes k ↔ m.owes k := by
  obtain ⟨c, q, rfl⟩ := h
  rfl

theorem WalksTo.accounted {m n : Mailbox} (h : m.WalksTo n) (k : m.accounted) : n.accounted := by
  obtain ⟨c, q, rfl⟩ := h
  exact k

theorem join_accounted (p : Part) (m : Mailbox) (r : ReportRec) (hr : r.repeats = 1) (h : m.owes 1)
    (hl : m.holding.length < 16) : (m.join p r).accounted := by
  unfold Mailbox.join
  refine WalksTo.accounted (afterJoin_walks _ _ _) ?_
  rw [accounted_iff]
  refine ⟨?_, by simpa using hl⟩
  simp only [Mailbox.owes, heldRepeats_append] at h ⊢
  simpa [heldRepeats, hr] using h

theorem dropReport_accounted (m : Mailbox) (h : m.owes 1) (hl : m.holding.length ≤ 16) : m.dropReport.accounted := by
  rw [accounted_iff]
  refine ⟨?_, by simpa [Mailbox.dropReport, modLast_length] using hl⟩
  simp only [Mailbox.owes, Mailbox.dropReport] at h ⊢
  rw [heldRepeats_modLast_same _ (by intro r; rfl), h, Nat.add_zero, word_add]
  simp only [word]
  grind

theorem evict_owes (m : Mailbox) (i k : Nat) (h : m.owes k) : (m.evict i).owes k := by
  unfold Mailbox.evict
  split
  · exact h
  · rename_i r hr
    have := heldRepeats_dropAt _ _ _ hr
    simp only [Mailbox.owes] at h ⊢
    rw [h, ← this, word_add, word_add, word_add]
    grind

theorem evict_length (m : Mailbox) (i : Nat) (h : i < m.holding.length) :
    (m.evict i).holding.length + 1 = m.holding.length := by
  unfold Mailbox.evict
  rw [List.getElem?_eq_getElem h]
  exact dropAt_length _ _ h

theorem evictIndex_lt (held : List ReportRec) (i : Nat) (h : evictIndex held = some i) : i < held.length := by
  unfold evictIndex at h
  cases h1 : firstIndex (·.severity == .info) held with
  | none =>
    rw [h1] at h
    exact firstIndex_lt _ _ _ (by simpa using h)
  | some j =>
    rw [h1] at h
    simp at h
    exact h ▸ firstIndex_lt _ _ _ h1

/-- Every raise is accounted for (R21 to R23). -/
theorem takeReport_accounted (p : Part) (m : Mailbox) (r : ReportRec) (hr : r.repeats = 1) (h : m.accounted) :
    (m.takeReport p r).accounted := by
  obtain ⟨ho, hl⟩ := (accounted_iff m).mp h
  have ho' : ({ m with raised := m.raised + 1 } : Mailbox).owes 1 := by
    simp only [Mailbox.owes] at ho ⊢
    rw [ho, word_add, word_add]
    simp only [word]
    grind
  unfold Mailbox.takeReport
  dsimp only
  split
  · rename_i newest hn
    split
    · rw [accounted_iff]
      refine ⟨?_, by simpa [modLast_length] using hl⟩
      have hne : m.holding ≠ [] := by rintro h0; simp [h0] at hn
      simp only [Mailbox.owes] at ho' ⊢
      rw [heldRepeats_modLast_succ _ (fun _ => rfl) _ hne]
      exact ho'
    · split
      · exact join_accounted _ _ _ hr ho' (by assumption)
      · unfold Mailbox.overflow
        split
        · rename_i i _ hi
          have := evict_length { m with raised := m.raised + 1 } i (evictIndex_lt _ _ hi)
          exact join_accounted _ _ _ hr (evict_owes _ i 1 ho') (by simp only at this; omega)
        · exact dropReport_accounted _ ho' hl
  · rename_i hn
    exact join_accounted _ _ _ hr ho' (by simp_all)

/-- A report changes the reports, the chains and the port only. -/
theorem takeReport_eq (p : Part) (m : Mailbox) (r : ReportRec) :
    ∃ h rc ra d c q, m.takeReport p r =
      { m with holding := h, reportCopy := rc, raised := ra, dropped := d, chains := c, port := q } := by
  have hj : ∀ m : Mailbox, ∃ c q, m.join p r = { m with holding := m.holding ++ [r], chains := c, port := q } := by
    intro m
    obtain ⟨c, q, h⟩ := afterJoin_walks p { m with holding := m.holding ++ [r] } m.holding.isEmpty
    exact ⟨c, q, h⟩
  unfold Mailbox.takeReport
  dsimp only
  split
  · split
    · exact ⟨_, _, _, _, _, _, rfl⟩
    · split
      · obtain ⟨c, q, h⟩ := hj { m with raised := m.raised + 1 }
        exact ⟨_, _, _, _, _, _, h⟩
      · unfold Mailbox.overflow
        split
        · rename_i i _ _
          obtain ⟨c, q, h⟩ := hj (({ m with raised := m.raised + 1 } : Mailbox).evict i)
          rw [h]
          unfold Mailbox.evict
          split <;> exact ⟨_, _, _, _, _, _, rfl⟩
        · exact ⟨_, _, _, _, _, _, rfl⟩
  · obtain ⟨c, q, h⟩ := hj { m with raised := m.raised + 1 }
    exact ⟨_, _, _, _, _, _, h⟩

/-- What a raise of a report record does (R21 to R23). -/
theorem putReport_moves (p : Part) (r : ReportRec) (hr : r.repeats = 1) :
    p.Moves [.reports, .chains, .port] (p.putReport r) := by
  obtain ⟨h, rc, ra, d, c, q, he⟩ := takeReport_eq p p.mbx r
  have ho : p.onlyChanges [.reports, .chains, .port] (p.putReport r) := by
    intro x hx
    cases x <;> simp_all [Part.same]
  refine Part.Drifts.moves ⟨ho, rfl, takeReport_accounted p p.mbx r hr, ?_, blindOnWire_of_same (ho _ (by decide))⟩ ?_
  · exact guarded_of_same (ho _ (by decide)) (ho _ (by decide))
  · exact poleClaims_of_same (ho _ (by decide)) (ho _ (by decide))

/-- What a report does (R21). -/
theorem report_moves (p : Part) (kind : ReportKind) (sev : Severity) (block : Block) (inst : Nat) (tag : Word)
    (items : List Item) : p.Moves [.reports, .chains, .port] (p.report kind sev block inst tag items) :=
  putReport_moves p _ rfl

/-! ### The mirror (R18, R19) and the effective profile (R121) -/

theorem recomputeProfile_moves (p : Part) : p.Moves [.zones] p.recomputeProfile := moves_zones p _

theorem beginMirror_moves (p : Part) (b : Word) : p.Moves [.mirror, .port] (p.beginMirror b) := by
  unfold Part.beginMirror
  dsimp only
  obtain ⟨q, h⟩ := place_port _ _
  rw [h]
  exact .ofOnly (fun x _ => by cases x <;> simp_all [Part.same])

/-- A start of a mirror write (R18). -/
theorem mirrorStart_moves (p : Part) : p.Moves [.mirror, .port] p.mirrorStart := by
  unfold Part.mirrorStart
  split
  · exact .refl _ _
  · exact beginMirror_moves _ _
  · exact (moves_mirror _ _).mono

theorem mirrorEnd_moves (p : Part) : p.Moves [.mirror, .port] p.mirrorEnd := by
  unfold Part.mirrorEnd
  dsimp only
  split
  · split
    · exact (moves_mirror _ _).mono.andThen (beginMirror_moves _ _)
    · exact (moves_mirror _ _).mono
  · exact (moves_mirror _ _).mono

theorem place_moves (p : Part) (a : Access) : p.Moves [.port] { p with mbx := p.mbx.place a } := by
  obtain ⟨q, h⟩ := place_port p.mbx a
  rw [h]
  exact .ofOnly (fun x _ => by cases x <;> simp_all [Part.same])

theorem mirrorNext_moves (p : Part) (op : PortOp) : p.Moves [.mirror, .port] (p.mirrorNext op) := by
  unfold Part.mirrorNext
  split
  · exact .refl _ _
  · dsimp only
    split
    · exact (place_moves _ _).mono
    · split <;> exact (place_moves _ _).mono
    · exact mirrorEnd_moves p

end Sys2Proof.Machine
end

