-- ==== Sys2Proof/Laws/Collector.lean ====
section
/-! SUPPORT. Claims, frames, outputs, activations and end notices: what they can change (R37, R45, R46, R136 to R138,
R158 to R167). -/

set_option Elab.async false

namespace Sys2Proof.Machine

/-! ### The inhibit set -/

theorem put_has (s : InhibitSet) (r : Reason) (b : Bool) : (s.put r b).has r = b := by cases r <;> rfl

theorem put_has_other (s : InhibitSet) (r r' : Reason) (b : Bool) (h : r' ≠ r) : (s.put r b).has r' = s.has r' := by
  cases r <;> cases r' <;> first | rfl | exact absurd rfl h

/-- The set is empty when it has no reason. -/
theorem empty_iff (s : InhibitSet) : s.empty = true ↔ ∀ r, s.has r = false := by
  constructor
  · intro h r
    simp only [InhibitSet.empty, InhibitSet.anyCut, Bool.not_eq_true', Bool.or_eq_false_iff] at h
    cases r <;> simp_all [InhibitSet.has]
  · intro h
    have h1 := h .poleSuspect; have h2 := h .poleDewired; have h3 := h .polesMoving; have h4 := h .doorOpen
    have h5 := h .demandStale; have h6 := h .driveLink; have h7 := h .driveFault; have h8 := h .faultState
    have h9 := h .cardInhibit; have h0 := h .mode
    simp_all [InhibitSet.has, InhibitSet.empty, InhibitSet.anyCut]

theorem empty_withdraw (s : InhibitSet) (r : Reason) (h : s.empty = true) : (s.put r false).empty = true := by
  rw [empty_iff] at h ⊢
  intro r'
  by_cases hr : r' = r
  · rw [hr, put_has]
  · rw [put_has_other _ _ _ _ hr, h]

/-! ### Claims and withdrawals (R136 to R138) -/

theorem handFrame_moves (p : Part) (i : Int) (m : DriveMode) (b : Bool) : p.Moves [.setpoint, .send] (p.handFrame i m b) :=
  .ofOnly (fun x _ => by cases x <;> simp_all [Part.same, Part.handFrame])

theorem cutFrame_moves (p : Part) : p.Moves [.setpoint, .send] p.cutFrame := handFrame_moves p 0 .cut false

/-- The inhibit set after a claim (R136). -/
theorem claim_inhibit (p : Part) (r : Reason) : (p.claim r).gov.inhibit = p.gov.inhibit.put r true := by
  unfold Part.claim
  split
  · rename_i h
    cases r <;> simp_all [InhibitSet.has, InhibitSet.put] <;> (cases hg : p.gov.inhibit; simp_all)
  · dsimp only
    split <;> rfl

/-- A claim that joins disarms (R138). -/
theorem claim_armed (p : Part) (r : Reason) (h : (p.claim r).gov.armed = true) :
    p.gov.armed = true ∧ (p.gov.inhibit.has r = true ∨ p.gov.inhibit.empty = false) := by
  unfold Part.claim at h
  split at h
  · exact ⟨h, .inl (by assumption)⟩
  · dsimp only at h
    split at h <;> simp_all [Part.cutFrame, Part.handFrame]

/-- A claim changes the inhibit set, the governor's frame and the send side (R136 to R138). -/
theorem claim_only (p : Part) (r : Reason) : p.onlyChanges [.inhibit, .setpoint, .send] (p.claim r) := by
  unfold Part.claim
  split
  · exact p.onlyChanges_refl _
  · dsimp only
    split <;> (intro x hx; cases x <;> simp_all [Part.same, Part.cutFrame, Part.handFrame])

theorem withdraw_only (p : Part) (r : Reason) : p.onlyChanges [.inhibit] (p.withdraw r) := by
  intro x hx; cases x <;> simp_all [Part.same]

/-- After a claim, ARMED means an empty set only if it did before. -/
theorem claim_armed_empty (p : Part) (r : Reason) (h : p.gov.armed = true → p.gov.inhibit.empty = true)
    (ha : (p.claim r).gov.armed = true) : (p.claim r).gov.inhibit.empty = true := by
  obtain ⟨h1, h2⟩ := claim_armed p r ha
  have he := h h1
  rcases h2 with h2 | h2
  · rw [empty_iff] at he
    rw [he r] at h2
    exact absurd h2 (by decide)
  · rw [he] at h2
    exact absurd h2 (by decide)

/-- Reasons that are neither MODE nor FAULT_STATE. -/
def Reason.ordinary : Reason → Bool
  | .mode => false
  | .faultState => false
  | _ => true

/-- Reasons that the Pole Monitor does not claim either. -/
def Reason.plain : Reason → Bool
  | .poleSuspect => false
  | .poleDewired => false
  | .polesMoving => false
  | r => r.ordinary

theorem claim_drifts (p : Part) (r : Reason) (hr : r.ordinary = true) :
    p.Drifts [.inhibit, .setpoint, .send] (p.claim r) := by
  have ho := claim_only p r
  refine ⟨ho, ?_, accounted_of_same (ho _ (by decide)), ?_, blindOnWire_of_same (ho _ (by decide))⟩
  · rw [claim_inhibit]; cases r <;> simp_all [InhibitSet.put, Reason.ordinary]
  rintro ⟨hf, ha⟩
  have h2 : (p.claim r).faults.state = p.faults.state := (ho .collector (by decide)).1
  refine ⟨?_, claim_armed_empty p r ha⟩
  · rw [claim_inhibit, h2, ← hf]; cases r <;> simp_all [InhibitSet.put, Reason.ordinary]

theorem withdraw_drifts (p : Part) (r : Reason) (hr : r.ordinary = true) : p.Drifts [.inhibit] (p.withdraw r) := by
  have ho := withdraw_only p r
  refine ⟨ho, ?_, accounted_of_same (ho _ (by decide)), ?_, blindOnWire_of_same (ho _ (by decide))⟩
  · cases r <;> simp_all [InhibitSet.put, Reason.ordinary]
  rintro ⟨hf, ha⟩
  refine ⟨?_, fun h => empty_withdraw _ _ (ha h)⟩
  · rw [← show p.gov.inhibit.faultState = true ↔ (p.withdraw r).faults.state = .fault from hf]
    cases r <;> simp_all [Part.withdraw, InhibitSet.put, Reason.ordinary]

theorem plain_ordinary {r : Reason} (h : r.plain = true) : r.ordinary = true := by cases r <;> simp_all [Reason.plain]

theorem poleClaims_put {p q : Part} {r : Reason} {b : Bool} (hr : r.plain = true) (hp : q.poles = p.poles)
    (hi : q.gov.inhibit = p.gov.inhibit.put r b) (k : p.poleClaims) : q.poleClaims := by
  obtain ⟨h1, h2, h3⟩ := k
  refine ⟨?_, ?_, ?_⟩ <;> simp only [Part.anyPole, hp, hi] at * <;>
    cases r <;> simp_all [InhibitSet.put, Reason.plain, Reason.ordinary]

theorem claim_moves (p : Part) (r : Reason) (hr : r.plain = true := by decide) :
    p.Moves [.inhibit, .setpoint, .send] (p.claim r) :=
  (claim_drifts p r (plain_ordinary hr)).moves (poleClaims_put hr (claim_only p r .poles (by decide)) (claim_inhibit p r))

theorem withdraw_moves (p : Part) (r : Reason) (hr : r.plain = true := by decide) : p.Moves [.inhibit] (p.withdraw r) :=
  (withdraw_drifts p r (plain_ordinary hr)).moves (poleClaims_put hr rfl rfl)

theorem claimIf_moves (p : Part) (r : Reason) (b : Bool) (hr : r.plain = true := by decide) :
    p.Moves [.inhibit, .setpoint, .send] (p.claimIf r b) := by
  unfold Part.claimIf
  split
  · exact claim_moves p r hr
  · exact .refl _ _

/-! ### Outputs and records -/

theorem modFault_moves (p : Part) (k : FaultKind) (f : FaultRec → FaultRec) : p.Moves [.records] (p.modFault k f) :=
  .ofOnly (fun x _ => by cases x <;> simp_all [Part.same, Collector.set])

theorem setOutput_moves (p : Part) (o : OutputNo) (r : OutputRec) : p.Moves [.outputs] (p.setOutput o r) :=
  moves_outputs p _

theorem setCommanded_moves (p : Part) (o : OutputNo) (b : Bool) : p.Moves [.outputs] (p.setCommanded o b) := by
  unfold Part.setCommanded
  split
  · exact .refl _ _
  · exact setOutput_moves _ _ _

theorem driveAlarm_moves (p : Part) (r : DriveRole) (b : Bool) : p.Moves [.outputs, .records] (p.driveAlarm r b) := by
  unfold Part.driveAlarm
  split
  · exact .refl _ _
  · dsimp only
    split
    · exact (setCommanded_moves _ _ _).mono.andThen (modFault_moves _ _ _)
    · exact (setCommanded_moves _ _ _).mono

/-- The evaluation of the alarm outputs (R165). -/
theorem evalAlarms_moves (p : Part) : p.Moves [.outputs, .records] p.evalAlarms :=
  (driveAlarm_moves p _ _).andThen (driveAlarm_moves _ _ _)

/-- An end notice (R159). -/
theorem endFault_moves (p : Part) (k : FaultKind) (s : Source) : p.Moves [.outputs, .records] (p.endFault k s) :=
  (modFault_moves p _ _).mono.andThen (evalAlarms_moves _)

/-- A command of a role (R45). -/
theorem drive_moves (p : Part) (r : DriveRole) (b : Bool) : p.Moves [.outputs, .records] (p.drive r b) := by
  unfold Part.drive
  split
  · exact .refl _ _
  · dsimp only
    split
    · exact (setCommanded_moves _ _ _).mono.andThen (endFault_moves _ _ _)
    · exact (setCommanded_moves _ _ _).mono

/-! ### Collector states (R162) -/

/-- The collector's state and alert timer replaced. -/
def Part.collectorSet (p : Part) (new : CollectorState) (t : Timer) : Part :=
  { p with faults := { p.faults with state := new, alertTimer := t } }

theorem collectorSet_only (p : Part) (new : CollectorState) (t : Timer) :
    p.onlyChanges [.collector] (p.collectorSet new t) := by
  intro x hx; cases x <;> simp_all [Part.same, Part.collectorSet]

/-- The inhibit set is written and the claims of the Pole Monitor are not. -/
theorem poleClaims_faultState {p q : Part} {b : Bool} (hp : q.poles = p.poles)
    (hi : q.gov.inhibit = p.gov.inhibit.put .faultState b) (k : p.poleClaims) : q.poleClaims := by
  obtain ⟨h1, h2, h3⟩ := k
  refine ⟨?_, ?_, ?_⟩ <;> simp only [Part.anyPole, hp, hi] at * <;> simp_all [InhibitSet.put]

theorem collectorSet_claim (p : Part) (t : Timer) :
    p.Moves [.collector, .inhibit, .setpoint, .send] ((p.collectorSet .fault t).claim .faultState) := by
  have ho : p.onlyChanges [.collector, .inhibit, .setpoint, .send] ((p.collectorSet .fault t).claim .faultState) :=
    Part.onlyChanges_trans (Part.onlyChanges_mono (collectorSet_only p _ _) (by decide))
      (Part.onlyChanges_mono (claim_only _ _) (by decide))
  have hi : ((p.collectorSet .fault t).claim .faultState).gov.inhibit = p.gov.inhibit.put .faultState true :=
    claim_inhibit _ _
  have hs : ((p.collectorSet .fault t).claim .faultState).faults.state = .fault :=
    (claim_only (p.collectorSet .fault t) .faultState .collector (by decide)).1
  refine Part.Drifts.moves
    ⟨ho, by rw [hi]; rfl, accounted_of_same (ho _ (by decide)), ?_, blindOnWire_of_same (ho _ (by decide))⟩
    (poleClaims_faultState (ho .poles (by decide)) hi)
  rintro ⟨-, ha⟩
  refine ⟨?_, claim_armed_empty _ _ ha⟩
  · rw [hi, hs]
    simp [InhibitSet.put]

theorem collectorSet_withdraw (p : Part) (new : CollectorState) (t : Timer) (hn : new ≠ .fault) :
    p.Moves [.collector, .inhibit, .setpoint, .send] ((p.collectorSet new t).withdraw .faultState) := by
  have ho : p.onlyChanges [.collector, .inhibit, .setpoint, .send] ((p.collectorSet new t).withdraw .faultState) :=
    Part.onlyChanges_trans (Part.onlyChanges_mono (collectorSet_only p _ _) (by decide))
      (Part.onlyChanges_mono (withdraw_only _ _) (by decide))
  have hi : ((p.collectorSet new t).withdraw .faultState).gov.inhibit = p.gov.inhibit.put .faultState false := rfl
  have hs : ((p.collectorSet new t).withdraw .faultState).faults.state = new := rfl
  refine Part.Drifts.moves ⟨ho, rfl, accounted_of_same (ho _ (by decide)), ?_, blindOnWire_of_same (ho _ (by decide))⟩
    (poleClaims_faultState (ho .poles (by decide)) hi)
  rintro ⟨-, ha⟩
  refine ⟨?_, fun h => empty_withdraw _ _ (ha h)⟩
  · rw [hi, hs]
    simp [InhibitSet.put, hn]

theorem collectorSet_moves (p : Part) (new : CollectorState) (t : Timer) (hn : new ≠ .fault)
    (ho' : p.faults.state ≠ .fault) : p.Moves [.collector, .inhibit, .setpoint, .send] (p.collectorSet new t) := by
  have ho := Part.onlyChanges_mono (collectorSet_only p new t)
    (show within [.collector] [.collector, .inhibit, .setpoint, .send] = true by decide)
  have hi := collectorSet_only p new t .inhibit (by decide)
  refine Part.Drifts.moves ⟨ho, rfl, accounted_of_same (ho _ (by decide)), ?_, blindOnWire_of_same (ho _ (by decide))⟩
    (poleClaims_of_same hi (ho _ (by decide)))
  rintro ⟨hf, ha⟩
  exact ⟨⟨fun h => absurd (hf.mp h) ho', fun h => absurd h hn⟩, ha⟩

/-- The collector's own part of a change of state, with its claim or withdrawal (R162). -/
def Part.collectorTo (p : Part) (new : CollectorState) : Part :=
  let old := p.faults.state
  let p := p.collectorSet new
    (if new = CollectorState.alert then p.startTimer p.tables.timers.alertTime else .stopped)
  let p := if new = CollectorState.fault then p.claim .faultState else p
  if old = CollectorState.fault then p.withdraw .faultState else p

theorem collectorTo_moves (p : Part) (new : CollectorState) (hne : p.faults.state ≠ new) :
    p.Moves [.collector, .inhibit, .setpoint, .send] (p.collectorTo new) := by
  by_cases hn : new = .fault
  · subst hn
    simp only [Part.collectorTo, hne, if_true, if_false]
    exact collectorSet_claim _ _
  · by_cases ho : p.faults.state = .fault
    · simp only [Part.collectorTo, hn, ho, if_true, if_false]
      exact collectorSet_withdraw _ _ _ hn
    · simp only [Part.collectorTo, hn, ho, if_false]
      exact collectorSet_moves _ _ _ hn ho

/-- A change of collector state (R162). -/
theorem moveCollector_moves (p : Part) (new : CollectorState) (cause : CollectorCause) (kind : Option FaultKind)
    (tag : Word) : p.Moves collectorPieces (p.moveCollector new cause kind tag) := by
  by_cases h : p.faults.state = new
  · simp only [Part.moveCollector, h, if_true]
    exact .refl _ _
  · have he : p.moveCollector new cause kind tag =
        ({ p.collectorTo new with mbx := { (p.collectorTo new).mbx with
            attention := { (p.collectorTo new).mbx.attention with collectorChange := true } } } : Part).report
          .collectorChanged (if new = CollectorState.fault then .warning else .info) .faultCollector 0 tag
          (.small (collectorCode p.faults.state) :: .small (collectorCode new) :: .small cause.ctorIdx
            :: (kind.map (fun k => Item.small (kindNumber k))).toList) := by
      simp only [Part.moveCollector, h, if_false, Part.collectorTo, Part.collectorSet]
    rw [he]
    exact (((collectorTo_moves p new h).mono (ys := collectorPieces)).andThen (moves_attention _ _)).andThen
      (report_moves _ _ _ _ _ _ _)

theorem collectorActivate_moves (p : Part) (k : FaultKind) (e a : Bool) (tag : Word) :
    p.Moves collectorPieces (p.collectorActivate k e a tag) := by
  unfold Part.collectorActivate
  repeat' split
  all_goals first | exact moveCollector_moves _ _ _ _ _ | exact .refl _ _

/-! ### Activations (R158, R161) -/

/-- A change of the holds and fallbacks. -/
theorem moves_alarms (p : Part) (c : Collector) (hr : c.recs = p.faults.recs) (hs : c.state = p.faults.state)
    (ht : c.alertTimer = p.faults.alertTimer) : p.Moves [.alarms] { p with faults := c } :=
  .ofOnly (fun x _ => by cases x <;> simp_all [Part.same])

theorem holds_same (c : Collector) (p : Part) (x : Reactions) :
    (c.holds p x).recs = c.recs ∧ (c.holds p x).state = c.state ∧ (c.holds p x).alertTimer = c.alertTimer := by
  unfold Collector.holds; repeat' split
  all_goals exact ⟨rfl, rfl, rfl⟩

theorem outputFallback_same (c : Collector) (r : OutputRole) (a b : Bool) :
    (c.outputFallback r a b).recs = c.recs ∧ (c.outputFallback r a b).state = c.state
      ∧ (c.outputFallback r a b).alertTimer = c.alertTimer := by
  unfold Collector.outputFallback; split <;> exact ⟨rfl, rfl, rfl⟩

theorem fallback_same (c : Collector) (x : Reactions) (a b : Bool) :
    (c.fallback x a b).recs = c.recs ∧ (c.fallback x a b).state = c.state ∧ (c.fallback x a b).alertTimer = c.alertTimer :=
  ⟨rfl, rfl, rfl⟩

/-- The collector's record after the holds and the fallback of an activation (R161 steps 3 and 4). -/
theorem afterHolds_moves {x : Reactions} (p : Part) (c : Collector) (h : c.recs = (p.faults.holds p x).recs
    ∧ c.state = (p.faults.holds p x).state ∧ c.alertTimer = (p.faults.holds p x).alertTimer) :
    p.Moves [.alarms, .outputs, .records] ({ p with faults := c } : Part).evalAlarms := by
  obtain ⟨h1, h2, h3⟩ := holds_same p.faults p x
  obtain ⟨k1, k2, k3⟩ := h
  exact (moves_alarms p c (k1.trans h1) (k2.trans h2) (k3.trans h3)).mono.andThen (evalAlarms_moves _)

/-- A change of collector state claims and withdraws FAULT_STATE alone (R162). -/
theorem collectorTo_reasons (p : Part) (new : CollectorState) :
    (p.collectorTo new).gov.inhibit.poleReasons = p.gov.inhibit.poleReasons := by
  unfold Part.collectorTo
  dsimp only
  repeat' split
  all_goals simp [Part.collectorSet, InhibitSet.poleReasons, claim_inhibit, InhibitSet.put]

theorem collectorActivate_reasons (p : Part) (k : FaultKind) (e a : Bool) (tag : Word) :
    (p.collectorActivate k e a tag).gov.inhibit.poleReasons = p.gov.inhibit.poleReasons := by
  have h : ∀ new, (p.moveCollector new .activation (some k) tag).gov.inhibit.poleReasons = p.gov.inhibit.poleReasons := by
    intro new
    by_cases hn : p.faults.state = new
    · simp only [Part.moveCollector, hn, if_true]
    · have := collectorTo_reasons p new
      simp only [Part.moveCollector, hn, if_false]
      exact ((report_moves _ _ _ _ _ _ _).drifts.reasons).trans this
  unfold Part.collectorActivate
  repeat' split
  all_goals first | exact h _ | rfl

theorem evalAlarms_reasons (p : Part) (c : Collector) :
    ({ p with faults := c } : Part).evalAlarms.gov.inhibit.poleReasons = p.gov.inhibit.poleReasons :=
  (evalAlarms_moves ({ p with faults := c } : Part)).drifts.reasons

/-- A raise leaves the Pole Monitor's reasons as they were. -/
theorem raise_reasons (p : Part) (x : Raise) : (p.raise x).gov.inhibit.poleReasons = p.gov.inhibit.poleReasons := by
  unfold Part.raise
  dsimp only
  refine (evalAlarms_reasons _ _).trans ((collectorActivate_reasons _ _ _ _ _).trans ?_)
  exact (report_moves _ _ _ _ _ _ _).drifts.reasons.trans (modFault_moves p x.kind _).drifts.reasons

/-- A raise (R158, R161). -/
theorem raise_moves (p : Part) (x : Raise) : p.Moves raisePieces (p.raise x) := by
  unfold Part.raise
  dsimp only
  refine (((((modFault_moves p x.kind _).mono (ys := raisePieces)).andThen (report_moves _ _ _ _ _ _ _)).andThen
    (collectorActivate_moves _ _ _ _ _))).andThen (afterHolds_moves (x := p.reactions x.kind) _ _ ?_)
  repeat' split
  · exact outputFallback_same _ _ _ _
  · exact ⟨rfl, rfl, rfl⟩
  · exact fallback_same _ _ _ _

/-- A test activation (R167). -/
theorem injectTest_moves (p : Part) (k : FaultKind) (tag : Word) : p.Moves raisePieces (p.injectTest k tag) := by
  unfold Part.injectTest
  dsimp only
  refine (((((modFault_moves p k _).mono (ys := raisePieces)).andThen (putReport_moves _ _ rfl)).andThen
    (collectorActivate_moves _ _ _ _ _))).andThen (afterHolds_moves (x := p.reactions k) _ _ ?_)
  split
  · exact ⟨rfl, rfl, rfl⟩
  · exact fallback_same _ _ _ _

/-! ### Supervision of outputs (R46) -/

theorem outputFails_moves (p : Part) (o : OutputNo) : p.Moves raisePieces (p.outputFails o) :=
  ((setOutput_moves p o _).mono (ys := raisePieces)).andThen (raise_moves _ _)

theorem readbackChange_moves (p : Part) (o : OutputNo) (b : Bool) :
    p.Moves [.outputs, .records] (p.readbackChange o b) := by
  unfold Part.readbackChange
  split
  · exact .refl _ _
  · dsimp only
    repeat' split
    all_goals first
      | exact (setOutput_moves _ _ _).mono
      | exact (setOutput_moves _ _ _).mono.andThen (endFault_moves _ _ _)

end Sys2Proof.Machine
end

