-- ==== Sys2Proof/Laws/Supervisors.lean ====
section
/-! SUPPORT. The budget, shedding, the restart queue and the line: what they can change (R47 to R65, R144 to R155). -/

set_option Elab.async false

namespace Sys2Proof.Machine

/-! ### Budget and queue -/

/-- A change of the budget, the grants and the last demanded excess. -/
theorem moves_budget (p : Part) (l : Line) (h : l.own = p.line.own := by rfl) : p.Moves [.budget] { p with line := l } :=
  .ofOnly (fun x _ => by cases x <;> simp_all [Part.same])

theorem rebudget_moves (p : Part) : p.Moves [.budget] p.rebudget := moves_budget p _

theorem release_moves (p : Part) (a : AuxNo) : p.Moves [.budget] (p.release a) := by
  unfold Part.release
  split
  · exact .refl _ _
  · exact (moves_budget p _).andThen (rebudget_moves _)

theorem setAux_moves (p : Part) (a : AuxNo) (r : AuxRec) : p.Moves [.aux] (p.setAux a r) := moves_aux p _

theorem leaveQueue_moves (p : Part) (a : AuxNo) : p.Moves [.aux] (p.leaveQueue a) := moves_aux p _

theorem enterQueue_moves (p : Part) (a : AuxNo) : p.Moves [.aux] (p.enterQueue a) := by
  unfold Part.enterQueue
  dsimp only
  repeat' split
  all_goals first
    | exact setAux_moves _ _ _
    | exact (setAux_moves _ _ _).andThen (moves_aux _ _)

/-- The entry orders of an event change only the Auxiliary Scheduler (R146). -/
theorem orderEntries_moves (q p : Part) : q.Moves [.aux] (q.orderEntries p) := by
  unfold Part.orderEntries
  dsimp only
  split
  · exact .refl _ _
  · exact .before (moves_aux _ _) (forEach_moves _ (fun r (x : AuxNo × Nat) => setAux_moves r x.1 _) _ q)

/-- An event that leaves the Auxiliary Scheduler alone gives out no entry orders. -/
theorem orderEntries_same (q p : Part) (h : q.aux = p.aux) : q.orderEntries p = q := by
  have : p.entered q = [] := by simp [Part.entered, Part.auxRec, h]
  simp [Part.orderEntries, this]

theorem offExpired_moves (p : Part) (a : AuxNo) : p.Moves [.aux] (p.offExpired a) := by
  unfold Part.offExpired
  dsimp only
  repeat' split
  all_goals first
    | exact setAux_moves _ _ _
    | exact (setAux_moves _ _ _).andThen (enterQueue_moves _ _)
    | exact (setAux_moves _ _ _).andThen (setAux_moves _ _ _)

theorem startOff_moves (p : Part) (a : AuxNo) : p.Moves [.aux] (p.startOff a) := by
  unfold Part.startOff
  dsimp only
  split
  · exact offExpired_moves _ _
  · exact setAux_moves _ _ _

theorem switchOff_moves (p : Part) (a : AuxNo) : p.Moves [.outputs, .records, .budget] (p.switchOff a) :=
  (drive_moves p _ _).mono.andThen (release_moves _ _)

/-! ### Shedding (R150 to R152) -/

theorem shed_moves (p : Part) (a : AuxNo) (c : ShedCause) : p.Moves shedPieces (p.shed a c) :=
  ((((switchOff_moves p a).mono (ys := shedPieces)).andThen (setAux_moves _ _ _)).andThen
    (report_moves _ _ _ _ _ _ _)).andThen (startOff_moves _ _)

theorem shedLoop_moves (n : Nat) (p : Part) : p.Moves shedPieces (shedLoop n p) := by
  induction n generalizing p with
  | zero => exact .refl _ _
  | succ n ih =>
    unfold shedLoop
    repeat' split
    · exact .refl _ _
    · exact .refl _ _
    · exact (shed_moves _ _ _).andThen (ih _)

/-- A recompute of the budget with its shed demand (R62, R64, R150). -/
theorem recompute_moves (p : Part) : p.Moves shedPieces p.recompute := by
  unfold Part.recompute
  split
  · exact ((rebudget_moves p).mono (ys := shedPieces)).andThen (shedLoop_moves _ _)
  · exact (rebudget_moves p).mono

theorem shedWaiting_moves (p : Part) (a : AuxNo) : p.Moves [.aux] (p.shedWaiting a) := by
  unfold Part.shedWaiting
  split
  · exact (leaveQueue_moves _ _).andThen (setAux_moves _ _ _)
  · exact .refl _ _

/-- A class-shed notice (R151). -/
theorem classShed_moves (p : Part) (s : LineState) : p.Moves shedPieces (p.classShed s) := by
  unfold Part.classShed
  dsimp only
  have h := forEach_moves (ys := shedPieces) (fun p a => p.shed a .cls) (fun p a => shed_moves p a .cls)
  split
  · exact (h _ p).andThen (forEach_moves (ys := [.aux]) _ (fun p a => shedWaiting_moves p a) _ _)
  · exact h _ p

theorem endClassHold_moves (p : Part) (a : AuxNo) : p.Moves [.aux] (p.endClassHold a) := by
  unfold Part.endClassHold
  dsimp only
  repeat' split
  all_goals first
    | exact .refl _ _
    | exact setAux_moves _ _ _
    | exact (setAux_moves _ _ _).andThen (enterQueue_moves _ _)

theorem auxLineNotice_moves (p : Part) (s : LineState) : p.Moves [.aux] (p.auxLineNotice s) := by
  unfold Part.auxLineNotice
  split
  · exact .refl _ _
  · exact forEach_moves _ (fun p a => endClassHold_moves p a) _ _

theorem grantClaim_moves (p : Part) (a : AuxNo) : p.Moves shedPieces (p.grantClaim a) := by
  unfold Part.grantClaim
  split
  · exact .refl _ _
  · exact ((moves_budget p _).mono (ys := shedPieces)).andThen (recompute_moves _)

/-! ### The line (R49 to R60) -/

/-- A gap notice leaves what the claims read of a pole as it was. -/
theorem noteGap_claims (q : Pole) (b : Bool) :
    (q.noteGap b).suspectClaim = q.suspectClaim ∧ (q.noteGap b).dewiredClaim = q.dewiredClaim
      ∧ (q.noteGap b).movingClaim = q.movingClaim := by
  unfold Pole.noteGap
  split <;> exact ⟨rfl, rfl, rfl⟩

/-- A gap notice keeps blindness on the wire. -/
theorem noteGap_blind (q : Pole) (b : Bool) (h : q.blind = true → q.onLine = true) :
    (q.noteGap b).blind = true → (q.noteGap b).onLine = true := by
  unfold Pole.noteGap
  split <;> exact h

theorem noteGap_state (q : Pole) (b : Bool) : (q.noteGap b).state = q.state := by
  unfold Pole.noteGap
  split <;> rfl

theorem notePolesGap_state (poles : PerPole Pole) (a b : LineState) (e : Bool) (i : PoleId) :
    ((notePolesGap poles a b e).get i).state = (poles.get i).state := by
  unfold notePolesGap
  repeat' split
  all_goals first | rfl | (cases i <;> exact noteGap_state _ _)

theorem notePolesGap_moves (p : Part) (a b : LineState) (e : Bool) :
    p.Moves [.poles] { p with poles := notePolesGap p.poles a b e } := by
  refine ⟨drifts_poles p _ (fun k i => ?_), fun k i => ?_, ?_⟩
  · unfold notePolesGap
    repeat' split
    all_goals first | exact k i | (cases i <;> first | exact noteGap_blind _ _ (k .p) | exact noteGap_blind _ _ (k .n))
  · show _ = ((notePolesGap p.poles a b e).get i).state ∧ _ = ((notePolesGap p.poles a b e).get i).state
    rw [notePolesGap_state]
    exact k i
  have h := noteGap_claims
  rintro ⟨h1, h2, h3⟩
  unfold notePolesGap
  repeat' split
  all_goals (refine ⟨?_, ?_, ?_⟩ <;> simp_all [Part.anyPole])

/-- A change of line state (R59). -/
theorem lineMove_moves (p : Part) (new : LineState) (g : Option GapEnd) : p.Moves linePieces (p.lineMove new g) := by
  unfold Part.lineMove
  extract_lets old p1 p2 p3 p4 demand p5 p6 p7 p8 p9
  have h1 : p.Moves linePieces p1 := by
    simp only [p1]; split
    · exact (moves_zones _ _).mono
    · exact .refl _ _
  split
  · exact h1.andThen (recompute_moves _)
  · have h2 : p.Moves linePieces p2 := h1.andThen (moves_line _ _)
    have h3 : p.Moves linePieces p3 := by
      simp only [p3]; split
      · exact h2.andThen (endFault_moves _ _ _)
      · exact h2
    have h4 : p.Moves linePieces p4 := by
      simp only [p4]; split
      · exact h3.andThen (endFault_moves _ _ _)
      · exact h3
    have h6 : p.Moves linePieces p6 := (h4.andThen (rebudget_moves _)).andThen (notePolesGap_moves _ _ _ _)
    have h7 : p.Moves linePieces p7 := h6.andThen (auxLineNotice_moves _ _)
    have h8 : p.Moves linePieces p8 := by
      simp only [p8]; split
      · exact h7.andThen (moves_zones _ _)
      · exact h7
    have h9 : p.Moves linePieces p9 := by
      simp only [p9]; split
      · exact h8
      · exact h8.andThen (classShed_moves _ _)
    split
    · exact h9.andThen (shedLoop_moves _ _)
    · exact h9

/-- A change of line state leaves the poles' states and both copies of them. -/
theorem lineMove_quiet (p : Part) (new : LineState) (g : Option GapEnd) : p.Quiet (p.lineMove new g) := by
  unfold Part.lineMove
  extract_lets old p1 p2 p3 p4 demand p5 p6 p7 p8 p9
  have h1 : p.Quiet p1 := by simp only [p1]; split <;> exact ⟨fun _ => rfl, rfl, rfl⟩
  split
  · exact h1.andThen (recompute_moves _).drifts.quiet
  · have h2 : p.Quiet p2 := h1.andThen ⟨fun _ => rfl, rfl, rfl⟩
    have h3 : p.Quiet p3 := by
      simp only [p3]; split
      · exact h2.andThen (endFault_moves _ _ _).drifts.quiet
      · exact h2
    have h4 : p.Quiet p4 := by
      simp only [p4]; split
      · exact h3.andThen (endFault_moves _ _ _).drifts.quiet
      · exact h3
    have h6 : p.Quiet p6 := (h4.andThen (rebudget_moves _).drifts.quiet).andThen
      ⟨fun i => notePolesGap_state _ _ _ _ i, rfl, rfl⟩
    have h7 : p.Quiet p7 := h6.andThen (auxLineNotice_moves _ _).drifts.quiet
    have h8 : p.Quiet p8 := by
      simp only [p8]; split
      · exact h7.andThen ⟨fun _ => rfl, rfl, rfl⟩
      · exact h7
    have h9 : p.Quiet p9 := by
      simp only [p9]; split
      · exact h8
      · exact h8.andThen (classShed_moves _ _).drifts.quiet
    split
    · exact h9.andThen (shedLoop_moves _ _).drifts.quiet
    · exact h9

/-- A change of the line's own record. -/
theorem drifts_lineOwn (p : Part) (l : Line) (hb : l.budget = p.line.budget := by rfl)
    (hg : l.grants = p.line.grants := by rfl) (hd : l.lastDemanded = p.line.lastDemanded := by rfl) :
    p.Drifts [.line] { p with line := l } :=
  ⟨fun x _ => by cases x <;> simp_all [Part.same], rfl, id, id, id⟩

/-- A change of the line's own record that leaves the copy of the poles' states. -/
theorem moves_lineOwn (p : Part) (l : Line) (hb : l.budget = p.line.budget := by rfl)
    (hg : l.grants = p.line.grants := by rfl) (hd : l.lastDemanded = p.line.lastDemanded := by rfl)
    (hc : l.poleCopy = p.line.poleCopy := by rfl) : p.Moves [.line] { p with line := l } :=
  ⟨drifts_lineOwn p l hb hg hd, fun k i => by simpa [hc] using k i, id⟩

theorem restoreTest_moves (p : Part) : p.Moves [.line] p.restoreTest := moves_lineOwn p _

theorem gapDraw_moves (p : Part) : p.Moves lineRaisePieces p.gapDraw := by
  unfold Part.gapDraw
  dsimp only
  split
  · exact ((moves_lineOwn p _).mono (ys := lineRaisePieces)).andThen (raise_moves _ _)
  · exact (moves_lineOwn p _).mono

/-- Expiry of the gap timer (R52). -/
theorem gapExpired_moves (p : Part) : p.Moves lineRaisePieces p.gapExpired := by
  unfold Part.gapExpired
  dsimp only
  exact .before (lineMove_moves _ _ _) (.before (raise_moves _ _) (moves_lineOwn p _).mono)

theorem gapEntry_moves (p : Part) : p.Moves lineRaisePieces p.gapEntry := by
  unfold Part.gapEntry
  extract_lets e tolerance g l p1 p2
  have h1 : p.Moves lineRaisePieces p1 := (moves_lineOwn p _).mono
  have h2 : p.Moves lineRaisePieces p2 := (h1.andThen (lineMove_moves _ _ _)).andThen (gapDraw_moves _)
  split
  · exact h2.andThen (gapExpired_moves _)
  · exact h2

theorem gapBridged_moves (p : Part) : p.Moves linePieces p.gapBridged := by
  unfold Part.gapBridged
  dsimp only
  exact .before (lineMove_moves _ _ _) (moves_lineOwn p _).mono

/-- The line's reaction to a data frame (R48). -/
theorem lineClassify_moves (p : Part) : p.Moves lineRaisePieces p.lineClassify := by
  unfold Part.lineClassify
  dsimp only
  repeat' split
  all_goals first
    | exact .refl _ _
    | exact (lineMove_moves _ _ _).mono
    | exact (recompute_moves _).mono
    | exact (restoreTest_moves _).mono
    | exact gapEntry_moves _
    | exact gapDraw_moves _
    | exact (gapDraw_moves _).andThen (gapBridged_moves _)

theorem lineData_moves (p : Part) (v : Nat) (i : Int) : p.Moves lineRaisePieces (p.lineData v i) := by
  unfold Part.lineData
  exact .before (lineClassify_moves _) (moves_lineOwn p _).mono

/-- The line becomes UNKNOWN (R57). -/
theorem lineUnknown_moves (p : Part) : p.Moves linePieces p.lineUnknown := by
  unfold Part.lineUnknown
  dsimp only
  exact .before (lineMove_moves _ _ _) (moves_lineOwn p _).mono

/-- A confirmed dewire notice at the Line Supervisor (R53). -/
theorem dewireNotice_turns (p : Part) : p.Turns linePieces [] p.dewireNotice := by
  have step : ∀ (p1 : Part) n g, p.Drifts linePieces p1 → p.Quiet p1 → p.Turns linePieces [] (p1.lineMove n g) :=
    fun p1 n g h hq =>
      have k := h.andThen (lineMove_moves p1 n g).drifts
      k.turns (hq.andThen (lineMove_quiet p1 n g)) k.reasons
  unfold Part.dewireNotice
  exact step _ _ _ (drifts_lineOwn p _).mono ⟨fun _ => rfl, rfl, rfl⟩

/-- What a pole state notice does to the copies (R90). -/
structure Part.Notes (p : Part) (i : PoleId) (s : PoleState) (q : Part) : Prop where
  states : ∀ j, (q.poles.get j).state = (p.poles.get j).state
  copy : q.line.poleCopy = p.line.poleCopy.set i s
  kept : q.keptPoles = p.keptPoles

/-- A pole state notice at the Line Supervisor (R54 to R56). -/
theorem linePoleNotice_drifts (p : Part) (i : PoleId) (s : PoleState) :
    p.Drifts linePieces (p.linePoleNotice i s) ∧ p.Notes i s (p.linePoleNotice i s)
      ∧ (p.poleClaims → (p.linePoleNotice i s).poleClaims) := by
  have h : p.Drifts linePieces
      ({ p with line := { p.line with poleCopy := p.line.poleCopy.set i s } } : Part) := (drifts_lineOwn p _).mono
  have n : p.Notes i s ({ p with line := { p.line with poleCopy := p.line.poleCopy.set i s } } : Part) :=
    ⟨fun _ => rfl, rfl, rfl⟩
  have c : p.poleClaims → ({ p with line := { p.line with poleCopy := p.line.poleCopy.set i s } } : Part).poleClaims := id
  unfold Part.linePoleNotice
  dsimp only at h n c ⊢
  generalize ({ p with line := { p.line with poleCopy := p.line.poleCopy.set i s } } : Part) = p1 at h n c ⊢
  have step : ∀ q : Part, p1.Moves linePieces q → p1.Quiet q →
      p.Drifts linePieces q ∧ p.Notes i s q ∧ (p.poleClaims → q.poleClaims) := fun q k hq =>
    ⟨h.andThen k.drifts, ⟨fun j => (hq.states j).trans (n.states j), hq.copy.trans n.copy, hq.kept.trans n.kept⟩, k.claims ∘ c⟩
  have quiet : ∀ q : Part, q.Quiet q.restoreTest := fun q => ⟨fun _ => rfl, rfl, rfl⟩
  have k0 := step p1 (.refl _ _) (.refl _)
  have k1 : ∀ n g, _ := fun n g => step _ (lineMove_moves p1 n g) (lineMove_quiet p1 n g)
  have k2 := step _ (restoreTest_moves p1).mono (quiet p1)
  have k3 : ∀ n g, _ := fun n g => step _ ((lineMove_moves p1 n g).andThen (restoreTest_moves _))
    ((lineMove_quiet p1 n g).andThen (quiet _))
  repeat' split
  all_goals with_reducible first | exact k0 | exact k1 _ _ | exact k2 | exact k3 _ _

/-- Expiry of the restore timer (R56). -/
theorem restoreExpired_moves (p : Part) : p.Moves linePieces p.restoreExpired := by
  unfold Part.restoreExpired
  dsimp only
  exact .before (report_moves _ _ _ _ _ _ _) (.before (lineMove_moves _ _ _) (moves_lineOwn p _).mono)

/-- Expiry of the high-persist timer (R58). -/
theorem highExpired_moves (p : Part) : p.Moves lineRaisePieces p.highExpired := by
  unfold Part.highExpired
  dsimp only
  exact .before (raise_moves _ _) (moves_lineOwn p _).mono

end Sys2Proof.Machine
end

