-- ==== Sys2Proof/Laws/Poles.lean ====
section
/-! SUPPORT. The Pole Monitor: what its events can change, and that its claims follow their conditions at the end of each
(R69 to R107, R91). -/

set_option Elab.async false

namespace Sys2Proof.Machine

/-! ### Claims (R91) -/

theorem claimIf_drifts (p : Part) (r : Reason) (b : Bool) (hr : r.ordinary = true := by decide) :
    p.Drifts [.inhibit, .setpoint, .send] (p.claimIf r b) := by
  unfold Part.claimIf
  split
  · exact claim_drifts p r hr
  · exact .refl _ _

theorem withdrawUnless_drifts (p : Part) (r : Reason) (b : Bool) (hr : r.ordinary = true := by decide) :
    p.Drifts [.inhibit] (p.withdrawUnless r b) := by
  unfold Part.withdrawUnless
  split
  · exact .refl _ _
  · exact withdraw_drifts p r hr

theorem updateClaims_drifts (p : Part) : p.Drifts [.inhibit, .setpoint, .send] p.updateClaims :=
  .before (withdrawUnless_drifts _ _ _) (.before (withdrawUnless_drifts _ _ _) (.before (withdrawUnless_drifts _ _ _)
    (.before (claimIf_drifts _ _ _) (.before (claimIf_drifts _ _ _) (claimIf_drifts _ _ _)))))

theorem claimIf_inhibit (p : Part) (r : Reason) (b : Bool) :
    (p.claimIf r b).gov.inhibit = if b then p.gov.inhibit.put r true else p.gov.inhibit := by
  unfold Part.claimIf
  split <;> simp_all [claim_inhibit]

theorem withdrawUnless_inhibit (p : Part) (r : Reason) (b : Bool) :
    (p.withdrawUnless r b).gov.inhibit = if b then p.gov.inhibit else p.gov.inhibit.put r false := by
  unfold Part.withdrawUnless
  split <;> simp_all

/-- After the update the claims stand exactly while their conditions hold (R91). -/
theorem updateClaims_claims (p : Part) : p.updateClaims.poleClaims := by
  have hp : p.updateClaims.poles = p.poles := (updateClaims_drifts p).only .poles (by decide)
  have hi : p.updateClaims.gov.inhibit =
      { p.gov.inhibit with
        poleSuspect := p.anyPole Pole.suspectClaim, poleDewired := p.anyPole Pole.dewiredClaim,
        polesMoving := p.anyPole Pole.movingClaim } := by
    unfold Part.updateClaims
    simp only [withdrawUnless_inhibit, claimIf_inhibit]
    cases hs : p.anyPole Pole.suspectClaim <;> cases hd : p.anyPole Pole.dewiredClaim <;>
      cases hm : p.anyPole Pole.movingClaim <;> rfl
  unfold Part.poleClaims
  rw [hi]
  refine ⟨?_, ?_, ?_⟩ <;> simp only [Part.anyPole, hp]

/-- The claims depend on what is watched of the poles. -/
theorem poleClaims_of_watched {p q : Part} (hw : q.watched = p.watched)
    (hr : q.gov.inhibit.poleReasons = p.gov.inhibit.poleReasons) (h : p.poleClaims) : q.poleClaims := by
  simp only [Part.watched, Pole.watched, Prod.mk.injEq] at hw
  simp only [InhibitSet.poleReasons, Prod.mk.injEq] at hr
  simp_all [Part.poleClaims, Part.anyPole, Pole.suspectClaim, Pole.dewiredClaim, Pole.movingClaim]

/-- The update of the claims leaves the poles and the copies of their states. -/
theorem Part.Told.updateClaims {p q : Part} (h : p.Told polePieces q) : p.Moves polePieces q.updateClaims :=
  ⟨h.drifts.andThen (updateClaims_drifts q), fun k => (updateClaims_drifts q).quiet.owes (ns := []) (h.noticed k),
    fun _ => updateClaims_claims q⟩

/-- The claims after an event that made several requests (R91). -/
theorem Part.Asked.followPoles {p q : Part} (h : p.Asked polePieces q) : p.Moves polePieces (q.followPoles p) := by
  unfold Part.followPoles
  split
  · rename_i hw
    exact ⟨h.told.drifts, h.told.noticed, poleClaims_of_watched hw h.reasons⟩
  · exact h.told.updateClaims

/-! ### Notices (R90) -/

/-- A pole is blind only on the wire (R81, R82). -/
def Pole.blindOk (q : Pole) : Prop := q.blind = true → q.onLine = true

/-- A change of one pole's record. A record that says nothing of blindness keeps it; one that leaves the wire clears it. -/
theorem setPole_drifts (p : Part) (i : PoleId) (r : Pole)
    (h : (p.poles.get i).blindOk → r.blindOk := by
      first | exact fun k => k | exact fun _ _ => rfl | exact fun _ k => Bool.noConfusion k) :
    p.Drifts [.poles] (p.setPole i r) := by
  refine drifts_poles p _ (fun k j => ?_)
  by_cases e : j = i
  · subst e
    have := h (k j)
    simpa [Pole.blindOk] using this
  · simpa [PerPole.get_set_other _ _ _ _ e] using k j

/-- The latch check keeps blindness on the wire. -/
theorem checkLatch_blind (q : Pole) (h : q.blindOk) : q.checkLatch.blindOk := by
  unfold Pole.checkLatch
  split <;> exact h

theorem acknowledge_blind (q : Pole) (h : q.blindOk) : q.acknowledge.blindOk := checkLatch_blind _ h

/-- A change of one pole's record owes the notice of its new state. -/
theorem setPole_turns (p : Part) (i : PoleId) (r : Pole) (s : PoleState) (hs : r.state = s := by rfl)
    (h : (p.poles.get i).blindOk → r.blindOk := by
      first | exact fun k => k | exact fun _ _ => rfl | exact fun _ k => Bool.noConfusion k) :
    p.Turns [.poles] [{ pole := i, entered := s }] (p.setPole i r) := by
  refine ⟨setPole_drifts p i r h, fun ms k j => ?_, rfl⟩
  unfold PoleNotice.lastFor
  rw [List.foldl_append, List.foldl_append]
  by_cases e : j = i
  · subst e
    simp [hs]
  · simpa [PerPole.get_set_other _ _ _ _ e, Ne.symm e, PoleNotice.lastFor] using k j

theorem modPole_turns (p : Part) (i : PoleId) (f : Pole → Pole) (s : PoleState)
    (hs : ∀ q : Pole, (f q).state = s := by exact fun _ => rfl)
    (h : ∀ q : Pole, q.blindOk → (f q).blindOk := by
      first | exact fun _ k => k | exact fun _ _ _ => rfl | exact fun _ _ k => Bool.noConfusion k) :
    p.Turns [.poles] [{ pole := i, entered := s }] (p.modPole i f) := setPole_turns p i _ s (hs _) (h _)

theorem setPole_same (p : Part) (i : PoleId) (r : Pole) (hs : r.state = (p.poles.get i).state) : p.Quiet (p.setPole i r) := by
  refine ⟨fun j => ?_, rfl, rfl⟩
  by_cases e : j = i
  · subst e
    simpa using hs
  · simp [PerPole.get_set_other _ _ _ _ e]

/-- A change of one pole's record that leaves its state owes no notice. -/
theorem setPole_still (p : Part) (i : PoleId) (r : Pole) (hs : r.state = (p.poles.get i).state := by rfl)
    (h : (p.poles.get i).blindOk → r.blindOk := by
      first | exact fun k => k | exact fun _ _ => rfl | exact fun _ k => Bool.noConfusion k) :
    p.Turns [.poles] [] (p.setPole i r) := (setPole_drifts p i r h).turns (setPole_same p i r hs) rfl

theorem modPole_still (p : Part) (i : PoleId) (f : Pole → Pole) (hs : ∀ q : Pole, (f q).state = q.state := by exact fun _ => rfl)
    (h : ∀ q : Pole, q.blindOk → (f q).blindOk := by
      first | exact fun _ k => k | exact fun _ _ _ => rfl | exact fun _ _ k => Bool.noConfusion k) :
    p.Turns [.poles] [] (p.modPole i f) := setPole_still p i _ (hs _) (h _)

theorem checkLatch_state (q : Pole) : q.checkLatch.state = q.state := by
  unfold Pole.checkLatch
  split <;> rfl

/-- What the claims read of a pole. -/
def Pole.sameClaims (q r : Pole) : Prop :=
  r.suspectClaim = q.suspectClaim ∧ r.dewiredClaim = q.dewiredClaim ∧ r.movingClaim = q.movingClaim

/-- A change of one pole's record that leaves its state and that no claim reads. -/
theorem setPole_moves (p : Part) (i : PoleId) (r : Pole) (h : (p.poles.get i).sameClaims r)
    (hb : (p.poles.get i).blindOk → r.blindOk := by first | exact fun k => k | exact fun _ k => Bool.noConfusion k)
    (hs : r.state = (p.poles.get i).state := by rfl) : p.Moves [.poles] (p.setPole i r) := by
  refine ⟨setPole_drifts p i r hb, (setPole_same p i r hs).owes (ns := []), ?_⟩
  obtain ⟨k1, k2, k3⟩ := h
  rintro ⟨h1, h2, h3⟩
  cases i <;> (refine ⟨?_, ?_, ?_⟩ <;> simp_all [Part.anyPole, PerPole.set, PerPole.get])

theorem modPole_moves (p : Part) (i : PoleId) (f : Pole → Pole) (h : ∀ q : Pole, q.sameClaims (f q))
    (hb : ∀ q : Pole, q.blindOk → (f q).blindOk := by exact fun _ k => k)
    (hs : ∀ q : Pole, (f q).state = q.state := by exact fun _ => rfl) :
    p.Moves [.poles] (p.modPole i f) := setPole_moves p i _ (h _) (hb _) (hs _)

/-- As `setPole_moves`, for a record whose claims are plainly the same. -/
theorem setPole_quiet (p : Part) (i : PoleId) (r : Pole)
    (h : (p.poles.get i).sameClaims r := by exact ⟨rfl, rfl, rfl⟩)
    (hb : (p.poles.get i).blindOk → r.blindOk := by exact fun k => k)
    (hs : r.state = (p.poles.get i).state := by rfl) : p.Moves polePieces (p.setPole i r) :=
  (setPole_moves p i r h hb hs).mono

theorem modPole_quiet (p : Part) (i : PoleId) (f : Pole → Pole)
    (h : ∀ q : Pole, q.sameClaims (f q) := by exact fun _ => ⟨rfl, rfl, rfl⟩)
    (hb : ∀ q : Pole, q.blindOk → (f q).blindOk := by exact fun _ k => k)
    (hs : ∀ q : Pole, (f q).state = q.state := by exact fun _ => rfl) : p.Moves polePieces (p.modPole i f) :=
  (modPole_moves p i f h hb hs).mono

/-- A notice reaches the Line Supervisor, the Zone Matcher and the mode logic: what it pays of the notices owed (R90). -/
theorem sendNotice_pays (p : Part) (n : PoleNotice) :
    p.Drifts (linePieces ++ [.keptPoles]) (p.sendNotice n)
      ∧ ∀ ns, p.owes (n :: ns) → (p.sendNotice n).owes ns := by
  unfold Part.sendNotice
  dsimp only
  obtain ⟨h, k, -⟩ := linePoleNotice_drifts p n.pole n.entered
  generalize p.linePoleNotice n.pole n.entered = q at h k ⊢
  refine ⟨(h.mono.andThen (moves_zones q (q.zones.notePole n.pole n.entered)).drifts).andThen
    (drifts_kept _ (q.keptPoles.set n.pole n.entered)), fun ns o i => ?_⟩
  have hi := o i
  unfold PoleNotice.lastFor at hi ⊢
  rw [List.foldl_cons, List.foldl_cons] at hi
  show List.foldl _ (q.line.poleCopy.get i) ns = (q.poles.get i).state
    ∧ List.foldl _ ((q.keptPoles.set n.pole n.entered).get i) ns = (q.poles.get i).state
  rw [k.states, k.copy, k.kept]
  by_cases e : i = n.pole
  · subst e
    simpa using hi
  · simpa [PerPole.get_set_other _ _ _ _ e, Ne.symm e] using hi

/-- After the notices that an event owes, nothing is owed (R90). -/
theorem sendNotices_pay (ns : List PoleNotice) (p : Part) :
    p.Drifts (linePieces ++ [.keptPoles]) (p.sendNotices ns) ∧ (p.owes ns → (p.sendNotices ns).noticed) := by
  induction ns generalizing p with
  | nil => exact ⟨.refl _ _, id⟩
  | cons n ns ih =>
    obtain ⟨h, k⟩ := sendNotice_pays p n
    obtain ⟨h', k'⟩ := ih (p.sendNotice n)
    exact ⟨h.andThen h', fun o => k' (k ns o)⟩

/-- The notices of an event whose claims are still to be updated (R90). -/
theorem Part.Turns.notify {p q : Part} {ns : List PoleNotice} (h : p.Turns polePieces ns q) :
    p.Told polePieces (q.sendNotices ns) :=
  ⟨h.drifts.andThen (sendNotices_pay ns q).1, fun k => (sendNotices_pay ns q).2 (h.owing [] k)⟩

theorem Part.Turns.asked {p q : Part} {ns : List PoleNotice} (h : p.Turns polePieces ns q) :
    p.Asked polePieces (q.sendNotices ns) := ⟨h.notify, (sendNotices_pay ns q).1.reasons.trans h.reasons⟩

/-- The end of a pole event: the notices, then the claims (R90, R91). -/
theorem Part.Turns.close {p q : Part} {ns : List PoleNotice} (h : p.Turns polePieces ns q) :
    p.Moves polePieces (q.closePoles ns) := h.notify.updateClaims

/-! ### Outputs, reports and raises about a pole -/

theorem drivePole_moves (p : Part) (i : PoleId) (a b : Bool) : p.Moves [.outputs, .records] (p.drivePole i a b) :=
  .before (drive_moves _ _ _) (drive_moves _ _ _)

theorem poleReport_moves (p : Part) (k : ReportKind) (s : Severity) (i : PoleId) (t : Word) (x : List Item) :
    p.Moves [.reports, .chains, .port] (p.poleReport k s i t x) := report_moves _ _ _ _ _ _ _

theorem poleRaise_moves (p : Part) (k : FaultKind) (i : PoleId) (c : SourceCause) (t : Word) (x : List Item) :
    p.Moves raisePieces (p.poleRaise k i c t x) := raise_moves _ _

theorem poleReport_turns (p : Part) (k : ReportKind) (s : Severity) (i : PoleId) (t : Word) (x : List Item) :
    p.Turns [.reports, .chains, .port] [] (p.poleReport k s i t x) := (poleReport_moves p k s i t x).turns

theorem poleRaise_turns (p : Part) (k : FaultKind) (i : PoleId) (c : SourceCause) (t : Word) (x : List Item) :
    p.Turns raisePieces [] (p.poleRaise k i c t x) := (poleRaise_moves p k i c t x).drifts.turns (poleRaise_moves p k i c t x).drifts.quiet (raise_reasons p _)

theorem drivePole_turns (p : Part) (i : PoleId) (a b : Bool) : p.Turns [.outputs, .records] [] (p.drivePole i a b) :=
  (drivePole_moves p i a b).turns

/-! ### Lowering (R101, R104, R105) -/

theorem raiseFailed_moves (p : Part) (i : PoleId) (pre : Option Nat) :
    p.Moves (raisePieces ++ [.poles]) (p.raiseFailed i pre) := by
  unfold Part.raiseFailed
  dsimp only
  exact .before (modPole_moves _ _ _ (fun _ => ⟨rfl, rfl, rfl⟩)) (poleRaise_moves _ _ _ _ _ _).mono

theorem raiseFailed_turns (p : Part) (i : PoleId) (pre : Option Nat) :
    p.Turns (raisePieces ++ [.poles]) [] (p.raiseFailed i pre) := by
  unfold Part.raiseFailed
  dsimp only
  exact .before (modPole_still _ _ _) (poleRaise_turns _ _ _ _ _ _).mono

theorem endFaultIf_moves (p : Part) (b : Bool) (k : FaultKind) (s : Source) :
    p.Moves [.outputs, .records] (if b then p.endFault k s else p) := by
  split
  · exact endFault_moves _ _ _
  · exact .refl _ _

theorem endFaultIf_turns (p : Part) (b : Bool) (k : FaultKind) (s : Source) :
    p.Turns [.outputs, .records] [] (if b then p.endFault k s else p) := (endFaultIf_moves p b k s).turns

theorem startLowering_turns (p : Part) (i : PoleId) (c : LoweringCause) (t : Word) (z : Option TagId) :
    p.Turns [.poles, .outputs, .records] (p.startLowering i c t z).2 (p.startLowering i c t z).1 := by
  unfold Part.startLowering
  dsimp only
  exact .before (endFaultIf_turns _ _ _ _) (.before (setPole_turns _ _ _ .lowering) (drivePole_turns _ _ _ _).mono)

theorem decideRetry_turns (p : Part) (i : PoleId) : p.Turns polePieces [] (p.decideRetry i) := by
  unfold Part.decideRetry
  dsimp only
  repeat' split
  · exact (setPole_still _ _ _).mono
  · exact (raiseFailed_turns _ _ _).mono
  · exact (setPole_still _ _ _).mono

theorem lowerDone_turns (p : Part) (i : PoleId) : p.Turns polePieces (p.lowerDone i).2 (p.lowerDone i).1 := by
  unfold Part.lowerDone
  dsimp only
  refine .before (ns := [{ pole := i, entered := .housed }])
    (modPole_still _ _ _ (fun _ => checkLatch_state _) (fun _ k => checkLatch_blind _ k)) ?_
  split
  · exact .before (decideRetry_turns _ _) (setPole_turns _ _ _ .housed).mono
  · exact .before (poleReport_turns _ _ _ _ _ _) (setPole_turns _ _ _ .housed).mono

theorem houseIfClosed_turns (p : Part) (i : PoleId) :
    p.Turns polePieces (p.houseIfClosed i).2 (p.houseIfClosed i).1 := by
  unfold Part.houseIfClosed
  split
  · exact lowerDone_turns _ _
  · exact .refl _ _

theorem lower_turns (p : Part) (i : PoleId) (c : LoweringCause) (t : Word) (z : Option TagId) :
    p.Turns polePieces (p.lower i c t z).2 (p.lower i c t z).1 :=
  Part.Turns.andThen (startLowering_turns p i c t z).mono (houseIfClosed_turns _ i)

theorem abandonRaise_turns (p : Part) (i : PoleId) (c : AbandonCause) (t : Option Word) :
    p.Turns polePieces (p.abandonRaise i c t).2 (p.abandonRaise i c t).1 := by
  unfold Part.abandonRaise
  dsimp only
  exact .before (houseIfClosed_turns _ _) (.quietly (poleReport_turns _ _ _ _ _ _)
    (.before (ns := []) (startLowering_turns _ _ _ _ _) (setPole_still p i _).mono))

/-! ### Dewirement and suspicion (R78 to R84) -/

theorem mateLower_turns (p : Part) (i : PoleId) : p.Turns polePieces (p.mateLower i).2 (p.mateLower i).1 := by
  unfold Part.mateLower
  dsimp only
  split
  · exact lower_turns _ _ _ _ _
  · exact .refl _ _

/-- The steps of a confirmed dewirement, the claims not yet updated (R83). -/
theorem confirmDewired_told (p : Part) (i : PoleId) (b : DewireBasis) (t : Word) :
    p.Told polePieces (p.confirmDewired i b t) := by
  unfold Part.confirmDewired
  dsimp only
  exact Part.Turns.notify (.before (ns := [{ pole := i, entered := .dewired }]) (mateLower_turns _ _)
    (.before (dewireNotice_turns _) (.before (endFaultIf_turns _ _ _ _) (.before (poleRaise_turns _ _ _ _ _ _)
      (.before (drivePole_turns _ _ _ _) (setPole_turns _ _ _ .dewired).mono)))))

theorem becomeSuspect_told (p : Part) (i : PoleId) : p.Told polePieces (p.becomeSuspect i) := by
  unfold Part.becomeSuspect
  exact (modPole_turns _ _ _ .suspect).mono.notify

theorem actOnSet_told (p : Part) (i : PoleId) (t : Word) : p.Told polePieces (p.actOnSet i t) := by
  unfold Part.actOnSet
  split
  · exact .refl _ _
  · exact becomeSuspect_told _ _
  · exact confirmDewired_told _ _ _ _

theorem judge_moves (p : Part) (i : PoleId) : p.Moves polePieces (p.judge i) := by
  unfold Part.judge
  split
  · exact .refl _ _
  · exact (actOnSet_told p i 0).updateClaims

theorem judgeBoth_moves (p : Part) : p.Moves polePieces p.judgeBoth := by
  unfold Part.judgeBoth
  split
  · exact .refl _ _
  · exact Part.Told.updateClaims (.before (actOnSet_told _ .n 0) (actOnSet_told p .p 0))

theorem clearSuspicion_moves (p : Part) (i : PoleId) : p.Moves polePieces (p.clearSuspicion i) := by
  unfold Part.clearSuspicion
  dsimp only
  exact Part.Turns.close (.before (ns := [{ pole := i, entered := .onWire }]) (poleReport_turns _ _ _ _ _ _)
    (setPole_turns _ _ _ .onWire).mono)

theorem confirmExpired_moves (p : Part) (i : PoleId) : p.Moves polePieces (p.confirmExpired i) := by
  have h : p.Moves polePieces (p.modPole i (fun q => { q with confirmTimer := .stopped })) :=
    Part.Moves.mono (xs := [.poles]) (modPole_moves p i _ (fun _ => ⟨rfl, rfl, rfl⟩))
  unfold Part.confirmExpired
  dsimp only at h ⊢
  generalize (p.modPole i (fun q => { q with confirmTimer := .stopped })) = p1 at h ⊢
  repeat' split
  · exact h.andThen (confirmDewired_told _ _ _ _).updateClaims
  · exact h.andThen (clearSuspicion_moves _ _)
  · exact h

/-! ### Resolution (R71 to R73) -/

/-- A pole that resolves is in the state it resolves to. -/
theorem resolvedPole_state (entered : PoleState) (trip : Bool) (q : Pole) :
    (if entered == .onWire then q.enterWire trip
      else { q with state := entered, indicators := {}, seen := {}, gapSpent := false, blind := false }.checkLatch).state
      = entered := by
  split
  · rename_i h
    exact (eq_of_beq h).symm
  · exact checkLatch_state _

/-- A pole that resolves is not blind off the wire. -/
theorem resolvedPole_blind (entered : PoleState) (trip : Bool) (q : Pole) :
    (if entered == .onWire then q.enterWire trip
      else { q with state := entered, indicators := {}, seen := {}, gapSpent := false, blind := false }.checkLatch).blindOk := by
  split
  · exact fun _ => rfl
  · exact checkLatch_blind _ (fun k => Bool.noConfusion k)

theorem resolved_moves {p q : Part} (h : p.Told polePieces q) (i : PoleId) (s : PoleState) (b : Nat) (t : Word) :
    p.Moves polePieces (q.resolved i s b t) := by
  unfold Part.resolved
  dsimp only
  exact Part.Told.updateClaims (.before (actOnSet_told _ _ _) (h.andThen (Part.Turns.notify
    (.before (ns := [{ pole := i, entered := s }]) (modPole_still _ _ _) (.before (poleReport_turns _ _ _ _ _ _)
      (modPole_turns _ _ _ s (fun _ => resolvedPole_state _ _ _) (fun _ _ => resolvedPole_blind _ _ _)).mono)))))

theorem tryResolve_moves (p : Part) (i : PoleId) (t : Word) : p.Moves polePieces (p.tryResolve i t) := by
  unfold Part.tryResolve
  repeat' split
  · exact resolved_moves (.refl _ _) _ _ _ _
  · exact resolved_moves (.refl _ _) _ _ _ _
  · exact .refl _ _

theorem resolutionExpired_moves (p : Part) (i : PoleId) : p.Moves poleFreePieces (p.resolutionExpired i) := by
  have h : p.Moves polePieces (p.modPole i (fun q => { q with resolutionTimer := .stopped })) :=
    Part.Moves.mono (xs := [.poles]) (modPole_moves p i _ (fun _ => ⟨rfl, rfl, rfl⟩))
  unfold Part.resolutionExpired
  dsimp only at h ⊢
  generalize (p.modPole i (fun q => { q with resolutionTimer := .stopped })) = p1 at h ⊢
  repeat' split
  · exact h.mono
  · exact h.mono.andThen (resolved_moves (.refl _ _) _ _ _ _)
  · refine .before (resolved_moves (Part.Turns.told (.before (ns := []) (poleRaise_turns _ _ _ _ _ _)
      (.before (ns := []) (drivePole_turns _ _ _ _) (setPole_still _ _ _).mono))) _ _ _ _) (h.mono.andThen (moves_free _ _))

/-! ### Raising (R97 to R102) -/

theorem beginRaise_turns (p : Part) (i : PoleId) (o : RaiseOrigin) (t : Word) (z : Option TagId) (n : Nat) (s : Word) :
    p.Turns polePieces (p.beginRaise i o t z n s).2 (p.beginRaise i o t z n s).1 := by
  unfold Part.beginRaise
  dsimp only
  have h : ∀ r : Pole, r.blindOk → r.state = .raising →
      p.Turns polePieces [{ pole := i, entered := .raising }]
        (((p.drive (.retriever i) false).drive (.raise i) true).setPole i r) := fun r hr hs =>
    .before (ns := []) (setPole_turns _ _ _ .raising hs (fun _ => hr))
      (Part.Turns.before (ns := []) (drive_moves _ (.raise i) true).turns (drive_moves p (.retriever i) false).turns.mono)
  split
  · exact h _ (fun k => Bool.noConfusion k) rfl
  · exact .before (abandonRaise_turns _ _ _ _) (h _ (fun k => Bool.noConfusion k) rfl)

theorem beginRaises_fold (o : RaiseOrigin) (t : Word) (z : Option TagId) (p : Part) (poles : List PoleId)
    (acc : Part × List PoleNotice) (h : p.Turns polePieces acc.2 acc.1) :
    p.Turns polePieces (poles.foldl (fun (acc : Part × List PoleNotice) i =>
      let (p, n) := acc.1.beginRaise i o t z 0 acc.1.now
      (p, acc.2 ++ n)) acc).2 (poles.foldl (fun (acc : Part × List PoleNotice) i =>
      let (p, n) := acc.1.beginRaise i o t z 0 acc.1.now
      (p, acc.2 ++ n)) acc).1 := by
  induction poles generalizing acc with
  | nil => exact h
  | cons i is ih =>
    exact ih ((acc.1.beginRaise i o t z 0 acc.1.now).1, acc.2 ++ (acc.1.beginRaise i o t z 0 acc.1.now).2)
      (h.andThen (beginRaise_turns acc.1 i o t z 0 acc.1.now))

/-- Several poles begin raising in one event (R96, R97, R107). -/
theorem beginRaises_turns (p : Part) (poles : List PoleId) (o : RaiseOrigin) (t : Word) (z : Option TagId) :
    p.Turns polePieces (p.beginRaises poles o t z).2 (p.beginRaises poles o t z).1 :=
  beginRaises_fold o t z p poles (p, []) (.refl _ _)

theorem raisePoles_moves (p : Part) (poles : List PoleId) (o : RaiseOrigin) (t : Word) (z : Option TagId) :
    p.Moves polePieces (p.raisePoles poles o t z) := (beginRaises_turns p poles o t z).close

theorem abandonAlone_moves (p : Part) (i : PoleId) (c : AbandonCause) : p.Moves polePieces (p.abandonAlone i c) :=
  Part.Turns.close (abandonRaise_turns p i c none)

theorem raiseFrame_moves (p : Part) (i : PoleId) : p.Moves polePieces (p.raiseFrame i) := by
  unfold Part.raiseFrame
  dsimp only
  repeat' split
  · exact abandonAlone_moves _ _ _
  · exact .refl _ _
  · exact setPole_quiet _ _ _
  · exact setPole_quiet _ _ _

theorem settleExpired_moves (p : Part) (i : PoleId) : p.Moves polePieces (p.settleExpired i) := by
  unfold Part.settleExpired
  dsimp only
  split
  · exact Part.Told.updateClaims (.before (actOnSet_told _ _ _) (Part.Turns.notify
      (.before (ns := [{ pole := i, entered := .onWire }]) (modPole_still _ _ _) (.before (poleReport_turns _ _ _ _ _ _)
        (.before (setPole_turns _ _ _ .onWire rfl (fun _ _ => rfl)) (drive_moves _ _ _).turns.mono)))))
  · exact setPole_quiet _ _ _

theorem raiseExpired_moves (p : Part) (i : PoleId) : p.Moves polePieces (p.raiseExpired i) := by
  unfold Part.raiseExpired
  split
  · exact abandonAlone_moves _ _ _
  · exact modPole_quiet _ _ _

theorem holdExpired_moves (p : Part) (i : PoleId) : p.Moves polePieces (p.holdExpired i) := by
  have h : p.Moves polePieces ((p.modPole i (fun q => { q with holdTimer := .stopped })).drive (.retriever i) false) :=
    .before (drive_moves _ _ _) (modPole_quiet p i _)
  unfold Part.holdExpired
  dsimp only at h ⊢
  generalize ((p.modPole i (fun q => { q with holdTimer := .stopped })).drive (.retriever i) false) = p1 at h ⊢
  repeat' split
  · exact h.andThen (Part.Turns.close (beginRaise_turns _ _ _ _ _ _ _))
  · exact h.andThen (raiseFailed_moves _ _ _)
  · exact h

theorem poleStuck_moves (p : Part) (i : PoleId) : p.Moves polePieces (p.poleStuck i) := by
  unfold Part.poleStuck
  dsimp only
  exact Part.Turns.close (.before (ns := [{ pole := i, entered := .faulted }]) (endFaultIf_turns _ _ _ _)
    (.before (poleRaise_turns _ _ _ _ _ _) (.before (setPole_turns _ _ _ .faulted) (drivePole_turns _ _ _ _).mono)))

theorem lowerExpired_moves (p : Part) (i : PoleId) : p.Moves polePieces (p.lowerExpired i) := by
  unfold Part.lowerExpired
  split
  · exact poleStuck_moves _ _
  · exact modPole_quiet _ _ _

/-! ### Contacts (R77, R86, R88) -/

theorem setPoleIf_turns (p : Part) (b : Bool) (i : PoleId) (r : Pole) (hs : r.state = (p.poles.get i).state := by rfl)
    (h : (p.poles.get i).blindOk → r.blindOk := by exact fun k => k) :
    p.Turns [.poles] [] (if b then p.setPole i r else p) := by
  split
  · exact setPole_still _ _ _ hs h
  · exact .refl _ _

theorem unhoused_moves (p : Part) (i : PoleId) : p.Moves polePieces (p.unhoused i) := by
  unfold Part.unhoused
  dsimp only
  exact Part.Turns.close (.quietly (poleRaise_turns _ _ _ _ _ _) (.before (ns := []) (lower_turns _ _ _ _ _)
    (setPoleIf_turns _ _ _ _).mono))

theorem housedChange_moves (p : Part) (i : PoleId) (l : Level) : p.Moves polePieces (p.housedChange i l) := by
  unfold Part.housedChange
  split
  · exact Part.Turns.close (.before (ns := [{ pole := i, entered := .housed }]) (endFault_moves _ _ _).turns
      (modPole_turns _ _ _ .housed (fun _ => checkLatch_state _)
        (fun _ _ => checkLatch_blind _ (fun k => Bool.noConfusion k))).mono)
  · exact Part.Turns.close (lowerDone_turns _ _)
  · exact unhoused_moves _ _
  · exact .refl _ _

theorem tripChange_moves (p : Part) (i : PoleId) (l : Level) : p.Moves polePieces (p.tripChange i l) := by
  unfold Part.tripChange
  dsimp only
  split
  · exact .before (judge_moves _ _) (setPole_quiet _ _ _)
  · split
    · exact abandonAlone_moves _ _ _
    · exact .refl _ _

/-! ### Sensor data (R69, R81) -/

theorem angleIndicators_moves (p : Part) (i : PoleId) : p.Moves [.poles] (p.angleIndicators i) :=
  setPole_moves _ _ _ ⟨rfl, rfl, rfl⟩

theorem poleData_moves (p : Part) (i : PoleId) (c : SensorCondition) (e : Nat) (l : Int) :
    p.Moves poleFreePieces (p.poleData i c e l) := by
  unfold Part.poleData
  dsimp only
  split
  · exact .refl _ _
  · have h1 : ∀ n r, (p.poles.get i).sameClaims r → r.blindOk → r.state = (p.poles.get i).state →
        p.Moves poleFreePieces (({ p with freeUses := n } : Part).setPole i r) :=
      fun n r hr hb hs => (moves_free p n).mono.andThen (setPole_moves _ i r hr (fun _ => hb) hs)
    have h2 := h1 (if (p.poles.get i).haveFrame && p.since (p.poles.get i).frameTime == 0 then p.freeUses + 1 else p.freeUses)
      ((p.poles.get i).store (frameRate p (p.poles.get i) e) p.now e l c) ⟨rfl, rfl, rfl⟩ (fun k => Bool.noConfusion k) rfl
    have h := h2.andThen (endFaultIf_moves _ (p.poles.get i).blind .poleSensor (poleSource i .blind))
    split
    · exact .before (judge_moves _ _) (.before (angleIndicators_moves _ _) h)
    · split
      · exact .before (raiseFrame_moves _ _) h
      · split
        · exact .before (tryResolve_moves _ _ _) h
        · exact h

theorem sensorLost_moves (p : Part) (i : PoleId) (s : LinkState) (c : SensorCondition) :
    p.Moves polePieces (p.sensorLost i s c) := by
  unfold Part.sensorLost
  dsimp only
  repeat' split
  · exact setPole_quiet _ _ _
  · rename_i hl
    exact .before (poleRaise_moves _ _ _ _ _ _) (setPole_quiet _ _ _ ⟨rfl, rfl, rfl⟩ (fun _ _ => hl))
  · exact .before (abandonAlone_moves _ _ _) (setPole_quiet _ _ _)
  · exact setPole_quiet _ _ _

/-! ### Zone requests and acknowledgement (R85, R106, R107) -/

theorem zoneLowerPole_turns (p : Part) (i : PoleId) (z : TagId) :
    p.Turns polePieces (p.zoneLowerPole i z).2 (p.zoneLowerPole i z).1 := by
  have k1 := lower_turns p i .zone 0 (some z)
  have k2 := abandonRaise_turns p i .zoneLower none
  have k3 := (setPole_still p i { p.poles.get i with retryPending := false, origin := .none, retryCount := 0 }).mono
    (ys := polePieces)
  have k4 := Part.Turns.refl polePieces p
  unfold Part.zoneLowerPole
  dsimp only at k3 ⊢
  split
  · exact k1
  · exact k1
  · exact k2
  · split
    · exact k3
    · exact k4
  all_goals exact k4

/-- A zone lower request gives its notices; the claims are still to be updated (R91, R106). -/
theorem zoneLower_asked (p : Part) (z : TagId) : p.Asked polePieces (p.zoneLower z) := by
  unfold Part.zoneLower
  split
  · exact Part.Turns.asked (.before (zoneLowerPole_turns _ .n z) (zoneLowerPole_turns p .p z))
  · exact .refl _ _

/-- A zone raise gives its notices; the claims are still to be updated (R91, R107). -/
theorem zoneRaise_asked (p : Part) (z : TagId) : p.Asked polePieces (p.zoneRaise z) :=
  (beginRaises_turns p [.p, .n] .zone 0 (some z)).asked

/-- The Pole Monitor takes the acknowledgement notice (R85). -/
theorem ackPoles_moves (p : Part) : p.Moves polePieces p.ackPoles :=
  Part.Told.updateClaims (Part.Told.mono (xs := [.poles])
    ⟨drifts_poles p _ (fun k i => by cases i; exacts [acknowledge_blind _ (k .p), acknowledge_blind _ (k .n)]),
      have hq : p.Quiet { p with poles := ⟨p.poles.p.acknowledge, p.poles.n.acknowledge⟩ } :=
        ⟨fun i => by cases i; exacts [checkLatch_state _, checkLatch_state _], rfl, rfl⟩
      hq.owes (ns := [])⟩)

end Sys2Proof.Machine
end

