-- ==== Sys2Proof/Laws/Blocks.lean ====
section
/-! SUPPORT. Zones, the governor, the auxiliaries, the links and the contacts: what their events can change (chapters 2, 6,
7 and 8). -/

set_option Elab.async false

namespace Sys2Proof.Machine

/-! ### Zones (R112 to R126) -/

theorem zonesReport_moves (p : Part) (k : ReportKind) (s : Severity) (n : Nat) (t : Word) (x : List Item) :
    p.Moves [.reports, .chains, .port] (p.report k s .zoneMatcher n t x) := report_moves _ _ _ _ _ _ _

theorem setAction_moves (p : Part) (o : Nat) (a : ActionState) : p.Moves [.zones] (p.setAction o a) := moves_zones p _

theorem waitingDone_moves (p : Part) : p.Moves [.zones] p.waitingDone := moves_zones p _

theorem setPending_moves (p : Part) (q : List Zone) : p.Moves [.zones] (p.setPending q) := moves_zones p _

theorem rewireMissed_moves (p : Part) (z : Zone) (w : Precondition) (t : Word) : p.Moves raisePieces (p.rewireMissed z w t) :=
  raise_moves _ _

theorem rewireMissed_asked (p : Part) (z : Zone) (w : Precondition) (t : Word) : p.Asked raisePieces (p.rewireMissed z w t) :=
  ⟨(rewireMissed_moves p z w t).told, raise_reasons p _⟩

theorem reportEnd_moves (p : Part) (z : Zone) (c : EndCause) (t : Word) :
    p.Moves [.reports, .chains, .port] (p.reportEnd z c t) := by
  unfold Part.reportEnd
  repeat' split
  all_goals first | exact report_moves _ _ _ _ _ _ _ | exact .refl _ _

theorem missAtEnd_moves (p : Part) (z : Zone) (t : Word) : p.Moves raisePieces (p.missAtEnd z t) := by
  unfold Part.missAtEnd
  split
  · exact rewireMissed_moves _ _ _ _
  · exact .refl _ _

/-- The end of a zone (R123, R125). -/
theorem endZone_moves (p : Part) (o : Nat) (c : EndCause) (t : Word) :
    p.Moves (raisePieces ++ [.zones]) (p.endZone o c t) := by
  unfold Part.endZone
  split
  · exact .refl _ _
  · exact .before (reportEnd_moves _ _ _ _) (.before (missAtEnd_moves _ _ _) (moves_zones p _).mono)

theorem askRaise_asked (p : Part) (z : Zone) : p.Asked polePieces (p.askRaise z) := by
  unfold Part.askRaise
  split
  · exact .before (waitingDone_moves _).asked (.before (setAction_moves _ _ _).asked (zoneRaise_asked _ _))
  · exact (setAction_moves _ _ _).asked.mono
  · exact .before (rewireMissed_asked _ _ _ _) (setAction_moves _ _ _).asked.mono

theorem fireAction_asked (p : Part) (o : Nat) : p.Asked polePieces (p.fireAction o) := by
  unfold Part.fireAction
  split
  · exact .refl _ _
  · split
    · exact (setAction_moves _ _ _).asked.mono
    · exact .before (setAction_moves _ _ _).asked (zoneLower_asked _ _)
    · exact askRaise_asked _ _

/-- The pole actions of one event, with the claims updated once (R91). -/
theorem actOnZones_moves (p : Part) (os : List Nat) (f : Part → Nat → Part) (h : ∀ p o, Part.Asked polePieces p (f p o)) :
    p.Moves polePieces (p.actOnZones os f) := by
  exact (forEach_asked f h os p).followPoles

theorem enterZone_moves (p : Part) (z : Zone) : p.Moves polePieces (p.enterZone z) := by
  unfold Part.enterZone
  dsimp only
  refine .before (moves_zones _ _) ?_
  repeat' split
  · exact (endZone_moves _ _ _ _).mono
  · exact .refl _ _
  · exact .refl _ _

theorem enterReached_moves (n : Nat) (p : Part) : p.Moves polePieces (enterReached n p).1 := by
  induction n generalizing p with
  | zero => exact .refl _ _
  | succ n ih =>
    unfold enterReached
    split
    · exact .refl _ _
    · split
      · exact .before (ih _) (.before (enterZone_moves _ _) (moves_zones p _).mono)
      · exact .refl _ _

/-- Steps 2 to 4 of an odometer advance (R118). -/
theorem startZones_moves (p : Part) (b : Bool) : p.Moves polePieces (p.startZones b) := by
  unfold Part.startZones
  dsimp only
  refine .before (actOnZones_moves _ _ _ fireAction_asked) ?_
  split
  · exact .before (recomputeProfile_moves _) (enterReached_moves _ _)
  · exact enterReached_moves _ _

theorem advance_moves (p : Part) : p.Moves polePieces p.advance := by
  unfold Part.advance
  exact .before (startZones_moves _ _) (forEach_moves (ys := raisePieces ++ [.zones]) _ (fun p o => endZone_moves p o _ _) _ _).mono

theorem odometryPulse_moves (p : Part) : p.Moves polePieces p.odometryPulse := by
  unfold Part.odometryPulse
  dsimp only
  split
  · exact (moves_zones p _).mono
  · exact .before (advance_moves _) (moves_zones p _).mono

theorem retryAction_asked (p : Part) (o : Nat) : p.Asked polePieces (p.retryAction o) := by
  unfold Part.retryAction
  repeat' split
  · exact .refl _ _
  · exact askRaise_asked _ _
  · exact .refl _ _

theorem retryActions_moves (p : Part) : p.Moves polePieces p.retryActions := by
  unfold Part.retryActions
  split
  · exact actOnZones_moves _ _ _ retryAction_asked
  · exact .refl _ _

theorem zoneOverflow_moves (p : Part) (z : Zone) (d : Discarded) : p.Moves raisePieces (p.zoneOverflow z d) := raise_moves _ _

theorem joinPending_moves (p : Part) (z : Zone) : p.Moves (raisePieces ++ [.zones]) (p.joinPending z) := by
  unfold Part.joinPending
  dsimp only
  split
  · exact (setPending_moves _ _).mono
  · split
    · exact (setPending_moves _ _).mono
    · split
      · exact .refl _ _
      · split
        · exact .before (zoneOverflow_moves _ _ _) (setPending_moves _ _).mono
        · exact (zoneOverflow_moves _ _ _).mono

theorem tagReport_moves (p : Part) (k : ReportKind) (x : List Item) : p.Moves [.reports, .chains, .port] (p.tagReport k x) :=
  report_moves _ _ _ _ _ _ _

theorem matchTag_moves (p : Part) (t : TagRead) : p.Moves polePieces (p.matchTag t) := by
  unfold Part.matchTag
  dsimp only
  split
  · split
    · exact .before (startZones_moves _ _) (.before (joinPending_moves _ _) (moves_zones p _).mono)
    · exact .refl _ _
  · exact (tagReport_moves _ _ _).mono

theorem filterTag_moves (p : Part) (t : TagRead) : p.Moves polePieces (p.filterTag t) := by
  unfold Part.filterTag
  repeat' split
  · exact (tagReport_moves _ _ _).mono
  · exact .refl _ _
  · exact .before (matchTag_moves _ _) (moves_zones p _).mono

/-- A tag link frame (R111). -/
theorem tagFrame_moves (p : Part) (l : LinkState) (b : List Byte) : p.Moves polePieces (p.tagFrame l b) := by
  unfold Part.tagFrame
  dsimp only
  repeat' split
  · exact (tagReport_moves _ _ _).mono
  · exact .refl _ _
  · exact filterTag_moves _ _
  · exact (tagReport_moves _ _ _).mono

theorem clearZones_moves (p : Part) (t : Word) : p.Moves (raisePieces ++ [.zones]) (p.clearZones t) := by
  unfold Part.clearZones
  dsimp only
  exact .before (recomputeProfile_moves _) (.before
    (forEach_moves (ys := raisePieces ++ [.zones]) _ (fun p o => endZone_moves p o _ _) _ _) (setPending_moves _ _).mono)

/-! ### Governor (R129 to R143) -/

/-- A change of what the governor keeps of demands and replies. -/
theorem moves_gov (p : Part) (g : Governor) (h1 : g.inhibit = p.gov.inhibit := by rfl) (h2 : g.armed = p.gov.armed := by rfl) :
    p.Moves [.setpoint, .demand, .replies] { p with gov := g } :=
  .ofOnly (fun x _ => by cases x <;> simp_all [Part.same])

theorem takeFresh_moves (p : Part) (s v : Word) : p.Moves [.setpoint, .demand, .replies] (p.takeFresh s v) := moves_gov p _

/-- The end of a stale episode (R130). -/
theorem endStale_moves (p : Part) : p.Moves govPieces p.endStale := by
  unfold Part.endStale
  split
  · exact .before (endFault_moves _ _ _) (withdraw_moves _ _).mono
  · exact .refl _ _

/-- Arming with the set empty (R138). -/
theorem arm_moves (p : Part) (s v : Word) : p.Moves govPieces (p.arm s v) := by
  unfold Part.arm
  split
  · rename_i hc
    have ho : p.onlyChanges [.inhibit] ({ p with gov := { p.gov with armed := true } } : Part) := by
      intro x hx; cases x <;> simp_all [Part.same]
    have hm : p.Moves [.inhibit] ({ p with gov := { p.gov with armed := true } } : Part) :=
      Part.Drifts.moves ⟨ho, rfl, accounted_of_same (ho _ (by decide)), fun k => ⟨k.1, fun _ => hc.2.1⟩, fun k => k⟩ (fun k => k)
    exact .before (report_moves _ _ _ _ _ _ _) hm.mono
  · exact .refl _ _

theorem takeStale_moves (p : Part) (c : StaleCause) : p.Moves govPieces (p.takeStale c) := by
  unfold Part.takeStale
  dsimp only
  have h : ∀ n, p.Moves govPieces ({ p with gov := { p.gov with stale := n } } : Part) := fun n => (moves_gov p _).mono
  split
  · exact .before (raise_moves _ _) (.before (claim_moves _ _) (h _))
  · exact h _

theorem countMiss_moves (p : Part) (a : Byte) : p.Moves govPieces (p.countMiss a) := by
  unfold Part.countMiss
  dsimp only
  have h : ∀ n, p.Moves govPieces ({ p with gov := { p.gov with misses := n, goodRun := 0 } } : Part) :=
    fun n => (moves_gov p _).mono
  split
  · exact .before (raise_moves _ _) (.before (claim_moves _ _) (h _))
  · exact h _

theorem periodFrame_moves (p : Part) : p.Moves govPieces p.periodFrame := by
  unfold Part.periodFrame
  dsimp only
  split
  · exact (handFrame_moves _ _ _ _).mono
  · exact .before (countMiss_moves _ _) (handFrame_moves _ _ _ _).mono

theorem deliverFresh_moves (p : Part) (s v : Word) : p.Moves govPieces (p.deliverFresh s v) := by
  have h := (takeFresh_moves p s v).mono (ys := govPieces)
  unfold Part.deliverFresh
  split
  · exact .before (endStale_moves _) (.before (periodFrame_moves _) (.before (arm_moves _ _ _) h))
  · exact .before (periodFrame_moves _) (.before (arm_moves _ _ _) (.before (endStale_moves _) h))

/-- A delivery of a demand read (R129). -/
theorem deliver_moves (p : Part) (d : Delivery) : p.Moves govPieces (p.deliver d) := by
  unfold Part.deliver
  split
  · split
    · exact deliverFresh_moves _ _ _
    · exact .before (periodFrame_moves _) (takeStale_moves _ _)
    · exact periodFrame_moves _
  · exact .refl _ _

theorem requestDemand_moves (p : Part) : p.Moves govPieces p.requestDemand := by
  unfold Part.requestDemand
  repeat' split
  · exact deliver_moves _ _
  · exact .refl _ _
  · exact (place_moves _ _).mono

theorem periodExpired_moves (p : Part) : p.Moves govPieces p.periodExpired := by
  unfold Part.periodExpired
  exact .before (requestDemand_moves _) (moves_gov p _).mono

theorem claimDriveFault_moves (p : Part) (e : Byte) : p.Moves govPieces (p.claimDriveFault e) := by
  unfold Part.claimDriveFault
  split
  · exact .before (raise_moves _ _) (claim_moves _ _).mono
  · exact .refl _ _

theorem dropOwn_moves (p : Part) (r : Reason) (k : FaultKind) (s : Source) (hr : r.plain = true := by decide) :
    p.Moves govPieces (p.dropOwn r k s) := by
  unfold Part.dropOwn
  split
  · exact .before (endFault_moves _ _ _) (withdraw_moves _ r hr).mono
  · exact .refl _ _

theorem endDriveLink_moves (p : Part) : p.Moves govPieces p.endDriveLink := by
  unfold Part.endDriveLink
  split
  · exact .before (endFault_moves _ _ _) (withdraw_moves _ _).mono
  · exact .refl _ _

theorem endDriveFault_moves (p : Part) : p.Moves govPieces p.endDriveFault := by
  unfold Part.endDriveFault
  split
  · exact .before (endFault_moves _ _ _) (withdraw_moves _ _).mono
  · exact .refl _ _

theorem goodReply_moves (p : Part) (e : Byte) (a : Int) (i : Inverter) : p.Moves govPieces (p.goodReply e a i) := by
  unfold Part.goodReply
  dsimp only
  exact .before (endDriveFault_moves _) (.before (endDriveLink_moves _) (.before (claimDriveFault_moves _ _)
    (moves_gov p _).mono))

/-- A drive link frame (R141 to R143). -/
theorem driveFrame_moves (p : Part) (l : LinkState) (b : List Byte) : p.Moves govPieces (p.driveFrame l b) := by
  unfold Part.driveFrame
  repeat' split
  · exact goodReply_moves _ _ _ _
  · exact .refl _ _
  · exact .refl _ _

theorem doorChange_moves (p : Part) (l : Level) : p.Moves govPieces (p.doorChange l) := by
  unfold Part.doorChange
  repeat' split
  · exact (claim_moves _ _).mono
  · exact (withdraw_moves _ _).mono
  · exact .refl _ _

/-! ### Auxiliaries (R145 to R157) -/

theorem auxRuns_moves (p : Part) (a : AuxNo) : p.Moves [.aux] (p.auxRuns a) := setAux_moves _ _ _

theorem startAux_moves (p : Part) (a : AuxNo) : p.Moves auxPieces (p.startAux a) := by
  have h : p.Moves auxPieces ((p.grantClaim a).leaveQueue a) :=
    .before (leaveQueue_moves _ _) (grantClaim_moves p a).mono
  unfold Part.startAux
  dsimp only
  generalize (p.grantClaim a).leaveQueue a = p1 at h ⊢
  have h2 : ∀ n r, p.Moves auxPieces ((({ p1 with aux := { p1.aux with startCount := n } } : Part).setAux a r).drive
      (.auxRun a) true) := fun n r =>
    ((h.andThen (moves_aux p1 _)).andThen (setAux_moves _ a r)).andThen (drive_moves _ _ _)
  split
  · exact .before (auxRuns_moves _ _) (h2 _ _)
  · exact h2 _ _

theorem tryHead_moves (p : Part) : p.Moves auxPieces p.tryHead := by
  unfold Part.tryHead
  repeat' split
  · exact .refl _ _
  · exact .refl _ _
  · exact startAux_moves _ _
  · exact .refl _ _

theorem restartStagger_moves (p : Part) : p.Moves [.aux] p.restartStagger := moves_aux p _

/-- Expiry of the stagger timer (R147). -/
theorem staggerExpired_moves (p : Part) : p.Moves auxPieces p.staggerExpired :=
  .before (tryHead_moves _) (restartStagger_moves p).mono

theorem startFailed_moves (p : Part) (a : AuxNo) : p.Moves auxPieces (p.startFailed a) := by
  unfold Part.startFailed
  dsimp only
  refine .before (startOff_moves _ _) ?_
  have h := (switchOff_moves p a).mono (ys := auxPieces)
  generalize p.switchOff a = p1 at h ⊢
  have h2 : ∀ r, p.Moves auxPieces (p1.setAux a r) := fun r => h.andThen (setAux_moves p1 a r)
  split
  · exact .before (raise_moves _ _) (h2 _)
  · exact .before (raise_moves _ _) (h2 _)

theorem startExpired_moves (p : Part) (a : AuxNo) : p.Moves auxPieces (p.startExpired a) := by
  unfold Part.startExpired
  split
  · exact startFailed_moves _ _
  · exact (setAux_moves _ _ _).mono

theorem trip_moves (p : Part) (a : AuxNo) : p.Moves auxPieces (p.trip a) := by
  have h := (switchOff_moves p a).mono (ys := auxPieces)
  unfold Part.trip
  dsimp only
  generalize p.switchOff a = p1 at h ⊢
  split
  · exact .before (startOff_moves _ _) (.before (raise_moves _ _) (h.andThen (setAux_moves _ _ _)))
  · exact .before (startOff_moves _ _) (.before (report_moves _ _ _ _ _ _ _) (h.andThen (setAux_moves _ _ _)))

theorem feedbackChange_moves (p : Part) (a : AuxNo) (l : Level) : p.Moves auxPieces (p.feedbackChange a l) := by
  unfold Part.feedbackChange
  split
  · exact .refl _ _
  · split
    · exact (auxRuns_moves _ _).mono
    · exact trip_moves _ _
    · exact .refl _ _

theorem releaseFaulted_moves (p : Part) (a : AuxNo) : p.Moves auxPieces (p.releaseFaulted a) :=
  .before (endFault_moves _ _ _) (setAux_moves p a _).mono

theorem requestOn_moves (p : Part) (a : AuxNo) : p.Moves [.aux] (p.requestOn a) := by
  unfold Part.requestOn
  dsimp only
  split
  · exact .before (enterQueue_moves _ _) (setAux_moves _ _ _)
  · exact setAux_moves _ _ _

theorem stopAux_moves (p : Part) (a : AuxNo) : p.Moves auxPieces (p.stopAux a) :=
  .before (startOff_moves _ _) (.before (setAux_moves _ _ _) (switchOff_moves p a).mono)

theorem requestOff_moves (p : Part) (a : AuxNo) : p.Moves auxPieces (p.requestOff a) := by
  have h := (setAux_moves p a { p.auxRec a with requested := false }).mono (ys := auxPieces)
  unfold Part.requestOff
  dsimp only
  generalize p.setAux a { p.auxRec a with requested := false } = p1 at h ⊢
  split
  · exact h
  · exact (h.andThen (leaveQueue_moves _ _)).andThen (setAux_moves _ _ _)
  · exact h.andThen (stopAux_moves _ _)
  · exact h.andThen (stopAux_moves _ _)
  · split
    · exact h.andThen (setAux_moves _ _ _)
    · exact h
  · exact h
  · exact h.andThen (releaseFaulted_moves _ _)

theorem auxRequested_moves (p : Part) (a : AuxNo) (b : Bool) : p.Moves auxPieces (p.auxRequested a b) := by
  unfold Part.auxRequested
  split
  · exact (requestOn_moves _ _).mono
  · exact requestOff_moves _ _

/-! ### Links and contacts (chapter 2) -/

theorem setLink_moves (p : Part) (l : Link) (r : LinkRec) : p.Moves [.links] (p.setLink l r) := moves_links p _
theorem setPlRx_moves (p : Part) (l : PLink) (r : PlRx) : p.Moves [.links] (p.setPlRx l r) := moves_links p _
theorem setSerialRx_moves (p : Part) (l : SLink) (r : SerialRx) : p.Moves [.links] (p.setSerialRx l r) := moves_links p _
theorem setInput_moves (p : Part) (i : InputNo) (r : InputRec) : p.Moves [.contacts] (p.setInput i r) := moves_contacts p _

theorem linkNotice_moves (p : Part) (l : Link) (a b : LinkState) : p.Moves polePieces (p.linkNotice l a b) := by
  unfold Part.linkNotice
  repeat' split
  · exact sensorLost_moves _ _ _ _
  · exact sensorLost_moves _ _ _ _
  · exact (lineUnknown_moves _).mono
  · exact .refl _ _
  · exact .refl _ _
  · exact .refl _ _

theorem raiseDegraded_moves (p : Part) (l : Link) (s : LinkState) (c : Option LinkCause) (n : Nat) :
    p.Moves raisePieces (p.raiseDegraded l s c n) := raise_moves _ _

theorem firstActivity_moves (p : Part) (l : Link) : p.Moves [.links] (p.firstActivity l) := by
  unfold Part.firstActivity
  dsimp only
  split
  · exact setLink_moves _ _ _
  · exact .refl _ _

theorem frameAccepted_moves (p : Part) (l : Link) : p.Moves eventPieces (p.frameAccepted l) :=
  .before (linkNotice_moves _ _ _ _) (setLink_moves p l _).mono

theorem frameErrored_moves (p : Part) (l : Link) (c : LinkCause) : p.Moves eventPieces (p.frameErrored l c) := by
  have h : ∀ r a b, p.Moves eventPieces ((p.setLink l r).linkNotice l a b) := fun r a b =>
    .before (linkNotice_moves _ _ _ _) (setLink_moves p l r).mono
  unfold Part.frameErrored
  dsimp only
  split
  · exact .before (raiseDegraded_moves _ _ _ _ _) (h _ _ _)
  · exact h _ _ _

theorem clearReference_moves (p : Part) (l : Link) : p.Moves [.links] (p.clearReference l) := by
  unfold Part.clearReference
  split
  all_goals first | exact setPlRx_moves _ _ _ | exact .refl _ _

/-- Expiry of a silence timer (R32). -/
theorem silenceExpired_moves (p : Part) (l : Link) : p.Moves eventPieces (p.silenceExpired l) := by
  have h : ∀ r a b, p.Moves eventPieces (((p.setLink l r).clearReference l).linkNotice l a b) := fun r a b =>
    .before (linkNotice_moves _ _ _ _) (.before (clearReference_moves _ _) (setLink_moves p l r).mono)
  unfold Part.silenceExpired
  dsimp only
  split
  · exact (setLink_moves _ _ _).mono
  · split
    · exact .before (raiseDegraded_moves _ _ _ _ _) (h _ _ _)
    · exact h _ _ _

theorem trySync_moves (p : Part) (l : PLink) (n : Nat) : p.Moves [.links] (p.trySync l n) := by
  unfold Part.trySync
  split
  · exact setPlRx_moves _ _ _
  · exact .refl _ _

theorem syncTaken_moves (p : Part) (l : PLink) (n : Nat) : p.Moves [.links] (p.syncTaken l n) := by
  unfold Part.syncTaken
  split
  · exact .before (trySync_moves _ _ _) (firstActivity_moves _ _)
  · exact .refl _ _

theorem symbolTaken_moves (p : Part) (l : PLink) (n : Nat) : p.Moves [.links] (p.symbolTaken l n) := by
  unfold Part.symbolTaken
  repeat' split
  · exact .refl _ _
  · exact .before (setPlRx_moves _ _ _) (firstActivity_moves _ _)
  · exact .refl _ _

theorem deliverPl_moves (p : Part) (l : PLink) (s : List Nat) : p.Moves eventPieces (p.deliverPl l s) := by
  have hp : ∀ i, p.Moves eventPieces (p.poleFrame i s) := by
    intro i
    unfold Part.poleFrame
    dsimp only
    split
    · exact (sensorLost_moves _ _ _ _).mono
    · exact (poleData_moves _ _ _ _ _).mono
  unfold Part.deliverPl
  split
  · split
    · exact hp _
    · exact hp _
    · unfold Part.converterFrame
      split
      · exact (lineUnknown_moves _).mono
      · exact .before (judgeBoth_moves _) (lineData_moves _ _ _).mono
  · exact .refl _ _

theorem activeRx_moves (p : Part) (l : PLink) (r : PlRx) : p.Moves eventPieces ((p.firstActivity (plLink l)).setPlRx l r) :=
  .before (setPlRx_moves _ _ _) (firstActivity_moves _ _).mono

/-- A pulse-interval frame that completes (R29, R30). -/
theorem plComplete_moves (p : Part) (l : PLink) (n : Nat) : p.Moves eventPieces (p.plComplete l n) := by
  have h := activeRx_moves p l
  unfold Part.plComplete
  split
  · exact .refl _ _
  · dsimp only
    split
    · split
      · exact .before (deliverPl_moves _ _ _) (.before (frameAccepted_moves _ _) (h _))
      · exact .before (frameErrored_moves _ _ _) (h _)
    · exact .refl _ _

theorem plAbort_moves (p : Part) (l : PLink) (n : Nat) : p.Moves eventPieces (p.plAbort l n) := by
  have h := activeRx_moves p l
  unfold Part.plAbort
  split
  · exact .refl _ _
  · dsimp only
    split
    · exact .before (trySync_moves _ _ _) (.before (frameErrored_moves _ _ _) (h _))
    · exact .refl _ _

theorem serialErrored_moves (p : Part) (l : SLink) (c : LinkCause) (r : SerialRx) :
    p.Moves eventPieces (p.serialErrored l c r) :=
  .before (frameErrored_moves _ _ _) (setSerialRx_moves p l r).mono

theorem takeCharacter_moves (p : Part) (l : SLink) (b : Byte) (o : Bool) : p.Moves eventPieces (p.takeCharacter l b o) := by
  unfold Part.takeCharacter
  split
  · exact (setSerialRx_moves _ _ _).mono
  · repeat' split
    · exact serialErrored_moves _ _ _ _
    · exact (setSerialRx_moves _ _ _).mono
    · exact serialErrored_moves _ _ _ _
  · repeat' split
    · exact .refl _ _
    · exact serialErrored_moves _ _ _ _
    · exact (setSerialRx_moves _ _ _).mono

theorem serialChar_moves (p : Part) (l : SLink) (b : Byte) (o : Bool) : p.Moves eventPieces (p.serialChar l b o) := by
  unfold Part.serialChar
  split
  · exact .before (takeCharacter_moves _ _ _ _) (firstActivity_moves _ _).mono
  · exact .refl _ _

theorem serialError_moves (p : Part) (l : SLink) (e : SerialError) : p.Moves eventPieces (p.serialError l e) := by
  have h := (firstActivity_moves p (serialLink l)).mono (ys := eventPieces)
  unfold Part.serialError
  dsimp only
  split
  · split
    · exact .before (serialErrored_moves _ _ _ _) h
    · split
      · exact .before (serialErrored_moves _ _ _ _) h
      · exact .refl _ _
    · exact .before (serialErrored_moves _ _ _ _) h
  · exact .refl _ _

theorem deliverSerial_moves (p : Part) (l : SLink) (b : List Byte) : p.Moves eventPieces (p.deliverSerial l b) := by
  unfold Part.deliverSerial
  dsimp only
  split
  · exact (tagFrame_moves _ _ _).mono
  · exact (driveFrame_moves _ _ _).mono

/-- A serial frame that ends with its check bytes (R35, R36). -/
theorem serialComplete_moves (p : Part) (l : SLink) : p.Moves eventPieces (p.serialComplete l) := by
  have h : p.Moves eventPieces ((p.firstActivity (serialLink l)).setSerialRx l .waiting) :=
    .before (setSerialRx_moves _ _ _) (firstActivity_moves _ _).mono
  unfold Part.serialComplete
  split
  · split
    · dsimp only
      split
      · exact .before (deliverSerial_moves _ _ _) (.before (frameAccepted_moves _ _) h)
      · exact .before (frameErrored_moves _ _ _) h
    · exact .refl _ _
  · exact .refl _ _

theorem rawChange_moves (p : Part) (i : InputNo) (l : Level) : p.Moves [.contacts] (p.rawChange i l) := by
  unfold Part.rawChange
  dsimp only
  repeat' split
  · exact .refl _ _
  · exact setInput_moves _ _ _
  · exact .refl _ _
  · exact setInput_moves _ _ _

theorem pinSensed_moves (p : Part) (i : InputNo) (v : PinVoltage) : p.Moves [.contacts] (p.pinSensed i v) :=
  rawChange_moves _ _ _

theorem deliverContact_moves (p : Part) (i : InputNo) (l : Level) : p.Moves eventPieces (p.deliverContact i l) := by
  unfold Part.deliverContact
  dsimp only
  split
  · exact (housedChange_moves _ _ _).mono
  · exact (housedChange_moves _ _ _).mono
  · exact (tripChange_moves _ _ _).mono
  · exact (tripChange_moves _ _ _).mono
  · exact (doorChange_moves _ _).mono
  · split
    · exact (feedbackChange_moves _ _ _).mono
    · exact .refl _ _
  · exact .refl _ _
  · exact .refl _ _

/-- Expiry of a debounce timer (R40). -/
theorem debounced_moves (p : Part) (i : InputNo) : p.Moves eventPieces (p.debounced i) :=
  .before (deliverContact_moves _ _ _) (setInput_moves p i _).mono

theorem cleaningDone_moves (p : Part) (i : InputNo) : p.Moves [.contacts] (p.cleaningDone i) := setInput_moves _ _ _

theorem polled_moves (p : Part) (c : Vector PinVoltage 16) : p.Moves [.contacts] (p.polled c) := moves_contacts p _

end Sys2Proof.Machine
end

