-- ==== Sys2Proof/Laws/Queue.lean ====
section
/-! SUPPORT. The entry orders that the end of an event gives out (R146): what `orderEntries` can do, and that it orders by
number. -/

set_option Elab.async false

namespace Sys2Proof.Machine

/-! ### Sorting -/

theorem mem_insertBy {α : Type} (f : α → α → Bool) (x y : α) (l : List α) : y ∈ insertBy f x l ↔ y = x ∨ y ∈ l := by
  induction l with
  | nil => simp [insertBy]
  | cons z zs ih =>
    unfold insertBy
    split
    · simp
    · simp only [List.mem_cons, ih]
      grind

theorem mem_sortBy {α : Type} (f : α → α → Bool) (y : α) (l : List α) : y ∈ sortBy f l ↔ y ∈ l := by
  induction l with
  | nil => simp [sortBy]
  | cons z zs ih => simp [sortBy, mem_insertBy, ih]

/-- Numbers sorted do not fall. -/
theorem sortBy_rising (l : List Nat) : (sortBy (fun x y => decide (x < y)) l).Pairwise (· ≤ ·) := by
  have insert : ∀ (x : Nat) (l : List Nat), l.Pairwise (· ≤ ·) → (insertBy (fun x y => decide (x < y)) x l).Pairwise (· ≤ ·) := by
    intro x l h
    induction l with
    | nil => simp [insertBy]
    | cons y ys ih =>
      obtain ⟨h1, h2⟩ := List.pairwise_cons.mp h
      unfold insertBy
      split
      · rename_i hx
        have hx : x < y := by simpa using hx
        exact List.pairwise_cons.mpr ⟨fun z hz => by
          rcases List.mem_cons.mp hz with rfl | hz
          · omega
          · have := h1 z hz; omega, h⟩
      · rename_i hx
        have hx : y ≤ x := by simpa using hx
        refine List.pairwise_cons.mpr ⟨fun z hz => ?_, ih h2⟩
        rcases (mem_insertBy _ _ _ _).mp hz with rfl | hz
        · exact hx
        · exact h1 z hz
  induction l with
  | nil => simp [sortBy]
  | cons x xs ih => exact insert x _ ih

theorem length_sortBy {α : Type} (f : α → α → Bool) (l : List α) : (sortBy f l).length = l.length := by
  have insert : ∀ (x : α) (l : List α), (insertBy f x l).length = l.length + 1 := by
    intro x l
    induction l with
    | nil => rfl
    | cons y ys ih => unfold insertBy; split <;> simp [ih]
  induction l with
  | nil => rfl
  | cons x xs ih => simp [sortBy, insert, ih]

/-! ### Entry orders (R146) -/

/-- What an event does to pieces other than the Auxiliary Scheduler's it does before the entry orders (R146). -/
theorem orderEntries_only {xs : List Piece} {p q : Part} (h : p.onlyChanges xs q) (hx : xs.contains .aux = true) :
    p.onlyChanges xs (q.orderEntries p) :=
  Part.onlyChanges_trans h (Part.onlyChanges_mono (orderEntries_moves q p).drifts.only (by simp_all [within]))

/-- The entry orders change no auxiliary's record but for its entry order (R146). -/
theorem forEach_setOrder (xs : List (AuxNo × Nat)) (q : Part) (a : AuxNo) :
    ∃ n, (q.forEach xs Part.setOrder).auxRec a = { q.auxRec a with entryOrder := n } := by
  induction xs generalizing q with
  | nil => exact ⟨_, rfl⟩
  | cons x xs ih =>
    obtain ⟨n, h⟩ := ih (q.setOrder x)
    refine ⟨n, h.trans ?_⟩
    by_cases hx : a = x.1
    · subst hx
      simp [Part.setOrder]
    · simp [Part.setOrder, Part.auxRec_set_other _ _ _ _ hx]

theorem orderEntries_auxRec (q p : Part) (a : AuxNo) :
    ∃ n, (q.orderEntries p).auxRec a = { q.auxRec a with entryOrder := n } := by
  unfold Part.orderEntries
  dsimp only
  split
  · exact ⟨_, rfl⟩
  · exact forEach_setOrder _ _ a

theorem forEach_setOrder_queue (xs : List (AuxNo × Nat)) (q : Part) : (q.forEach xs Part.setOrder).aux.queue = q.aux.queue := by
  induction xs generalizing q with
  | nil => rfl
  | cons x xs ih => exact ih (q.setOrder x)

/-- The entry orders change the order of the queue and not who stands in it (R146). -/
theorem orderEntries_queue (q p : Part) (a : AuxNo) : a ∈ (q.orderEntries p).aux.queue ↔ a ∈ q.aux.queue := by
  unfold Part.orderEntries
  dsimp only
  split
  · exact Iff.rfl
  · unfold Part.resortQueue
    simp only [mem_sortBy, forEach_setOrder_queue]

/-- The Auxiliary Scheduler's counts and its stagger timer are as they were. -/
theorem orderEntries_rest (q p : Part) : (q.orderEntries p).aux.stagger = q.aux.stagger
    ∧ (q.orderEntries p).aux.entryCount = q.aux.entryCount ∧ (q.orderEntries p).aux.startCount = q.aux.startCount := by
  have h : ∀ (xs : List (AuxNo × Nat)) (q : Part), (q.forEach xs Part.setOrder).aux.stagger = q.aux.stagger
      ∧ (q.forEach xs Part.setOrder).aux.entryCount = q.aux.entryCount
      ∧ (q.forEach xs Part.setOrder).aux.startCount = q.aux.startCount := by
    intro xs
    induction xs with
    | nil => exact fun q => ⟨rfl, rfl, rfl⟩
    | cons x xs ih => exact fun q => ih (q.setOrder x)
  unfold Part.orderEntries
  dsimp only
  split
  · exact ⟨rfl, rfl, rfl⟩
  · exact h _ _

theorem setOrder_other (q : Part) (x : AuxNo × Nat) (a : AuxNo) (h : a ≠ x.1) : (q.setOrder x).auxRec a = q.auxRec a :=
  Part.auxRec_set_other _ _ _ _ h

theorem forEach_setOrder_other (xs : List (AuxNo × Nat)) (q : Part) (a : AuxNo) (h : ∀ x ∈ xs, a ≠ x.1) :
    (q.forEach xs Part.setOrder).auxRec a = q.auxRec a := by
  induction xs generalizing q with
  | nil => rfl
  | cons x xs ih =>
    exact (ih (q.setOrder x) (fun y hy => h y (List.mem_cons_of_mem _ hy))).trans
      (setOrder_other q x a (h x List.mem_cons_self))

/-- Each of a list of different auxiliaries takes the order given beside it. -/
theorem forEach_setOrder_mem (xs : List (AuxNo × Nat)) (q : Part) (hn : xs.Pairwise (fun x y => x.1 ≠ y.1)) (x : AuxNo × Nat)
    (hx : x ∈ xs) : ((q.forEach xs Part.setOrder).auxRec x.1).entryOrder = x.2 := by
  induction xs generalizing q with
  | nil => simp at hx
  | cons y ys ih =>
    obtain ⟨h1, h2⟩ := List.pairwise_cons.mp hn
    rcases List.mem_cons.mp hx with rfl | hx
    · refine (congrArg AuxRec.entryOrder
        (forEach_setOrder_other ys (q.setOrder x) x.1 (fun y hy => h1 y hy))).trans ?_
      simp [Part.setOrder]
    · exact ih (q.setOrder y) h2 hx

theorem entered_rising (q p : Part) : (p.entered q).Pairwise (· < ·) :=
  List.Pairwise.filter _ (by decide)

/-- An auxiliary that has not entered the queue in the event keeps its record. -/
theorem orderEntries_others (q p : Part) (a : AuxNo) (h : a ∉ p.entered q) : (q.orderEntries p).auxRec a = q.auxRec a := by
  unfold Part.orderEntries
  dsimp only
  split
  · rfl
  · exact forEach_setOrder_other _ _ _ (fun x hx e => h (e ▸ (List.of_mem_zip hx).1))

/-- The auxiliaries that have entered the queue in one event stand by number (R146). -/
theorem orderEntries_byNumber (q p : Part) (a b : AuxNo) (ha : a ∈ p.entered q) (hb : b ∈ p.entered q) (hab : a < b) :
    ((q.orderEntries p).auxRec a).entryOrder ≤ ((q.orderEntries p).auxRec b).entryOrder := by
  obtain ⟨i, hi, rfl⟩ := List.getElem_of_mem ha
  obtain ⟨j, hj, rfl⟩ := List.getElem_of_mem hb
  have hij : i < j := by
    rcases Nat.lt_trichotomy i j with h | h | h
    · exact h
    · subst h; exact absurd hab (Nat.lt_irrefl _)
    · exact absurd (Nat.lt_trans (List.pairwise_iff_getElem.mp (entered_rising q p) j i hj hi h) hab) (Nat.lt_irrefl _)
  have h2 : ¬ (p.entered q).length < 2 := by omega
  unfold Part.orderEntries
  dsimp only
  rw [if_neg h2]
  generalize hos : sortBy (fun x y => decide (x < y)) ((p.entered q).map (fun a => (q.auxRec a).entryOrder)) = os
  have hl : os.length = (p.entered q).length := by rw [← hos, length_sortBy, List.length_map]
  have hr : os.Pairwise (· ≤ ·) := hos ▸ sortBy_rising _
  have hn : ((p.entered q).zip os).Pairwise (fun x y => x.1 ≠ y.1) := by
    refine List.pairwise_iff_getElem.mpr (fun m n hm hn hmn => ?_)
    simp only [List.getElem_zip]
    exact Fin.ne_of_lt (List.pairwise_iff_getElem.mp (entered_rising q p) m n _ _ hmn)
  have at_ : ∀ m (hm : m < (p.entered q).length),
      ((q.forEach ((p.entered q).zip os) Part.setOrder).auxRec (p.entered q)[m]).entryOrder = os[m]'(by omega) := by
    intro m hm
    have := forEach_setOrder_mem ((p.entered q).zip os) q hn (((p.entered q)[m], os[m]'(by omega))) (by
      refine List.mem_iff_getElem.mpr ⟨m, by simp [hl, hm], by simp [List.getElem_zip]⟩)
    exact this
  have e : ∀ a, ((q.forEach ((p.entered q).zip os) Part.setOrder).resortQueue).auxRec a
      = (q.forEach ((p.entered q).zip os) Part.setOrder).auxRec a := fun _ => rfl
  rw [e, e, at_ i hi, at_ j hj]
  exact List.pairwise_iff_getElem.mp hr i j _ _ hij

end Sys2Proof.Machine
end

