-- ==== Sys2Proof/Laws/Modes.lean ====
section
/-! SUPPORT. Mode changes, resets and register commands: the five properties of Safety.lean hold after each, and the mode is
the one entered (chapter 11, R2, R9, R12, R25, R26). -/

set_option Elab.async false

namespace Sys2Proof.Machine

/-- The five properties with the mode `m` and the reason MODE as `b`. -/
structure Part.Fits (m : Mode) (b : Bool) (p : Part) : Prop where
  mode : p.mode = m
  reason : p.gov.inhibit.mode = b
  accounted : p.mbx.accounted
  guarded : p.guarded
  claims : p.poleClaims
  blind : p.blindOnWire
  noticed : p.noticed

theorem Part.good.fits {p : Part} (h : p.good) : p.Fits p.mode p.gov.inhibit.mode :=
  ⟨rfl, rfl, h.1, h.2.1.2, h.2.2.1, h.2.2.2.1, h.2.2.2.2⟩

theorem Part.Fits.good {p : Part} {m : Mode} {b : Bool} (h : p.Fits m b) (hb : b = true ↔ m ≠ .run) : p.good := by
  refine ⟨h.accounted, ⟨?_, h.guarded⟩, h.claims, h.blind, h.noticed⟩
  rw [h.reason, h.mode]
  exact hb

theorem Part.Moves.fits {xs : List Piece} {p q : Part} {m : Mode} {b : Bool} (k : p.Moves xs q) (h : p.Fits m b)
    (hm : xs.contains .mode = false := by decide) : q.Fits m b := by
  have hx : Piece.mode ∉ xs := by
    intro hc
    rw [List.contains_iff_mem.mpr hc] at hm
    exact absurd hm (by decide)
  have h1 : q.mode = p.mode := k.drifts.only .mode hx
  exact ⟨h1.trans h.mode, k.drifts.modeReason.trans h.reason, k.drifts.accounted h.accounted, k.drifts.guarded h.guarded,
    k.claims h.claims, k.drifts.blind h.blind, k.noticed h.noticed⟩

/-- A move that leaves the mode alone keeps the five properties. -/
theorem Part.Moves.good {xs : List Piece} {p q : Part} (k : p.Moves xs q) (h : p.good)
    (hm : xs.contains .mode = false := by decide) : q.good :=
  (k.fits h.fits hm).good h.2.1.1

theorem fits_mode {p : Part} {m : Mode} {b : Bool} (h : p.Fits m b) (m' : Mode) : ({ p with mode := m' } : Part).Fits m' b :=
  ⟨rfl, h.reason, h.accounted, h.guarded, h.claims, h.blind, h.noticed⟩

theorem claimMode_fits {p : Part} {m : Mode} {b : Bool} (h : p.Fits m b) : (p.claim .mode).Fits m true := by
  have ho := claim_only p .mode
  have hi := claim_inhibit p .mode
  refine ⟨(ho .mode (by decide)).trans h.mode, by rw [hi]; rfl, accounted_of_same (ho .reports (by decide)) h.accounted, ?_, ?_,
    blindOnWire_of_same (ho .poles (by decide)) h.blind,
    (quiet_of_same (ho .line (by decide)) (ho .poles (by decide)) (ho .keptPoles (by decide))).owes (ns := []) h.noticed⟩
  · obtain ⟨h1, h2⟩ := h.guarded
    refine ⟨?_, claim_armed_empty p .mode h2⟩
    rw [hi, show (p.claim .mode).faults.state = p.faults.state from (ho .collector (by decide)).1]
    exact h1
  · obtain ⟨h1, h2, h3⟩ := h.claims
    have hp : (p.claim .mode).poles = p.poles := ho .poles (by decide)
    refine ⟨?_, ?_, ?_⟩ <;> rw [hi] <;> simp only [Part.anyPole, hp]
    · exact h1
    · exact h2
    · exact h3

theorem withdrawMode_fits {p : Part} {m : Mode} {b : Bool} (h : p.Fits m b) : (p.withdraw .mode).Fits m false :=
  ⟨h.mode, rfl, h.accounted, ⟨h.guarded.1, fun ha => empty_withdraw _ _ (h.guarded.2 ha)⟩, h.claims, h.blind, h.noticed⟩

/-! ### Parts of a mode change -/

theorem modeReport_moves (p : Part) (k : ReportKind) (t : Word) (x : List Item) :
    p.Moves [.reports, .chains, .port] (p.modeReport k t x) := report_moves _ _ _ _ _ _ _

theorem noteModeChange_moves (p : Part) : p.Moves [.attention] p.noteModeChange := moves_attention p _

theorem endModeChange_moves (p : Part) (k : ReportKind) (t : Word) (x : List Item) :
    p.Moves [.reports, .chains, .port, .attention, .mirror] (p.endModeChange k t x) :=
  .before (mirrorStart_moves _) (.before (noteModeChange_moves _) (modeReport_moves p k t x).mono)

theorem restartMirror_moves (p : Part) : p.Moves [.mirror] p.restartMirror := moves_mirror p _

theorem rescanChains_moves (p : Part) : p.Moves [.chains, .port] p.rescanChains :=
  moves_walk (((rescanParked_walks _ _).trans (rescanParked_walks _ _)).trans (rescanParked_walks _ _))

theorem portEntersLayover_moves (p : Part) : p.Moves [.chains, .mirror] p.portEntersLayover :=
  .ofOnly (fun x _ => by cases x <;> simp_all [Part.same, Part.portEntersLayover])

/-- Poles whose records keep their blindness and their place on the wire, or lose their blindness. -/
theorem drifts_poleMap (p : Part) (f : Pole → Pole)
    (h : ∀ q : Pole, q.blindOk → (f q).blindOk := by
      first | exact fun _ k => k | exact fun _ _ k => Bool.noConfusion k) :
    p.Drifts [.poles] { p with poles := ⟨f p.poles.p, f p.poles.n⟩ } :=
  drifts_poles p _ (fun k i => by cases i; exacts [h _ (k .p), h _ (k .n)])

/-- Both poles are UNTRACKED, and so are the copies of their states (R60, R71, R92). -/
theorem untracked_told (p : Part) (f : Pole → Pole) (hs : ∀ q : Pole, (f q).state = .untracked)
    (hb : ∀ q : Pole, (f q).blind = false) :
    p.Told [.line, .keptPoles, .poles] { p.untrackCopies with poles := ⟨f p.poles.p, f p.poles.n⟩ } := by
  refine ⟨⟨fun x hx => by cases x <;> simp_all [Part.same, Part.untrackCopies], rfl, id, id, fun _ i k => ?_⟩,
    fun _ i => ?_⟩
  · cases i <;> (simp only [PerPole.get, hb] at k; exact Bool.noConfusion k)
  · cases i <;> exact ⟨(hs _).symm, (hs _).symm⟩

theorem polesEnterRun_moves (p : Part) : p.Moves polePieces p.polesEnterRun :=
  Part.Told.updateClaims (untracked_told p (fun q => q.resolve (p.startTimer p.tables.timers.resolutionWindow))
    (fun _ => rfl) (fun _ => rfl)).mono

/-- A governor record that is DISARMED. -/
theorem moves_disarmed (p : Part) (g : Governor) (h : g.inhibit = p.gov.inhibit := by rfl) (ha : g.armed = false := by rfl) :
    p.Moves [.inhibit, .setpoint, .demand, .replies] { p with gov := g } := by
  have ho : p.onlyChanges [.inhibit, .setpoint, .demand, .replies] ({ p with gov := g } : Part) := by
    intro x hx; cases x <;> simp_all [Part.same]
  refine Part.Drifts.moves ⟨ho, by simp [h], accounted_of_same (ho _ (by decide)), ?_, blindOnWire_of_same (ho _ (by decide))⟩ ?_
  · rintro ⟨h1, -⟩
    exact ⟨by simpa [h] using h1, fun k => by simp [ha] at k⟩
  · rintro ⟨h1, h2, h3⟩
    exact ⟨by simpa [h, Part.anyPole] using h1, by simpa [h, Part.anyPole] using h2, by simpa [h, Part.anyPole] using h3⟩

theorem governorEntersRun_moves (p : Part) : p.Moves govPieces p.governorEntersRun := by
  unfold Part.governorEntersRun
  dsimp only
  exact .before (claimIf_moves _ _ _) (moves_disarmed p _).mono

theorem governorLeavesRun_moves (p : Part) : p.Moves govPieces p.governorLeavesRun := by
  unfold Part.governorLeavesRun
  dsimp only
  exact .before (moves_disarmed _ _) (.before (withdraw_moves _ _) (.before (dropOwn_moves _ _ _ _)
    (.before (dropOwn_moves _ _ _ _) (dropOwn_moves p _ _ _))))

theorem standingRequest_moves (p : Part) (a : AuxNo) : p.Moves [.aux] (p.standingRequest a) := by
  unfold Part.standingRequest Part.requeue
  dsimp only
  repeat' split
  · exact .before (enterQueue_moves _ _) (setAux_moves _ _ _)
  · exact setAux_moves _ _ _
  · exact .refl _ _

theorem requeue_moves (p : Part) (a : AuxNo) : p.Moves [.aux] (p.requeue a) := by
  unfold Part.requeue
  split
  · exact enterQueue_moves _ _
  · exact .refl _ _

theorem auxEntersRun_moves (p : Part) : p.Moves [.aux] p.auxEntersRun :=
  .before (restartStagger_moves _) (forEach_moves _ (fun p a => standingRequest_moves p a) _ _)

theorem auxLeavesLayover_moves (p : Part) : p.Moves [.aux] p.auxLeavesLayover :=
  .before (restartStagger_moves _) (forEach_moves _ (fun p a => requeue_moves p a) _ _)

theorem offForLayover_moves (p : Part) (a : AuxNo) : p.Moves auxPieces (p.offForLayover a) := by
  have h := (switchOff_moves p a).mono (ys := auxPieces)
  unfold Part.offForLayover
  dsimp only
  split
  · exact h.andThen (setAux_moves _ _ _)
  · exact h.andThen (setAux_moves _ _ _)
  · exact .before (setAux_moves _ _ _) (leaveQueue_moves _ _).mono
  · exact (setAux_moves _ _ _).mono
  · exact (setAux_moves _ _ _).mono
  · exact .refl _ _
  · exact .refl _ _

theorem layoverAux_moves (p : Part) (a : AuxNo) : p.Moves auxPieces (p.layoverAux a) := by
  unfold Part.layoverAux
  dsimp only
  split
  · exact (setAux_moves _ _ _).mono
  · exact (setAux_moves p a _).mono.andThen (offForLayover_moves _ a)

theorem auxEntersLayover_moves (p : Part) : p.Moves auxPieces p.auxEntersLayover :=
  .before (restartStagger_moves _) (forEach_moves _ (fun p a => layoverAux_moves p a) _ _)

theorem haltAux_moves (p : Part) (a : AuxNo) : p.Moves auxPieces (p.haltAux a) := by
  unfold Part.haltAux
  dsimp only
  split
  · exact .before (setAux_moves _ _ _) (endFault_moves _ _ _).mono
  · exact (setAux_moves _ _ _).mono

theorem auxEntersHalt_moves (p : Part) : p.Moves auxPieces p.auxEntersHalt := by
  unfold Part.auxEntersHalt
  exact .before (moves_aux _ _) (forEach_moves _ (fun p a => haltAux_moves p a) _ _)

theorem endPoleFaults_moves (p : Part) (i : PoleId) : p.Moves [.outputs, .records] (p.endPoleFaults i) := by
  unfold Part.endPoleFaults
  dsimp only
  have h1 : p.Moves [.outputs, .records]
      (if (p.poles.get i).state = .dewired then p.endFault .poleDewired (poleSource i .none) else p) := by
    split
    · exact endFault_moves _ _ _
    · exact .refl _ _
  have h2 := h1.andThen (endFaultIf_moves _ (p.poles.get i).blind .poleSensor (poleSource i .blind))
  split
  · exact .before (endFault_moves _ _ _) h2
  · exact .before (endFault_moves _ _ _) h2
  · exact h2

theorem abandonAtHalt_moves (p : Part) (i : PoleId) : p.Moves [.reports, .chains, .port] (p.abandonAtHalt i) := by
  unfold Part.abandonAtHalt
  dsimp only
  split
  · exact poleReport_moves _ _ _ _ _ _
  · exact poleReport_moves _ _ _ _ _ _
  all_goals exact .refl _ _

theorem polesEnterHalt_moves (p : Part) : p.Moves polePieces p.polesEnterHalt := by
  unfold Part.polesEnterHalt
  dsimp only
  exact Part.Told.updateClaims (.before (untracked_told _ Pole.halted (fun _ => rfl) (fun _ => rfl))
    (.before (endPoleFaults_moves _ _).told (.before (endPoleFaults_moves _ _).told
      (.before (abandonAtHalt_moves _ _).told (abandonAtHalt_moves p _).told.mono))))

theorem lineEntersHalt_moves (p : Part) (hc : p.line.poleCopy = ⟨.untracked, .untracked⟩) :
    p.Moves linePieces p.lineEntersHalt := by
  unfold Part.lineEntersHalt
  dsimp only
  have h := (moves_line p (p.line.halted p.tables) hc.symm).mono (ys := linePieces)
  split
  · split
    · exact .before (endFault_moves _ _ _) (.before (endFault_moves _ _ _) h)
    · exact .before (endFault_moves _ _ _) h
  · split
    · exact .before (endFault_moves _ _ _) h
    · exact h

/-- The Pole Monitor leaves the line's copy UNTRACKED at HALT entry (R60). -/
theorem polesEnterHalt_copy (p : Part) : p.polesEnterHalt.line.poleCopy = ⟨.untracked, .untracked⟩ := by
  unfold Part.polesEnterHalt
  exact (updateClaims_drifts _).quiet.copy

theorem collectorHalted_moves (p : Part) : p.Moves [.alarms] { p with faults := p.faults.halted } :=
  moves_alarms p _ rfl rfl rfl

theorem freshOutput_moves (p : Part) (r : OutputRole) (o : OutputNo) : p.Moves [.outputs, .records] (p.freshOutput r o) := by
  unfold Part.freshOutput
  dsimp only
  split
  · exact .before (endFault_moves _ _ _) (setOutput_moves _ _ _).mono
  · exact (setOutput_moves _ _ _).mono

theorem outputsHalt_moves (p : Part) : p.Moves [.outputs, .records] p.outputsHalt :=
  forEach_moves _ (fun p o => freshOutput_moves p _ o) _ _

theorem outputsReset_moves (p : Part) : p.Moves [.outputs] p.outputsReset :=
  forEach_moves _ (fun p o => setOutput_moves p o _) _ _

theorem inputsReset_moves (p : Part) : p.Moves [.contacts] p.inputsReset :=
  .before (forEach_moves _ (fun p i => setInput_moves p i _) _ _) (moves_contacts p {})

theorem contactsLeaveLayover_moves (p : Part) : p.Moves [.contacts] p.contactsLeaveLayover := moves_contacts p _

theorem contactsEnterLayover_moves (p : Part) : p.Moves [.contacts] p.contactsEnterLayover := by
  unfold Part.contactsEnterLayover
  exact .before (moves_contacts _ _) (forEach_moves _ (fun p i => setInput_moves p i _) _ _)

theorem endLayover_moves (p : Part) : p.Moves [.contacts, .mirror] p.endLayover :=
  .before (restartMirror_moves _) (contactsLeaveLayover_moves p).mono

theorem polesToLayover_moves (p : Part) :
    p.Moves [.poles] { p with poles := ⟨p.poles.p.toLayover, p.poles.n.toLayover⟩ } :=
  ⟨drifts_poleMap p Pole.toLayover, fun k i => by cases i; exacts [k .p, k .n], fun k => k⟩

theorem polesEnterLayover_moves (p : Part) : p.Moves [.outputs, .records, .poles] p.polesEnterLayover := by
  have h : p.Moves [.outputs, .records, .poles] ((p.drive (.retriever .p) false).drive (.retriever .n) false) :=
    .before (drive_moves _ _ _) (drive_moves p _ _).mono
  unfold Part.polesEnterLayover
  dsimp only
  generalize (p.drive (.retriever .p) false).drive (.retriever .n) false = p1 at h ⊢
  exact h.andThen (polesToLayover_moves p1)

theorem lineEntersLayover_moves (p : Part) : p.Moves linePieces p.lineEntersLayover := by
  unfold Part.lineEntersLayover
  dsimp only
  exact .before (moves_lineOwn _ _) (lineUnknown_moves p)

/-! ### The mode changes (R181 to R184) -/

/-- Entry to RUN from HALT (R181). -/
theorem enterRun_fits {p : Part} {m : Mode} {b : Bool} (h : p.Fits m b) : p.enterRun.Fits .run false := by
  have h1 : ({ p with mode := .run, links := .start } : Part).Fits .run b :=
    (moves_links _ _).fits (fits_mode h .run)
  have h2 := (governorEntersRun_moves _).fits ((polesEnterRun_moves _).fits ((lineUnknown_moves _).fits h1))
  have h3 := (evalAlarms_moves _).fits ((auxEntersRun_moves _).fits (withdrawMode_fits h2))
  have h4 := (moves_lastReset _ .none).fits ((modeReport_moves _ .runEntered 0 [.small (resetKindCode p.lastReset)]).fits h3)
  have h5 := (mirrorStart_moves _).fits ((noteModeChange_moves _).fits h4)
  have he : p.lastReset = (((({ p with mode := .run, links := .start } : Part).lineUnknown.polesEnterRun.governorEntersRun.withdraw
      .mode).auxEntersRun).evalAlarms).lastReset := by
    have k1 := (evalAlarms_moves (((({ p with mode := .run, links := .start } : Part).lineUnknown.polesEnterRun.governorEntersRun.withdraw
      .mode).auxEntersRun))).drifts.only .lastReset (by decide)
    have k2 := (auxEntersRun_moves (({ p with mode := .run, links := .start } : Part).lineUnknown.polesEnterRun.governorEntersRun.withdraw
      .mode)).drifts.only .lastReset (by decide)
    have k3 := (governorEntersRun_moves (({ p with mode := .run, links := .start } : Part).lineUnknown.polesEnterRun)).drifts.only
      .lastReset (by decide)
    have k4 := (polesEnterRun_moves (({ p with mode := .run, links := .start } : Part).lineUnknown)).drifts.only
      .lastReset (by decide)
    have k5 := (lineUnknown_moves ({ p with mode := .run, links := .start } : Part)).drifts.only .lastReset (by decide)
    simp only [Part.same] at k1 k2 k3 k4 k5
    simp [k1, k2, k3, k4, k5]
  unfold Part.enterRun
  dsimp only
  rw [← he]
  exact h5

/-- Entry to HALT (R182). -/
theorem enterHalt_fits {p : Part} {m : Mode} {b : Bool} (h : p.Fits m b) : p.enterHalt.Fits .halt true := by
  have h1 := (governorLeavesRun_moves _).fits (claimMode_fits (fits_mode h .halt))
  unfold Part.enterHalt
  dsimp only
  generalize ((({ p with mode := .halt } : Part).claim .mode).governorLeavesRun) = p1 at h1 ⊢
  have h2 := (lineEntersHalt_moves _ (polesEnterHalt_copy _)).fits
    ((polesEnterHalt_moves _).fits ((moves_links p1 Links.stop).fits h1))
  generalize (({ p1 with links := Links.stop } : Part).polesEnterHalt.lineEntersHalt) = p2 at h2 ⊢
  have h3 := (auxEntersHalt_moves _).fits ((moves_zones p2 p2.zones.halted).fits h2)
  generalize (({ p2 with zones := p2.zones.halted } : Part).auxEntersHalt) = p3 at h3 ⊢
  have h4 := (evalAlarms_moves _).fits ((outputsHalt_moves _).fits ((collectorHalted_moves p3).fits h3))
  refine (endModeChange_moves _ _ _ _).fits ?_
  split
  · exact (endLayover_moves _).fits h4
  · exact h4

/-- Entry to LAYOVER (R183). -/
theorem enterLayover_fits {p : Part} {m : Mode} {b : Bool} (h : p.Fits m b) (t : Word) :
    (p.enterLayover t).Fits .layover true := by
  have h1 := (governorLeavesRun_moves _).fits (claimMode_fits (fits_mode h .layover))
  unfold Part.enterLayover
  dsimp only
  generalize ((({ p with mode := .layover } : Part).claim .mode).governorLeavesRun) = p1 at h1 ⊢
  have h2 := (polesEnterLayover_moves _).fits ((contactsEnterLayover_moves _).fits ((moves_links p1 Links.stop).fits h1))
  exact (endModeChange_moves _ _ _ _).fits ((portEntersLayover_moves _).fits ((lineEntersLayover_moves _).fits
    ((auxEntersLayover_moves _).fits h2)))

theorem polesWake_moves (p : Part) : p.Moves [.poles] { p with poles := ⟨p.poles.p.wake, p.poles.n.wake⟩ } :=
  ⟨drifts_poleMap p Pole.wake, fun k i => by cases i; exacts [k .p, k .n], fun k => k⟩

/-- Leaving LAYOVER for RUN (R184). -/
theorem leaveLayover_fits {p : Part} {m : Mode} {b : Bool} (h : p.Fits m b) (c : WakeCause) (t : Word) (x : List Item) :
    (p.leaveLayover c t x).Fits .run false := by
  have h1 : ({ p with mode := .run, links := .start } : Part).Fits .run b :=
    (moves_links _ _).fits (fits_mode h .run)
  have h2 := (governorEntersRun_moves _).fits ((polesWake_moves _).fits ((lineUnknown_moves _).fits h1))
  exact (endModeChange_moves _ _ _ _).fits ((rescanChains_moves _).fits ((endLayover_moves _).fits
    ((auxLeavesLayover_moves _).fits (withdrawMode_fits h2))))

theorem wakeEvent_good {p : Part} (h : p.good) (i : InputNo) : (p.wakeEvent i).good := by
  unfold Part.wakeEvent
  dsimp only
  split
  · exact (leaveLayover_fits h.fits _ _ _).good (by decide)
  · exact h

theorem forEach_good {α : Type} (f : Part → α → Part) (hf : ∀ p x, p.good → (f p x).good) (xs : List α) (p : Part)
    (h : p.good) : (p.forEach xs f).good := by
  induction xs generalizing p with
  | nil => exact h
  | cons x xs ih => exact ih _ (hf p x h)

theorem secondSampled_good {p : Part} (h : p.good) (c : Vector PinVoltage 16) : (p.secondSampled c).good :=
  forEach_good _ (fun p i hp => wakeEvent_good hp i) _ _ ((moves_contacts p _).good h)

/-! ### Resets (R178) -/

theorem freshPart_fits (n : Nat) : ({ freeUses := n : Part }).Fits .halt true := by
  refine ⟨rfl, rfl, ?_, ?_, ?_, fun i k => by cases i <;> exact Bool.noConfusion k, fun i => by cases i <;> exact ⟨rfl, rfl⟩⟩
  · simp [Mailbox.accounted, word]
  · simp [Part.guarded]
  · refine ⟨?_, ?_, ?_⟩ <;>
      simp [Part.anyPole, Pole.suspectClaim, Pole.dewiredClaim, Pole.movingClaim]

/-- A power-on reset (R178). -/
theorem powerOn_fits (p : Part) : p.powerOn.Fits .halt true :=
  (forEach_moves (ys := [.outputs]) _ (fun q o => setOutput_moves q o _) _ _).fits (freshPart_fits p.freeUses)

theorem readAnchors_walks (m : Mailbox) : m.WalksTo m.readAnchors :=
  ((readAnchor_walks _ _).trans (readAnchor_walks _ _)).trans (readAnchor_walks _ _)

/-- A command reset (R178). -/
theorem commandReset_fits (p : Part) : p.commandReset.Fits .halt true := by
  unfold Part.commandReset
  dsimp only
  refine (cutFrame_moves _).fits ((outputsReset_moves _).fits ((inputsReset_moves _).fits ?_))
  refine ⟨rfl, rfl, ?_, ?_, ?_, fun i k => by cases i <;> exact Bool.noConfusion k, fun i => by cases i <;> exact ⟨rfl, rfl⟩⟩
  · refine WalksTo.accounted (readAnchors_walks _) ?_
    simp [Mailbox.accounted, Mailbox.reset, word]
  · simp [Part.guarded]
  · refine ⟨?_, ?_, ?_⟩ <;>
      simp [Part.anyPole, Pole.suspectClaim, Pole.dewiredClaim, Pole.movingClaim]

/-! ### Register commands (R2, R9, R12, R25, R26, R180, R182) -/

theorem outcome_moves (p : Part) (o : CommandOutcome) : p.Moves [.command] (p.outcome o) :=
  .ofOnly (fun x _ => by cases x <;> simp_all [Part.same, Part.outcome])

theorem refuseRun_moves (p : Part) (o : CommandOutcome) : p.Moves [.command] (p.refuseRun o) :=
  .ofOnly (fun x _ => by cases x <;> simp_all [Part.same, Part.refuseRun])

theorem runCommand_good {p : Part} (h : p.good) : p.runCommand.good := by
  unfold Part.runCommand
  repeat' split
  · exact (refuseRun_moves _ _).good h
  · exact (refuseRun_moves _ _).good h
  · exact (enterRun_fits ((outcome_moves _ _).fits h.fits)).good (by decide)
  · exact (leaveLayover_fits ((outcome_moves _ _).fits h.fits) _ _ _).good (by decide)
  · exact (refuseRun_moves _ _).good h

theorem haltCommand_good {p : Part} (h : p.good) : p.haltCommand.good := by
  unfold Part.haltCommand
  split
  · exact (outcome_moves _ _).good h
  · exact (enterHalt_fits ((outcome_moves _ _).fits h.fits)).good (by decide)

theorem moves_base (p : Part) (b : Option Word) : p.Moves [.base] { p with mbx := { p.mbx with base := b } } :=
  .ofOnly (fun x _ => by cases x <;> simp_all [Part.same])

theorem writeBase_moves (p : Part) (v : Word) : p.Moves [.command, .base, .chains, .port] (p.writeBase v) := by
  unfold Part.writeBase
  dsimp only
  repeat' split
  · exact (outcome_moves _ _).mono
  · exact (outcome_moves _ _).mono
  · exact .before (moves_walk (p := { p.outcome .accepted with mbx := { (p.outcome .accepted).mbx with base := some v } })
      (((rewind_walks _ _).trans (rewind_walks _ _)).trans (rewind_walks _ _)))
      (.before (moves_base _ _) (outcome_moves p _).mono)

theorem wakeCommand_moves (p : Part) (b : Byte) : p.Moves [.command, .chains, .port] (p.wakeCommand b) := by
  unfold Part.wakeCommand
  dsimp only
  repeat' split
  · exact (outcome_moves _ _).mono
  · exact (outcome_moves _ _).mono
  · exact .before (moves_walk (((wakeIf_walks _ _ _).trans (wakeIf_walks _ _ _)).trans (wakeIf_walks _ _ _)))
      (outcome_moves p _).mono

theorem rewindCommand_moves (p : Part) (b : Byte) : p.Moves [.command, .chains, .port] (p.rewindCommand b) := by
  unfold Part.rewindCommand
  repeat' split
  · exact (outcome_moves _ _).mono
  · exact (outcome_moves _ _).mono
  · exact .before (moves_walk (rewind_walks _ _)) (outcome_moves p _).mono

theorem ackCommand_moves (p : Part) (b : Byte) : p.Moves [.command, .attention] (p.ackCommand b) := by
  unfold Part.ackCommand
  dsimp only
  split
  · exact (outcome_moves _ _).mono
  · exact .before (moves_attention _ _) (outcome_moves p _).mono

theorem badCommand_moves (p : Part) (w : Word) : p.Moves [.command] (p.badCommand w) := by
  unfold Part.badCommand
  split
  · exact outcome_moves _ _
  · exact .refl _ _

end Sys2Proof.Machine
end

