-- ==== Sys2Proof/Laws/Walker.lean ====
section
/-! SUPPORT. Table loads, the card kinds and the walkers' completions: what they can change (R3 to R24, R66 to R184). -/

set_option Elab.async false

namespace Sys2Proof.Machine

/-! ### Table loads (R174) -/

theorem auxAfterLoad_moves (p : Part) (a : AuxNo) : p.Moves auxPieces (p.auxAfterLoad a) := by
  unfold Part.auxAfterLoad
  dsimp only
  split
  · exact .refl _ _
  · have h : p.Moves auxPieces
        (if (p.auxRec a).requested then p.setAux a { p.auxRec a with requested := false } else p) := by
      split
      · exact (setAux_moves _ _ _).mono
      · exact .refl _ _
    generalize (if (p.auxRec a).requested then p.setAux a { p.auxRec a with requested := false } else p) = p1 at h ⊢
    split
    · exact h.andThen (releaseFaulted_moves _ _)
    · exact h

theorem auxTableLoaded_moves (p : Part) : p.Moves auxPieces p.auxTableLoaded :=
  .before (moves_aux _ _) (forEach_moves _ (fun p a => auxAfterLoad_moves p a) _ p)

theorem inputsLoaded_moves (p : Part) (v : Vector InputEntry 16) : p.Moves [.contacts] (p.inputsLoaded v) := by
  unfold Part.inputsLoaded
  refine forEach_moves _ (fun p i => ?_) _ _
  split
  · exact .refl _ _
  · exact setInput_moves _ _ _

theorem outputsLoaded_moves (p : Part) (v : Vector OutputEntry 16) : p.Moves [.outputs, .records] (p.outputsLoaded v) := by
  unfold Part.outputsLoaded
  refine forEach_moves _ (fun p o => ?_) _ _
  split
  · exact .refl _ _
  · exact freshOutput_moves _ _ _

theorem ownerTakes_moves (p : Part) (t : Tables) (x : Load) : p.Moves cardPieces (p.ownerTakes t x) := by
  unfold Part.ownerTakes
  split
  · exact (recompute_moves _).mono
  · exact (recompute_moves _).mono
  · split
    · exact (recomputeProfile_moves _).mono
    · exact .refl _ _
  · exact (auxTableLoaded_moves _).mono
  · exact (inputsLoaded_moves _ _).mono
  · exact (outputsLoaded_moves _ _).mono
  · exact (evalAlarms_moves _).mono
  · split
    · exact .refl _ _
    · exact (moves_zones _ _).mono
  all_goals exact .refl _ _

/-- A load that has passed its checks (R174). -/
theorem load_moves (p : Part) (x : Load) : p.Moves cardPieces (p.load x) :=
  .before (ownerTakes_moves _ _ _) (moves_tables p _).mono

/-! ### Cards -/

theorem refuse_part (p : Part) (c : ResultCode) (d : Nat) : (refuse p c d).1 = p := rfl

theorem done_part (p : Part) (d : Nat) : (done p d).1 = p := rfl

/-- A verdict's state keeps the five properties. -/
def keepsGood (f : Part → Part × Verdict) : Prop := ∀ p : Part, p.good → (f p).1.good

theorem cardAuxRequest_moves (p : Part) (r : Request) : p.Moves auxPieces (p.cardAuxRequest r).1 := by
  unfold Part.cardAuxRequest refuse done
  dsimp only
  repeat' split
  all_goals first | exact .refl _ _ | exact auxRequested_moves _ _ _

theorem cardBatteryLimits_moves (p : Part) (r : Request) : p.Moves linePieces (p.cardBatteryLimits r).1 := by
  unfold Part.cardBatteryLimits refuse done
  dsimp only
  split
  · exact .refl _ _
  · split
    · exact .refl _ _
    · exact .before (recompute_moves _) (moves_lineOwn p _).mono

theorem cardInhibit_moves (p : Part) (r : Request) : p.Moves [.inhibit, .setpoint, .send] (p.cardInhibit r).1 := by
  unfold Part.cardInhibit refuse done
  dsimp only
  split
  · exact .refl _ _
  · split
    · exact .refl _ _
    · split
      · exact claim_moves _ _
      · exact (withdraw_moves _ _).mono

theorem cardRaisePoles_moves (p : Part) (r : Request) : p.Moves polePieces (p.cardRaisePoles r).1 := by
  unfold Part.cardRaisePoles refuse done
  split
  · exact .refl _ _
  · split
    · exact .refl _ _
    · split
      · exact .refl _ _
      · exact raisePoles_moves _ _ _ _ _

theorem lowerNamed_turns (p : Part) (i : PoleId) (t : Word) :
    p.Turns polePieces (p.lowerNamed i t).2 (p.lowerNamed i t).1 := by
  have k1 := lower_turns p i .request t none
  have k2 := abandonRaise_turns p i .lowerRequest (some t)
  have k3 := (setPole_still p i { p.poles.get i with retryPending := false, origin := .none, retryCount := 0 }).mono
    (ys := polePieces)
  have k4 := Part.Turns.refl polePieces p
  unfold Part.lowerNamed
  dsimp only at k3 ⊢
  split
  · exact k1
  · exact k1
  · exact k2
  · split
    · exact k3
    · exact k4
  all_goals exact k4

theorem lowerAll_fold (t : Word) (p : Part) (poles : List PoleId) (acc : Part × List PoleNotice)
    (h : p.Turns polePieces acc.2 acc.1) :
    p.Turns polePieces (poles.foldl (fun (acc : Part × List PoleNotice) i =>
      let (p, n) := acc.1.lowerNamed i t
      (p, acc.2 ++ n)) acc).2 (poles.foldl (fun (acc : Part × List PoleNotice) i =>
      let (p, n) := acc.1.lowerNamed i t
      (p, acc.2 ++ n)) acc).1 := by
  induction poles generalizing acc with
  | nil => exact h
  | cons i is ih =>
    exact ih ((acc.1.lowerNamed i t).1, acc.2 ++ (acc.1.lowerNamed i t).2) (h.andThen (lowerNamed_turns acc.1 i t))

theorem lowerAll_moves (p : Part) (poles : List PoleId) (t : Word) : p.Moves polePieces (p.lowerAll poles t) :=
  Part.Turns.close (lowerAll_fold t p poles (p, []) (.refl _ _))

theorem cardLowerPoles_moves (p : Part) (r : Request) : p.Moves polePieces (p.cardLowerPoles r).1 := by
  unfold Part.cardLowerPoles refuse done
  dsimp only
  split
  · exact .refl _ _
  · split
    · exact .refl _ _
    · split
      · exact .refl _ _
      · exact lowerAll_moves _ _ _

theorem endPoleFault_moves (p : Part) (i : PoleId) : p.Moves [.outputs, .records] (p.endPoleFault i) := by
  unfold Part.endPoleFault
  split
  · exact endFault_moves _ _ _
  · exact endFault_moves _ _ _
  · exact .refl _ _

theorem clearPole_moves (p : Part) (i : PoleId) (t : Word) : p.Moves polePieces (p.clearPole i t) := by
  unfold Part.clearPole
  dsimp only
  have h := (endPoleFault_moves p i).mono (ys := polePieces)
  generalize p.endPoleFault i = p1 at h ⊢
  have h2 : ∀ f : Pole → Pole, (∀ q : Pole, (f q).state = .untracked) → (∀ q : Pole, (f q).blindOk) →
      p.Told polePieces ((p1.modPole i f).sendNotices [{ pole := i, entered := .untracked }]) := fun f hs hf =>
    h.told.andThen (modPole_turns p1 i f .untracked hs (fun q _ => hf q)).mono.notify
  have hb : ∀ q : Pole, q.blind = false → q.blindOk := fun q hq k => by rw [hq] at k; exact Bool.noConfusion k
  refine Part.Told.updateClaims ?_
  split
  · exact .before (tryResolve_moves _ _ _).told (h2 _ (fun _ => rfl) (fun _ => hb _ rfl))
  · exact h2 _ (fun _ => rfl) (fun _ => hb _ rfl)

theorem cardClearPole_moves (p : Part) (r : Request) : p.Moves polePieces (p.cardClearPole r).1 := by
  have h0 := Part.Moves.refl polePieces p
  have h1 := fun i => clearPole_moves p i r.tag
  unfold Part.cardClearPole refuse done
  dsimp only
  generalize (if r.at 0 = 0 then PoleId.p else PoleId.n) = i
  split
  · exact h0
  · split
    · exact h0
    · split
      · exact h0
      · exact h1 i

theorem setUnack_same (ks : List FaultKind) (c : Collector) (d : Collector)
    (h : d = ks.foldl (fun c k => c.set k { c.get k with unack := false }) c) :
    d.state = c.state ∧ d.alertTimer = c.alertTimer ∧ d.lampHold = c.lampHold ∧ d.buzzerHold = c.buzzerHold := by
  subst h
  induction ks generalizing c with
  | nil => exact ⟨rfl, rfl, rfl, rfl⟩
  | cons k ks ih => exact ih (c.set k { c.get k with unack := false })

theorem acknowledge_same (c : Collector) : c.acknowledge.state = c.state ∧ c.acknowledge.alertTimer = c.alertTimer
    ∧ c.acknowledge.lampHold = c.lampHold ∧ c.acknowledge.buzzerHold = c.buzzerHold := by
  have h := setUnack_same allKinds c _ rfl
  unfold Collector.acknowledge
  generalize allKinds.foldl (fun c k => c.set k { c.get k with unack := false }) c = d at h ⊢
  exact h

theorem acknowledge_first (p : Part) : p.Moves [.records, .alarms] { p with faults := p.faults.acknowledge } := by
  obtain ⟨h1, h2, h3, h4⟩ := acknowledge_same p.faults
  generalize p.faults.acknowledge = c at h1 h2 h3 h4
  exact .ofOnly (fun x _ => by cases x <;> simp_all [Part.same])

theorem acknowledge_rest (p : Part) (t : Word) : p.Moves (polePieces ++ [.collector, .alarms])
    ((if p.faults.state = .alert then p.moveCollector .normal .ack none t else p).ackPoles.evalAlarms) := by
  refine .before (evalAlarms_moves _) (.before (ackPoles_moves _) ?_)
  split
  · exact (moveCollector_moves _ _ _ _ _).mono
  · exact .refl _ _

theorem acknowledge_moves (p : Part) (t : Word) : p.Moves (polePieces ++ [.collector, .alarms]) (p.acknowledge t) :=
  .before (acknowledge_rest { p with faults := p.faults.acknowledge } t) (acknowledge_first p).mono

theorem cardAckFaults_moves (p : Part) (r : Request) :
    p.Moves (polePieces ++ [.collector, .alarms]) (p.cardAckFaults r).1 := by
  have h := acknowledge_moves p r.tag
  unfold Part.cardAckFaults refuse done
  split
  · dsimp only
    exact .refl _ _
  · dsimp only
    exact h

theorem cardClearFaultState_moves (p : Part) (r : Request) : p.Moves collectorPieces (p.cardClearFaultState r).1 := by
  unfold Part.cardClearFaultState refuse done
  split
  · exact .refl _ _
  · split
    · exact .refl _ _
    · split
      · exact .refl _ _
      · exact moveCollector_moves _ _ _ _ _

theorem cardInjectTest_moves (p : Part) (r : Request) : p.Moves raisePieces (p.cardInjectTest r).1 := by
  unfold Part.cardInjectTest refuse done
  split
  · exact .refl _ _
  · split
    · exact .refl _ _
    · split
      · exact .refl _ _
      · exact injectTest_moves _ _ _

theorem cardReadFaultTable_moves (p : Part) (r : Request) : p.Moves [] (p.cardReadFaultTable r).1 := by
  unfold Part.cardReadFaultTable refuse
  split <;> exact .refl _ _

theorem cardCopySeenMap_moves (p : Part) (r : Request) : p.Moves [.zones] (p.cardCopySeenMap r).1 := by
  unfold Part.cardCopySeenMap refuse
  dsimp only
  split
  · exact .refl _ _
  · split
    · exact .refl _ _
    · exact moves_zones p _

theorem cardClearZones_moves (p : Part) (r : Request) : p.Moves (raisePieces ++ [.zones]) (p.cardClearZones r).1 := by
  unfold Part.cardClearZones refuse done
  split
  · exact .refl _ _
  · exact clearZones_moves _ _

theorem cardLoadTable_moves (p : Part) (r : Request) : p.Moves cardPieces (p.cardLoadTable r).1 := by
  unfold Part.cardLoadTable refuse
  split
  · exact .refl _ _
  · exact load_moves _ _

theorem cardVerifyConfig_moves (p : Part) (r : Request) : p.Moves raisePieces (p.cardVerifyConfig r).1 := by
  unfold Part.cardVerifyConfig refuse
  dsimp only
  split
  · exact .refl _ _
  · split
    · exact .refl _ _
    · exact raise_moves _ _

theorem cardEnterLayover_good {p : Part} (h : p.good) (r : Request) : (p.cardEnterLayover r).1.good := by
  have k := (enterLayover_fits h.fits r.tag).good (by decide)
  unfold Part.cardEnterLayover
  split
  · rw [refuse_part]; exact h
  · split
    · rw [refuse_part]; exact h
    · split
      · rw [refuse_part]; exact h
      · rw [done_part]; exact k

theorem cardExitLayover_good {p : Part} (h : p.good) (r : Request) : (p.cardExitLayover r).1.good := by
  have k := (leaveLayover_fits h.fits .card r.tag []).good (by decide)
  unfold Part.cardExitLayover
  split
  · rw [refuse_part]; exact h
  · split
    · rw [refuse_part]; exact h
    · rw [done_part]; exact k

/-- Whatever its owner does with a card, the five properties hold after it (R6). -/
theorem own_good {p : Part} (h : p.good) (k : CardKind) (r : Request) : (p.own k r).1.good := by
  unfold Part.own
  split
  · exact (cardAuxRequest_moves _ _).good h
  · exact (cardRaisePoles_moves _ _).good h
  · exact (cardLowerPoles_moves _ _).good h
  · exact (cardClearPole_moves _ _).good h
  · exact (cardInhibit_moves _ _).good h
  · exact (cardBatteryLimits_moves _ _).good h
  · exact (cardAckFaults_moves _ _).good h
  · exact (cardClearFaultState_moves _ _).good h
  · exact (cardInjectTest_moves _ _).good h
  · exact (cardReadFaultTable_moves _ _).good h
  · exact (cardCopySeenMap_moves _ _).good h
  · exact (cardClearZones_moves _ _).good h
  · exact cardEnterLayover_good h _
  · exact cardExitLayover_good h _
  · exact (cardLoadTable_moves _ _).good h
  · exact (cardVerifyConfig_moves _ _).good h

/-! ### Breaks and moves of a chain (R7, R10, R11) -/

theorem unmark_repeats (m : Mailbox) : m.unmark.holding.map (·.repeats) = m.holding.map (·.repeats) := by
  simp [Mailbox.unmark, Function.comp_def]

theorem unmark_accounted {m : Mailbox} (h : m.accounted) : m.unmark.accounted := by
  unfold Mailbox.accounted
  rw [unmark_repeats]
  exact ⟨h.1, by simpa [Mailbox.unmark] using h.2⟩

/-- A change of the reports, the chains, the port and the attention reasons that keeps the accounting. -/
theorem moves_mailbox (p : Part) (m : Mailbox) (hb : m.base = p.mbx.base := by rfl) (ho : m.outcome = p.mbx.outcome := by rfl)
    (hm : m.missing = p.mbx.missing := by rfl) (hr : m.mirror = p.mbx.mirror := by rfl)
    (ha : p.mbx.accounted → m.accounted) :
    p.Moves [.reports, .chains, .port, .attention] { p with mbx := m } := by
  have h : p.onlyChanges [.reports, .chains, .port, .attention] ({ p with mbx := m } : Part) := by
    intro x hx; cases x <;> simp_all [Part.same]
  exact Part.Drifts.moves ⟨h, rfl, ha, fun k => k, fun k => k⟩ (fun k => k)

theorem unmarkIf_moves (p : Part) (c : Chain) (r : ChainRec) :
    p.Moves [.reports, .chains, .port, .attention] { p with mbx := (p.mbx.unmarkIf c).setChain c r } := by
  unfold Mailbox.unmarkIf
  split
  · exact moves_mailbox p _ (ha := fun h => unmark_accounted h)
  · exact moves_mailbox p _ (ha := fun h => h)

theorem breakChain_moves (p : Part) (c : Chain) (x : BreakPhase) : p.Moves breakPieces (p.breakChain c x) := by
  unfold Part.breakChain
  dsimp only
  refine .before (raise_moves _ _) ?_
  exact .before (moves_attention { p with mbx := (p.mbx.unmarkIf c).setChain c (p.mbx.chains.get c).broken } _)
    (unmarkIf_moves p c _).mono

theorem parkChain_moves (p : Part) (c : Chain) (w : Wait) : p.Moves [.chains, .port] (p.parkChain c w) :=
  moves_walk (park_walks p p.mbx c w)

theorem walkTo_moves (p : Part) (c : Chain) (a : Word) : p.Moves [.chains, .port] (p.walkTo c a) :=
  moves_walk (readHeader_walks _ _ _ _)

theorem moveTo_moves (p : Part) (c : Chain) (a : Word) : p.Moves [.chains, .port] (p.moveTo c a) := by
  unfold Part.moveTo
  split
  · exact .before (parkChain_moves _ _ _) (moves_walk (setChain_walks _ _ _))
  · exact walkTo_moves _ _ _

theorem follow_moves (p : Part) (c : Chain) (a : Word) {go : Part → Chain → Word → Part}
    (hgo : ∀ (p : Part) c a, p.Moves [.chains, .port] (go p c a)) : p.Moves breakPieces (p.follow c a go) := by
  unfold Part.follow
  split
  · exact (parkChain_moves _ _ _).mono
  · split
    · exact (hgo _ _ _).mono
    · exact breakChain_moves _ _ _

theorem followFinished_moves (p : Part) (c : Chain) (a : Word) : p.Moves breakPieces (p.followFinished c a) := by
  unfold Part.followFinished
  split
  · exact (moves_walk (readAnchor_walks _ _)).mono
  · exact follow_moves _ _ _ moveTo_moves

theorem takeAnchor_moves (p : Part) (c : Chain) (a : Word) : p.Moves breakPieces (p.takeAnchor c a) := by
  unfold Part.takeAnchor
  split
  · exact .before (parkChain_moves _ _ _) (moves_walk (setChain_walks _ _ _)).mono
  · split
    · exact (moveTo_moves _ _ _).mono
    · exact breakChain_moves _ _ _

theorem walk_moves (p : Part) (c : Chain) (r : ChainRec) (a : Access) : p.Moves [.chains, .port] (p.walk c r a) :=
  moves_walk ((setChain_walks _ _ _).trans (place_walks _ _))

theorem writeData_moves (p : Part) (c : Chain) : p.Moves [.chains, .port] (p.writeData c) := by
  unfold Part.writeData
  dsimp only
  split
  · exact walk_moves _ _ _ _
  · exact walk_moves _ _ _ _

theorem finish_moves (p : Part) (c : Chain) (v : Verdict) : p.Moves [.chains, .port] (p.finish c v) :=
  .before (writeData_moves _ _) (moves_walk (setChain_walks _ _ _))

theorem verdictOn_good {p : Part} (h : p.good) (c : Chain) : (p.verdictOn c).1.good := by
  unfold Part.verdictOn refuse
  dsimp only
  split
  · exact h
  · split
    · exact h
    · split
      · exact h
      · exact own_good h _ _

/-- A card decided and finished (R4, R6). -/
theorem judgeCard_good {p : Part} (h : p.good) (c : Chain) : (p.judgeCard c).good :=
  (finish_moves _ _ _).good (verdictOn_good h c)

theorem readPayload_good {p : Part} (h : p.good) (c : Chain) : (p.readPayload c).good := by
  unfold Part.readPayload
  dsimp only
  split
  · exact judgeCard_good h _
  · exact (walk_moves _ _ _ _).good h

theorem checkLength_good {p : Part} (h : p.good) (c : Chain) : (p.checkLength c).good := by
  unfold Part.checkLength
  split
  · exact (finish_moves _ _ _).good h
  · exact readPayload_good h _

/-! ### Report cards (R24) -/

theorem markOldest_repeats (rs : List ReportRec) : (markOldest rs).map (·.repeats) = rs.map (·.repeats) := by
  cases rs <;> rfl

theorem markOldest_length (rs : List ReportRec) : (markOldest rs).length = rs.length := by cases rs <;> rfl

theorem fillReport_moves (p : Part) : p.Moves [.reports, .chains, .port, .attention] p.fillReport := by
  unfold Part.fillReport
  split
  · exact (parkChain_moves _ _ _).mono
  · dsimp only
    split
    · exact (finish_moves _ _ _).mono
    · refine .before (finish_moves _ _ _) (moves_mailbox p _ (ha := fun h => ?_))
      unfold Mailbox.accounted
      simp only [markOldest_repeats, markOldest_length]
      exact h

theorem split_repeats (rs : List ReportRec) :
    (rs.map (·.repeats)).sum = ((rs.filter (·.beingWritten)).map (·.repeats)).sum
      + ((rs.filter (fun r => !r.beingWritten)).map (·.repeats)).sum := by
  induction rs with
  | nil => rfl
  | cons r rs ih =>
    cases h : r.beingWritten <;> simp [h, ih] <;> omega

/-- A written record leaves the list and is counted (R22 to R24). -/
theorem reportDone_accounted {m : Mailbox} (h : m.accounted) : m.reportDone.accounted := by
  obtain ⟨h1, h2⟩ := h
  refine ⟨?_, ?_⟩
  · rw [show m.reportDone.raised = m.raised from rfl, h1, split_repeats m.holding, word_add]
    simp only [Mailbox.reportDone]
    grind
  · exact Nat.le_trans (List.length_filter_le _ _) h2

theorem reportWritten_moves (p : Part) (c : Chain) : p.Moves [.reports, .chains, .port, .attention] (p.reportWritten c) := by
  unfold Part.reportWritten
  split
  · exact moves_mailbox p _ (ha := fun h => reportDone_accounted h)
  · exact .refl _ _

/-! ### Completions -/

theorem partFreePort_moves (p : Part) : p.Moves [.chains, .port] p.freePort := moves_walk (freePort_walks _)

theorem anchorDone_moves (p : Part) (c : Chain) (a : Word) : p.Moves breakPieces (p.anchorDone c a) := by
  unfold Part.anchorDone
  split
  · exact .before (takeAnchor_moves _ _ _) (partFreePort_moves _).mono
  · exact .refl _ _

theorem byOwner_moves (p : Part) (c : Chain) (h : Header) : p.Moves breakPieces (p.byOwner c h) := by
  unfold Part.byOwner
  repeat' split
  · exact (parkChain_moves _ _ _).mono
  · exact (walk_moves _ _ _ _).mono
  · exact (parkChain_moves _ _ _).mono

theorem headerDone_moves (p : Part) (c : Chain) (h : Header) : p.Moves breakPieces (p.headerDone c h) := by
  unfold Part.headerDone
  dsimp only
  split
  · refine .before (xs := breakPieces) (ys := breakPieces) ?_ (partFreePort_moves p).mono
    unfold Part.takeHeader
    split
    · exact byOwner_moves _ _ _
    · exact follow_moves _ _ _ walkTo_moves
    · exact byOwner_moves _ _ _
    · exact byOwner_moves _ _ _
    all_goals exact .refl _ _
  · exact .refl _ _

theorem takenDone_good {p : Part} (h : p.good) (c : Chain) : (p.takenDone c).good := by
  unfold Part.takenDone
  split
  · split
    · exact (fillReport_moves _).good ((partFreePort_moves p).good h)
    · exact checkLength_good ((partFreePort_moves p).good h) _
  · exact h

theorem payloadDone_good {p : Part} (h : p.good) (c : Chain) (ws : List Word) : (p.payloadDone c ws).good := by
  unfold Part.payloadDone
  split
  · exact readPayload_good ((moves_walk (setChain_walks _ _ _)).good ((partFreePort_moves p).good h)) _
  · exact h

theorem dataDone_moves (p : Part) (c : Chain) : p.Moves [.chains, .port] (p.dataDone c) := by
  unfold Part.dataDone
  split
  · exact .before (writeData_moves _ _) (.before (moves_walk (setChain_walks _ _ _)) (partFreePort_moves p))
  · exact .refl _ _

theorem detailDone_moves (p : Part) (c : Chain) : p.Moves [.chains, .port] (p.detailDone c) := by
  unfold Part.detailDone
  split
  · exact .before (walk_moves _ _ _ _) (partFreePort_moves p)
  · exact .refl _ _

theorem ownerDone_moves (p : Part) (c : Chain) : p.Moves breakPieces (Part.ownerDone p c) := by
  unfold Part.ownerDone
  split
  · exact .before (followFinished_moves _ _ _) (.before (reportWritten_moves _ _) (partFreePort_moves p).mono)
  · exact .refl _ _

theorem demandDone_moves (p : Part) (s v c : Word) : p.Moves (govPieces ++ [.chains, .port]) (p.demandDone s v c) := by
  unfold Part.demandDone
  split
  · exact .before (deliver_moves _ _) (partFreePort_moves p).mono
  · exact .refl _ _

theorem mirrorDone_moves (p : Part) : p.Moves [.mirror, .chains, .port] p.mirrorDone := by
  unfold Part.mirrorDone
  split
  · exact .before (mirrorNext_moves _ _) (partFreePort_moves p).mono
  · exact .refl _ _

/-- A failed access (R16). -/
theorem accessFails_moves (p : Part) : p.Moves (govPieces ++ [.mirror]) p.accessFails := by
  unfold Part.accessFails
  split
  · exact .refl _ _
  · rename_i a _
    have h1 : p.Moves [.reports, .chains, .port, .attention] { p with mbx := p.mbx.freePort.unmarkFor a.op } := by
      unfold Mailbox.unmarkFor
      split
      · exact moves_mailbox p _ (ha := fun h => unmark_accounted (WalksTo.accounted (freePort_walks _) h))
      · exact moves_mailbox p _ (ha := fun h => WalksTo.accounted (freePort_walks _) h)
    have h2 : p.Moves (govPieces ++ [.mirror]) (({ p with mbx := p.mbx.freePort.unmarkFor a.op } : Part).raiseMemoryPort a) :=
      .before (raise_moves _ _) h1.mono
    generalize ({ p with mbx := p.mbx.freePort.unmarkFor a.op } : Part).raiseMemoryPort a = q at h2 ⊢
    unfold Part.failed
    split
    · exact h2.andThen (breakChain_moves _ _ _)
    · split
      · exact h2.andThen (deliver_moves _ _)
      · exact h2.andThen (mirrorEnd_moves _)

theorem rescanExpired_moves (p : Part) (c : Chain) : p.Moves [.chains, .port] (p.rescanExpired c) :=
  moves_walk (startRescan_walks _ _)

theorem grant_moves (p : Part) : p.Moves [.chains, .port] p.grant := moves_walk (grantNext_walks _)

theorem mirrorInterval_moves (p : Part) : p.Moves [.mirror, .port] p.mirrorInterval :=
  .before (mirrorStart_moves _) (restartMirror_moves p).mono

/-! ### Timers -/

/-- An expiry: unchanged while the timer is stopped, else the event after the clock has moved. -/
theorem onExpiry_good {p : Part} (h : p.good) (t : Timer) (f : Part → Part) (hf : ∀ q : Part, q.good → (f q).good) :
    (p.onExpiry t f).good := by
  unfold Part.onExpiry Part.clockTo
  split
  · exact h
  · split
    · exact hf _ ((moves_now p _).good h)
    · exact hf _ h

theorem edgeHoldExpired_moves (p : Part) (k : FaultKind) : p.Moves [.outputs, .records] (p.edgeHoldExpired k) :=
  .before (evalAlarms_moves _) (modFault_moves p k _).mono

theorem testHoldExpired_moves (p : Part) (k : FaultKind) : p.Moves [.outputs, .records] (p.testHoldExpired k) :=
  .before (evalAlarms_moves _) (modFault_moves p k _).mono

theorem alertExpired_moves (p : Part) : p.Moves collectorPieces p.alertExpired := by
  have h : p.Moves [.collector] ({ p with faults := { p.faults with alertTimer := .stopped } } : Part) := by
    have ho : p.onlyChanges [.collector] ({ p with faults := { p.faults with alertTimer := .stopped } } : Part) := by
      intro x hx; cases x <;> simp_all [Part.same]
    exact Part.Drifts.moves ⟨ho, rfl, fun k => k, fun k => k, fun k => k⟩ (fun k => k)
  unfold Part.alertExpired
  dsimp only
  split
  · exact .before (moveCollector_moves _ _ _ _ _) h.mono
  · exact h.mono

theorem lampHoldExpired_moves (p : Part) : p.Moves [.alarms, .outputs, .records] p.lampHoldExpired :=
  .before (evalAlarms_moves _) (moves_alarms p { p.faults with lampHold := .stopped } rfl rfl rfl).mono

theorem buzzerHoldExpired_moves (p : Part) : p.Moves [.alarms, .outputs, .records] p.buzzerHoldExpired :=
  .before (evalAlarms_moves _) (moves_alarms p { p.faults with buzzerHold := .stopped } rfl rfl rfl).mono

theorem speedExpired_moves (p : Part) : p.Moves polePieces p.speedExpired :=
  .before (retryActions_moves _) (moves_zones p _).mono

theorem sendDone_moves (p : Part) : p.Moves [.send] p.sendDone := moves_send p _

end Sys2Proof.Machine
end

