-- ==== Sys2Proof/Laws/Exec.lean ====
section
/-! SUPPORT. Each command as one event over the part, and what the walkers' reads do, said once for the provers. -/

set_option Elab.async false

namespace Sys2Proof.Machine

/-! ### Events -/

/-- An event answers a next state with the part at the end of the event; the queue is as it was. -/
theorem event_next (s : State) (f : Part → Part) :
    s.event f = .next { s with part := ((f s.part).orderEntries s.part).settle } := rfl

/-- An event that leaves the Auxiliary Scheduler alone gives out no entry orders (R146). -/
theorem event_same (s : State) (f : Part → Part) (h : (f s.part).aux = s.part.aux) :
    s.event f = .next { s with part := (f s.part).settle } := by
  rw [event_next, orderEntries_same _ _ h]

/-- As `event_same`, from what the event may change. -/
theorem event_moves {xs : List Piece} (s : State) (f : Part → Part) (h : s.part.Moves xs (f s.part))
    (hx : xs.contains .aux = false := by decide) : s.event f = .next { s with part := (f s.part).settle } :=
  event_same s f (h.drifts.only .aux (fun hc => by simp_all))

/-- An event keeps the five properties if its effect does. -/
theorem event_good (s : State) (f : Part → Part) (h : (f s.part).good) :
    ∃ q : Part, s.event f = .next { s with part := q.settle } ∧ q.settle.good :=
  ⟨_, event_next s f, (settle_moves _).good ((orderEntries_moves _ _).good h)⟩

/-- The expiry of a stopped timer does nothing (assumption log 2). -/
@[simp] theorem onExpiry_stopped (p : Part) (f : Part → Part) : p.onExpiry .stopped f = p := rfl

/-- The expiry of a running timer is its event at the expiry time (assumption log 1). -/
@[simp] theorem onExpiry_running (p : Part) (e : Word) (f : Part → Part) : p.onExpiry (.running e) f = f (p.clockTo e) := rfl

/-- Moving the clock changes nothing but the timestamp. -/
theorem clockTo_onlyChanges (p : Part) (e : Word) : p.onlyChanges [.now] (p.clockTo e) := by
  unfold Part.clockTo
  intro x hx
  split
  · cases x <;> simp_all [Part.same]
  · exact p.same_refl x

/-! ### Commands -/

theorem exec_powerOnReset (s : State) :
    exec .powerOnReset s = s.event Part.powerOn := rfl

theorem exec_mailboxBaseWrite (value : Word) (s : State) :
    exec (.mailboxBaseWrite value) s = s.event (·.writeBase value) := rfl

theorem exec_run (s : State) :
    exec .run s = s.event Part.runCommand := rfl

theorem exec_halt (s : State) :
    exec .halt s = s.event Part.haltCommand := rfl

theorem exec_reset (s : State) :
    exec .reset s = s.event Part.commandReset := rfl

theorem exec_wake (mask : Byte) (s : State) :
    exec (.wake mask) s = s.event (·.wakeCommand mask) := rfl

theorem exec_rewind (chain : Byte) (s : State) :
    exec (.rewind chain) s = s.event (·.rewindCommand chain) := rfl

theorem exec_ackAttention (mask : Byte) (s : State) :
    exec (.ackAttention mask) s = s.event (·.ackCommand mask) := rfl

theorem exec_badCommand (word : Word) (s : State) :
    exec (.badCommand word) s = s.event (·.badCommand word) := rfl

theorem exec_memoryPortGrant (s : State) :
    exec .memoryPortGrant s = s.event Part.grant := rfl

theorem exec_anchorReadComplete (chain : Chain) (entry : Word) (s : State) :
    exec (.anchorReadComplete chain entry) s = s.event (·.anchorDone chain entry) := rfl

theorem exec_headerReadComplete (chain : Chain) (header : Header) (s : State) :
    exec (.headerReadComplete chain header) s = s.event (·.headerDone chain header) := rfl

theorem exec_takenWriteComplete (chain : Chain) (s : State) :
    exec (.takenWriteComplete chain) s = s.event (·.takenDone chain) := rfl

theorem exec_payloadReadComplete (chain : Chain) (words : List Word) (s : State) :
    exec (.payloadReadComplete chain words) s = s.event (·.payloadDone chain words) := rfl

theorem exec_cardDataWriteComplete (chain : Chain) (s : State) :
    exec (.cardDataWriteComplete chain) s = s.event (·.dataDone chain) := rfl

theorem exec_detailWriteComplete (chain : Chain) (s : State) :
    exec (.detailWriteComplete chain) s = s.event (·.detailDone chain) := rfl

theorem exec_ownerWriteComplete (chain : Chain) (s : State) :
    exec (.ownerWriteComplete chain) s = s.event (·.ownerDone chain) := rfl

theorem exec_demandReadComplete (sequence value complement : Word) (s : State) :
    exec (.demandReadComplete sequence value complement) s = s.event (·.demandDone sequence value complement) := rfl

theorem exec_mirrorBurstComplete (s : State) :
    exec .mirrorBurstComplete s = s.event Part.mirrorDone := rfl

theorem exec_memoryAccessError (s : State) :
    exec .memoryAccessError s = s.event Part.accessFails := rfl

theorem exec_memoryAccessTimeout (s : State) :
    exec .memoryAccessTimeout s = s.event Part.accessTimesOut := rfl

theorem exec_lateCompletion (s : State) :
    exec .lateCompletion s = s.event id := rfl

theorem exec_rescanTimerExpiry (chain : Chain) (s : State) :
    exec (.rescanTimerExpiry chain) s = s.event (fun p => p.onExpiry (p.mbx.chains.get chain).rescanTimer (·.rescanExpired chain)) := rfl

theorem exec_mirrorIntervalExpiry (s : State) :
    exec .mirrorIntervalExpiry s = s.event (fun p => p.onExpiry p.mbx.mirror.timer Part.mirrorInterval) := rfl

theorem exec_plFrameComplete (link : PLink) (interval : Nat) (s : State) :
    exec (.plFrameComplete link interval) s = s.event (·.plComplete link interval) := rfl

theorem exec_plFrameAbort (link : PLink) (interval : Nat) (s : State) :
    exec (.plFrameAbort link interval) s = s.event (·.plAbort link interval) := rfl

theorem exec_linkFirstActivity (link : Link) (s : State) :
    exec (.linkFirstActivity link) s = s.event (·.firstActivity link) := rfl

theorem exec_silenceTimerExpiry (link : Link) (s : State) :
    exec (.silenceTimerExpiry link) s = s.event (fun p => p.onExpiry (p.linkRec link).silence (·.silenceExpired link)) := rfl

theorem exec_serialFrameComplete (link : SLink) (s : State) :
    exec (.serialFrameComplete link) s = s.event (·.serialComplete link) := rfl

theorem exec_serialFrameError (link : SLink) (error : SerialError) (s : State) :
    exec (.serialFrameError link error) s = s.event (·.serialError link error) := rfl

theorem exec_driveLinkSendDone (s : State) :
    exec .driveLinkSendDone s = s.event Part.sendDone := rfl

theorem exec_contactRawChange (input : InputNo) (voltage : PinVoltage) (s : State) :
    exec (.contactRawChange input voltage) s = s.event (·.pinSensed input voltage) := rfl

theorem exec_debounceExpiry (input : InputNo) (s : State) :
    exec (.debounceExpiry input) s = s.event (fun p => p.onExpiry (p.input input).debounce (·.debounced input)) := rfl

theorem exec_cleaningPulseEnd (input : InputNo) (s : State) :
    exec (.cleaningPulseEnd input) s = s.event (fun p => p.onExpiry (p.input input).cleaning (·.cleaningDone input)) := rfl

theorem exec_pollTimerExpiry (pins : Vector PinVoltage 16) (s : State) :
    exec (.pollTimerExpiry pins) s = s.event (fun p => p.onExpiry p.contacts.pollTimer (·.polled pins)) := rfl

theorem exec_secondSample (pins : Vector PinVoltage 16) (s : State) :
    exec (.secondSample pins) s = s.event (fun p => p.onExpiry p.contacts.secondTimer (·.secondSampled pins)) := rfl

theorem exec_readbackChange (output : OutputNo) (on : Bool) (s : State) :
    exec (.readbackChange output on) s = s.event (·.readbackChange output on) := rfl

theorem exec_mismatchTimerExpiry (output : OutputNo) (s : State) :
    exec (.mismatchTimerExpiry output) s = s.event (fun p => p.onExpiry (p.output output).mismatch (·.outputFails output)) := rfl

theorem exec_gapTimerExpiry (s : State) :
    exec .gapTimerExpiry s = s.event (fun p => p.onExpiry p.line.gapTimer Part.gapExpired) := rfl

theorem exec_restoreTimerExpiry (s : State) :
    exec .restoreTimerExpiry s = s.event (fun p => p.onExpiry p.line.restoreTimer Part.restoreExpired) := rfl

theorem exec_highPersistExpiry (s : State) :
    exec .highPersistExpiry s = s.event (fun p => p.onExpiry p.line.highTimer Part.highExpired) := rfl

theorem exec_confirmTimerExpiry (pole : PoleId) (s : State) :
    exec (.confirmTimerExpiry pole) s = s.event (fun p => p.onExpiry (p.poles.get pole).confirmTimer (·.confirmExpired pole)) := rfl

theorem exec_resolutionTimerExpiry (pole : PoleId) (s : State) :
    exec (.resolutionTimerExpiry pole) s = s.event (fun p => p.onExpiry (p.poles.get pole).resolutionTimer (·.resolutionExpired pole)) := rfl

theorem exec_retrieverHoldExpiry (pole : PoleId) (s : State) :
    exec (.retrieverHoldExpiry pole) s = s.event (fun p => p.onExpiry (p.poles.get pole).holdTimer (·.holdExpired pole)) := rfl

theorem exec_lowerTimerExpiry (pole : PoleId) (s : State) :
    exec (.lowerTimerExpiry pole) s = s.event (fun p => p.onExpiry (p.poles.get pole).lowerTimer (·.lowerExpired pole)) := rfl

theorem exec_raiseTimerExpiry (pole : PoleId) (s : State) :
    exec (.raiseTimerExpiry pole) s = s.event (fun p => p.onExpiry (p.poles.get pole).raiseTimer (·.raiseExpired pole)) := rfl

theorem exec_settleTimerExpiry (pole : PoleId) (s : State) :
    exec (.settleTimerExpiry pole) s = s.event (fun p => p.onExpiry (p.poles.get pole).settleTimer (·.settleExpired pole)) := rfl

theorem exec_odometryPulse (s : State) :
    exec .odometryPulse s = s.event Part.odometryPulse := rfl

theorem exec_speedTimerExpiry (s : State) :
    exec .speedTimerExpiry s = s.event (fun p => p.onExpiry p.zones.speedTimer Part.speedExpired) := rfl

theorem exec_stationaryTimerExpiry (s : State) :
    exec .stationaryTimerExpiry s = s.event (fun p => p.onExpiry p.zones.stationaryTimer Part.stationaryExpired) := rfl

theorem exec_controlPeriodExpiry (s : State) :
    exec .controlPeriodExpiry s = s.event (fun p => p.onExpiry p.gov.period Part.periodExpired) := rfl

theorem exec_staggerTimerExpiry (s : State) :
    exec .staggerTimerExpiry s = s.event (fun p => p.onExpiry p.aux.stagger Part.staggerExpired) := rfl

theorem exec_startTimerExpiry (aux : AuxNo) (s : State) :
    exec (.startTimerExpiry aux) s = s.event (fun p => p.onExpiry (p.auxRec aux).startTimer (·.startExpired aux)) := rfl

theorem exec_offTimerExpiry (aux : AuxNo) (s : State) :
    exec (.offTimerExpiry aux) s = s.event (fun p => p.onExpiry (p.auxRec aux).offTimer (·.offExpired aux)) := rfl

theorem exec_edgeHoldExpiry (kind : FaultKind) (s : State) :
    exec (.edgeHoldExpiry kind) s = s.event (fun p => p.onExpiry (p.faults.get kind).edgeHold (·.edgeHoldExpired kind)) := rfl

theorem exec_testHoldExpiry (kind : FaultKind) (s : State) :
    exec (.testHoldExpiry kind) s = s.event (fun p => p.onExpiry (p.faults.get kind).testHold (·.testHoldExpired kind)) := rfl

theorem exec_alertTimerExpiry (s : State) :
    exec .alertTimerExpiry s = s.event (fun p => p.onExpiry p.faults.alertTimer Part.alertExpired) := rfl

theorem exec_lampHoldExpiry (s : State) :
    exec .lampHoldExpiry s = s.event (fun p => p.onExpiry p.faults.lampHold Part.lampHoldExpired) := rfl

theorem exec_buzzerHoldExpiry (s : State) :
    exec .buzzerHoldExpiry s = s.event (fun p => p.onExpiry p.faults.buzzerHold Part.buzzerHoldExpired) := rfl

theorem exec_syncTaken (link : PLink) (interval : Nat) (s : State) :
    exec (.syncTaken link interval) s = s.event (·.syncTaken link interval) := rfl

theorem exec_symbolInterval (link : PLink) (interval : Nat) (s : State) :
    exec (.symbolInterval link interval) s = s.event (·.symbolTaken link interval) := rfl

theorem exec_serialCharacter (link : SLink) (byte : Byte) (stopOk : Bool) (s : State) :
    exec (.serialCharacter link byte stopOk) s = s.event (·.serialChar link byte stopOk) := rfl

/-! ### The walkers' reads -/

theorem place_chains (m : Mailbox) (a : Access) : (m.place a).chains = m.chains := by
  obtain ⟨q, h⟩ := place_port m a
  rw [h]

/-- A request that has been placed is in flight or waits (R14). -/
theorem place_requests (m : Mailbox) (a : Access) (h : a.op ≠ .dataWrite .report) : (m.place a).port.requests a := by
  unfold Mailbox.place Port.requests
  split
  · left
    cases ho : a.op with
    | dataWrite c => cases c <;> simp_all [Mailbox.atGrant]
    | _ => simp [Mailbox.atGrant, ho]
  · right
    cases a.op.requester <;> rfl

/-- Placing a request touches no other requester's (R14). -/
theorem place_waiting (m : Mailbox) (a : Access) (r : Requester) (h : r ≠ a.op.requester) :
    (m.place a).port.waiting r = m.port.waiting r := by
  unfold Mailbox.place
  split
  · cases r <;> rfl
  · cases hq : a.op.requester <;> cases r <;> simp_all [Port.setWaiting, Port.waiting]

/-- Placing a request leaves an access in flight (R14). -/
theorem place_inFlight (m : Mailbox) (a b : Access) (h : m.port.inFlight = some b) : (m.place a).port.inFlight = some b := by
  unfold Mailbox.place
  split
  · rename_i hi; simp [Port.idle, h] at hi
  · cases hq : a.op.requester <;> simpa [Port.setWaiting, hq] using h

@[simp] theorem setChain_get (m : Mailbox) (c : Chain) (r : ChainRec) : (m.setChain c r).chains.get c = r := by
  cases c <;> rfl

theorem setChain_get_other (m : Mailbox) (c d : Chain) (r : ChainRec) (h : d ≠ c) :
    (m.setChain c r).chains.get d = m.chains.get d := by
  cases c <;> cases d <;> first | rfl | exact absurd rfl h

/-- With a base, a chain reads its anchor entry (R10). -/
theorem readAnchor_reads (m : Mailbox) (c : Chain) (b : Word) (h : m.base = some b) : (m.readAnchor c).readsAnchor c b := by
  unfold Mailbox.readAnchor Mailbox.readsAnchor
  simp only [h, place_chains, setChain_get]
  exact ⟨trivial, trivial, trivial, trivial, place_requests _ _ (by simp)⟩

/-- A read of one chain's anchor leaves the other chains and requesters as they were. -/
theorem readAnchor_onlyChain (m : Mailbox) (c : Chain) : m.onlyChain c (m.readAnchor c) := by
  unfold Mailbox.readAnchor Mailbox.onlyChain
  split
  · exact ⟨fun _ _ => rfl, fun _ _ => rfl⟩
  · refine ⟨fun d h => ?_, fun r h => ?_⟩
    · rw [place_chains]; exact setChain_get_other _ _ _ _ h
    · exact place_waiting _ _ _ (by simpa [PortOp.requester] using h)

/-- A chain reads the header at a card address (R6, R8). -/
theorem readHeader_reads (m : Mailbox) (c : Chain) (a : Word) (phase : WalkPhase) :
    (m.readHeader c a phase).readsHeader c a phase := by
  unfold Mailbox.readHeader Mailbox.readsHeader
  simp only [place_chains, setChain_get]
  exact ⟨trivial, trivial, trivial, trivial, trivial, place_requests _ _ (by simp)⟩

/-- A read of one chain's header leaves the other chains and requesters as they were. -/
theorem readHeader_onlyChain (m : Mailbox) (c : Chain) (a : Word) (phase : WalkPhase) :
    m.onlyChain c (m.readHeader c a phase) := by
  unfold Mailbox.readHeader Mailbox.onlyChain
  refine ⟨fun d h => ?_, fun r h => ?_⟩
  · rw [place_chains]; exact setChain_get_other _ _ _ _ h
  · exact place_waiting _ _ _ (by simpa [PortOp.requester] using h)

/-- With a base, a chain's rescan read is of its anchor or of the header at its cursor (R8). -/
theorem startRescan_rescans (m : Mailbox) (c : Chain) (b : Word) (h : m.base = some b) :
    (m.startRescan c).rescans c b (m.chains.get c).cursor (m.chains.get c).wait := by
  unfold Mailbox.startRescan Mailbox.rescans
  simp only [h]
  cases hc : (m.chains.get c).cursor with
  | none => exact readAnchor_reads m c b h
  | some a => exact readHeader_reads m c a _

theorem startRescan_onlyChain (m : Mailbox) (c : Chain) : m.onlyChain c (m.startRescan c) := by
  unfold Mailbox.startRescan
  split
  · exact ⟨fun _ _ => rfl, fun _ _ => rfl⟩
  · exact readAnchor_onlyChain m c
  · exact readHeader_onlyChain m c _ _

theorem onlyChain_refl (m : Mailbox) (c : Chain) : m.onlyChain c m := ⟨fun _ _ => rfl, fun _ _ => rfl⟩

theorem onlyChain_trans {m n k : Mailbox} {c : Chain} (h : m.onlyChain c n) (h' : n.onlyChain c k) : m.onlyChain c k :=
  ⟨fun d hd => (h'.1 d hd).trans (h.1 d hd), fun r hr => (h'.2 r hr).trans (h.2 r hr)⟩

theorem setChain_onlyChain (m : Mailbox) (c : Chain) (r : ChainRec) : m.onlyChain c (m.setChain c r) :=
  ⟨fun d hd => setChain_get_other m c d r hd, fun _ _ => rfl⟩

theorem park_onlyChain (p : Part) (m : Mailbox) (c : Chain) (w : Wait) : m.onlyChain c (m.park p c w) := by
  unfold Mailbox.park
  dsimp only
  split
  · exact readAnchor_onlyChain m c
  · split
    · exact onlyChain_trans (setChain_onlyChain m c _) (startRescan_onlyChain _ c)
    · exact setChain_onlyChain m c _

/-- What a chain that would park does, with the base set (R7, R10). -/
theorem parkChain_wouldPark (p : Part) (c : Chain) (w : Wait) (b : Word) (h : p.mbx.base = some b) :
    (p.parkChain c w).wouldPark (p.mbx.chains.get c) c b (p.mbx.chains.get c).cursor w := by
  unfold Part.wouldPark Part.parkChain Mailbox.park
  dsimp only
  cases hr : (p.mbx.chains.get c).rewindPending with
  | true => simpa [hr] using readAnchor_reads p.mbx c b h
  | false =>
    cases hs : (p.mbx.chains.get c).rescanPending with
    | true =>
      simp only [Bool.false_eq_true, if_false, if_true]
      have hb (r : ChainRec) : (p.mbx.setChain c r).base = some b := h
      have := startRescan_rescans _ c b (hb { (p.mbx.chains.get c) with
        state := .parked, wait := w, phase := .rest, card := {}, rescanPending := false,
        rescanTimer := Mailbox.parkTimer p p.mbx c w })
      simpa only [setChain_get, hr, hs] using this
    | false =>
      have hh (r : ChainRec) : (p.mbx.setChain c r).holding = p.mbx.holding := rfl
      simp only [Bool.false_eq_true, if_false, Part.parked, setChain_get, true_and, Part.parkedTimer, Mailbox.parkTimer, h, hh]
      cases p.mode <;> cases w <;> cases c <;> cases p.mbx.holding <;> simp [Part.startTimer, timerFrom, word]

end Sys2Proof.Machine
end

