-- ==== Sys2Proof/Tests/Slice0.lean ====
section
/-! SUPPORT. The author's own tests: ill-formed commands, values worked out from the manual, for every obligation a
state and operands that meet its hypotheses together, and one small effect for each command. -/

set_option Elab.async false

namespace Sys2Proof.Tests

open Sys2Proof Sys2Proof.Machine

/-! ### Small states -/

/-- A state with an empty queue. -/
def of (p : Part) : State := { part := p }

/-- The part after one command passes a test. -/
def after (c : Instr) (p : Part) (test : Part → Bool) : Bool :=
  match exec c (of p) with
  | .next t => test t.part
  | .fault _ => false
  | .refused _ => false

/-- In HALT with the base set. -/
def based : Part := { mbx := { base := some 0x1000 } }

/-- In RUN, the inhibit set empty and the governor ARMED. -/
def driving : Part := { mode := .run, mbx := { base := some 0x1000 }, gov := { inhibit := {}, armed := true } }

/-- In LAYOVER. -/
def resting : Part := { mode := .layover, mbx := { base := some 0x1000 } }

/-- Every table complete. -/
def fullTables : Tables := { marks := Vector.replicate 11 { written := 0, loaded := true, complete := true } }

/-- In HALT, ready for RUN. -/
def readyToRun : Part := { based with tables := fullTables }

/-- An access in flight of a chain's walker, the chain's record as given. -/
def walking (c : Chain) (r : ChainRec) (op : PortOp) (len : Nat) : Part :=
  { based with mbx := { base := some 0x1000, chains := (⟨{}, {}, {}⟩ : PerChain ChainRec).set c { r with state := .walking },
                        port := { inFlight := some { op := op, addr := 0x1400, len := len, data := [] } } } }

/-- The access of `walking`. -/
def burst (op : PortOp) (len : Nat) : Access := { op := op, addr := 0x1400, len := len, data := [] }

/-- A held record with no details. -/
def record : ReportRec :=
  { kind := .runEntered, severity := .info, block := .modeLogic, inst := 0, time := 0, repeats := 1, droppedAfter := 0,
    tag := 0, test := false, details := [], beingWritten := false }

/-- The part with a held record. -/
def holdingOne (p : Part) : Part := { p with mbx := { p.mbx with holding := [record], raised := 1 } }

/-- A header with an owner value, a kind, a payload length, a next-card address and a check. -/
def header (owner kind len : Nat) (next : Word) (check : Nat) : Header :=
  { word0 := word (owner + check * 65536), word1 := word (kind + len * 65536), next := next, tag := 7, detail := 0 }

/-- A pole record among the two. -/
def withPole (p : Part) (r : Pole) : Part := { p with poles := ⟨r, {}⟩ }

/-- A line record. -/
def withLine (p : Part) (l : Line) : Part := { p with line := l }

/-- A link record and its limits: unit 100 µs, silence 100 ms, error limit 2. -/
def linked (l : Link) (r : LinkRec) : Part :=
  let e : LinkEntry := { unitOrRate := 100, silence := 100, errorLimit := 2 }
  { driving with
    links := { recs := (⟨{}, {}, {}, {}, {}⟩ : PerLink LinkRec).set l r }
    tables := { links := ⟨e, e, e, e, e⟩ } }

/-- A pulse-interval receiver on PL0. -/
def assembling (state : LinkState) (run errors : Nat) (symbols : List Nat) (error : Option LinkCause) : Part :=
  (linked .pl0 { started := true, state := state, goodRun := run, errorRun := errors }).setPlRx .pl0
    { syncRef := some 4800000, unit48 := some 4800000, frame := some { symbols := symbols, error := error } }

/-- A serial receiver on the drive link. -/
def receiving (state : LinkState) (errors : Nat) (rx : SerialRx) : Part :=
  (linked .drive { started := true, state := state, errorRun := errors }).setSerialRx .drive rx

/-- A contact input with a role and a record. -/
def contact (p : Part) (role : InputRole) (r : InputRec) : Part :=
  { p with tables := { p.tables with inputs := p.tables.inputs.set 0 { role := role, debounce := 10, wakeEnabled := true } } }.setInput 0 r

/-- A drive output with a role and a record. -/
def outputOf (p : Part) (role : OutputRole) (r : OutputRec) : Part :=
  { p with tables := { p.tables with outputs := p.tables.outputs.set 0 { role := role } } }.setOutput 0 r

/-- One auxiliary, number 0, with its entry and its record, granted power by a line with 100 kW. -/
def auxiliary (e : AuxEntry) (r : AuxRec) (queue : List AuxNo) : Part :=
  { driving with
    tables := { budget := { lineLimit := 1000 }, aux := (Vector.replicate 12 {}).set 0 e }
    aux := { recs := (Vector.replicate 12 {}).set 0 r, queue := queue, stagger := .running 5 }
    line := { state := .live, budget := { available := 1000, source := .line } } }

/-- One fault record. -/
def faultOf (k : FaultKind) (r : FaultRec) : Part := { driving with faults := ({} : Collector).set k r }

/-! ### Ill-formed commands, which the checks refuse -/

theorem test_wf_badCommand_names_a_command : (Instr.badCommand 1).wf = false := by decide
theorem test_wf_badCommand_last_code : (Instr.badCommand 6).wf = false := by decide
theorem test_wf_badCommand_unused_code : (Instr.badCommand 7).wf = true := by decide
theorem test_wf_burst_empty : (Instr.payloadReadComplete .control []).wf = false := by decide
theorem test_wf_burst_of_17 : (Instr.payloadReadComplete .control (List.replicate 17 0)).wf = false := by decide
theorem test_wf_burst_of_16 : (Instr.payloadReadComplete .control (List.replicate 16 0)).wf = true := by decide
theorem test_wf_interval_complete : (Instr.plFrameComplete .pl0 0).wf = false := by decide
theorem test_wf_interval_abort : (Instr.plFrameAbort .pl1 0).wf = false := by decide
theorem test_wf_interval_sync : (Instr.syncTaken .pl2 0).wf = false := by decide
theorem test_wf_interval_symbol : (Instr.symbolInterval .pl0 0).wf = false := by decide
theorem test_wf_length_that_is_good : (Instr.serialFrameError .tag (.length 32)).wf = false := by decide
theorem test_wf_length_that_is_bad : (Instr.serialFrameError .tag (.length 33)).wf = true := by decide
theorem test_wf_edge_of_a_level_kind : (Instr.edgeHoldExpiry .lineHigh).wf = false := by decide
theorem test_wf_edge_of_an_edge_kind : (Instr.edgeHoldExpiry .memoryPort).wf = true := by decide

/-! ### Values of the manual -/

/-- No word spells a command: the table gives no bits. -/
theorem test_no_word_spells_a_command : decodeTableWord 32 0x12 = none := by decide

/-- Section 2.6: the intervals of the example frame give its symbols, and its check is 7. -/
theorem test_symbols_of_section_2_6 :
    [30500, 64100, 64100, 54900, 30500, 76300, 33600, 51900].map (symbolValue 146400)
      = [some 0, some 11, some 11, some 8, some 0, some 15, some 1, some 7] := by decide
theorem test_check_of_section_2_6 : plCheck [0, 11, 11, 8, 0, 15, 1] = 7 := by decide +kernel
theorem test_values_of_section_2_6 :
    firstQuantity [0, 11, 11, 8, 0, 15, 1] = 3000 ∧ secondQuantity [0, 11, 11, 8, 0, 15, 1] = 241 := by decide
theorem test_sync_of_section_2_6 : inWindow 3 146400 = true ∧ syncDrifts (some 145200) 146400 = false := by decide
theorem test_window_ends : inWindow 3 108000 = true ∧ inWindow 3 180000 = true ∧ inWindow 3 107999 = false := by decide
theorem test_drift_bound : syncDrifts (some 3200) 3300 = false ∧ syncDrifts (some 3200) 3301 = true := by decide
theorem test_symbol_range_ends :
    symbolValue 480 95 = some 0 ∧ symbolValue 480 94 = none ∧ symbolValue 480 255 = none ∧ symbolValue 480 254 = some 15 := by
  decide

/-- Section 12.3: the check of AUX_REQUEST for auxiliary 3 ON, and the word 0 it is posted with. -/
theorem test_check_of_section_12_3 : cardCheck 0x00020001 [3, 1] = 0xFFF8 := by decide
theorem test_taken_word : ownerWord 2 .none 0xFFF8 = 0xFFF80002 := by decide

/-- R1: the first and the last card address of a window, and those one word beyond. -/
theorem test_card_addresses :
    validCard 0x1000 0x1400 = true ∧ validCard 0x1000 0x13FC = false ∧ validCard 0x1000 0x100FEC = true
      ∧ validCard 0x1000 0x100FF0 = false ∧ validCard 0x1000 0x1402 = false := by decide

/-- R188: the example of POLE_DEWIRED gives four detail words. -/
theorem test_items_are_packed :
    packItems [.small 17, .small 1, bigNat 1200, bigInt (-40), .small 0, .small 1]
      = [0x0111, 1200, 0xFFFFFFD8, 0x0100] := by decide

/-- Section 7.6: 250.0 kW at 750 V allow 333 A. -/
theorem test_allowance_of_section_7_6 : quotient (2500 * 400) 3000 = 333 := by decide

/-! ### Operands and states that meet the hypotheses of the statements -/

theorem test_meets_idle : (of {}).pending = [] := rfl

theorem test_meets_endOfEvent :
    ((holdingOne based).mbx.holding ≠ [] ∧ (holdingOne based).mbx.chains.report.state ≠ .walking)
      ∧ based.mbx.holding = []
      ∧ ((holdingOne (walking .report {} (.anchorRead .report) 1)).mbx.holding ≠ []
        ∧ (holdingOne (walking .report {} (.anchorRead .report) 1)).mbx.chains.report.state = .walking) := by decide

theorem test_driving_is_good : driving.good :=
  ⟨⟨rfl, by decide⟩, ⟨by decide, by decide, by decide⟩, ⟨by decide, by decide, by decide⟩,
    fun i => by cases i <;> decide, fun i => by cases i <;> exact ⟨rfl, rfl⟩⟩

theorem test_meets_traction : ∃ s s' : State, s.part.good ∧ step s = .next s' ∧ s'.part.gov.armed = true :=
  ⟨of driving, _, test_driving_is_good, rfl, rfl⟩

theorem test_meets_tables : ∃ s s' : State, s.part.tables.faithful ∧ step s = .next s' :=
  ⟨{ part := driving, pending := [.controlPeriodExpiry] }, _, ⟨by decide, by decide, by decide⟩, rfl⟩

theorem test_meets_reportsHeld : ∃ s s' : State, s.part.mbx.attended ∧ step s = .next s' :=
  ⟨{ part := driving, pending := [.odometryPulse] }, _, ⟨by decide, by decide⟩, rfl⟩

theorem test_meets_baseWrite :
    (of driving).part.mode ≠ .halt
      ∧ ((of {}).part.mode = .halt ∧ (0x1004 : Word).toNat % 4096 ≠ 0)
      ∧ ((of {}).part.mode = .halt ∧ 0xFFF00000 < (0xFFF01000 : Word).toNat)
      ∧ ((of {}).part.mode = .halt ∧ (0xFFF00000 : Word).toNat % 4096 = 0 ∧ (0xFFF00000 : Word).toNat ≤ 0xFFF00000
        ∧ ((of {}).part.mbx.chains.get .control).state ≠ .walking)
      ∧ ((of (walking .setup {} (.anchorRead .setup) 1)).part.mode = .halt
        ∧ ((of (walking .setup {} (.anchorRead .setup) 1)).part.mbx.chains.get .setup).state = .walking
        ∧ (of (walking .setup {} (.anchorRead .setup) 1)).part.mbx.port.inFlight = some (burst (.anchorRead .setup) 1)) := by decide

theorem test_meets_commandReset : (of {}).part.mbx.base = none ∧ (of based).part.mbx.base = some 0x1000 := by decide

theorem test_meets_run :
    ((of {}).part.mode = .halt ∧ (of {}).part.mbx.base = none)
      ∧ ((of based).part.mode = .halt ∧ (of based).part.mbx.base ≠ none ∧ (of based).part.tables.missing ≠ 0)
      ∧ ((of readyToRun).part.mode = .halt ∧ (of readyToRun).part.mbx.base ≠ none ∧ (of readyToRun).part.tables.missing = 0)
      ∧ (of resting).part.mode = .layover ∧ (of driving).part.mode = .run := by decide

theorem test_meets_standingRequest :
    let p := auxiliary { valid := true, standing := true } {} []
    (p.auxEntry 0).valid = true ∧ (p.auxEntry 0).cls = .essential ∧ (p.auxEntry 0).standing = true
      ∧ (p.auxRec 0).state = .off ∧ (p.auxRec 0).offTimer = .stopped := by decide

theorem test_meets_halt :
    (of {}).part.mode = .halt ∧ (of driving).part.mode = .run ∧ (of driving).part.gov.inhibit.mode = false
      ∧ (of resting).part.mode ≠ .halt := by decide

theorem test_meets_wake :
    8 ≤ (8 : Byte).toNat ∧ ((7 : Byte).toNat < 8 ∧ (of {}).part.mbx.base = none)
      ∧ ((7 : Byte).toNat < 8 ∧ (of based).part.mbx.base = some 0x1000 ∧ (7 : Byte).getLsbD (chainNumber .report) = true
        ∧ ((of based).part.mbx.chains.get .report).state = .parked)
      ∧ ((1 : Byte).getLsbD (chainNumber .control) = true
        ∧ ((of (walking .control {} (.anchorRead .control) 1)).part.mbx.chains.get .control).state = .walking)
      ∧ (0 : Byte).getLsbD (chainNumber .setup) = false := by decide

theorem test_meets_rewind :
    2 < (3 : Byte).toNat ∧ ((2 : Byte).toNat ≤ 2 ∧ (of {}).part.mbx.base = none)
      ∧ ((2 : Byte).toNat = chainNumber .report ∧ (of based).part.mbx.base = some 0x1000
        ∧ ((of based).part.mbx.chains.get .report).state ≠ .walking)
      ∧ ((0 : Byte).toNat = chainNumber .control
        ∧ ((of (walking .control {} (.anchorRead .control) 1)).part.mbx.chains.get .control).state = .walking) := by decide

theorem test_meets_acks :
    32 ≤ (32 : Byte).toNat ∧ (31 : Byte).toNat < 32 ∧ 0x10000 ≤ (0x10000 : Word).toNat ∧ (0x11 : Word).toNat / 16 % 16 ≠ 0
      ∧ (0x100 : Word).toNat % 16 = 0 ∧ 6 < (7 : Word).toNat % 16 := by decide

theorem test_meets_registers : based.mbx.base = some 0x1000 ∧ (of {}).part.mbx.base = none := by decide

/-- A free port on which every requester waits, then each in turn has gone. -/
def crowd (demand control report mirror setup : Bool) : State :=
  let req (b : Bool) (op : PortOp) : Option Access := if b then some (burst op 1) else none
  of { mbx := { port := { demand := req demand .demandRead, control := req control (.anchorRead .control),
                          report := req report (.anchorRead .report), mirror := req mirror .mirrorLast,
                          setup := req setup (.anchorRead .setup) } } }

theorem test_meets_arbiter :
    (of (walking .control {} (.anchorRead .control) 1)).part.mbx.port.inFlight ≠ none
      ∧ (crowd true true true true true).part.mbx.port.demand = some (burst .demandRead 1)
      ∧ (crowd false true true true true).part.mbx.port.control = some (burst (.anchorRead .control) 1)
      ∧ (crowd false false true true true).part.mbx.port.report = some (burst (.anchorRead .report) 1)
      ∧ (crowd false false false true true).part.mbx.port.mirror = some (burst .mirrorLast 1)
      ∧ (crowd false false false false true).part.mbx.port.setup = some (burst (.anchorRead .setup) 1)
      ∧ (crowd false false false false false).part.mbx.port.setup = none
      ∧ ∀ a b c d e, (crowd a b c d e).part.mbx.port.inFlight = none := by decide

theorem test_meets_anchor :
    let s := of (walking .control { phase := .anchorRead } (.anchorRead .control) 1)
    s.part.mbx.port.inFlight = some (burst (.anchorRead .control) 1) ∧ (burst (.anchorRead .control) 1).op = .anchorRead .control
      ∧ (s.part.mbx.chains.get .control).phase = .anchorRead ∧ s.part.mbx.base = some 0x1000
      ∧ validCard 0x1000 0x1400 = true ∧ validCard 0x1000 0x13FC = false := by decide

theorem test_meets_header :
    ∀ phase ∈ [WalkPhase.headerRead, .rescanRead .owner, .rescanRead .record],
      let s := of (walking .report { phase := phase, cursor := some 0x1400 } (.headerRead .report) 5)
      s.part.mbx.port.inFlight = some (burst (.headerRead .report) 5)
        ∧ (s.part.mbx.chains.get .report).phase = phase ∧ s.part.mbx.base = some 0x1000
        ∧ (s.part.mbx.chains.get .report).cursor = some 0x1400 ∧ s.part.mbx.holding = []
        ∧ headerPosted (header 1 0x81 0 0 0) = true ∧ headerPosted (header 2 0x81 0 0 0) = false
        ∧ (holdingOne s.part).mbx.holding ≠ [] := by decide

theorem test_meets_rescanLink :
    let s := of (walking .setup { phase := .rescanRead .link, cursor := some 0x1400 } (.headerRead .setup) 5)
    s.part.mbx.port.inFlight = some (burst (.headerRead .setup) 5) ∧ (s.part.mbx.chains.get .setup).phase = .rescanRead .link
      ∧ s.part.mbx.base = some 0x1000 ∧ (s.part.mbx.chains.get .setup).cursor = some 0x1400
      ∧ (header 3 0x41 0 0 0).next = 0 ∧ validCard 0x1000 (header 3 0x41 0 0x100FEC 0).next = true
      ∧ (header 3 0x41 0 0x100FF0 0).next ≠ 0 ∧ validCard 0x1000 (header 3 0x41 0 0x100FF0 0).next = false := by decide

/-- A card marked TAKEN with its payload still to be read. -/
def taken (c : Chain) (h : Header) (x : Word) : Part :=
  walking c { phase := .takenWrite, cursor := some x, card := { header := h } } (.takenWrite c) 1

theorem test_meets_taken :
    ∀ len ∈ [0, 1, 124, 125],
      let s := of (taken .control (header 1 1 len 0 0) 0x1400)
      Chain.control ≠ .report ∧ s.part.mbx.port.inFlight = some (burst (.takenWrite .control) 1)
        ∧ (s.part.mbx.chains.get .control).phase = .takenWrite
        ∧ (s.part.mbx.chains.get .control).card = { header := header 1 1 len 0 0 }
        ∧ s.part.mbx.base = some 0x1000 ∧ (s.part.mbx.chains.get .control).cursor = some 0x1400
        ∧ headerLength (header 1 1 len 0 0) = len ∧ runsPast 0x1000 0x1400 len = false
        ∧ runsPast 0x1000 0x100FEC 1 = true ∧ runsPast 0x1000 0x100FEC 0 = false := by decide

theorem test_meets_payload :
    ∀ len ∈ [1, 16, 17],
      let s := of (walking .control { phase := .payloadRead, cursor := some 0x1400, card := { header := header 1 1 len 0 0 } }
        (.payloadRead .control) (min 16 len))
      let words := List.replicate (min 16 len) (0 : Word)
      s.part.mbx.port.inFlight = some (burst (.payloadRead .control) (min 16 len))
        ∧ (burst (.payloadRead .control) (min 16 len)).len = words.length
        ∧ (s.part.mbx.chains.get .control).phase = .payloadRead ∧ (s.part.mbx.chains.get .control).cursor = some 0x1400
        ∧ ((s.part.mbx.chains.get .control).card.payload.length + words.length < headerLength (header 1 1 len 0 0) ↔ len = 17) := by decide

theorem test_meets_generic :
    cardCheck 0x00020001 [3, 1] = headerCheck (header 1 1 2 0 0xFFF8)
      ∧ cardCheck 0x00020001 [3, 1] ≠ headerCheck (header 1 1 2 0 0xFFF9)
      ∧ cardKind .control 0x0F = none ∧ cardKind .control 0x0E = some .exitLayover ∧ cardKind .setup 0x42 = some .verifyConfig
      ∧ cardKind .control 0x0A = some .readFaultTable ∧ based.mode = .halt ∧ driving.mode ≠ .halt
      ∧ CardKind.exitLayover ∉ [CardKind.readFaultTable, .ackFaults, .copySeenMap] := by decide

theorem test_meets_cards :
    [(0 : Word)].length ≠ 2 ∧ (0 : Word).toNat = poleNumber .p ∧ (1 : Word).toNat = poleNumber .p + 1
      ∧ (driving.poles.get .p).state = .untracked ∧ driving.raiseBarred [.p, .n] = some (.state .p)
      ∧ (20 : Word).toNat = kindNumber .zoneOverflow ∧ 20 < (21 : Word).toNat
      ∧ ((faultOf .zoneOverflow { edgeHold := .running 9 }).faults.get .zoneOverflow).inForce = true
      ∧ (0 : Word) = driving.tables.check ∧ (5000 : Word).toNat ≤ 5000 ∧ (driving.auxEntry 11).valid = false
      ∧ 101 ≤ (List.replicate 101 (0 : Word)).length ∧ 16 ≤ (List.replicate 16 (0 : Word)).length
      ∧ (⟨List.replicate 16 0, 0⟩ : Request).at 0 ≤ 1 ∧ driving.faults.state ≠ .fault ∧ driving.mode ≠ .layover
      ∧ resting.mode ≠ .run ∧ resting.mode = .layover ∧ driving.gov.inhibit.empty = true := by decide

theorem test_meets_cardRefusals :
    [(0 : Word), 0].length ≠ 3 ∧ [(0 : Word)].length ≠ 2 ∧ (List.replicate 15 (0 : Word)).length < 16
      ∧ 1 < (⟨List.replicate 16 2, 0⟩ : Request).at 0 ∧ (List.replicate 100 (0 : Word)).length < 101
      ∧ 3 < (4 : Word).toNat ∧ 1 < (2 : Word).toNat ∧ 5000 < (5001 : Word).toNat ∧ 12 ≤ (12 : Word).toNat
      ∧ (∀ v ∈ [1, 2, 3], (driving.raiseBarred (poleSet v)).isSome = true
        ∧ ∀ i ∈ poleSet v, (driving.poles.get i).state ∈ [PoleState.faulted, .untracked]) := by decide

theorem test_meets_reportCard :
    ∀ len ∈ [3, 4, 124, 125],
      let s := of (holdingOne (taken .report (header 1 0x81 len 0 0) 0x1400))
      s.part.mbx.port.inFlight = some (burst (.takenWrite .report) 1) ∧ s.part.mbx.chains.report.phase = .takenWrite
        ∧ s.part.mbx.base = some 0x1000 ∧ s.part.mbx.chains.report.cursor = some 0x1400 ∧ s.part.mbx.holding = record :: []
        ∧ headerLength s.part.mbx.chains.report.card.header = len ∧ runsPast 0x1000 0x1400 len = false
        ∧ 4 + record.details.length = 4 ∧ runsPast 0x1000 0x100FEC 4 = true := by decide

/-- A decided card of a walked chain, with data words left to write. -/
def decidedCard (len left : Nat) (next : Word) (result : ResultCode) : Card :=
  { header := header 1 1 len next 0, dataLeft := List.replicate left 0, result := result }

theorem test_meets_outcomeWrites :
    ∀ n ∈ [16, 17],
      let s := of (walking .control { phase := .dataWrite, cursor := some 0x1400, card := decidedCard 0 n 0 .ok }
        (.dataWrite .control) 16)
      let t := of (walking .control { phase := .detailWrite, cursor := some 0x1400 } (.detailWrite .control) 1)
      s.part.mbx.port.inFlight = some (burst (.dataWrite .control) 16) ∧ (s.part.mbx.chains.get .control).phase = .dataWrite
        ∧ (s.part.mbx.chains.get .control).cursor = some 0x1400
        ∧ ((s.part.mbx.chains.get .control).card.dataLeft.drop 16 = [] ↔ n = 16) ∧ Chain.control ≠ .report
        ∧ t.part.mbx.port.inFlight = some (burst (.detailWrite .control) 1)
        ∧ (t.part.mbx.chains.get .control).phase = .detailWrite ∧ (t.part.mbx.chains.get .control).cursor = some 0x1400 := by decide

theorem test_meets_finished :
    ∀ k : Fin 3, let next : Word := [0, 0x1400, 0x13FC].getD k.val 0
      ∀ c ∈ [Chain.control, .report], ∀ rewind,
      let r : ChainRec := { phase := .ownerWrite, cursor := some 0x1400, rewindPending := rewind, card := decidedCard 0 0 next .ok }
      let s := of (walking c r (.ownerWrite c) 1)
      s.part.mbx.port.inFlight = some (burst (.ownerWrite c) 1) ∧ (s.part.mbx.chains.get c).phase = .ownerWrite
        ∧ s.part.mbx.base = some 0x1000 ∧ (s.part.mbx.chains.get c).cursor = some 0x1400
        ∧ (s.part.mbx.chains.get c).rewindPending = rewind
        ∧ (s.part.mbx.chains.get c).card.header.next = next
        ∧ (s.part.mbx.chains.get c).card.result = .ok ∧ (validCard 0x1000 next = true ↔ next = 0x1400) := by decide

theorem test_meets_refusedReport :
    let s := of (walking .report { phase := .ownerWrite, card := { result := .badLength } } (.ownerWrite .report) 1)
    s.part.mbx.port.inFlight = some (burst (.ownerWrite .report) 1) ∧ s.part.mbx.chains.report.phase = .ownerWrite
      ∧ s.part.mbx.chains.report.card.header.next = 0 ∧ s.part.mbx.chains.report.card.result ≠ .ok := by decide

/-- A demand read in flight. -/
def sampling (p : Part) : Part := { p with mbx := { p.mbx with port := { inFlight := some (burst .demandRead 3) } } }

/-- The governor stale, its limit one away, the third miss one away. -/
def lagging : Part :=
  sampling { driving with gov := { inhibit := { demandStale := true }, stale := 4, lastFresh := some 9, misses := 2, replyWait := some 3 } }

theorem test_meets_demand :
    (of (sampling based)).part.mbx.port.inFlight = some (burst .demandRead 3) ∧ (of (sampling based)).part.mode ≠ .run
      ∧ (of (sampling driving)).part.mode = .run
      ∧ (∀ k : Fin 2, let v : Word := [1000, 0xFFFFFC18].getD k.val 0
          ~~~v = ~~~v ∧ -1000 ≤ v.toInt ∧ v.toInt ≤ 1000 ∧ (of lagging).part.gov.lastFresh ≠ some 8)
      ∧ (of lagging).part.mode = .run ∧ (of lagging).part.mbx.port.inFlight = some (burst .demandRead 3)
      ∧ (of lagging).part.gov.inhibit.demandStale = true ∧ (of (sampling driving)).part.gov.replyWait = none
      ∧ (0 : Word) ≠ ~~~(5 : Word) ∧ 1000 < (1001 : Word).toInt ∧ (0xFFFFFC17 : Word).toInt < -1000
      ∧ (of lagging).part.gov.lastFresh = some 9 ∧ (of lagging).part.gov.stale < (of lagging).part.tables.timers.staleLimit
      ∧ countUp (of lagging).part.gov.stale 255 = (of lagging).part.tables.timers.staleLimit := by decide

theorem test_meets_setpoint :
    ({} : Part).gov.inhibit.empty = false ∧ driving.gov.inhibit.empty = true ∧ ({} : Part).gov.armed = false
      ∧ 0 < ({ driving with gov := { setpoint := 1 } } : Part).gov.setpoint
      ∧ ({ driving with gov := { setpoint := -1 } } : Part).gov.setpoint < 0 := by decide

/-- The governor ARMED with a demand held, from a setpoint; the line or the battery as the source. -/
def pulling (held setpoint : Int) (source : Supply) : Part :=
  { driving with
    gov := { driving.gov with held := held, setpoint := setpoint }
    tables := { budget := { nominal := 6000 } }
    line := { voltage := 3000, budget := { source := source } } }

theorem test_meets_follows :
    (∀ held ∈ [(-1 : Int), 0, 1], ∀ setpoint ∈ [(-1 : Int), 0, 1],
      let p := pulling held setpoint .line
      p.gov.inhibit.empty = true ∧ p.gov.armed = true ∧ p.gov.held = held ∧ p.gov.setpoint = setpoint)
      ∧ (pulling 1 0 .line).line.budget.source = .line ∧ 0 < (pulling 1 0 .line).line.voltage
      ∧ (pulling 1 0 .battery).line.budget.source = .battery ∧ 0 < (pulling 1 0 .battery).tables.budget.nominal
      ∧ driving.line.budget.source = .none ∧ driving.gov.replyWait = none
      ∧ countUp driving.gov.stale 255 ≠ driving.tables.timers.staleLimit
      ∧ (0 : Int) ≤ 0 ∧ (0 : Int) ≤ 5 ∧ (0 : Int) < 5 ∧ (-5 : Int) < 0 := by decide

/-- A mirror burst in flight. -/
def mirroring (op : PortOp) (more : Bool) : Part :=
  { based with mbx := { base := some 0x1000, port := { inFlight := some (burst op 1) },
                        mirror := { writing := some { base := 0x1000, body := [] }, pendingStart := more } } }

theorem test_meets_mirror :
    ∀ op ∈ [PortOp.mirrorFirst, .mirrorBody 0, .mirrorBody 10, .mirrorBody 11, .mirrorLast], ∀ more,
      (of (mirroring op more)).part.mbx.port.inFlight = some (burst op 1) ∧ (burst op 1).op.requester = .mirror
        ∧ (of (mirroring op more)).part.mbx.mirror.writing = some { base := 0x1000, body := [] }
        ∧ (of (mirroring op more)).part.mbx.mirror.pendingStart = more
        ∧ (of (mirroring op more)).part.mbx.base = some 0x1000 := by decide

theorem test_meets_failures :
    (of {}).part.mbx.port.inFlight = none
      ∧ (of (walking .report {} (.headerRead .report) 5)).part.mbx.port.inFlight = some (burst (.headerRead .report) 5)
      ∧ (burst (.headerRead .report) 5).op.chain = some .report
      ∧ (burst .mirrorLast 1).op.requester = .mirror ∧ (mirroring .mirrorLast false).mbx.mirror.pendingStart = false
      ∧ (burst .demandRead 3).op = .demandRead ∧ (sampling based).mode ≠ .run := by decide

/-- The timers of the mailbox running. -/
def timed (base : Option Word) : Part :=
  { mbx := { base := base, chains := ⟨{ rescanTimer := .running 5 }, {}, {}⟩, mirror := { timer := .running 5 } } }

theorem test_meets_mailboxTimers :
    ((of (timed none)).part.mbx.chains.get .control).rescanTimer = .running 5 ∧ (of (timed none)).part.mbx.base = none
      ∧ ((of (timed (some 0x1000))).part.mbx.chains.get .control).rescanTimer = .running 5
      ∧ (of (timed (some 0x1000))).part.mbx.base = some 0x1000
      ∧ (of (timed (some 0x1000))).part.mbx.mirror.timer = .running 5
      ∧ (of (timed (some 0x1000))).part.mbx.mirror.writing = none
      ∧ (of (mirroring .mirrorLast false)).part.mbx.mirror.timer = .running 50
      ∧ (of (mirroring .mirrorLast false)).part.mbx.mirror.writing ≠ none := by decide

/-- In RUN with no timer running, so that every clause of ExpiryOfStoppedTimerChangesNothing is met. -/
def stillPart : Part :=
  { driving with mbx := { mirror := { timer := .stopped } }, zones := { speedTimer := .stopped, stationaryTimer := .stopped } }

theorem test_meets_stoppedTimers :
    (∀ c, (stillPart.mbx.chains.get c).rescanTimer = .stopped) ∧ stillPart.mbx.mirror.timer = .stopped
      ∧ (∀ l, (stillPart.linkRec l).silence = .stopped)
      ∧ (∀ i, (stillPart.input i).debounce = .stopped ∧ (stillPart.input i).cleaning = .stopped)
      ∧ stillPart.contacts.pollTimer = .stopped ∧ stillPart.contacts.secondTimer = .stopped
      ∧ (∀ o, (stillPart.output o).mismatch = .stopped)
      ∧ stillPart.line.gapTimer = .stopped ∧ stillPart.line.restoreTimer = .stopped ∧ stillPart.line.highTimer = .stopped
      ∧ (∀ i, (stillPart.poles.get i).confirmTimer = .stopped ∧ (stillPart.poles.get i).resolutionTimer = .stopped
        ∧ (stillPart.poles.get i).holdTimer = .stopped ∧ (stillPart.poles.get i).lowerTimer = .stopped
        ∧ (stillPart.poles.get i).raiseTimer = .stopped ∧ (stillPart.poles.get i).settleTimer = .stopped)
      ∧ stillPart.zones.speedTimer = .stopped ∧ stillPart.zones.stationaryTimer = .stopped
      ∧ stillPart.gov.period = .stopped ∧ stillPart.aux.stagger = .stopped
      ∧ (∀ a, (stillPart.auxRec a).startTimer = .stopped ∧ (stillPart.auxRec a).offTimer = .stopped)
      ∧ (∀ k, (stillPart.faults.get k).edgeHold = .stopped ∧ (stillPart.faults.get k).testHold = .stopped)
      ∧ stillPart.faults.alertTimer = .stopped ∧ stillPart.faults.lampHold = .stopped
      ∧ stillPart.faults.buzzerHold = .stopped := by
  refine ⟨fun c => by cases c <;> rfl, rfl, fun l => by cases l <;> rfl, by decide, rfl, rfl, by decide, rfl, rfl, rfl,
    fun i => by cases i <;> decide, rfl, rfl, rfl, rfl, by decide, fun k => by cases k <;> decide, rfl, rfl, rfl⟩

theorem test_meets_sync :
    ∀ n ∈ [3600000, 6000000, 3599999, 6000001], ∀ state ∈ [LinkState.silent, .hunting],
      let s := of (linked .pl0 { started := true, state := state })
      s.part.linkRec (plLink .pl0) = { started := true, state := state } ∧ (s.part.links.pl.get .pl0).frame = none
        ∧ (36000 * (s.part.tables.links.get (plLink .pl0)).unitOrRate ≤ n
              ∧ n ≤ 60000 * (s.part.tables.links.get (plLink .pl0)).unitOrRate ↔ n ∈ [3600000, 6000000]) := by decide

theorem test_meets_symbol :
    ∀ n ∈ [950000, 2549999, 949999, 2550000, 4000000],
      let s := of (assembling .hunting 0 0 [1, 2] none)
      (s.part.linkRec (plLink .pl0)).started = true ∧ (s.part.linkRec (plLink .pl0)).state ≠ .silent
        ∧ (s.part.links.pl.get .pl0).unit48 = some 4800000
        ∧ (s.part.links.pl.get .pl0).frame = some { symbols := [1, 2], error := none } ∧ [1, 2].length < 7
        ∧ 48 * n ≤ 40 * 4800000 ∧ (19 * 4800000 ≤ 96 * n ∧ 96 * n < 51 * 4800000 ↔ n ∈ [950000, 2549999]) := by decide

theorem test_meets_acceptedFrame :
    ∀ state ∈ [LinkState.hunting, .good],
      let f := [0, 11, 11, 8, 0, 15, 1]
      let s := of (assembling state 3 1 f none)
      s.part.linkRec (plLink .pl0) = { started := true, state := state, goodRun := 3, errorRun := 1 }
        ∧ (s.part.links.pl.get .pl0).unit48 = some 4800000
        ∧ (s.part.links.pl.get .pl0).frame = some { symbols := f, error := none } ∧ f.length = 7
        ∧ 48 * 1700000 ≤ 40 * 4800000 ∧ symbolValue 4800000 1700000 = some 7 ∧ plCheck f = 7 ∧ symbolAt f 0 ≤ 1
        ∧ s.part.mode ≠ .halt ∧ countUp 3 4 = 4 := by decide +kernel

theorem test_meets_erroredFrame :
    ∀ state ∈ [LinkState.hunting, .good], ∀ errors ∈ [0, 1], ∀ error ∈ [some LinkCause.syncDrift, none],
      let s := of (assembling state 0 errors [0, 11, 11, 8, 0, 15, 1] error)
      s.part.linkRec (plLink .pl0) = { started := true, state := state, errorRun := errors }
        ∧ (s.part.links.pl.get .pl0).unit48 = some 4800000
        ∧ (s.part.links.pl.get .pl0).frame = some { symbols := [0, 11, 11, 8, 0, 15, 1], error := error }
        ∧ 48 * 2600000 ≤ 40 * 4800000 ∧ symbolValue 4800000 2600000 = none
        ∧ 48 * 1600000 ≤ 40 * 4800000 ∧ symbolValue 4800000 1600000 = some 6 ∧ plCheck [0, 11, 11, 8, 0, 15, 1] ≠ 6
        ∧ 40 * 4800000 < 48 * 4000001
        ∧ (countUp errors 16 < (s.part.tables.links.get (plLink .pl0)).errorLimit ↔ errors = 0) := by decide +kernel

theorem test_meets_linkActivity :
    (∀ state ∈ [LinkState.hunting, .good, .degraded], ∀ l ∈ [Link.pl0, .pl1, .pl2, .tag, .drive],
      let s := of (linked l { started := true, state := state, silence := .running 9 })
      s.part.linkRec l = { started := true, state := state, silence := .running 9 })
      ∧ (of (linked .tag { started := true })).part.linkRec .tag = { started := true }
      ∧ (of driving).part.linkRec .tag = {} := by decide

theorem test_meets_characters :
    ∀ state ∈ [LinkState.hunting, .good], ∀ rx ∈ [SerialRx.waiting, .length, .body 1 [], .body 1 [0, 0]],
      let s := of (receiving state 1 rx)
      s.part.linkRec (serialLink .drive) = { started := true, state := state, errorRun := 1 }
        ∧ s.part.links.serial.get .drive = rx ∧ (rx.assembling = true ↔ rx ≠ .waiting)
        ∧ 1 ≤ (1 : Byte).toNat ∧ (32 : Byte).toNat ≤ 32 ∧ goodLength 33 = false ∧ goodLength 0 = false
        ∧ (s.part.tables.links.get (serialLink .drive)).errorLimit ≤ countUp 1 16 := by decide

/-- The frame of a status reply that echoes 5: FAULT with an actual of -2 A, with its check. -/
def reply : List Byte := [0x21, 5, 0xFF, 0xFE, 2]

/-- The reply with its frame check. -/
def replyFrame : List Byte := (serialFrame reply).drop 2

/-- The reply received on a GOOD drive link while the governor waits for it. -/
def replied : Part := { receiving .good 0 (.body 5 replyFrame) with gov := { inhibit := {}, replyWait := some 5, misses := 2 } }

theorem test_meets_serialFrame :
    (of replied).part.linkRec (serialLink .drive) = { started := true, state := .good }
      ∧ (of replied).part.links.serial.get .drive = .body 5 replyFrame ∧ replyFrame.length = 5 + 2
      ∧ checkAgrees 5 replyFrame = true ∧ checkAgrees 5 (replyFrame.set 6 0) = false
      ∧ byteAt replyFrame 0 = 0x21 ∧ (of replied).part.gov.replyWait = some (byteAt replyFrame 1)
      ∧ inverterOfByte (byteAt replyFrame 4) = some .fault ∧ Inverter.fault.bad = true ∧ Inverter.ready.bad = false
      ∧ inverterOfByte 0 = some .ready ∧ inverterOfByte 3 = some .tripped := by decide +kernel

theorem test_meets_contact :
    (of driving).part.input 0 = {} ∧ ((of driving).part.tables.inputs.get 0).role = .none
      ∧ (of (contact resting .wakeRequest {})).part.mode = .layover
      ∧ (∀ first, let s := of (contact driving .doorInterlock { awaitingFirst := first, raw := some .closed, debounce := .running 10 })
          s.part.input 0 = { awaitingFirst := first, raw := some .closed, debounce := .running 10 }
          ∧ s.part.tables.inputs.get 0 = { role := .doorInterlock, debounce := 10, wakeEnabled := true }
          ∧ s.part.mode ≠ .layover ∧ s.part.mode = .run ∧ (some Level.closed ≠ some Level.opened))
      ∧ (∀ toSupply, ∀ v ∈ [PinVoltage.nearGround, .nearSupply, .between],
          ({ toSupply := toSupply } : InputEntry).levelOf v
            = if v = (if toSupply then PinVoltage.nearSupply else .nearGround) then .closed else .opened)
      ∧ (∀ high pulsed off, let e : InputEntry := { role := .wakeRequest, highCurrent := high, pulsed := pulsed, cleaningOff := off }
          e.role ≠ .none ∧ (e.cleaningOff = false ↔ off = false))
      ∧ ((of (contact driving .wakeRequest { cleaning := .running 20 })).part.input 0).cleaning = .running 20 := by
  decide

/-- The sixteen contacts, the first near ground, near the supply or between, the others between. -/
def pinsAt (v : PinVoltage) : Vector PinVoltage 16 := (Vector.replicate 16 .between).set 0 v

theorem test_meets_blindOnWire :
    ∀ state ∈ [PoleState.onWire, .suspect], ∀ i,
      ((withPole driving { state := state, blind := true }).poles.get i).blind = true →
        ((withPole driving { state := state, blind := true }).poles.get i).onLine = true := by
  intro state h i; revert state; cases i <;> decide

/-- In LAYOVER with both polling timers running. -/
def polling : Part :=
  { contact resting .wakeRequest {} with contacts := { (contact resting .wakeRequest {}).contacts with
      pollTimer := .running 256, second := 1, secondTimer := .running 261 } }

theorem test_meets_poll :
    (of polling).part.contacts.pollTimer = .running 256 ∧ (of polling).part.contacts.secondTimer = .running 261
      ∧ (of polling).part.wakes (pinsAt .between) = [] ∧ (of polling).part.wakes (pinsAt .nearGround) = 0 :: [] ∧ (of polling).part.mode = .layover := by
  decide

theorem test_meets_output :
    ∀ role ∈ [OutputRole.none, .raiseP, .alarmLamp, .alarmBuzzer], ∀ on failed,
      let s := of (outputOf driving role { commanded := on, failed := failed, mismatch := .running 20 })
      s.part.output 0 = { commanded := on, failed := failed, mismatch := .running 20 }
        ∧ (s.part.tables.outputs.get 0).role = role
        ∧ (s.part.output 0).readback = false ∧ ((s.part.output 0).readback ≠ true) := by decide

/-- In a gap, with an active zone that saw it. -/
def inGap : Part :=
  { withLine driving { state := .gap, gapTimer := .running 120 } with
    zones := { active := [{ id := ⟨1, 2⟩, feature := 0, entry := 0, profile := 0, specific := true, start := 0, stop := 10,
                            order := 1, gapCount := 1 }] } }

theorem test_meets_gapTimer :
    (of inGap).part.line.gapTimer = .running 120 ∧ (of inGap).part.line.state = .gap
      ∧ (∀ z ∈ (of inGap).part.zones.active, z.gapCount ≠ 0) ∧ inGap.zones.active ≠ [] := by decide

/-- A DEFERRABLE and a COMFORT auxiliary in a state on a line in a state, with an excess of 100. -/
def overdrawn (line : LineState) (state : AuxState) : Part :=
  let p := auxiliary {} {} [0]
  { p with
    tables := { p.tables with aux := ((Vector.replicate 12 {}).set 0 { valid := true, cls := .deferrable, priority := 9 }).set 1
                                       { valid := true, cls := .comfort } }
    aux := { p.aux with recs := ((Vector.replicate 12 {}).set 0 { state := state }).set 1 { state := state } }
    line := { p.line with state := line, budget := { available := 1000, claims := 1100 } } }

theorem test_meets_shed :
    (overdrawn .gap .running).excess = 100 ∧ (overdrawn .gap .running).mayShed 0 ∧ (overdrawn .gap .running).mayShed 1
      ∧ (∀ b, b ≠ (0 : AuxNo) → (overdrawn .gap .running).mayShed b → (overdrawn .gap .running).shedsFirst 0 b)
      ∧ driving.excess = 0 ∧ (∀ a, ¬ (overdrawn .gap .waiting).mayShed a)
      ∧ (∀ line ∈ [LineState.lost, .gap, .offWire, .unknown], ∀ state ∈ [AuxState.starting, .running, .waiting, .off],
        (overdrawn line state).line.state = line ∧ line.supplied = false
          ∧ ((overdrawn line state).auxRec 0).state = state ∧ ((overdrawn line state).auxEntry 0).cls = .deferrable
          ∧ ((overdrawn line state).auxRec 1).state = state ∧ ((overdrawn line state).auxEntry 1).cls = .comfort) := by
  unfold Part.mayShed Part.shedsFirst
  decide +kernel

/-- Pole P as copied, N HOUSED, on a line in a state. -/
def copying (line : LineState) (p : PoleState) : Part :=
  withLine { driving with keptPoles := ⟨p, .housed⟩, poles := ⟨{ state := p }, { state := .housed }⟩ }
    { state := line, poleCopy := ⟨p, .housed⟩, restoreTimer := if line = .lost then .running 300 else .stopped }

/-- R54 to R56: a notice takes the line out of GAP, of LIVE and of LOST to OFF_WIRE, and out of OFF_WIRE to LOST. -/
theorem test_meets_notices :
    lineAfterNotice .gap ⟨.lowering, .housed⟩ .lowering = .offWire ∧ lineAfterNotice .gap ⟨.onWire, .housed⟩ .onWire = .gap
      ∧ (∀ l ∈ [LineState.live, .sag, .high, .lost], lineAfterNotice l ⟨.housed, .housed⟩ .housed = .offWire
        ∧ lineAfterNotice l ⟨.lowering, .housed⟩ .lowering = l)
      ∧ lineAfterNotice .offWire ⟨.onWire, .housed⟩ .onWire = .lost
      ∧ lineAfterNotice .unknown ⟨.housed, .housed⟩ .housed = .unknown
      ∧ ((copying .gap .onWire).sendNotice { pole := .p, entered := .lowering }).line.state = .offWire
      ∧ ((copying .lost .lowering).sendNotice { pole := .p, entered := .housed }).line.state = .offWire
      ∧ ((copying .offWire .raising).sendNotice { pole := .p, entered := .onWire }).line.state = .lost
      ∧ ((copying .lost .lowering).sendNotice { pole := .p, entered := .faulted }).line.state = .lost := by decide +kernel

theorem test_meets_budget :
    let t : Tables := { budget := { nominal := 6000 }, lineLimits := { gapThreshold := 300, lowLimit := 500 } }
    t.lineLimits.gapThreshold < t.lineLimits.lowLimit ∧ 0 < t.budget.nominal
      ∧ (∀ s ∈ [LineState.live, .sag, .high], s.supplied = true)
      ∧ (∀ s ∈ [LineState.gap, .lost, .offWire, .unknown], s.supplied = false) := by decide

theorem test_meets_lineTimers :
    ∀ state ∈ [LineState.lost, .unknown],
      let s := of (withLine driving { state := state, restoreTimer := .running 300, highTimer := .running 7 })
      s.part.line.restoreTimer = .running 300 ∧ s.part.line.state = state ∧ s.part.line.highTimer = .running 7 := by
  decide

theorem test_meets_confirm :
    ∀ angle, ∀ state ∈ [PoleState.suspect, .housed],
      let r : Pole := { state := state, confirmTimer := .running 40, indicators := { lateral := angle, lineGap := !angle } }
      (of (withPole driving r)).part.poles.get .p = r ∧ r.confirmTimer = .running 40 ∧ r.indicators.angle = angle := by
  decide

theorem test_meets_resolution :
    ∀ resolving available,
      let r : Pole := { resolving := resolving, sensorAvailable := available, resolutionTimer := .running 9 }
      let s := of (contact (withPole driving r) .polePHoused { confirmed := .closed })
      s.part.poles.get .p = r ∧ r.resolutionTimer = .running 9 ∧ s.part.housedClosed .p = true
        ∧ (of (withPole driving r)).part.housedClosed .p = false := by decide

theorem test_meets_holdAndLower :
    ∀ state ∈ [PoleState.housed, .dewired, .lowering], ∀ pending available latch,
      let r : Pole := { state := state, holdTimer := .running 500, lowerTimer := .running 5000, retryPending := pending,
                        sensorAvailable := available, latch := latch }
      (of (withPole driving r)).part.poles.get .p = r
        ∧ ((of (withPole driving { r with latch := false })).part.raiseBarred [.p] = none ↔ state = .housed)
        ∧ (state = .housed → (of (withPole driving { r with latch := true })).part.raiseBarred [.p] = some (.latch .p)) := by
  decide

theorem test_meets_raise :
    ∀ state ∈ [PoleState.raising, .onWire],
      let r : Pole := { state := state, settleTimer := .running 250, raiseTimer := .running 6000 }
      let s := of (withPole driving r)
      s.part.poles.get .p = r ∧ s.part.tripClosed .p = false ∧ s.part.housedClosed .p = false
        ∧ (of (contact (withPole driving r) .polePTrip { confirmed := .closed })).part.tripClosed .p = true
        ∧ (of (contact (withPole driving r) .polePHoused { confirmed := .closed })).part.housedClosed .p = true := by
  decide

theorem test_meets_odometry :
    ∀ residue ∈ [0, 89, 90],
      let s := of { driving with tables := { timers := { pulsesPerMetre := 100 } }, zones := { residue := residue } }
      ((s.part.zones.residue + 10) / s.part.tables.timers.pulsesPerMetre ≠ 0 ↔ residue = 90) := by decide

theorem test_meets_speed :
    (of driving).part.zones.speedTimer = .running 100 ∧ (of driving).part.zones.stationaryTimer = .running 2000
      ∧ (of based).part.zones.speedTimer = .running 100 ∧ (of based).part.mode ≠ .run := by decide

/-- A control period running, with or without a base, the sampler idle or busy. -/
def periodic (p : Part) : Part := { p with gov := { p.gov with period := .running 10 } }

theorem test_meets_period :
    (of (periodic driving)).part.gov.period = .running 10 ∧ (of (periodic driving)).part.mbx.base = some 0x1000
      ∧ (of (periodic driving)).part.mbx.port.demand = none ∧ (of (periodic driving)).part.mbx.port.inFlight = none
      ∧ (of (periodic (sampling driving))).part.gov.period = .running 10
      ∧ (∃ a, (of (periodic (sampling driving))).part.mbx.port.inFlight = some a ∧ a.op = .demandRead)
      ∧ (of (periodic { driving with mbx := {} })).part.mbx.base = none
      ∧ (of (periodic { driving with mbx := {} })).part.mode = .run
      ∧ (of (periodic { mbx := {} })).part.mbx.base = none ∧ (of (periodic { mbx := {} })).part.mode ≠ .run :=
  ⟨rfl, rfl, rfl, rfl, rfl, ⟨_, rfl, rfl⟩, rfl, rfl, rfl, by decide⟩

theorem test_meets_stagger :
    let s := of (auxiliary { valid := true, cls := .comfort, claim := 50 } { state := .waiting, requested := true } [0])
    let t := of (auxiliary { valid := true, cls := .comfort, claim := 1001 } { state := .waiting, requested := true } [0])
    s.part.aux.stagger = .running 5 ∧ s.part.aux.queue = 0 :: [] ∧ (s.part.auxRec 0).state = .waiting
      ∧ ¬ (s.part.zones.effective.auxHold = true ∧ (s.part.auxEntry 0).cls ≠ .essential) ∧ s.part.claimGranted 0 = true
      ∧ t.part.aux.stagger = .running 5 ∧ t.part.aux.queue = 0 :: [] ∧ t.part.claimGranted 0 = false
      ∧ (of (auxiliary {} {} [])).part.aux.queue = [] := by decide

theorem test_meets_auxTimers :
    (∀ minOff ∈ [0, 1], ∀ fails ∈ [0, 1],
      let s := of (auxiliary { valid := true, minOff := minOff } { state := .starting, startFails := fails, startTimer := .running 9 } [])
      (s.part.auxRec 0).startTimer = .running 9 ∧ (s.part.auxRec 0).state = .starting ∧ (s.part.auxEntry 0).minOff = minOff
        ∧ ((s.part.auxRec 0).startFails = 0 ↔ fails = 0))
      ∧ ∀ state ∈ [AuxState.shed, .locked, .off], ∀ requested,
        let s := of (auxiliary { valid := true } { state := state, requested := requested, offTimer := .running 9 } [])
        (s.part.auxRec 0).offTimer = .running 9 ∧ (s.part.auxRec 0).state = state
          ∧ (s.part.auxRec 0).requested = requested := by decide

theorem test_meets_collector :
    ((of (faultOf .memoryPort { edgeHold := .running 9, testHold := .running 8 })).part.faults.get .memoryPort).edgeHold = .running 9
      ∧ ((of (faultOf .memoryPort { edgeHold := .running 9, testHold := .running 8 })).part.faults.get .memoryPort).testHold = .running 8
      ∧ (of { driving with faults := { lampHold := .running 5, buzzerHold := .running 6 } }).part.faults.lampHold = .running 5
      ∧ (of { driving with faults := { lampHold := .running 5, buzzerHold := .running 6 } }).part.faults.buzzerHold = .running 6
      ∧ (∀ state ∈ [CollectorState.alert, .fault],
          let s := of { driving with faults := { state := state, alertTimer := .running 7 } }
          s.part.faults.alertTimer = .running 7 ∧ s.part.faults.state = state) := by decide

/-! ### Operands and states for the effects of events -/

theorem test_meets_reportFollowed :
    ∀ result ∈ [ResultCode.ok, .badLength], ∀ k : Fin 2,
      let next : Word := [0x1400, 0x13FC].getD k.val 0
      let r : ChainRec := { phase := .ownerWrite, cursor := some 0x1400, card := decidedCard 0 0 next result }
      let s := of (walking .report r (.ownerWrite .report) 1)
      s.part.mbx.port.inFlight = some (burst (.ownerWrite .report) 1) ∧ s.part.mbx.chains.report.phase = .ownerWrite
        ∧ s.part.mbx.chains.report.rewindPending = false ∧ s.part.mbx.chains.report.card.header.next = next ∧ next ≠ 0
        ∧ s.part.mbx.base = some 0x1000 ∧ (validCard 0x1000 next = true ↔ next = 0x1400) := by decide

theorem test_meets_thirdMiss :
    lagging.mode = .run ∧ lagging.gov.replyWait = some 3 ∧ lagging.gov.misses = 2 ∧ lagging.gov.inhibit.driveLink = false
      ∧ lagging.gov.staleCause (.read 8 0 (~~~0)) = none ∧ lagging.guarded
      ∧ ({ lagging with gov := { lagging.gov with misses := 3 } } : Part).gov.misses ≠ 2
      ∧ lagging.mbx.port.inFlight = some (burst .demandRead 3) ∧ (sampling driving).gov.replyWait = none :=
  ⟨rfl, rfl, rfl, rfl, by decide, ⟨by decide, by decide⟩, by decide, rfl, rfl⟩

theorem test_meets_abortingSync :
    ∀ n ∈ [4000001, 6000000, 6000001], ∀ error ∈ [some LinkCause.syncDrift, none],
      let s := of (assembling .hunting 0 0 [0, 11] error)
      (s.part.links.pl.get .pl0).frame = some { symbols := [0, 11], error := error } ∧ 40 * 4800000 < 48 * n
        ∧ 36000 * (s.part.tables.links.get (plLink .pl0)).unitOrRate ≤ n
        ∧ (n ≤ 60000 * (s.part.tables.links.get (plLink .pl0)).unitOrRate ↔ n ≠ 6000001)
        ∧ (s.part.links.pl.get .pl0).syncRef = some 4800000 ∧ (n : Int) - 4800000 ≠ 150000 := by decide +kernel

/-- Frame symbols of a pole below its band, on the wire, beside it and above its ceiling, and of a failed sensor. -/
def lowFrame : List Nat := [0, 0, 0, 10, 0, 0, 0]
def wireFrame : List Nat := [0, 3, 0, 0, 0, 0, 0]
def wideFrame : List Nat := [0, 3, 0, 0, 4, 0, 0]
def highFrame : List Nat := [1, 15, 15, 15, 4, 0, 0]
def failedFrame : List Nat := [2, 0, 0, 0, 0, 0, 0]

/-- Pole P as given, its sensor's frame assembled on a GOOD link, 600 V on the line. -/
def sensing (r mate : Pole) (symbols : List Nat) : Part :=
  let l : PoleLimits :=
    { housed := 300, bandLow := 400, bandHigh := 1000, lateral := 200, rateLimit := 5, rateFrames := 1, mateLowering := true }
  let p := assembling .good 0 0 symbols none
  { p with tables := { p.tables with poleLimits := ⟨l, l⟩ }, line := { voltage := 2400 }, poles := ⟨r, mate⟩ }

theorem test_meets_poleFrames :
    ∀ f ∈ [lowFrame, wireFrame, wideFrame, highFrame, failedFrame],
      let s := of (sensing {} {} f)
      s.part.linkRec (plLink .pl0) = { started := true, state := .good } ∧ s.part.mode ≠ .halt
        ∧ (s.part.links.pl.get .pl0).frame = some { symbols := f, error := none } ∧ f.length = 7
        ∧ 48 * (1000000 + 100000 * plCheck f) ≤ 40 * 4800000
        ∧ symbolValue 4800000 (1000000 + 100000 * plCheck f) = some (plCheck f)
        ∧ (2 ≤ symbolAt f 0 ↔ f = failedFrame) := by decide +kernel

theorem test_meets_looks :
    let p := fun r => sensing r { state := .onWire } []
    let on : Pole := { state := .onWire }
    on.onLine = true ∧ ((p on).frameSet .p 768 1024).count = 1 ∧ ((p on).frameSet .p 4095 1024).count = 2
      ∧ ((p on).frameSet .p 768 0).count = 0 ∧ ((p { on with indicators := { trip := true } }).frameSet .p 768 0).trip = true
      ∧ ((p { on with indicators := { lineGap := true }, gapSpent := true }).frameSet .p 768 0).lineGap = true
      ∧ ((p { on with state := .suspect }).poles.get .p).state = .suspect
      ∧ ((p { on with blind := true }).poles.get .p).blind = true
      ∧ ((p on).tables.poleLimits.get .p).mateLowering = true ∧ ((p on).poles.get (mateOf .p)).onLine = true := by decide

theorem test_meets_raisingFrame :
    (sensing {} {} []).onWireAt .p 768 0 ∧ (sensing {} {} []).ceiling .p < 4095 ∧ 10 ≤ (sensing {} {} []).ceiling .p
      ∧ ¬ (sensing {} {} []).onWireAt .p 10 0
      ∧ ((sensing { state := .raising, settleTimer := .running 9 } {} []).poles.get .p).state = .raising :=
  ⟨⟨by decide, by decide, by decide, by decide⟩, by decide, by decide, fun h => absurd h.1 (by decide), rfl⟩

theorem test_meets_resolvingFrame :
    ∀ resolving,
      let p := sensing { resolving := resolving } {} []
      (p.poles.get .p).onLine = false ∧ (p.poles.get .p).state ≠ .raising ∧ (p.poles.get .p).resolving = resolving
        ∧ p.housedClosed .p = false ∧ 10 < (p.tables.poleLimits.get .p).housed ∧ p.tripClosed .p = false
        ∧ (contact p .polePHoused { confirmed := .closed }).housedClosed .p = true
        ∧ (contact p .polePTrip { confirmed := .closed }).tripClosed .p = true := by decide

theorem test_meets_losesSensor :
    ∀ state ∈ [PoleState.onWire, .suspect, .raising, .housed], ∀ available,
      let p := sensing { state := state, sensorAvailable := available } {} failedFrame
      (p.poles.get .p).sensorAvailable = available ∧ (p.poles.get .p).state = state
        ∧ ((p.poles.get .p).onLine = true ↔ state = .onWire ∨ state = .suspect) := by decide

/-- The line in a state, gap below 300 V, 250 A of gap draw allowed, the tolerance as given. -/
def supplying (state : LineState) (tolerance : Nat) (p : Part) : Part :=
  { p with tables := { p.tables with lineLimits := { p.tables.lineLimits with gapThreshold := 300, gapDraw := 250 },
                                     timers := { p.tables.timers with gapTolerance := tolerance } }
           line := { p.line with state := state } }

theorem test_meets_converter :
    ∀ tolerance ∈ [0, 120],
      let p := supplying .live tolerance (withPole driving { state := .onWire })
      p.poles.p.finding = .nothing ∧ p.poles.n.finding = .nothing ∧ p.poles.p.indicators = {} ∧ p.poles.n.indicators = {}
        ∧ p.line.state.supplied = true
        ∧ p.bothDownBound = false ∧ p.tolerated = tolerance ∧ p.zones.effective.gapExpected = false
        ∧ (p.poles.get .p).onLine = true ∧ 4 * p.tables.lineLimits.gapThreshold = 1200
        ∧ ({ p with line := { p.line with poleCopy := ⟨.lowering, .housed⟩ } } : Part).bothDownBound = true
        ∧ (supplying .gap tolerance p).line.gap.drawRaised = false ∧ 2 * p.tables.lineLimits.gapDraw < (-501 : Int).natAbs
        ∧ ({ p with line := { p.line with poleCopy := ⟨.onWire, .onWire⟩ } } : Part).line.poleCopy.n = .onWire
        ∧ p.bothHoused = false ∧ ({ p with line := { p.line with poleCopy := ⟨.housed, .housed⟩ } } : Part).bothHoused = true := by
  decide

/-- A tag read: line 2, place 511, feature 3, quality 1, at a distance, 40 m long. -/
def tagOf (distance : Byte) : List Byte := [0x11, 2, 1, 0xFF, 0x13, distance, 40]

/-- A zone that starts at an odometer value. -/
def zoneAt (order : Nat) (start : Word) : Zone :=
  { id := ⟨1, order⟩, feature := 0, entry := 0, profile := 0, specific := true, start := start, stop := start + 100, order := order }

/-- A payload received on the GOOD tag link, some watch entries valid, some zones pending. -/
def tagged (payload : List Byte) (watch : WatchEntry) (pending : List Zone) : Part :=
  let p := (linked .tag { started := true, state := .good }).setSerialRx .tag (.body payload.length ((serialFrame payload).drop 2))
  { p with tables := { p.tables with watch := (Vector.replicate 12 {}).set 11 watch }, zones := { pendingZones := pending } }

theorem test_meets_tagFrames :
    ∀ payload ∈ [[0x10], [0x12], [0x10, 0], tagOf 0, tagOf 255],
      let s := of (tagged payload {} [])
      s.part.linkRec (serialLink .tag) = { started := true, state := .good }
        ∧ s.part.links.serial.get .tag = .body payload.length ((serialFrame payload).drop 2)
        ∧ ((serialFrame payload).drop 2).length = payload.length + 2
        ∧ checkAgrees payload.length ((serialFrame payload).drop 2) = true := by decide +kernel

theorem test_meets_tags :
    let t := tagRead (tagOf 255)
    let all : WatchEntry := { valid := true }
    let p := tagged [] all []
    (tagRead (tagOf 0)).distance = 0 ∧ 0 < t.distance ∧ t.distance < 256 ∧ t.id = ⟨2, 511⟩
      ∧ ¬ t.quality < p.tables.timers.minQuality ∧ t.quality < ({ minQuality := 2 } : Timers).minQuality
      ∧ p.duplicateTag t.id = false
      ∧ ({ p with zones := { recent := [{ id := t.id, odometer := 0 }] } } : Part).duplicateTag t.id = true
      ∧ p.firstFit t false = some (11 : Fin 12).val ∧ (tagged [] {} []).firstFit t false = none
      ∧ (tagged [] { all with hold := true } []).firstFit t true = some 11 ∧ p.zones.active.length < 4 := by decide +kernel

theorem test_meets_pendingFull :
    let q := (List.range 7).map (fun n => zoneAt n 100)
    ∀ k : Fin 2,
      let start : Word := [2550, 2551].getD k.val 0
      let p := tagged [] { valid := true } (q ++ [zoneAt 7 start])
      p.zones.pendingZones.length = 8 ∧ (∀ y ∈ p.zones.pendingZones, p.zones.reached y.start = false ∧ y.id ≠ ⟨2, 511⟩)
        ∧ p.zones.pendingZones.getLast? = some (zoneAt 7 start)
        ∧ (aheadOf start (p.zones.odometer + word (10 * 255)) = true ↔ start = 2551) := by decide +kernel

theorem test_meets_driveReplies :
    (∀ n ∈ [1, 2, 3], countUp n 3 = 3 ↔ n ≠ 1)
      ∧ ({ replied with gov := { inhibit := { driveLink := true, driveFault := true }, replyWait := some 5, goodRun := 2 } }
          : Part).gov.inhibit.driveLink = true
      ∧ ({ replied with gov := {} } : Part).gov.replyWait ≠ some (byteAt replyFrame 1) ∧ inverterOfByte 5 = none := by
  decide +kernel

theorem test_meets_poleContacts :
    ∀ level ∈ [Level.closed, .opened], ∀ role ∈ [housedRole .p, tripRole .p, .doorInterlock], ∀ mode ∈ [Mode.run, .halt],
      let r : InputRec := { raw := some level, debounce := .running 10 }
      let s := of { contact driving role r with mode := mode }
      s.part.input 0 = r ∧ (s.part.tables.inputs.get 0).role = role ∧ s.part.mode = mode := by decide

theorem test_meets_housedChange :
    ∀ state ∈ [PoleState.dewired, .lowering, .housed, .onWire], ∀ lowering ∈ [LoweringCause.request, .abandonedRaise],
      ∀ abandon ∈ [AbandonCause.timeout, .trip],
      let p := withPole driving { state := state, lowering := lowering, abandon := abandon, retryCount := 1 }
      let t := { p with tables := { timers := { raiseRetries := 2 } } }
      (p.poles.get .p).state = state ∧ (p.poles.get .p).lowering = lowering ∧ (p.poles.get .p).abandon = abandon
        ∧ p.retries .p abandon = false ∧ (t.retries .p abandon = true ↔ abandon = .timeout) := by decide

theorem test_meets_tripChange :
    ∀ state ∈ [PoleState.onWire, .suspect, .raising, .housed],
      ((withPole driving { state := state }).poles.get .p).state = state
        ∧ (((withPole driving { state := state }).poles.get .p).onLine = true ↔ state = .onWire ∨ state = .suspect) := by decide

theorem test_meets_feedback :
    ∀ state ∈ [AuxState.starting, .running, .off], ∀ trips ∈ [[], [0], [0, 0]], ∀ minOff ∈ [0, 1],
      let p := auxiliary { valid := true, minOff := minOff, feedback := 0 } { state := state, trips := trips } []
      (p.auxRec 0).state = state ∧ (p.auxEntry 0).minOff = minOff ∧ (p.auxEntry 0).feedback ≠ noFeedback
        ∧ (p.recentTrips 0).length = trips.length := by decide

/-- In LAYOVER with the Control chain PARKED on a card and one auxiliary requested. -/
def leaving (cls : AuxClass) (timer : Timer) : Part :=
  { resting with
    mbx := { base := some 0x1000, chains := ⟨{ cursor := some 0x1400, wait := .owner }, { state := .broken }, {}⟩ }
    tables := { aux := (Vector.replicate 12 {}).set 0 { valid := true, cls := cls } }
    aux := { recs := (Vector.replicate 12 {}).set 0 { requested := true, offTimer := timer } } }

theorem test_meets_resumes :
    ∀ cls ∈ [AuxClass.essential, .deferrable], ∀ timer ∈ [Timer.stopped, .running 5],
      let p := leaving cls timer
      p.mode = .layover ∧ p.mbx.base = some 0x1000 ∧ (p.mbx.chains.get .control).state = .parked
        ∧ (p.mbx.chains.get .setup).state ≠ .parked ∧ (p.auxRec 0).requested = true ∧ (p.auxRec 0).state = .off
        ∧ p.line.state = .unknown ∧ p.demandDue = false ∧ (p.auxRec 1).requested = false := by decide

/-- In RUN, standing still with both poles HOUSED, one auxiliary in a state. -/
def parkedTram (keep : Bool) (r : AuxRec) : Part :=
  { auxiliary { valid := true, layoverKeep := keep } r [0] with
    keptPoles := ⟨.housed, .housed⟩, zones := { stationary := true } }

theorem test_meets_laysOver :
    ∀ keep, ∀ state ∈ [AuxState.waiting, .running, .faulted, .off],
      let p := parkedTram keep { state := state }
      p.mode = .run ∧ p.keptPoles.p = .housed ∧ p.keptPoles.n = .housed ∧ p.zones.stationary = true ∧ p.gov.setpoint = 0
        ∧ p.gov.inhibit.mode = false ∧ p.mbx.base ≠ none ∧ (p.auxEntry 0).layoverKeep = keep ∧ (p.auxRec 0).state = state
        ∧ ({ p with keptPoles := ⟨.onWire, .housed⟩ } : Part).keptPoles.p ≠ .housed
        ∧ ({ p with keptPoles := ⟨.housed, .onWire⟩ } : Part).keptPoles.n ≠ .housed
        ∧ ({ p with zones := {} } : Part).zones.stationary = false
        ∧ ({ p with gov := { p.gov with setpoint := -1 } } : Part).gov.setpoint ≠ 0 := by decide

theorem test_meets_keptInLayover :
    ∀ kept, ((auxiliary {} { state := .locked, requested := true, offTimer := .running 9, keptInLayover := kept } []).auxRec 0).keptInLayover
      = kept := by decide

/-- One active zone with a pole action and its state, both poles in a state. -/
def inZone (a : PoleAction) (action : ActionState) (pole : PoleState) (speed : Nat) : Part :=
  { driving with
    tables := { profiles := (Vector.replicate 8 {}).set 0 { action := a, reportOnPass := true } }
    poles := ⟨{ state := pole }, { state := pole }⟩
    zones := { speed := speed, active := [{ zoneAt 1 0 with action := action }] } }

theorem test_meets_zoneActions :
    ∀ a ∈ [PoleAction.none, .lower, .raise], ∀ action ∈ [ActionState.pending, .waiting],
      ∀ pole ∈ [PoleState.housed, .onWire, .raising],
      let p := inZone a action pole 0
      p.zones.activeZone 1 = some { zoneAt 1 0 with action := action } ∧ (p.tables.profile 0).action = a ∧ p.mode = .run
        ∧ p.poles.p.state = pole ∧ p.poles.n.state = pole ∧ p.poles.p.latch = false ∧ p.poles.n.latch = false
        ∧ p.zones.speed ≤ 10 * p.tables.timers.raiseSpeed
        ∧ 10 * p.tables.timers.raiseSpeed < (inZone a action pole (10 * p.tables.timers.raiseSpeed + 1)).zones.speed
        ∧ (p.stateOrLatch [.p, .n] = some (.state .p) ↔ pole ≠ .housed)
        ∧ ({ p with mode := .halt } : Part).mode ≠ .run ∧ (p.tables.profile 0).reportOnPass = true := by decide

theorem test_meets_zoneAdvance :
    let z : Zones := { odometer := 9, active := [{ zoneAt 1 0 with stop := 9 }], pendingZones := [zoneAt 2 10, zoneAt 3 11] }
    let s := of { driving with tables := { timers := { pulsesPerMetre := 10 } }, zones := z }
    (s.part.zones.residue + 10) / s.part.tables.timers.pulsesPerMetre = 1
      ∧ aheadOf (s.part.zones.odometer + word 1) (9 : Word) = true
      ∧ (s.part.zones.odometer + word 1 - (zoneAt 2 10).start).toNat < 2 ^ 31
      ∧ ¬ (s.part.zones.odometer + word 1 - (zoneAt 3 11).start).toNat < 2 ^ 31
      ∧ ({ s.part.zones with odometer := 10 } : Zones).entering = [zoneAt 2 10]
      ∧ (of (inZone .raise .waiting .housed 0)).part.zones.speedTimer = .running 100 := by decide

theorem test_meets_acceptedCards :
    let housed := inZone .none .done .housed 0
    let moving := inZone .none .done .raising 0
    (∀ v ∈ [1, 3], housed.raiseBarred (poleSet v) = none
        ∧ ∀ i ∈ poleSet v, (housed.poles.get i).barsLowering = false ∧ (moving.poles.get i).barsLowering = false)
      ∧ (∀ fault ∈ [PoleFault.poleStuck, .unresolved], ∀ available,
          let r : Pole := { state := .faulted, fault := some fault, sensorAvailable := available }
          (1 : Word).toNat = poleNumber .n ∧ ((withPole driving r).poles.get .p) = r ∧ (0 : Word).toNat = poleNumber .p)
      ∧ (20 : Word).toNat = kindNumber .zoneOverflow ∧ (driving.faults.get .zoneOverflow).inForce = false
      ∧ (1 : Word) ≠ driving.tables.check ∧ driving.line.state = .unknown
      ∧ (∀ state ∈ [AuxState.off, .waiting, .running, .locked, .shed, .faulted], ∀ minOff ∈ [0, 1],
          let p := auxiliary { valid := true, minOff := minOff } { state := state } []
          (p.auxEntry 0).valid = true ∧ (p.auxRec 0).state = state)
      ∧ ({ driving with faults := { state := .fault } } : Part).faults.state = .fault
      ∧ allKinds.find? (fun x => (({ state := .fault } : Collector).get x).unack
          || ((({ driving with faults := { state := .fault } } : Part).reactions x).escalate
            && (({ state := .fault } : Collector).get x).inForce)) = none
      ∧ ((faultOf .zoneOverflow { unack := true }).faults.get .zoneOverflow).unack = true := by decide +kernel

/-- The payload reads as a load of one table. -/
def reads (t : TableId) : Except CardRefusal Load → Bool
  | .ok x => x.table == t
  | .error _ => false

theorem test_meets_loads :
    reads .budget (based.readLoad [1, 0, 1, 0, 0, 0, 200]) = true
      ∧ reads .budget (based.readLoad [1, 0, 1, 0, 0, 0, 199]) = false
      ∧ reads .budget (based.readLoad [1, 1, 1, 0, 0, 0, 200]) = false := by decide +kernel

/-- A load of some entries from an index. -/
def loading (t : TableId) (first : Nat) (entries : List (List Nat)) : Load := ⟨t, first, entries.length, entries⟩

theorem test_meets_loadHeads :
    let at_ (payload : List Word) (i : Nat) := (⟨payload, 0⟩ : Request).at i
    [(1 : Word), 0].length < 3 ∧ at_ [11, 0, 1] 0 = 11 ∧ at_ [10, 0, 0] 2 = 0 ∧ at_ [10, 0, 0] 0 = tableNumber .linkSettings
      ∧ at_ [9, 0, 1] 0 = tableNumber .timers ∧ driving.mode ≠ .halt ∧ based.mode = .halt
      ∧ at_ [1, 0, 1] 0 = tableNumber .budget ∧ ({ driving with line := { state := .high } } : Part).line.state = .high
      ∧ driving.line.state ≠ .high
      ∧ entryCount .budget < at_ [1, 1, 1] 1 + at_ [1, 1, 1] 2 ∧ at_ [1, 0, 1] 1 + at_ [1, 0, 1] 2 ≤ entryCount .budget
      ∧ [(1 : Word), 0, 1, 0, 0, 0].length ≠ 3 + at_ [1, 0, 1] 2 * entryWords .budget
      ∧ [(1 : Word), 0, 1, 0, 0, 0, 200].length = 3 + at_ [1, 0, 1] 2 * entryWords .budget := by decide

/-- The entries of a load each pass their own tests. -/
theorem stands_of_entries (x : Load) (h : ∀ k < x.count, entryStands x.table (x.first + k) (x.entries.getD k [])) (i : Nat) :
    ¬ x.failsAt i := by
  rintro ⟨h1, h2, h3⟩
  have := h (i - x.first) (by omega)
  rw [Nat.add_sub_cancel' h1] at this
  exact h3 this

theorem test_meets_loadEntries :
    (loading .linkSettings 2 [[2, 50, 16], [19199, 2000, 16]]).carriedBy [10, 2, 2, 2, 50, 16, 19199, 2000, 16]
      ∧ firstAt (loading .linkSettings 2 [[2, 50, 16], [19199, 2000, 16]]).failsAt 3
      ∧ firstAt (loading .poleLimits 0 [[799, 800, 3200, 200, 5, 1, 0], [0, 2600, 2600, 200, 5, 1, 0]]).failsAt 1
      ∧ firstAt (loading .lineLimits 0 [[300, 301, 751, 225, 10]]).failsAt 0
      ∧ firstAt (loading .profiles 7 [[0, 0, 0, 0, 4, 0, 0, 0, 0]]).failsAt 7
      ∧ firstAt (loading .auxTable 11 [[1, 1, 0, 0, 16, 100, 0, 0, 0, 1]]).failsAt 11
      ∧ (∀ i, ¬ (loading .linkSettings 2 [[2, 50, 16], [19200, 2000, 16]]).failsAt i) :=
  ⟨by decide, ⟨by decide, by decide⟩, ⟨by decide, by decide⟩, ⟨by decide, by decide⟩, ⟨by decide, by decide⟩,
    ⟨by decide, by decide⟩, stands_of_entries _ (by decide)⟩

/-- A load of DOOR_INTERLOCK for two inputs, and one of AUX_FEEDBACK for auxiliary 3 instead of auxiliary 0. -/
def doorTwice : Load := loading .contactRoles 4 [[4, 0, 0, 0, 0, 0, 1, 0], [4, 0, 0, 0, 0, 0, 1, 0]]
def feedbackTaken : Load := loading .contactRoles 15 [[5, 3, 0, 0, 0, 0, 1, 0]]
/-- A load of no role for an output, and one that makes auxiliary 0 invalid. -/
def outputTaken : Load := loading .outputRoles 2 [[7, 0]]
def auxInvalid : Load := loading .auxTable 0 [[0, 0, 0, 2, 15, 100, 0, 0, 0, 0]]
def auxElsewhere : Load := loading .auxTable 0 [[1, 0, 0, 1, 15, 100, 0, 0, 0, 0]]

/-- Auxiliary 0 is RUNNING on output 2 with feedback input 15, in RUN. -/
def auxOnOutput : Part :=
  { driving with
    tables := { aux := (Vector.replicate 12 {}).set 0 { valid := true, runOutput := 2, feedback := 15 },
                inputs := (Vector.replicate 16 {}).set 15 { role := .auxFeedback }
                outputs := (Vector.replicate 16 {}).set 2 { role := .auxRun } }
    aux := { recs := (Vector.replicate 12 {}).set 0 { state := .running } } }

theorem test_meets_loadAcross :
    firstAt ((auxOnOutput.tables.apply doorTwice).repeatsRole .contactRoles) 5
      ∧ firstAt ((auxOnOutput.tables.apply feedbackTaken).clashesAcross .contactRoles) 15
      ∧ firstAt ((auxOnOutput.tables.apply outputTaken).clashesAcross .outputRoles) 2
      ∧ firstAt ((auxOnOutput.tables.apply auxElsewhere).clashesAcross .auxTable) 0
      ∧ firstAt (auxOnOutput.disturbs (auxOnOutput.tables.apply auxInvalid)) 0 ∧ auxOnOutput.mode ≠ .halt := by
  refine ⟨⟨by decide +kernel, fun j h => ?_⟩, ⟨by decide +kernel, fun j h => ?_⟩, ⟨by decide +kernel, fun j h => ?_⟩,
    ⟨by decide +kernel, fun j h => absurd h (Nat.not_lt_zero j)⟩,
    ⟨by decide +kernel, fun j h => absurd h (Nat.not_lt_zero j)⟩, by decide⟩ <;> interval_cases j <;> decide +kernel

theorem test_meets_loadPasses :
    (∀ i, ¬ doorTwice.failsAt i) ∧ (∀ i, ¬ feedbackTaken.failsAt i) ∧ (∀ i, ¬ outputTaken.failsAt i)
      ∧ (∀ i, ¬ auxElsewhere.failsAt i) ∧ (∀ i, ¬ auxInvalid.failsAt i)
      ∧ (∀ i, ¬ (auxOnOutput.tables.apply feedbackTaken).repeatsRole .contactRoles i)
      ∧ (∀ i, ¬ (auxOnOutput.tables.apply outputTaken).repeatsRole .outputRoles i)
      ∧ (∀ i, ¬ (auxOnOutput.tables.apply auxInvalid).repeatsRole .auxTable i)
      ∧ (∀ i, ¬ (auxOnOutput.tables.apply auxInvalid).clashesAcross .auxTable i)
      ∧ (∀ i, ¬ (driving.disturbs (driving.tables.apply auxInvalid)) i) := by
  have clear : ∀ {P : Nat → AuxNo → Prop}, (∀ a, ¬ P a.val a) → ∀ i, ¬ ∃ a : AuxNo, a.val = i ∧ P i a :=
    fun h i ⟨a, e, k⟩ => h a (e ▸ k)
  refine ⟨stands_of_entries _ (by decide), stands_of_entries _ (by decide), stands_of_entries _ (by decide),
    stands_of_entries _ (by decide), stands_of_entries _ (by decide), ?_, ?_, ?_, ?_, clear (by decide +kernel)⟩
  · rintro i (⟨-, a, b, -, h⟩ | ⟨h, -⟩)
    · exact absurd h (by revert a b; decide +kernel)
    · cases h
  · rintro i (⟨h, -⟩ | ⟨-, a, b, -, h⟩)
    · cases h
    · exact absurd h (by revert a b; decide +kernel)
  · rintro i (⟨h, -⟩ | ⟨h, -⟩) <;> cases h
  · rintro i (⟨h, -⟩ | ⟨h, -⟩ | ⟨-, a, h, -⟩)
    · cases h
    · cases h
    · exact absurd h (by revert a; decide +kernel)

theorem test_meets_layouts :
    (List.replicate 5 (0 : Word)).length ≤ 5 ∧ record.repeats ≤ 255 ∧ record.droppedAfter ≤ 255 ∧ record.inst ≤ 65535
      ∧ 101 ≤ (List.replicate 101 (0 : Word)).length
      ∧ (inZone .none .done .housed 0).zones.precedence[0]? = some { zoneAt 1 0 with action := .done }
      ∧ (inZone .none .done .housed 0).zones.active.length ≤ 1 := by decide +kernel

theorem test_meets_followPoles :
    driving.watchesAlike (driving.modPole .p (fun q => { q with retryPending := true })) .p
      ∧ ¬ driving.watchesAlike (driving.modPole .n (fun q => { q with latch := true })) .n :=
  ⟨⟨rfl, rfl, rfl⟩, fun h => Bool.noConfusion h.2.2⟩

/-! ### One small effect for each command -/

theorem test_powerOnReset : after .powerOnReset driving (fun q => q.mode == .halt && q.mbx.base == none && q.now == 0) = true := by
  decide
theorem test_mailboxBaseWrite : after (.mailboxBaseWrite 0x2000) {} (fun q => q.baseRegister == 0x2000
    && q.mbx.port.inFlight == some { op := .anchorRead .control, addr := 0x2000, len := 1, data := [] }
    && q.mbx.port.setup == some { op := .anchorRead .setup, addr := 0x2004, len := 1, data := [] }) = true := by decide
theorem test_run : after .run readyToRun (fun q => q.mode == .run && q.gov.inhibit.poleSuspect && q.mbx.raised == 1) = true := by
  decide +kernel
theorem test_run_missing : after .run based (fun q => q.mode == .halt && q.partStatus == 0x0C404B7F) = true := by decide
theorem test_halt : after .halt driving (fun q => q.mode == .halt && q.gov.inhibit.mode && !q.gov.armed) = true := by
  decide +kernel
theorem test_halt_keeps_the_chains : after .halt (leaving .essential .stopped) (fun q => q.mode == .halt
    && q.mbx.chains.control == (leaving .essential .stopped).mbx.chains.control
    && q.mbx.chains.setup == (leaving .essential .stopped).mbx.chains.setup) = true := by decide +kernel
theorem test_reset : after .reset driving (fun q => q.mode == .halt && q.lastReset == .command && q.mbx.base == some 0x1000
    && q.send.sending == some { seq := 0, current := 0, mode := .cut, regen := false }) = true := by decide
theorem test_wake : after (.wake 2) based (fun q => (q.mbx.chains.get .setup).phase == .anchorRead
    && q.mbx.port.inFlight == some { op := .anchorRead .setup, addr := 0x1004, len := 1, data := [] }) = true := by decide
/-- Two PARKED chains of one WAKE: the Report chain's read goes first, the Setup chain's waits (R15). -/
theorem test_wake_in_grant_order : after (.wake 6) based (fun q =>
    q.mbx.port.inFlight == some { op := .anchorRead .report, addr := 0x1008, len := 1, data := [] }
      && q.mbx.port.setup == some { op := .anchorRead .setup, addr := 0x1004, len := 1, data := [] }) = true := by decide
theorem test_rewind : after (.rewind 0) (walking .control {} (.headerRead .control) 5) (fun q =>
    (q.mbx.chains.get .control).rewindPending) = true := by decide
theorem test_ackAttention : after (.ackAttention 3)
    (holdingOne { based with mbx := { attention := { reportWritten := true, modeChange := true } } })
    (fun q => q.attentionRegister == 0x12) = true := by decide
theorem test_badCommand : after (.badCommand 0) based (fun q => q.mbx.outcome == .badCommand) = true := by decide
theorem test_memoryPortGrant : after .memoryPortGrant (crowd false true false false true).part (fun q =>
    q.mbx.port.inFlight == some (burst (.anchorRead .control) 1) && q.mbx.port.control == none && q.mbx.port.setup.isSome)
    = true := by decide
theorem test_anchorReadComplete : after (.anchorReadComplete .control 0x1400)
    (walking .control { phase := .anchorRead } (.anchorRead .control) 1)
    (fun q => q.mbx.port.inFlight
      == some { op := .headerRead .control, addr := 0x1400, len := 5, data := [] }) = true := by decide
theorem test_headerReadComplete : after (.headerReadComplete .control (header 1 1 2 0 0xFFF8))
    (walking .control { phase := .headerRead, cursor := some 0x1400 } (.headerRead .control) 5)
    (fun q => q.mbx.port.inFlight
      == some { op := .takenWrite .control, addr := 0x1400, len := 1, data := [0xFFF80002] }) = true := by decide
/-- R8: a rescan that finds a new next-card address goes on by R6; the Report chain reads that header with no record held. -/
theorem test_rescan_link_reads_the_card : after (.headerReadComplete .report (header 3 0x81 4 0x1800 0))
    (walking .report { phase := .rescanRead .link, cursor := some 0x1400 } (.headerRead .report) 5)
    (fun q => (q.mbx.chains.get .report).cursor == some 0x1800 && (q.mbx.chains.get .report).phase == .headerRead
      && q.mbx.port.inFlight == some { op := .headerRead .report, addr := 0x1800, len := 5, data := [] }) = true := by decide
theorem test_takenWriteComplete : after (.takenWriteComplete .control) (taken .control (header 1 1 2 0 0xFFF8) 0x1400) (fun q =>
    q.mbx.port.inFlight == some { op := .payloadRead .control, addr := 0x1414, len := 2, data := [] }) = true := by decide
/-- Section 12.3's card, CARD_INHIBIT's neighbour AUX_REQUEST, is refused NOT_IN_MODE in HALT. -/
theorem test_payloadReadComplete : after (.payloadReadComplete .control [3, 1])
    (walking .control { phase := .payloadRead, cursor := some 0x1400, card := { header := header 1 1 2 0 0xFFF8 } }
      (.payloadRead .control) 2)
    (fun q => (q.mbx.chains.get .control).card.result == .notInMode
      && q.mbx.port.inFlight == some { op := .detailWrite .control, addr := 0x1410, len := 1, data := [0] }) = true := by
  decide
theorem test_cardDataWriteComplete : after (.cardDataWriteComplete .control)
    (walking .control { phase := .dataWrite, cursor := some 0x1400, card := decidedCard 0 17 0 .ok } (.dataWrite .control) 16)
    (fun q => q.mbx.port.inFlight == some { op := .dataWrite .control, addr := 0x1454, len := 1, data := [0] }) = true := by
  decide
theorem test_detailWriteComplete : after (.detailWriteComplete .control)
    (walking .control { phase := .detailWrite, cursor := some 0x1400, card := decidedCard 0 0 0 .badCheck } (.detailWrite .control) 1)
    (fun q => q.mbx.port.inFlight == some { op := .ownerWrite .control, addr := 0x1400, len := 1, data := [0x404] }) = true := by
  decide
theorem test_ownerWriteComplete : after (.ownerWriteComplete .control)
    (walking .control { phase := .ownerWrite, cursor := some 0x1400, card := decidedCard 0 0 0 .ok } (.ownerWrite .control) 1)
    (fun q => (q.mbx.chains.get .control).state == .parked && (q.mbx.chains.get .control).rescanTimer == .running 5
      && q.mbx.port.inFlight == none) = true := by decide
theorem test_demandReadComplete_thirdMiss : after (.demandReadComplete 8 0 0xFFFFFFFF) lagging (fun q => q.gov.inhibit.driveLink
    && !q.gov.inhibit.demandStale && !q.gov.armed
    && q.mbx.holding.map (·.kind) == [.fault .driveLinkLost, .collectorChanged]) = true := by decide +kernel
theorem test_demandReadComplete : after (.demandReadComplete 9 0 0xFFFFFFFF) (sampling { driving with gov := { inhibit := {} } })
    (fun q => q.gov.armed && q.gov.replyWait == some 0 && q.gov.counter == 1) = true := by decide
theorem test_mirrorBurstComplete : after .mirrorBurstComplete (mirroring .mirrorLast false) (fun q =>
    q.mbx.mirror.writing == none && q.mbx.port.inFlight == none) = true := by decide
theorem test_memoryAccessError : after .memoryAccessError (walking .setup {} (.headerRead .setup) 5) (fun q =>
    (q.mbx.chains.get .setup).state == .broken && q.mbx.attention.chainBroken && (q.faults.get .memoryPort).count == 1
      && (q.faults.get .chainBroken).count == 1) = true := by decide
theorem test_memoryAccessTimeout : after .memoryAccessTimeout (mirroring .mirrorFirst false) (fun q =>
    q.mbx.mirror.writing == none && (q.faults.get .memoryPort).lastDetail == 0x1400) = true := by decide
theorem test_lateCompletion : after .lateCompletion driving (· == driving) = true := by decide +kernel
theorem test_rescanTimerExpiry : after (.rescanTimerExpiry .control) (timed (some 0x1000)) (fun q =>
    q.now == 5 && (q.mbx.chains.get .control).phase == .anchorRead) = true := by decide
theorem test_mirrorIntervalExpiry : after .mirrorIntervalExpiry (timed (some 0x1000)) (fun q =>
    q.mbx.mirror.seq == 1 && (q.mbx.mirror.writing.map (·.body.length)) == some 190 && q.mbx.mirror.timer == .running 55) = true := by
  decide +kernel
theorem test_plFrameComplete : after (.plFrameComplete .pl0 1700000) (assembling .hunting 3 1 [0, 11, 11, 8, 0, 15, 1] none)
    (fun q => (q.linkRec .pl0).state == .good && q.poles.p.elevation == 3000 && q.poles.p.lateral == 241) = true := by
  decide +kernel
theorem test_plFrameAbort : after (.plFrameAbort .pl0 4800000) (assembling .good 0 1 [0] none) (fun q =>
    (q.linkRec .pl0).state == .degraded && (q.faults.get .linkDegraded).count == 1 && (q.links.pl.get .pl0).frame.isSome) = true := by
  decide
theorem test_linkFirstActivity : after (.linkFirstActivity .tag) (linked .tag { started := true }) (fun q =>
    (q.linkRec .tag).state == .hunting && (q.linkRec .tag).silence == .running 100) = true := by decide
theorem test_silenceTimerExpiry : after (.silenceTimerExpiry .pl2)
    (linked .pl2 { started := true, state := .good, silence := .running 100 })
    (fun q => q.now == 100 && (q.linkRec .pl2).state == .silent && q.line.state == .unknown) = true := by
  decide
theorem test_serialFrameComplete : after (.serialFrameComplete .drive) replied (fun q =>
    q.gov.inverter == .fault && q.gov.actual == -2 && q.gov.inhibit.driveFault && !q.gov.armed && q.gov.misses == 0
      && (q.faults.get .driveFault).lastSource == { block := .tractionGovernor, inst := 4 }) = true := by
  decide +kernel
theorem test_serialFrameError : after (.serialFrameError .drive (.gap 0xC3 true)) (receiving .hunting 1 (.body 1 []))
    (fun q => q.links.serial.get .drive == .length && (q.linkRec .drive).cause == some .gap && (q.linkRec .drive).errorRun == 2)
    = true := by decide
theorem test_driveLinkSendDone : after .driveLinkSendDone
    { driving with send := { waiting := some { seq := 1, current := 2, mode := .motor, regen := true } } }
    (fun q => q.send.sending.isSome && q.send.waiting.isNone) = true := by
  decide
theorem test_contactRawChange : after (.contactRawChange 0 .nearGround) (contact driving .doorInterlock { raw := some .opened })
    (fun q => (q.input 0).debounce == .running 10 && (q.input 0).confirmed == .opened) = true := by decide
/-- R39: a TO_SUPPLY contact is CLOSED near the supply, and OPEN near ground and in between. -/
theorem test_levels_by_sense_type :
    [PinVoltage.nearGround, .between, .nearSupply].map ({ toSupply := true } : InputEntry).levelOf = [.opened, .opened, .closed]
      ∧ [PinVoltage.nearGround, .between, .nearSupply].map ({} : InputEntry).levelOf = [.closed, .opened, .opened] := by decide
/-- R41: the sense current is HIGH and continuous for the cleaning pulse, and the configured one again after it. -/
theorem test_cleaning_drives_high : ∀ off,
    let p := contact driving .wakeRequest { raw := some .opened, confirmed := .closed, debounce := .running 10 }
    let e : InputEntry := { role := .wakeRequest, pulsed := true, cleaningOff := off }
    let p : Part := { p with tables := { p.tables with inputs := p.tables.inputs.set 0 e } }
    p.senseDrive 0 = .pulsed .low
      ∧ after (.debounceExpiry 0) p (fun q => q.senseDrive 0 == if off then .pulsed .low else .continuous .high) = true
      ∧ after (.cleaningPulseEnd 0) (p.setInput 0 { cleaning := .running 30 }) (fun q => q.senseDrive 0 == .pulsed .low)
        = true := by decide
theorem test_debounceExpiry : after (.debounceExpiry 0)
    (contact driving .doorInterlock { raw := some .opened, confirmed := .closed, debounce := .running 10 })
    (fun q => q.gov.inhibit.doorOpen && !q.gov.armed && (q.input 0).cleaning == .running 30) = true := by
  decide
theorem test_cleaningPulseEnd : after (.cleaningPulseEnd 0) (contact driving .wakeRequest { cleaning := .running 20 })
    (fun q => (q.input 0).cleaning == .stopped) = true := by decide
theorem test_pollTimerExpiry : after (.pollTimerExpiry (pinsAt .nearGround)) polling (fun q => q.contacts.second == 1
    && q.contacts.secondTimer == .running 261) = true := by decide
theorem test_secondSample : after (.secondSample (pinsAt .nearGround)) polling (fun q => q.mode == .run && q.mbx.attention.modeChange) = true := by
  decide +kernel
theorem test_readbackChange : after (.readbackChange 0 true) (outputOf driving .raiseP {}) (fun q =>
    (q.output 0).mismatch == .running 20) = true := by decide
theorem test_mismatchTimerExpiry : after (.mismatchTimerExpiry 0)
    (outputOf driving .raiseP { commanded := true, mismatch := .running 20 })
    (fun q => (q.output 0).failed && (q.faults.get .outputMismatch).count == 1) = true := by
  decide
theorem test_gapTimerExpiry : after .gapTimerExpiry inGap (fun q => q.line.state == .lost && (q.faults.get .lineLost).count == 1)
    = true := by decide +kernel
theorem test_restoreTimerExpiry : after .restoreTimerExpiry
    (withLine driving { state := .lost, restoreTimer := .running 300, voltage := 3000 })
    (fun q => q.line.state == .high && q.line.budget.source == .line) = true := by decide +kernel
theorem test_highPersistExpiry : after .highPersistExpiry (withLine driving { state := .high, highTimer := .running 2000 })
    (fun q => (q.faults.get .lineHigh).count == 1) = true := by decide
theorem test_confirmTimerExpiry : after (.confirmTimerExpiry .p)
    (withPole driving { state := .suspect, confirmTimer := .running 40, indicators := { lateral := true } })
    (fun q => q.poles.p.state == .dewired && q.poles.p.latch && q.gov.inhibit.poleDewired
      && q.line.state == .lost && !q.gov.armed) = true := by decide +kernel
theorem test_resolutionTimerExpiry : after (.resolutionTimerExpiry .p) (contact
    (withPole driving { resolving := true, resolutionTimer := .running 9 }) .polePHoused { confirmed := .closed })
    (fun q => q.poles.p.state == .housed) = true := by
  decide
/-- R54, R90: both poles HOUSED take a LIVE line to OFF_WIRE, and the copies follow. -/
theorem test_both_housed_is_offWire : after (.resolutionTimerExpiry .p)
    (contact { copying .live .untracked with poles := ⟨{ resolving := true, resolutionTimer := .running 9 }, { state := .housed }⟩ }
      .polePHoused { confirmed := .closed })
    (fun q => q.line.state == .offWire && q.line.poleCopy.p == .housed && q.keptPoles.p == .housed) = true := by
  decide +kernel
theorem test_retrieverHoldExpiry : after (.retrieverHoldExpiry .p)
    (withPole driving { state := .housed, holdTimer := .running 500, retryPending := true, sensorAvailable := true })
    (fun q => q.poles.p.state == .raising && q.poles.p.retryCount == 1) = true := by
  decide
theorem test_lowerTimerExpiry : after
    (.lowerTimerExpiry .n) { driving with poles := ⟨{}, { state := .lowering, lowerTimer := .running 5000 }⟩ }
    (fun q => q.poles.n.state == .faulted && (q.faults.get .poleStuck).count == 1) = true := by
  decide
theorem test_abandoned_raise_names_its_zone : after (.raiseTimerExpiry .p)
    (withPole driving { state := .raising, origin := .zone, zoneId := some ⟨2, 511⟩, raiseTimer := .running 9 })
    (fun q => q.mbx.holding.any (fun r => r.kind == .raiseAbandoned
      && r.details.contains (word (identityCode ⟨2, 511⟩)))) = true := by decide +kernel
theorem test_raiseTimerExpiry : after (.raiseTimerExpiry .p) (withPole driving { state := .raising, raiseTimer := .running 6000 })
    (fun q => q.poles.p.state == .lowering && q.poles.p.abandon == .timeout) = true := by decide
theorem test_settleTimerExpiry : after (.settleTimerExpiry .p) (withPole driving { state := .raising, settleTimer := .running 250 })
    (fun q => q.poles.p.state == .onWire) = true := by decide
theorem test_odometryPulse : after .odometryPulse driving (fun q => q.zones.odometer == 1 && q.zones.residue == 0) = true := by
  decide
theorem test_speedTimerExpiry : after .speedTimerExpiry { driving with zones := { odometer := 50 } } (fun q =>
    q.zones.speed == 360 && q.zones.samples[4] == 50) = true := by decide
theorem test_stationaryTimerExpiry : after .stationaryTimerExpiry driving (fun q => q.zones.stationary && q.now == 2000) = true := by
  decide
theorem test_controlPeriodExpiry : after .controlPeriodExpiry (periodic driving) (fun q => q.gov.period == .running 20
    && q.mbx.port.inFlight == some { op := .demandRead, addr := 0x1020, len := 3, data := [] }) = true := by decide
theorem test_staggerTimerExpiry : after .staggerTimerExpiry
    (auxiliary { valid := true, cls := .comfort, claim := 50, feedback := 16 } { state := .waiting, requested := true } [0])
    (fun q => (q.auxRec 0).state == .running
      && q.line.budget.claims == 50 && q.aux.queue == []) = true := by decide
/-- R146: two auxiliaries shed by one event, each with a minimum off time of 0, enter the queue in number order although the
shedding order is the other way round. -/
theorem test_entries_of_one_event_in_number_order : after .gapTimerExpiry
    (let p := auxiliary {} {} []
     { p with
        tables := { p.tables with aux := ((Vector.replicate 12 {}).set 0 { valid := true, cls := .comfort, claim := 5 }).set 1
                                           { valid := true, cls := .comfort, claim := 5, priority := 9 } }
        aux := { p.aux with recs := ((Vector.replicate 12 {}).set 0 { state := .running, requested := true, startOrder := 1 }).set 1
                                      { state := .running, requested := true, startOrder := 2 }, entryCount := 6 }
        line := { p.line with state := .gap, gapTimer := .running 120,
                              grants := ((Vector.replicate 12 none).set 0 (some 5)).set 1 (some 5) } })
    (fun q => (q.auxRec 0).state == .waiting && (q.auxRec 0).entryOrder == 7 && (q.auxRec 1).entryOrder == 8) = true := by
  decide +kernel
theorem test_startTimerExpiry : after (.startTimerExpiry 0)
    (auxiliary { valid := true, minOff := 1 } { state := .starting, startTimer := .running 9 } [])
    (fun q => (q.auxRec 0).state == .locked && (q.faults.get .auxStartFail).count == 1
      && (q.auxRec 0).offTimer == .running 1009) = true := by decide
theorem test_offTimerExpiry : after (.offTimerExpiry 0)
    (auxiliary { valid := true } { state := .locked, requested := true, offTimer := .running 9 } [])
    (fun q => (q.auxRec 0).state == .waiting && q.aux.queue == [0]) = true := by decide
theorem test_edgeHoldExpiry : after (.edgeHoldExpiry .memoryPort) (faultOf .memoryPort { edgeHold := .running 9 }) (fun q =>
    !(q.faults.get .memoryPort).active) = true := by decide
theorem test_testHoldExpiry : after (.testHoldExpiry .lineHigh) (faultOf .lineHigh { testHold := .running 9, test := true }) (fun q =>
    !(q.faults.get .lineHigh).active && !(q.faults.get .lineHigh).test) = true := by decide
theorem test_alertTimerExpiry : after .alertTimerExpiry { driving with faults := { state := .alert, alertTimer := .running 7 } }
    (fun q => q.faults.state == .fault && q.gov.inhibit.faultState && !q.gov.armed && q.mbx.attention.collectorChange) = true := by
  decide
theorem test_lampHoldExpiry : after .lampHoldExpiry
    { outputOf driving .alarmLamp { commanded := true, readback := true } with faults := { lampHold := .running 5 } }
    (fun q => !(q.output 0).commanded && (q.output 0).mismatch == .running 25) = true := by
  decide
theorem test_buzzerHoldExpiry : after .buzzerHoldExpiry
    { outputOf driving .alarmBuzzer { commanded := true, readback := true } with faults := { buzzerHold := .running 5 } }
    (fun q => !(q.output 0).commanded) = true := by decide
theorem test_syncTaken : after (.syncTaken .pl0 4800000) (linked .pl0 { started := true }) (fun q =>
    (q.linkRec .pl0).state == .hunting && (q.links.pl.get .pl0).frame == some { symbols := [], error := none }) = true := by
  decide
theorem test_symbolInterval : after (.symbolInterval .pl0 2500000) (assembling .hunting 0 0 [] none) (fun q =>
    (q.links.pl.get .pl0).frame == some { symbols := [15], error := none }) = true := by decide
theorem test_serialCharacter : after (.serialCharacter .drive 0xC3 true) (receiving .hunting 0 .waiting) (fun q =>
    q.links.serial.get .drive == .length) = true := by decide

/-- An empty queue lets one millisecond pass; the command at the front is taken. -/
theorem test_queue : step (of {}) = .next (of { now := 1 })
    ∧ step { part := {}, pending := [.lateCompletion, .run] } = .next { part := {}, pending := [.run] } := ⟨rfl, rfl⟩

end Sys2Proof.Tests
end

/-! ## The arbiter of the memory port (R14, R15)

MEMORY_PORT_GRANT scans the requesters in the order of R15. A requester whose predecessors in that order all have nothing
waiting is the first one found, so the five cases of R15 are one lemma over where the requester stands in the order. -/

namespace Sys2Proof.Machine

/-- The requesters as R15 ranks them, highest priority first. -/
def arbiterOrder : List Requester := [.demand, .control, .report, .mirror, .setup]

/-- The arbiter scans the requesters in the order of R15. -/
theorem firstRequester_eq_find (q : Port) :
    q.firstRequester = arbiterOrder.find? (fun r => (q.waiting r).isSome) := rfl

/-- A waiting requester is the first one if none that R15 ranks before it waits. -/
theorem firstRequester_of_none_before {q : Port} {r : Requester} {a : Access} {before after : List Requester}
    (horder : arbiterOrder = before ++ r :: after) (hbefore : ∀ x ∈ before, q.waiting x = none)
    (hr : q.waiting r = some a) : q.firstRequester = some r := by
  rw [firstRequester_eq_find, List.find?_eq_some_iff_append]
  exact ⟨by simp [hr], before, after, horder, fun x hx => by simp [hbefore x hx]⟩

/-- There is no first requester where nothing waits. -/
theorem firstRequester_of_none_waiting {q : Port} (h : ∀ r, q.waiting r = none) : q.firstRequester = none := by
  rw [firstRequester_eq_find, List.find?_eq_none]
  intro r _
  simp [h r]

/-- With an access in flight the arbiter grants nothing (R14). -/
theorem grantNext_of_inFlight {m : Mailbox} (h : m.port.inFlight ≠ none) : m.grantNext = m := by
  obtain ⟨b, hb⟩ := Option.ne_none_iff_exists'.mp h
  simp [Mailbox.grantNext, hb]

/-- With nothing waiting the arbiter grants nothing (R15). -/
theorem grantNext_of_none_first {m : Mailbox} (h : m.port.firstRequester = none) : m.grantNext = m := by
  simp [Mailbox.grantNext, h]

/-- The free port goes to the first requester (R15). -/
theorem grantNext_of_first {m : Mailbox} {r : Requester} {a : Access} (hfree : m.port.inFlight = none)
    (hfirst : m.port.firstRequester = some r) (hr : m.port.waiting r = some a) : m.grantNext = m.grantTo r a := by
  simp [Mailbox.grantNext, hfree, hfirst, hr]

/-- MEMORY_PORT_GRANT is the arbiter's choice and the end of the event, which gives out no entry orders. -/
theorem exec_memoryPortGrant_settled (s : State) :
    exec .memoryPortGrant s = .next { s with part := s.part.grant.settle } := by
  rw [exec_memoryPortGrant, event_moves s Part.grant (grant_moves s.part)]

/-- MEMORY_PORT_GRANT without a grant is the end of an event only. -/
theorem exec_memoryPortGrant_of_same {s : State} (h : s.part.mbx.grantNext = s.part.mbx) :
    exec .memoryPortGrant s = .next { s with part := s.part.settle } := by
  rw [exec_memoryPortGrant_settled, Part.grant, h]

/-- MEMORY_PORT_GRANT with the port free grants the request of the requester before which, in the order of R15, none waits. -/
theorem exec_memoryPortGrant_of_none_before {s : State} {r : Requester} {a : Access} (before after : List Requester)
    (horder : arbiterOrder = before ++ r :: after) (hfree : s.part.mbx.port.inFlight = none)
    (hbefore : ∀ x ∈ before, s.part.mbx.port.waiting x = none) (hr : s.part.mbx.port.waiting r = some a) :
    exec .memoryPortGrant s = .next { s with part := (s.part.granted r a).settle } := by
  have hfirst := firstRequester_of_none_before horder hbefore hr
  rw [exec_memoryPortGrant_settled, Part.grant, grantNext_of_first hfree hfirst hr, Part.granted]

/-- Settles O21, which holds: each case names the requesters that R15 ranks before the one granted. -/
theorem arbiterGrantsInOrder : Obligations.ArbiterGrantsInOrder := by
  intro s
  refine ⟨fun hbusy => exec_memoryPortGrant_of_same (grantNext_of_inFlight hbusy), fun hfree => ?_⟩
  refine ⟨fun a ha => ?demand, fun hd => ⟨fun a ha => ?control, fun hc => ⟨fun a ha => ?report, fun hrep =>
    ⟨fun a ha => ?mirror, fun hm => ⟨fun a ha => ?setup, fun hs => ?nothing⟩⟩⟩⟩⟩
  case demand =>
    exact exec_memoryPortGrant_of_none_before [] _ rfl hfree (by simp) ha
  case control =>
    exact exec_memoryPortGrant_of_none_before [.demand] _ rfl hfree (by simp [Port.waiting, hd]) ha
  case report =>
    exact exec_memoryPortGrant_of_none_before [.demand, .control] _ rfl hfree (by simp [Port.waiting, hd, hc]) ha
  case mirror =>
    exact exec_memoryPortGrant_of_none_before [.demand, .control, .report] _ rfl hfree
      (by simp [Port.waiting, hd, hc, hrep]) ha
  case setup =>
    exact exec_memoryPortGrant_of_none_before [.demand, .control, .report, .mirror] _ rfl hfree
      (by simp [Port.waiting, hd, hc, hrep, hm]) ha
  case nothing =>
    have hnone : ∀ r, s.part.mbx.port.waiting r = none := by
      intro r
      cases r
      case demand => exact hd
      case control => exact hc
      case report => exact hrep
      case mirror => exact hm
      case setup => exact hs
    exact exec_memoryPortGrant_of_same (grantNext_of_none_first (firstRequester_of_none_waiting hnone))

end Sys2Proof.Machine

/-! ## A RUN command (R180)

A report is the newest one held, whether it coalesces, joins the list or evicts a record, unless the list is full (R21, R22).
The rest of an entry to RUN is told by frames: the blocks change neither the mode nor the command outcome nor the kind of the
last reset, and what follows the report of the entry leaves the reports alone. -/

namespace Sys2Proof.Machine

/-! ### The newest report (R21, R22) -/

theorem getLast?_modLast {α : Type} (f : α → α) (xs : List α) : (modLast f xs).getLast? = xs.getLast?.map f := by
  fun_induction modLast f xs with
  | case1 => rfl
  | case2 x => rfl
  | case3 x y xs ih =>
    have hne : modLast f (y :: xs) ≠ [] := fun h => by simpa [h] using modLast_length f (y :: xs)
    obtain ⟨z, zs, hz⟩ := List.exists_cons_of_ne_nil hne
    rw [List.getLast?_cons_cons, ← ih, hz, List.getLast?_cons_cons]

/-- A record that joins the list is its last one (R21). -/
theorem join_getLast? (p : Part) (m : Mailbox) (r : ReportRec) : (m.join p r).holding.getLast? = some r := by
  obtain ⟨c, q, h⟩ := afterJoin_walks p { m with holding := m.holding ++ [r] } m.holding.isEmpty
  rw [Mailbox.join, h]
  exact List.getLast?_concat

/-- A full list either takes the new record at its tail or drops it and stays full (R22). -/
theorem overflow_getLast?_or_full (p : Part) (m : Mailbox) (r : ReportRec) (hfull : 16 ≤ m.holding.length) :
    (m.overflow p r).holding.getLast? = some r ∨ 16 ≤ (m.overflow p r).holding.length := by
  unfold Mailbox.overflow
  split
  · exact .inl (join_getLast? p _ r)
  · exact .inr (by simpa [Mailbox.dropReport, modLast_length] using hfull)

/-- A record last in the list is the newest report. -/
theorem newest_of_getLast? {m : Mailbox} {r : ReportRec} {items : List Item} (hlast : m.holding.getLast? = some r)
    (hdetails : r.details = packItems items) : m.newest r.kind r.block r.inst r.tag items :=
  .inl ⟨r, hlast, rfl, rfl, rfl, rfl, hdetails⟩

/-- A record that coalesces keeps the kind and source, which are those of the raise, and takes its tag and details (R21). -/
theorem coalesced_newest {m : Mailbox} {newest r : ReportRec} {items : List Item} (hlast : m.holding.getLast? = some newest)
    (hc : coalesces newest r = true) (hdetails : r.details = packItems items) :
    Mailbox.newest { m with holding := modLast (coalesce r) m.holding } r.kind r.block r.inst r.tag items := by
  simp only [coalesces, Bool.and_eq_true, beq_iff_eq] at hc
  obtain ⟨⟨⟨⟨hkind, hblock⟩, hinst⟩, -⟩, -⟩ := hc
  refine .inl ⟨coalesce r newest, ?_, hkind, hblock, hinst, rfl, hdetails⟩
  rw [getLast?_modLast, hlast, Option.map_some]

/-- A raised record is the newest report held, unless the list is full (R21, R22). -/
theorem takeReport_newest (p : Part) (m : Mailbox) {r : ReportRec} {items : List Item}
    (hdetails : r.details = packItems items) : (m.takeReport p r).newest r.kind r.block r.inst r.tag items := by
  unfold Mailbox.takeReport
  dsimp only
  split
  next newest hlast =>
    split
    next hc => exact coalesced_newest (m := { m with raised := m.raised + 1 }) hlast hc hdetails
    next =>
      split
      next => exact newest_of_getLast? (join_getLast? p _ r) hdetails
      next hfull =>
        exact (overflow_getLast?_or_full p { m with raised := m.raised + 1 } r (Nat.le_of_not_lt hfull)).imp_left
          fun hj => ⟨r, hj, rfl, rfl, rfl, rfl, hdetails⟩
  next => exact newest_of_getLast? (join_getLast? p _ r) hdetails

/-- A raised report is the newest one held, unless the list is full (R21, R22). -/
theorem report_newest (p : Part) (kind : ReportKind) (sev : Severity) (block : Block) (inst : Nat) (tag : Word)
    (items : List Item) : (p.report kind sev block inst tag items).mbx.newest kind block inst tag items :=
  takeReport_newest (r := p.newReport kind sev block inst tag items) p p.mbx rfl

/-- The newest report stays where the reports do. -/
theorem newest_of_same {p q : Part} {kind : ReportKind} {block : Block} {inst : Nat} {tag : Word} {items : List Item}
    (h : p.same q .reports) (hn : p.mbx.newest kind block inst tag items) : q.mbx.newest kind block inst tag items := by
  obtain ⟨hholding, -⟩ := h
  simpa only [Mailbox.newest, hholding] using hn

/-! ### The entry to RUN before and after its report -/

/-- The mode is RUN and every link is started: where both ways into RUN begin (R181, R184). -/
def Part.startsRun (p : Part) : Part := { p with mode := .run, links := .start }

/-- What the blocks do at the entry to RUN from HALT, before its report (R181). -/
def Part.blocksEnterRun (p : Part) : Part :=
  (p.startsRun.lineUnknown.polesEnterRun.governorEntersRun.withdraw .mode).auxEntersRun.evalAlarms

/-- Both poles at RUN entry from LAYOVER (R71). -/
def Part.polesWake (p : Part) : Part := { p with poles := ⟨p.poles.p.wake, p.poles.n.wake⟩ }

/-- What the blocks do on leaving LAYOVER, before its report (R184). -/
def Part.blocksLeaveLayover (p : Part) : Part :=
  (p.startsRun.lineUnknown.polesWake.governorEntersRun.withdraw .mode).auxLeavesLayover.endLayover.rescanChains

/-- What follows the report RUN_ENTERED in its event: the last reset kind becomes NONE, then R179 and R18 (R181). -/
def Part.endsRunEntry (p : Part) : Part := { p with lastReset := .none }.noteModeChange.mirrorStart

theorem enterRun_eq (p : Part) :
    p.enterRun = (p.blocksEnterRun.modeReport .runEntered 0
      [.small (resetKindCode p.blocksEnterRun.lastReset)]).endsRunEntry := rfl

theorem leaveLayover_eq (p : Part) (cause : WakeCause) (tag : Word) (extra : List Item) :
    p.leaveLayover cause tag extra =
      (p.blocksLeaveLayover.modeReport .wake tag (.small cause.ctorIdx :: extra)).noteModeChange.mirrorStart := rfl

/-- What the blocks may change between the start of an entry to RUN and its report. -/
def runEntryPieces : List Piece := polePieces ++ govPieces ++ [.aux, .contacts, .mirror]

/-- Between the start and the report the governor enters RUN and the reason MODE is withdrawn (R128, R135); `hbefore` and
`hafter` tell what the blocks do before and after that. -/
theorem runEntry_onlyChanges {p q r : Part} (hbefore : p.Moves runEntryPieces q)
    (hafter : (q.governorEntersRun.withdraw .mode).Moves runEntryPieces r) :
    p.onlyChanges runEntryPieces r := by
  have hgov : p.Moves runEntryPieces q.governorEntersRun := .before (governorEntersRun_moves q) hbefore
  have hreason : q.governorEntersRun.onlyChanges runEntryPieces (q.governorEntersRun.withdraw .mode) :=
    Part.onlyChanges_mono (withdraw_only _ .mode) (by decide)
  exact Part.onlyChanges_trans hgov.drifts.only (Part.onlyChanges_trans hreason hafter.drifts.only)

theorem blocksEnterRun_onlyChanges (p : Part) : p.startsRun.onlyChanges runEntryPieces p.blocksEnterRun :=
  runEntry_onlyChanges (.before (polesEnterRun_moves _) (lineUnknown_moves _).mono)
    (.before (evalAlarms_moves _) (auxEntersRun_moves _).mono)

theorem blocksLeaveLayover_onlyChanges (p : Part) : p.startsRun.onlyChanges runEntryPieces p.blocksLeaveLayover :=
  runEntry_onlyChanges (.before (polesWake_moves _) (lineUnknown_moves _).mono)
    (.before (rescanChains_moves _) (.before (endLayover_moves _) (auxLeavesLayover_moves _).mono))

/-! ### In RUN with a report -/

/-- A RUN command has been ACCEPTED, and the part is in RUN with this report of the mode logic the newest one. -/
def Part.runsWith (kind : ReportKind) (items : List Item) (p : Part) : Prop :=
  p.mbx.outcome = .accepted ∧ p.mode = .run ∧ p.mbx.newest kind .modeLogic 0 0 items

/-- The pieces that `runsWith` speaks of. -/
def runPieces : List Piece := [.command, .mode, .reports]

/-- An operation that leaves the command outcome, the mode and the reports alone keeps a part in RUN with its report. -/
theorem runsWith_of_moves {xs : List Piece} {p q : Part} {kind : ReportKind} {items : List Item} (h : p.Moves xs q)
    (hp : p.runsWith kind items) (hxs : runPieces.all (fun x => !xs.contains x) = true := by decide) :
    q.runsWith kind items := by
  obtain ⟨houtcome, hmode, hnewest⟩ := hp
  have hsame : ∀ x ∈ runPieces, p.same q x := fun x hx => h.drifts.only x (by simpa using List.all_eq_true.mp hxs x hx)
  have hcommand : q.mbx.outcome = p.mbx.outcome := (hsame .command (by decide)).1
  have hsameMode : q.mode = p.mode := hsame .mode (by decide)
  exact ⟨hcommand.trans houtcome, hsameMode.trans hmode, newest_of_same (hsame .reports (by decide)) hnewest⟩

/-- The report of an entry to RUN is the newest one, and the report changes neither the mode nor the command outcome. -/
theorem modeReport_runsWith {p q : Part} (h : p.startsRun.onlyChanges runEntryPieces q) (ha : p.mbx.outcome = .accepted)
    (kind : ReportKind) (items : List Item) : (q.modeReport kind 0 items).runsWith kind items := by
  have hreport := modeReport_moves q kind 0 items
  have houtcome : q.mbx.outcome = p.mbx.outcome := (h .command (by decide)).1
  have hmode : q.mode = .run := h .mode (by decide)
  have hkeptOutcome : (q.modeReport kind 0 items).mbx.outcome = q.mbx.outcome := (hreport.drifts.only .command (by decide)).1
  have hkeptMode : (q.modeReport kind 0 items).mode = q.mode := hreport.drifts.only .mode (by decide)
  exact ⟨hkeptOutcome.trans (houtcome.trans ha), hkeptMode.trans hmode, report_newest q kind .info .modeLogic 0 0 items⟩

/-- R181: an accepted RUN in HALT enters RUN and reports RUN_ENTERED with the kind of the last reset. -/
theorem enterRun_runsWith {p : Part} (ha : p.mbx.outcome = .accepted) :
    p.enterRun.runsWith .runEntered [.small (resetKindCode p.lastReset)] := by
  have hblocks := blocksEnterRun_onlyChanges p
  have hreset : p.blocksEnterRun.lastReset = p.lastReset := hblocks .lastReset (by decide)
  rw [enterRun_eq, hreset]
  exact runsWith_of_moves (mirrorStart_moves _) (runsWith_of_moves (noteModeChange_moves _)
    (runsWith_of_moves (moves_lastReset _ .none) (modeReport_runsWith hblocks ha _ _)))

/-- R184: an accepted RUN in LAYOVER leaves it for RUN and reports WAKE with its cause. -/
theorem leaveLayover_runsWith {p : Part} (ha : p.mbx.outcome = .accepted) (cause : WakeCause) :
    (p.leaveLayover cause 0 []).runsWith .wake [.small cause.ctorIdx] := by
  rw [leaveLayover_eq]
  exact runsWith_of_moves (mirrorStart_moves _) (runsWith_of_moves (noteModeChange_moves _)
    (modeReport_runsWith (blocksLeaveLayover_onlyChanges p) ha _ _))

/-! ### The command -/

theorem runCommand_of_base_unset {p : Part} (hmode : p.mode = .halt) (hbase : p.mbx.base = none) :
    p.runCommand = p.refuseRun .baseNotSet := by
  simp [Part.runCommand, hmode, hbase]

theorem runCommand_of_tables_missing {p : Part} (hmode : p.mode = .halt) (hbase : p.mbx.base ≠ none)
    (hmissing : p.tables.missing ≠ 0) : p.runCommand = p.refuseRun .tablesMissing := by
  simp only [Part.runCommand, hmode, Option.isNone_iff_eq_none, if_neg hbase, if_pos hmissing]

theorem runCommand_of_ready {p : Part} (hmode : p.mode = .halt) (hbase : p.mbx.base ≠ none)
    (hcomplete : p.tables.missing = 0) : p.runCommand = (p.outcome .accepted).enterRun := by
  simp [Part.runCommand, hmode, hbase, hcomplete]

theorem runCommand_of_layover {p : Part} (hmode : p.mode = .layover) :
    p.runCommand = (p.outcome .accepted).leaveLayover .command 0 [] := by
  simp [Part.runCommand, hmode]

theorem runCommand_of_run {p : Part} (hmode : p.mode = .run) : p.runCommand = p.refuseRun .alreadyInRun := by
  simp [Part.runCommand, hmode]

/-- A RUN that is ignored shows its cause and the missing tables, and nothing else changes (R25, R180). -/
theorem exec_run_of_refused {s : State} {o : CommandOutcome} (h : s.part.runCommand = s.part.refuseRun o) :
    exec .run s = .next { s with part := (s.part.shows o s.part.tables.missing).settle } := by
  rw [exec_run, event_moves s Part.runCommand (h ▸ refuseRun_moves s.part o), h]
  rfl

/-- A RUN that brings the part into RUN with its report ends there: the entry orders of the end of the event touch neither. -/
theorem exec_run_of_runsWith {s : State} {kind : ReportKind} {items : List Item}
    (h : s.part.runCommand.runsWith kind items) :
    ∃ q : Part, exec .run s = .next { s with part := q.settle } ∧ q.runsWith kind items :=
  ⟨_, (exec_run s).trans (event_next s _), runsWith_of_moves (orderEntries_moves _ s.part) h⟩

/-- Settles O13, which holds: the mode, then the base, then the tables decide which of the five outcomes a RUN has. -/
theorem runIsTakenByTheMode : Obligations.RunIsTakenByTheMode := by
  intro s
  refine ⟨?baseUnset, ?tablesMissing, ?ready, ?layover, ?run⟩
  case baseUnset => exact fun hmode hbase => exec_run_of_refused (runCommand_of_base_unset hmode hbase)
  case tablesMissing =>
    exact fun hmode hbase hmissing => exec_run_of_refused (runCommand_of_tables_missing hmode hbase hmissing)
  case ready =>
    intro hmode hbase hcomplete
    refine exec_run_of_runsWith ?_
    rw [runCommand_of_ready hmode hbase hcomplete]
    exact enterRun_runsWith (p := s.part.outcome .accepted) rfl
  case layover =>
    intro hmode
    refine exec_run_of_runsWith ?_
    rw [runCommand_of_layover hmode]
    exact leaveLayover_runsWith rfl .command
  case run => exact fun hmode => exec_run_of_refused (runCommand_of_run hmode)

end Sys2Proof.Machine

/-! ## Steps and what every step keeps (R21, R23, R26, R135, R138)

Every command is one event over the part, so a property of the next state is a property of the part at the end of an event. -/

namespace Sys2Proof.Machine

/-! ### The end of an event (R26) -/

/-- REPORTS_HELD at the end of an event. -/
theorem settle_reportsHeld (p : Part) : p.mbx.settle.attention.reportsHeld =
    (p.mbx.heldCondition || (p.mbx.attention.reportsHeld && !p.mbx.holding.isEmpty)) := rfl

theorem heldCondition_iff (m : Mailbox) :
    m.heldCondition = true ↔ m.holding ≠ [] ∧ m.chains.report.state ≠ .walking := by
  simp [Mailbox.heldCondition]

/-- REPORTS_HELD follows its condition at the end of every event. -/
theorem settle_attended (p : Part) : p.settle.mbx.attended := by
  refine ⟨fun hheld hstate => ?_, fun hnone => ?_⟩
  · have hcondition : p.mbx.heldCondition = true := (heldCondition_iff p.mbx).mpr ⟨hheld, hstate⟩
    rw [Part.settle, settle_reportsHeld, hcondition, Bool.true_or]
  · have hnone : p.mbx.holding = [] := hnone
    simp [settle_reportsHeld, Mailbox.heldCondition, hnone]

/-- Settles O3, which holds: of the attention reasons only REPORTS_HELD is written at the end of an event. -/
theorem endOfEventSetsReportsHeld : Obligations.EndOfEventSetsReportsHeld := by
  intro p
  refine ⟨(settle_moves p).drifts.only, rfl, rfl, rfl, rfl, (settle_attended p).1, (settle_attended p).2, ?walking⟩
  case walking =>
    intro hheld hwalking
    have hcondition : p.mbx.heldCondition = false := by simp [Mailbox.heldCondition, hwalking]
    have hheld : p.mbx.holding.isEmpty = false := by simpa using hheld
    simp [settle_reportsHeld, hcondition, hheld]

/-! ### Every command is an event -/

/-- The next state of a command is the end of an event. -/
theorem exec_completes (c : Instr) (s : State) : ∃ q : Part, exec c s = .next { s with part := q.settle } := by
  cases c <;> exact ⟨_, rfl⟩

/-- Settles O2, which holds: each arm of `exec` is one event. -/
theorem everyCommandCompletes : Obligations.EveryCommandCompletes := exec_completes

/-- A step on an empty queue. -/
theorem step_of_empty {s : State} (h : s.pending = []) :
    step s = .next { s with part := { s.part with now := s.part.now + 1 } } := by
  simp [step, h, State.idle]

/-- A step that answers a next state is an idle millisecond or the end of a command. -/
theorem step_cases {s s' : State} (h : step s = .next s') :
    s'.part = { s.part with now := s.part.now + 1 }
      ∨ ∃ c rest, s.pending = c :: rest ∧ exec c { s with pending := rest } = .next s' := by
  cases hp : s.pending with
  | nil =>
    rw [step_of_empty hp] at h
    injection h with h
    exact .inl (h ▸ rfl)
  | cons c rest =>
    simp only [step, hp] at h
    exact .inr ⟨c, rest, rfl, h⟩

/-- Settles O1, which holds by the two arms of `step`. -/
theorem stepRunsTheFrontCommand : Obligations.StepRunsTheFrontCommand :=
  fun _ => ⟨fun _ _ => rfl, step_of_empty⟩

/-- A property that the idle millisecond and every command keep is kept by every step. -/
theorem step_keeps {P : Part → Prop} (hidle : ∀ p : Part, P p → P { p with now := p.now + 1 })
    (hexec : ∀ (c : Instr) (s s' : State), P s.part → exec c s = .next s' → P s'.part)
    {s s' : State} (hs : P s.part) (h : step s = .next s') : P s'.part := by
  obtain hsame | ⟨c, rest, -, hc⟩ := step_cases h
  · rw [hsame]
    exact hidle _ hs
  · exact hexec c { s with pending := rest } s' hs hc

/-- Settles O9, which holds: the end of every event brings REPORTS_HELD up to date. -/
theorem everyStepKeepsReportsHeld : Obligations.EveryStepKeepsReportsHeld := by
  refine fun s s' hs h => step_keeps (P := fun p => p.mbx.attended) (fun p hp => hp) ?_ hs h
  intro c s s' _ hc
  obtain ⟨q, hq⟩ := exec_completes c s
  rw [hq] at hc
  injection hc with hc
  rw [← hc]
  exact settle_attended q

/-! ### The invariant of accounts, interlock, claims and notices -/

/-- A property of the part that every event keeps once it is kept by the moves that leave the mode and the tables alone and by
the few events that change one of these. -/
structure KeptByEvents (P : Part → Prop) : Prop where
  ofMoves : ∀ {xs : List Piece} {p q : Part}, p.Moves xs q → P p → xs.contains .mode = false → xs.contains .tables = false → P q
  powerOn : ∀ p : Part, P p.powerOn
  commandReset : ∀ {p : Part}, P p → P p.commandReset
  runCommand : ∀ {p : Part}, P p → P p.runCommand
  haltCommand : ∀ {p : Part}, P p → P p.haltCommand
  takenDone : ∀ {p : Part}, P p → ∀ c, P (p.takenDone c)
  payloadDone : ∀ {p : Part}, P p → ∀ c ws, P (p.payloadDone c ws)
  secondSampled : ∀ {p : Part}, P p → ∀ pins, P (p.secondSampled pins)

namespace KeptByEvents

variable {P : Part → Prop}

theorem moves (hP : KeptByEvents P) {xs : List Piece} {p q : Part} (h : p.Moves xs q) (hp : P p)
    (hm : xs.contains .mode = false := by decide) (ht : xs.contains .tables = false := by decide) : P q := hP.ofMoves h hp hm ht

/-- An expiry moves the clock and runs its event, or does nothing (assumption logs 1 and 2). -/
theorem onExpiry (hP : KeptByEvents P) {p : Part} (h : P p) (t : Timer) (f : Part → Part) (hf : ∀ q : Part, P q → P (f q)) :
    P (p.onExpiry t f) := by
  unfold Part.onExpiry Part.clockTo
  split
  · exact h
  · split
    · exact hf _ (hP.moves (moves_now p _) h)
    · exact hf _ h

theorem command (hP : KeptByEvents P) {c : Instr} {s : State} {f : Part → Part} (hc : exec c s = s.event f) (h : P (f s.part)) :
    ∃ q : Part, exec c s = .next { s with part := q.settle } ∧ P q.settle :=
  ⟨_, hc.trans (event_next s f), hP.moves (settle_moves _) (hP.moves (orderEntries_moves _ _) h)⟩

/-- Every command keeps the property: each is one event over the part. -/
theorem exec (hP : KeptByEvents P) (c : Instr) {s : State} (h : P s.part) :
    ∃ q : Part, Machine.exec c s = .next { s with part := q.settle } ∧ P q.settle := by
  cases c with
  | powerOnReset => exact hP.command (exec_powerOnReset s) (hP.powerOn _)
  | mailboxBaseWrite value => exact hP.command (exec_mailboxBaseWrite value s) (hP.moves (writeBase_moves _ _) h)
  | run => exact hP.command (exec_run s) (hP.runCommand h)
  | halt => exact hP.command (exec_halt s) (hP.haltCommand h)
  | reset => exact hP.command (exec_reset s) (hP.commandReset h)
  | wake mask => exact hP.command (exec_wake mask s) (hP.moves (wakeCommand_moves _ _) h)
  | rewind chain => exact hP.command (exec_rewind chain s) (hP.moves (rewindCommand_moves _ _) h)
  | ackAttention mask => exact hP.command (exec_ackAttention mask s) (hP.moves (ackCommand_moves _ _) h)
  | badCommand word => exact hP.command (exec_badCommand word s) (hP.moves (badCommand_moves _ _) h)
  | memoryPortGrant => exact hP.command (exec_memoryPortGrant s) (hP.moves (grant_moves _) h)
  | anchorReadComplete chain entry => exact hP.command (exec_anchorReadComplete chain entry s) (hP.moves (anchorDone_moves _ _ _) h)
  | headerReadComplete chain header => exact hP.command (exec_headerReadComplete chain header s) (hP.moves (headerDone_moves _ _ _) h)
  | takenWriteComplete chain => exact hP.command (exec_takenWriteComplete chain s) (hP.takenDone h _)
  | payloadReadComplete chain words => exact hP.command (exec_payloadReadComplete chain words s) (hP.payloadDone h _ _)
  | cardDataWriteComplete chain => exact hP.command (exec_cardDataWriteComplete chain s) (hP.moves (dataDone_moves _ _) h)
  | detailWriteComplete chain => exact hP.command (exec_detailWriteComplete chain s) (hP.moves (detailDone_moves _ _) h)
  | ownerWriteComplete chain => exact hP.command (exec_ownerWriteComplete chain s) (hP.moves (ownerDone_moves _ _) h)
  | demandReadComplete sequence value complement => exact hP.command (exec_demandReadComplete sequence value complement s) (hP.moves (demandDone_moves _ _ _ _) h)
  | mirrorBurstComplete => exact hP.command (exec_mirrorBurstComplete s) (hP.moves (mirrorDone_moves _) h)
  | memoryAccessError => exact hP.command (exec_memoryAccessError s) (hP.moves (accessFails_moves _) h)
  | memoryAccessTimeout => exact hP.command (exec_memoryAccessTimeout s) (hP.moves (accessFails_moves _) h)
  | lateCompletion => exact hP.command (exec_lateCompletion s) h
  | rescanTimerExpiry chain => exact hP.command (exec_rescanTimerExpiry chain s) (hP.onExpiry h _ _ fun _ hq => hP.moves (rescanExpired_moves _ _) hq)
  | mirrorIntervalExpiry => exact hP.command (exec_mirrorIntervalExpiry s) (hP.onExpiry h _ _ fun _ hq => hP.moves (mirrorInterval_moves _) hq)
  | plFrameComplete link interval => exact hP.command (exec_plFrameComplete link interval s) (hP.moves (plComplete_moves _ _ _) h)
  | plFrameAbort link interval => exact hP.command (exec_plFrameAbort link interval s) (hP.moves (plAbort_moves _ _ _) h)
  | linkFirstActivity link => exact hP.command (exec_linkFirstActivity link s) (hP.moves (firstActivity_moves _ _) h)
  | silenceTimerExpiry link => exact hP.command (exec_silenceTimerExpiry link s) (hP.onExpiry h _ _ fun _ hq => hP.moves (silenceExpired_moves _ _) hq)
  | serialFrameComplete link => exact hP.command (exec_serialFrameComplete link s) (hP.moves (serialComplete_moves _ _) h)
  | serialFrameError link error => exact hP.command (exec_serialFrameError link error s) (hP.moves (serialError_moves _ _ _) h)
  | driveLinkSendDone => exact hP.command (exec_driveLinkSendDone s) (hP.moves (sendDone_moves _) h)
  | contactRawChange input voltage => exact hP.command (exec_contactRawChange input voltage s) (hP.moves (pinSensed_moves _ _ _) h)
  | debounceExpiry input => exact hP.command (exec_debounceExpiry input s) (hP.onExpiry h _ _ fun _ hq => hP.moves (debounced_moves _ _) hq)
  | cleaningPulseEnd input => exact hP.command (exec_cleaningPulseEnd input s) (hP.onExpiry h _ _ fun _ hq => hP.moves (cleaningDone_moves _ _) hq)
  | pollTimerExpiry pins => exact hP.command (exec_pollTimerExpiry pins s) (hP.onExpiry h _ _ fun _ hq => hP.moves (polled_moves _ _) hq)
  | secondSample pins => exact hP.command (exec_secondSample pins s) (hP.onExpiry h _ _ fun _ hq => hP.secondSampled hq _)
  | readbackChange output on => exact hP.command (exec_readbackChange output on s) (hP.moves (readbackChange_moves _ _ _) h)
  | mismatchTimerExpiry output => exact hP.command (exec_mismatchTimerExpiry output s) (hP.onExpiry h _ _ fun _ hq => hP.moves (outputFails_moves _ _) hq)
  | gapTimerExpiry => exact hP.command (exec_gapTimerExpiry s) (hP.onExpiry h _ _ fun _ hq => hP.moves (gapExpired_moves _) hq)
  | restoreTimerExpiry => exact hP.command (exec_restoreTimerExpiry s) (hP.onExpiry h _ _ fun _ hq => hP.moves (restoreExpired_moves _) hq)
  | highPersistExpiry => exact hP.command (exec_highPersistExpiry s) (hP.onExpiry h _ _ fun _ hq => hP.moves (highExpired_moves _) hq)
  | confirmTimerExpiry pole => exact hP.command (exec_confirmTimerExpiry pole s) (hP.onExpiry h _ _ fun _ hq => hP.moves (confirmExpired_moves _ _) hq)
  | resolutionTimerExpiry pole => exact hP.command (exec_resolutionTimerExpiry pole s) (hP.onExpiry h _ _ fun _ hq => hP.moves (resolutionExpired_moves _ _) hq)
  | retrieverHoldExpiry pole => exact hP.command (exec_retrieverHoldExpiry pole s) (hP.onExpiry h _ _ fun _ hq => hP.moves (holdExpired_moves _ _) hq)
  | lowerTimerExpiry pole => exact hP.command (exec_lowerTimerExpiry pole s) (hP.onExpiry h _ _ fun _ hq => hP.moves (lowerExpired_moves _ _) hq)
  | raiseTimerExpiry pole => exact hP.command (exec_raiseTimerExpiry pole s) (hP.onExpiry h _ _ fun _ hq => hP.moves (raiseExpired_moves _ _) hq)
  | settleTimerExpiry pole => exact hP.command (exec_settleTimerExpiry pole s) (hP.onExpiry h _ _ fun _ hq => hP.moves (settleExpired_moves _ _) hq)
  | odometryPulse => exact hP.command (exec_odometryPulse s) (hP.moves (odometryPulse_moves _) h)
  | speedTimerExpiry => exact hP.command (exec_speedTimerExpiry s) (hP.onExpiry h _ _ fun _ hq => hP.moves (speedExpired_moves _) hq)
  | stationaryTimerExpiry => exact hP.command (exec_stationaryTimerExpiry s) (hP.onExpiry h _ _ fun _ hq => hP.moves (moves_zones _ _) hq)
  | controlPeriodExpiry => exact hP.command (exec_controlPeriodExpiry s) (hP.onExpiry h _ _ fun _ hq => hP.moves (periodExpired_moves _) hq)
  | staggerTimerExpiry => exact hP.command (exec_staggerTimerExpiry s) (hP.onExpiry h _ _ fun _ hq => hP.moves (staggerExpired_moves _) hq)
  | startTimerExpiry aux => exact hP.command (exec_startTimerExpiry aux s) (hP.onExpiry h _ _ fun _ hq => hP.moves (startExpired_moves _ _) hq)
  | offTimerExpiry aux => exact hP.command (exec_offTimerExpiry aux s) (hP.onExpiry h _ _ fun _ hq => hP.moves (offExpired_moves _ _) hq)
  | edgeHoldExpiry kind => exact hP.command (exec_edgeHoldExpiry kind s) (hP.onExpiry h _ _ fun _ hq => hP.moves (edgeHoldExpired_moves _ _) hq)
  | testHoldExpiry kind => exact hP.command (exec_testHoldExpiry kind s) (hP.onExpiry h _ _ fun _ hq => hP.moves (testHoldExpired_moves _ _) hq)
  | alertTimerExpiry => exact hP.command (exec_alertTimerExpiry s) (hP.onExpiry h _ _ fun _ hq => hP.moves (alertExpired_moves _) hq)
  | lampHoldExpiry => exact hP.command (exec_lampHoldExpiry s) (hP.onExpiry h _ _ fun _ hq => hP.moves (lampHoldExpired_moves _) hq)
  | buzzerHoldExpiry => exact hP.command (exec_buzzerHoldExpiry s) (hP.onExpiry h _ _ fun _ hq => hP.moves (buzzerHoldExpired_moves _) hq)
  | syncTaken link interval => exact hP.command (exec_syncTaken link interval s) (hP.moves (syncTaken_moves _ _ _) h)
  | symbolInterval link interval => exact hP.command (exec_symbolInterval link interval s) (hP.moves (symbolTaken_moves _ _ _) h)
  | serialCharacter link byte stopOk => exact hP.command (exec_serialCharacter link byte stopOk s) (hP.moves (serialChar_moves _ _ _ _) h)

/-- Every step keeps the property. -/
theorem step (hP : KeptByEvents P) {s s' : State} (hs : P s.part) (h : Machine.step s = .next s') : P s'.part := by
  refine step_keeps (fun p hp => hP.moves (moves_now p _) hp) ?_ hs h
  intro c s s' hs hc
  obtain ⟨q, hq, hgood⟩ := hP.exec c hs
  rw [hq] at hc
  injection hc with hc
  rw [← hc]
  exact hgood

end KeptByEvents

theorem good_kept : KeptByEvents Part.good where
  ofMoves hm hp hmode _ := hm.good hp hmode
  powerOn p := (powerOn_fits p).good (by decide)
  commandReset {p} _ := (commandReset_fits p).good (by decide)
  runCommand := runCommand_good
  haltCommand := haltCommand_good
  takenDone := takenDone_good
  payloadDone := payloadDone_good
  secondSampled := secondSampled_good

/-- Settles O6, which holds: the idle millisecond and every command keep the five properties. -/
theorem everyStepKeepsAccountsAndInterlock : Obligations.EveryStepKeepsAccountsAndInterlock := fun _ _ => good_kept.step

/-- No condition of the Pole Monitor's claims holds for either pole where none of its reasons stands (R91). -/
theorem anyPole_eq_false_of_empty {p : Part} {f : Pole → Bool} {b : Bool} (hb : b = true ↔ p.anyPole f = true)
    (h : b = false) (i : PoleId) : f (p.poles.get i) = false := by
  have hnone : p.anyPole f = false := by simpa [h] using hb
  simp only [Part.anyPole, Bool.or_eq_false_iff] at hnone
  cases i
  exacts [hnone.1, hnone.2]

/-- A pole in none of the conditions of the Pole Monitor's claims is not in doubt. -/
theorem pole_calm_of_no_claim {q : Pole} (hs : q.suspectClaim = false) (hd : q.dewiredClaim = false)
    (hm : q.movingClaim = false) :
    q.state ∉ [PoleState.suspect, .dewired, .raising, .lowering, .faulted] ∧ q.latch = false ∧ q.resolving = false := by
  simp only [Pole.suspectClaim, Pole.dewiredClaim, Pole.movingClaim, Bool.or_eq_false_iff, beq_eq_false_iff_ne] at hs hd hm
  simp_all

/-- An ARMED governor in a state with the invariant: the inhibit set is empty, so no reason stands and no condition of one
holds. -/
theorem armed_safe_of_good {p : Part} (h : p.good) (harmed : p.gov.armed = true) :
    p.mode = .run ∧ p.faults.state ≠ .fault ∧ p.gov.inhibit.empty = true
    ∧ ∀ i, (p.poles.get i).state ∉ [PoleState.suspect, .dewired, .raising, .lowering, .faulted]
        ∧ (p.poles.get i).latch = false ∧ (p.poles.get i).resolving = false := by
  obtain ⟨-, ⟨hmode, hfault, hempty⟩, ⟨hsuspect, hdewired, hmoving⟩, -, -⟩ := h
  have hempty := hempty harmed
  have hnone : ∀ r, p.gov.inhibit.has r = false := (empty_iff _).mp hempty
  have hnoMode : p.gov.inhibit.mode = false := hnone .mode
  have hnoFault : p.gov.inhibit.faultState = false := hnone .faultState
  refine ⟨by simpa [hnoMode] using hmode, by simpa [hnoFault] using hfault, hempty, fun i => ?_⟩
  exact pole_calm_of_no_claim (anyPole_eq_false_of_empty hsuspect (hnone .poleSuspect) i)
    (anyPole_eq_false_of_empty hdewired (hnone .poleDewired) i) (anyPole_eq_false_of_empty hmoving (hnone .polesMoving) i)

/-- Settles O7, which holds: the invariant after the step gives each conjunct. -/
theorem armedMeansSafe : Obligations.ArmedMeansSafe := fun s s' hs h harmed =>
  armed_safe_of_good (everyStepKeepsAccountsAndInterlock s s' hs h) harmed

/-! ### The configuration record (R160, R175) -/

/-- The configuration check value does not read the check that is stored. -/
theorem checkValue_of_check (t : Tables) (w : Word) : ({ t with check := w } : Tables).checkValue = t.checkValue := rfl

/-- The fixed reactions are not stored (R160). -/
theorem setEntry_fixed (t : Tables) (id : TableId) (index : Nat) (v : List Nat) (k : Fin 20) (hk : k = 0 ∨ k = 14) :
    (t.setEntry id index v).reactions.get k = t.reactions.get k := by
  cases id with
  | faultReactions =>
    simp only [Tables.setEntry]
    split
    · rfl
    next hindex =>
      have hne : index ≠ k.val := by rintro rfl; exact hindex (by rcases hk with rfl | rfl <;> simp)
      simp only [setAt]
      split
      · simp [Vector.get_eq_getElem, hne]
      · rfl
  | _ => rfl

theorem apply_fixed (t : Tables) (x : Load) (k : Fin 20) (hk : k = 0 ∨ k = 14) :
    (t.apply x).reactions.get k = t.reactions.get k := by
  unfold Tables.apply
  generalize indexed x.first x.entries = es
  induction es generalizing t with
  | nil => rfl
  | cons e es ih => rw [List.foldl_cons, ih, setEntry_fixed _ _ _ _ _ hk]

/-- A table load keeps the configuration record faithful (R174, R175). -/
theorem store_faithful {t : Tables} (h : t.faithful) (x : Load) : (t.store x).faithful := by
  obtain ⟨-, hdewired, halarm⟩ := h
  exact ⟨rfl, (apply_fixed t x _ (.inl rfl)).trans hdewired, (apply_fixed t x _ (.inr rfl)).trans halarm⟩

theorem emptyTables_faithful : ({} : Tables).faithful := ⟨rfl, rfl, rfl⟩

/-- A move that does not name the tables leaves them. -/
theorem Part.Moves.tables {xs : List Piece} {p q : Part} (h : p.Moves xs q) (hx : xs.contains .tables = false := by decide) :
    q.tables = p.tables := h.drifts.only .tables (by simpa using hx)

/-- The owner of a table that is loaded leaves the tables (R174). -/
theorem ownerTakes_tables (p : Part) (t : Tables) (x : Load) : (p.ownerTakes t x).tables = p.tables := by
  unfold Part.ownerTakes
  cases x.table with
  | lineLimits | budget => exact (recompute_moves p).tables
  | profiles =>
    dsimp only
    split
    · exact (recomputeProfile_moves p).tables
    · rfl
  | auxTable => exact (auxTableLoaded_moves p).tables
  | contactRoles => exact (inputsLoaded_moves p _).tables
  | outputRoles => exact (outputsLoaded_moves p _).tables
  | faultReactions => exact (evalAlarms_moves p).tables
  | timers =>
    dsimp only
    split <;> rfl
  | poleLimits | watchTable | linkSettings => rfl

theorem load_tables (p : Part) (x : Load) : (p.load x).tables = p.tables.store x := ownerTakes_tables _ _ _

/-! ### What the mode changes leave alone (R181 to R184) -/

/-- A frame carried on by a later change of pieces that it names. -/
theorem Part.onlyChanges.andThen {xs ys : List Piece} {p q r : Part} (h : p.onlyChanges xs q) (k : q.onlyChanges ys r)
    (hs : within ys xs = true := by decide) : p.onlyChanges xs r := Part.onlyChanges_trans h (Part.onlyChanges_mono k hs)

theorem Part.onlyChanges.thenMoves {xs ys : List Piece} {p q r : Part} (h : p.onlyChanges xs q) (k : q.Moves ys r)
    (hs : within ys xs = true := by decide) : p.onlyChanges xs r := h.andThen k.drifts.only hs

/-- What every mode change may change. -/
def modePieces : List Piece := polePieces ++ govPieces ++ [.mode, .links, .mirror]

theorem startsRun_only (p : Part) : p.onlyChanges modePieces p.startsRun :=
  Part.onlyChanges.thenMoves (Part.onlyChanges_mono (moves_mode p .run).drifts.only (by decide)) (moves_links _ .start)

theorem endModeChange_only (p : Part) (kind : ReportKind) (tag : Word) (items : List Item) :
    p.onlyChanges modePieces (p.endModeChange kind tag items) :=
  Part.onlyChanges_mono (endModeChange_moves p kind tag items).drifts.only (by decide)

/-- Entry to RUN from HALT (R181). -/
theorem enterRun_only (p : Part) : p.onlyChanges (modePieces ++ [.lastReset]) p.enterRun := by
  have hblocks : p.onlyChanges (modePieces ++ [.lastReset]) p.blocksEnterRun := by
    have hpoles := ((Part.onlyChanges_mono (startsRun_only p) (by decide) : p.onlyChanges (modePieces ++ [.lastReset]) _).thenMoves
      (lineUnknown_moves _)).thenMoves (polesEnterRun_moves _)
    have hgov := (hpoles.thenMoves (governorEntersRun_moves _)).andThen (withdraw_only _ .mode)
    exact (hgov.thenMoves (auxEntersRun_moves _)).thenMoves (evalAlarms_moves _)
  have hreport := (hblocks.thenMoves (modeReport_moves _ .runEntered 0 [.small (resetKindCode p.blocksEnterRun.lastReset)])).thenMoves
    (moves_lastReset _ .none)
  exact (hreport.thenMoves (noteModeChange_moves _)).thenMoves (mirrorStart_moves _)

/-- Leaving LAYOVER for RUN (R184). -/
theorem leaveLayover_only (p : Part) (cause : WakeCause) (tag : Word) (extra : List Item) :
    p.onlyChanges (modePieces ++ [.contacts]) (p.leaveLayover cause tag extra) := by
  have hblocks : p.onlyChanges (modePieces ++ [.contacts]) p.blocksLeaveLayover := by
    have hpoles := ((Part.onlyChanges_mono (startsRun_only p) (by decide) : p.onlyChanges (modePieces ++ [.contacts]) _).thenMoves
      (lineUnknown_moves _)).thenMoves (polesWake_moves _)
    have hgov := (hpoles.thenMoves (governorEntersRun_moves _)).andThen (withdraw_only _ .mode)
    exact ((hgov.thenMoves (auxLeavesLayover_moves _)).thenMoves (endLayover_moves _)).thenMoves (rescanChains_moves _)
  exact hblocks.andThen (endModeChange_only _ .wake tag _)

/-- The mode becomes one outside RUN, MODE is claimed and the governor leaves RUN: where HALT and LAYOVER begin (R182, R183). -/
def Part.leavesRun (p : Part) (m : Mode) : Part := ({ p with mode := m }.claim .mode).governorLeavesRun

/-- The links are stopped (R33). -/
def Part.linksStop (p : Part) : Part := { p with links := .stop }

/-- The Zone Matcher and the Fault Collector at the entry to HALT (R127, R169). -/
def Part.zonesHalt (p : Part) : Part := { p with zones := p.zones.halted }
def Part.faultsHalt (p : Part) : Part := { p with faults := p.faults.halted }

theorem leavesRun_only (p : Part) (m : Mode) : p.onlyChanges modePieces (p.leavesRun m) :=
  ((Part.onlyChanges_mono (moves_mode p m).drifts.only (by decide) : p.onlyChanges modePieces _).andThen
    (claim_only _ .mode)).thenMoves (governorLeavesRun_moves _)

/-- What the blocks do at the entry to HALT, before the end of layover and the report (R182). -/
def Part.blocksEnterHalt (p : Part) : Part :=
  (p.leavesRun .halt).linksStop.polesEnterHalt.lineEntersHalt.zonesHalt.auxEntersHalt.faultsHalt.outputsHalt.evalAlarms

theorem enterHalt_eq (p : Part) :
    p.enterHalt = (if p.mode = .layover then p.blocksEnterHalt.endLayover else p.blocksEnterHalt).endModeChange .haltEntered 0
      [.small (modeCode p.mode)] := rfl

theorem blocksEnterHalt_only (p : Part) : p.onlyChanges modePieces p.blocksEnterHalt := by
  have hlinks : p.onlyChanges modePieces (p.leavesRun .halt).linksStop :=
    (leavesRun_only p .halt).thenMoves (moves_links _ .stop)
  have hline := (hlinks.thenMoves (polesEnterHalt_moves _)).thenMoves (lineEntersHalt_moves _ (polesEnterHalt_copy _))
  have hzones : p.onlyChanges modePieces (p.leavesRun .halt).linksStop.polesEnterHalt.lineEntersHalt.zonesHalt :=
    hline.thenMoves (moves_zones _ _)
  have haux := hzones.thenMoves (auxEntersHalt_moves _)
  exact ((haux.thenMoves (collectorHalted_moves _)).thenMoves (outputsHalt_moves _)).thenMoves (evalAlarms_moves _)

/-- Entry to HALT (R182). -/
theorem enterHalt_only (p : Part) : p.onlyChanges (modePieces ++ [.contacts]) p.enterHalt := by
  rw [enterHalt_eq]
  have hblocks : p.onlyChanges (modePieces ++ [.contacts]) p.blocksEnterHalt :=
    Part.onlyChanges_mono (blocksEnterHalt_only p) (by decide)
  split
  · exact (hblocks.thenMoves (endLayover_moves _)).andThen (endModeChange_only _ _ _ _)
  · exact hblocks.andThen (endModeChange_only _ _ _ _)

/-- Entry to LAYOVER (R183). -/
theorem enterLayover_only (p : Part) (tag : Word) : p.onlyChanges (modePieces ++ [.contacts]) (p.enterLayover tag) := by
  have hrun : p.onlyChanges (modePieces ++ [.contacts]) (p.leavesRun .layover) :=
    Part.onlyChanges_mono (leavesRun_only p .layover) (by decide)
  have hlinks : p.onlyChanges (modePieces ++ [.contacts]) (p.leavesRun .layover).linksStop :=
    hrun.thenMoves (moves_links _ .stop)
  have hcontacts := hlinks.thenMoves (contactsEnterLayover_moves _)
  have hline := ((hcontacts.thenMoves (polesEnterLayover_moves _)).thenMoves (auxEntersLayover_moves _)).thenMoves
    (lineEntersLayover_moves _)
  exact (hline.thenMoves (portEntersLayover_moves _)).andThen (endModeChange_only _ _ _ _)

/-! ### Commands and the configuration record -/

theorem onlyChanges_tables {xs : List Piece} {p q : Part} (h : p.onlyChanges xs q)
    (hx : xs.contains .tables = false := by decide) : q.tables = p.tables := h .tables (by simpa using hx)

theorem runCommand_tables (p : Part) : p.runCommand.tables = p.tables := by
  have hrun := onlyChanges_tables (enterRun_only (p.outcome .accepted))
  have hwake := onlyChanges_tables (leaveLayover_only (p.outcome .accepted) .command 0 [])
  unfold Part.runCommand
  split
  · split
    · rfl
    · split
      · rfl
      · exact hrun
  · exact hwake
  · rfl

theorem haltCommand_tables (p : Part) : p.haltCommand.tables = p.tables := by
  have hhalt := onlyChanges_tables (enterHalt_only (p.outcome .accepted))
  unfold Part.haltCommand
  split
  · rfl
  · exact hhalt

/-- What each member's change leaves, a list of changes leaves. -/
theorem forEach_view {α β : Type} (view : Part → β) {f : Part → α → Part} (hf : ∀ p x, view (f p x) = view p) (xs : List α)
    (p : Part) : view (p.forEach xs f) = view p := by
  induction xs generalizing p with
  | nil => rfl
  | cons x xs ih => exact (ih (f p x)).trans (hf p x)

theorem wakeEvent_tables (p : Part) (i : InputNo) : (p.wakeEvent i).tables = p.tables := by
  unfold Part.wakeEvent
  split
  · exact onlyChanges_tables (leaveLayover_only p _ _ _)
  · rfl

theorem secondSampled_tables (p : Part) (pins : Vector PinVoltage 16) : (p.secondSampled pins).tables = p.tables :=
  forEach_view Part.tables wakeEvent_tables _ _

theorem powerOn_tables (p : Part) : p.powerOn.tables = {} := by
  unfold Part.powerOn
  rw [forEach_view Part.tables (fun q o => Part.setOutput_tables q o _)]

theorem pinsReset_tables (p : Part) : p.inputsReset.outputsReset.cutFrame.tables = p.tables :=
  (cutFrame_moves p.inputsReset.outputsReset).tables.trans
    ((outputsReset_moves p.inputsReset).tables.trans (inputsReset_moves p).tables)

theorem commandReset_tables (p : Part) : p.commandReset.tables = p.tables := (pinsReset_tables _).trans rfl

/-- An owner that is not the configuration tables leaves them; a LOAD_TABLE stores its load (R174). -/
theorem own_faithful {p : Part} (h : p.tables.faithful) (k : CardKind) (r : Request) : (p.own k r).1.tables.faithful := by
  have keep : ∀ {xs : List Piece} {q : Part}, p.Moves xs q → xs.contains .tables = false → q.tables.faithful :=
    fun hm hx => (hm.tables hx).symm ▸ h
  cases k with
  | auxRequest => exact keep (cardAuxRequest_moves p r) (by decide)
  | raisePoles => exact keep (cardRaisePoles_moves p r) (by decide)
  | lowerPoles => exact keep (cardLowerPoles_moves p r) (by decide)
  | clearPole => exact keep (cardClearPole_moves p r) (by decide)
  | cardInhibit => exact keep (cardInhibit_moves p r) (by decide)
  | batteryLimits => exact keep (cardBatteryLimits_moves p r) (by decide)
  | ackFaults => exact keep (cardAckFaults_moves p r) (by decide)
  | clearFaultState => exact keep (cardClearFaultState_moves p r) (by decide)
  | injectTest => exact keep (cardInjectTest_moves p r) (by decide)
  | readFaultTable => exact keep (cardReadFaultTable_moves p r) (by decide)
  | copySeenMap => exact keep (cardCopySeenMap_moves p r) (by decide)
  | clearZones => exact keep (cardClearZones_moves p r) (by decide)
  | verifyConfig => exact keep (cardVerifyConfig_moves p r) (by decide)
  | enterLayover =>
    simp only [Part.own, Part.cardEnterLayover, refuse, done]
    split
    · exact h
    · split
      · exact h
      · split
        · exact h
        · exact (onlyChanges_tables (enterLayover_only p r.tag)).symm ▸ h
  | exitLayover =>
    simp only [Part.own, Part.cardExitLayover, refuse, done]
    split
    · exact h
    · split
      · exact h
      · exact (onlyChanges_tables (leaveLayover_only p .card r.tag [])).symm ▸ h
  | loadTable =>
    simp only [Part.own, Part.cardLoadTable, refuse]
    split
    · exact h
    · exact (load_tables p _).symm ▸ store_faithful h _

theorem verdictOn_faithful {p : Part} (h : p.tables.faithful) (c : Chain) : (p.verdictOn c).1.tables.faithful := by
  unfold Part.verdictOn refuse
  dsimp only
  split
  · exact h
  · split
    · exact h
    · split
      · exact h
      · exact own_faithful h _ _

theorem readPayload_faithful {p : Part} (h : p.tables.faithful) (c : Chain) : (p.readPayload c).tables.faithful := by
  unfold Part.readPayload
  dsimp only
  split
  · exact (finish_moves _ _ _).tables.symm ▸ verdictOn_faithful h c
  · exact h

theorem takenDone_faithful {p : Part} (h : p.tables.faithful) (c : Chain) : (p.takenDone c).tables.faithful := by
  unfold Part.takenDone Part.checkLength
  split
  · split
    · exact (fillReport_moves p.freePort).tables.symm ▸ h
    · split
      · exact (finish_moves _ _ _).tables.symm ▸ h
      · exact readPayload_faithful (p := p.freePort) h c
  · exact h

theorem payloadDone_faithful {p : Part} (h : p.tables.faithful) (c : Chain) (ws : List Word) :
    (p.payloadDone c ws).tables.faithful := by
  unfold Part.payloadDone
  split
  · refine readPayload_faithful ?_ c
    exact h
  · exact h

theorem faithful_kept : KeptByEvents (fun p => p.tables.faithful) where
  ofMoves hm hp _ htables := hm.tables htables ▸ hp
  powerOn p := (powerOn_tables p).symm ▸ emptyTables_faithful
  commandReset {p} hp := (commandReset_tables p).symm ▸ hp
  runCommand {p} hp := (runCommand_tables p).symm ▸ hp
  haltCommand {p} hp := (haltCommand_tables p).symm ▸ hp
  takenDone := takenDone_faithful
  payloadDone := payloadDone_faithful
  secondSampled {p} hp pins := (secondSampled_tables p pins).symm ▸ hp

/-- Settles O8, which holds: only a LOAD_TABLE and the resets change the tables. -/
theorem everyStepKeepsTablesFaithful : Obligations.EveryStepKeepsTablesFaithful := fun _ _ => faithful_kept.step

end Sys2Proof.Machine

/-! ## The reset state and the registers (R2, R25, R26, R178) -/

namespace Sys2Proof.Machine

/-- Settles O5, which holds: the reset state is a fresh part. -/
theorem invariantsHoldAtReset : Obligations.InvariantsHoldAtReset :=
  ⟨(freshPart_fits 0).good (by decide), emptyTables_faithful, fun h => absurd rfl h, fun _ => rfl⟩

/-- Settles O4, which holds: each value is the default of its field. -/
theorem powerOnResetValues : Obligations.PowerOnResetValues := by
  have hchain : ∀ c, State.reset.part.mbx.chains.get c = {} := fun c => by cases c <;> rfl
  have hlink : ∀ l, State.reset.part.linkRec l = {} := fun l => by cases l <;> rfl
  have hpole : ∀ i, State.reset.part.poles.get i = {} := fun i => by cases i <;> rfl
  have hmarks : ∀ i, State.reset.part.tables.marks.get i = {} := by decide
  have houtput : ∀ o, State.reset.part.output o = {} := by decide
  have haux : ∀ a, State.reset.part.auxRec a = {} := by decide
  refine ⟨rfl, rfl, rfl, rfl, rfl, rfl, rfl, rfl, rfl, rfl, rfl, rfl, rfl, rfl, rfl, rfl, rfl, ?chains, ?tables, rfl, ?links,
    ?outputs, rfl, ?poles, rfl, rfl, rfl, rfl, rfl, ?aux, rfl⟩
  case chains => exact fun c => by simp [hchain c]
  case tables => exact fun t => by simp [Tables.loaded, Tables.complete, hmarks]
  case links => exact fun l => by simp [hlink l]
  case outputs => exact fun o => by simp [houtput o]
  case poles => exact fun i => by simp [hpole i]
  case aux => exact fun a => by simp [haux a]

/-! ### Fields and sets in a word (R186, section 12.8) -/

/-- A field of a word that holds a number is a field of the number. -/
theorem field_word (n lo len : Nat) (h : lo + len ≤ 32) : field (word n) lo len = n / 2 ^ lo % 2 ^ len := by
  have hsplit : 2 ^ 32 = 2 ^ lo * 2 ^ (32 - lo) := by rw [← pow_add]; congr 1; omega
  have hdvd : 2 ^ len ∣ 2 ^ (32 - lo) := pow_dvd_pow 2 (by omega)
  rw [field, word, BitVec.toNat_ofNat, hsplit, Nat.mod_mul_right_div_self, Nat.mod_mod_of_dvd _ hdvd]

theorem flagCode_le (b : Bool) : flagCode b ≤ 1 := by cases b <;> decide

theorem modeCode_le (m : Mode) : modeCode m ≤ 2 := by cases m <;> decide

theorem outcomeCode_le (o : CommandOutcome) : outcomeCode o ≤ 7 := by cases o <;> decide

/-- Bit `i` of a set is its member `i` (R186). -/
theorem setCode_testBit (bs : List Bool) (i : Nat) : (setCode bs).testBit i = bs.getD i false := by
  induction bs generalizing i with
  | nil => simp [setCode]
  | cons b bs ih =>
    cases i with
    | zero => cases b <;> simp [setCode, flagCode, Nat.testBit_zero, Nat.add_mod]
    | succ i =>
      have hrest : (flagCode b + 2 * setCode bs) / 2 = setCode bs := by have := flagCode_le b; omega
      rw [setCode, Nat.testBit_succ, hrest, ih, List.getD_cons_succ]

/-- Bit `i` of a set's word is its member `i` (R186). -/
theorem word_setCode_getLsbD (bs : List Bool) (i : Nat) (hi : i < 32) :
    (word (setCode bs)).getLsbD i = bs.getD i false := by
  rw [word, BitVec.getLsbD_ofNat, setCode_testBit, decide_eq_true hi, Bool.true_and]

/-- The attention line is asserted while its register is not 0 (R26). -/
theorem line_iff_reg (a : Attention) : a.line = true ↔ a.reg ≠ 0 := by
  have hall : ∀ v w x y z : Bool, (v || w || x || y || z) = true ↔ word (setCode [v, w, x, y, z]) ≠ 0 := by decide
  exact hall _ _ _ _ _

/-- A field of PART STATUS is a field of the sum that it reads. -/
theorem partStatus_field (p : Part) (lo len : Nat) (h : lo + len ≤ 32) :
    field p.partStatus lo len = (0x0C40 * 65536 + 1 * 16384 + modeCode p.mode * 4096 + flagCode p.mbx.base.isSome * 2048
      + outcomeCode p.mbx.outcome * 128 + p.mbx.missing.toNat) / 2 ^ lo % 2 ^ len := field_word _ lo len h

/-- Settles O20, which holds: the fields of PART STATUS do not overlap, and each reason of ATTENTION has its bit. -/
theorem registersRead : Obligations.RegistersRead := by
  intro p
  have hm := modeCode_le p.mode
  have hf := flagCode_le p.mbx.base.isSome
  have ho := outcomeCode_le p.mbx.outcome
  have hmissing := p.mbx.missing.isLt
  have hbit : ∀ i, i < 32 → p.attentionRegister.getLsbD i = _ := fun i hi => word_setCode_getLsbD _ i hi
  refine ⟨?_, ?_, ?_, ?_, ?_, ?_, fun h => by simp [Part.baseRegister, h], fun b h => by simp [Part.baseRegister, h],
    hbit 0 (by decide), hbit 1 (by decide), hbit 2 (by decide), hbit 3 (by decide), hbit 4 (by decide), line_iff_reg _⟩
  all_goals
    rw [partStatus_field p _ _ (by decide)]
    omega

end Sys2Proof.Machine

/-! ## Resets and register writes (R2, R9, R12, R25, R26, R178)

A reset fills the part with fresh values and then changes the outputs and inputs one by one. A register write that orders the
chains does the same for each of the three; the orders for the other chains pass a chain by. -/

namespace Sys2Proof.Machine

/-! ### Lists of like changes -/

/-- In a list of changes of different members, a member changes as its own change does, from a state that agrees on it and on all
that no change touches. -/
theorem forEach_at {α β γ : Type} (view : Part → γ) (read : Part → α → β) {f : Part → α → Part}
    (hview : ∀ p x, view (f p x) = view p) (hother : ∀ p x y, y ≠ x → read (f p x) y = read p y) {xs : List α}
    (hn : xs.Nodup) {x : α} (hx : x ∈ xs) (p : Part) :
    ∃ q, view q = view p ∧ read q x = read p x ∧ read (p.forEach xs f) x = read (f q x) x := by
  induction xs generalizing p with
  | nil => exact absurd hx List.not_mem_nil
  | cons y ys ih =>
    obtain ⟨hy, hys⟩ := List.nodup_cons.mp hn
    obtain rfl | hmem := List.mem_cons.mp hx
    · have hrest : read ((f p x).forEach ys f) x = read (f p x) x := by
        clear ih hn hx
        generalize f p x = q
        induction ys generalizing q with
        | nil => rfl
        | cons z zs ih =>
          have hxz : x ≠ z := fun h => hy (h ▸ List.mem_cons_self)
          exact (ih hys.of_cons (fun h => hy (List.mem_cons_of_mem z h)) (f q z)).trans (hother q z x hxz)
      exact ⟨p, rfl, rfl, hrest⟩
    · have hne : x ≠ y := fun h => hy (h ▸ hmem)
      obtain ⟨q, hv, hr, hq⟩ := ih hys hmem (f p y)
      exact ⟨q, hv.trans (hview p y), hr.trans (hother p y x hne), hq⟩

theorem nodup_allSixteen : allSixteen.Nodup := by decide
theorem mem_allSixteen (i : Fin 16) : i ∈ allSixteen := by revert i; decide
theorem nodup_allAux : allAux.Nodup := by decide
theorem mem_allAux (a : AuxNo) : a ∈ allAux := by revert a; decide

/-! ### Ends of events without effect -/

/-- With no auxiliary WAITING the end of an event gives out no entry orders (R146). -/
theorem orderEntries_of_none_waiting {q : Part} (p : Part) (h : ∀ a, (q.auxRec a).state ≠ .waiting) : q.orderEntries p = q := by
  have hnone : p.entered q = [] := by simp [Part.entered, h]
  simp [Part.orderEntries, hnone]

/-- With no record held and REPORTS_HELD clear the end of an event changes nothing (R26). -/
theorem settle_of_none_held {p : Part} (h : p.mbx.holding = []) (ha : p.mbx.attention.reportsHeld = false) : p.settle = p := by
  have hheld : (p.mbx.heldCondition || (p.mbx.attention.reportsHeld && !p.mbx.holding.isEmpty)) = p.mbx.attention.reportsHeld := by
    simp [Mailbox.heldCondition, h, ha]
  unfold Part.settle Mailbox.settle
  rw [hheld]

/-- An event that ends in a part without a WAITING auxiliary and without a held record ends as its effect does. -/
theorem event_of_quiet_end {s : State} {f : Part → Part} (haux : (f s.part).aux = {}) (hheld : (f s.part).mbx.holding = [])
    (hattention : (f s.part).mbx.attention.reportsHeld = false) :
    s.event f = .next { s with part := (f s.part).settle } ∧ (f s.part).settle = f s.part := by
  refine ⟨?_, settle_of_none_held hheld hattention⟩
  rw [event_next, orderEntries_of_none_waiting]
  have hoff : ∀ a, (({} : Auxiliaries).recs.get a).state ≠ .waiting := by decide
  intro a
  rw [Part.auxRec, haux]
  exact hoff a

/-! ### Resets (R178) -/

/-- The part with other outputs, and with other contact inputs. -/
def Part.withOutputs (v : Vector OutputRec 16) (p : Part) : Part := { p with outputs := v }
def Part.withContacts (v : Contacts) (p : Part) : Part := { p with contacts := v }

/-- A change of one output at a time changes nothing but the outputs. -/
theorem forEach_setOutput_eq {α : Type} (f : Part → α → Part) (hf : ∀ v p x, (f p x).withOutputs v = p.withOutputs v)
    (xs : List α) (p : Part) : p.forEach xs f = p.withOutputs (p.forEach xs f).outputs :=
  forEach_view (Part.withOutputs (p.forEach xs f).outputs) (hf _) xs p

/-- A change of one contact input at a time changes nothing but the contact inputs. -/
theorem forEach_setInput_eq {α : Type} (f : Part → α → Part) (hf : ∀ v p x, (f p x).withContacts v = p.withContacts v)
    (xs : List α) (p : Part) : p.forEach xs f = p.withContacts (p.forEach xs f).contacts :=
  forEach_view (Part.withContacts (p.forEach xs f).contacts) (hf _) xs p

theorem powerOn_eq (p : Part) : p.powerOn = { State.reset.part with outputs := p.powerOn.outputs, freeUses := p.freeUses } :=
  forEach_setOutput_eq (fun q o => q.setOutput o { readback := (p.output o).readback }) (fun _ _ _ => rfl) allSixteen
    { freeUses := p.freeUses }

/-- The read-backs are pins and keep their levels (assumption log 5). -/
theorem powerOn_output (p : Part) (o : OutputNo) : p.powerOn.output o = { readback := (p.output o).readback } := by
  obtain ⟨q, -, -, hq⟩ := forEach_at (fun _ => ()) Part.output
    (f := fun q o => q.setOutput o { readback := (p.output o).readback }) (fun _ _ => rfl)
    (fun q x y h => Part.output_set_other q x y _ h) nodup_allSixteen (mem_allSixteen o) { freeUses := p.freeUses }
  exact hq.trans (Part.output_set_same _ _ _)

/-- Settles O10, which holds: POWER_ON_RESET ends in the fresh part but for the outputs. -/
theorem powerOnResetRestoresEverything : Obligations.PowerOnResetRestoresEverything := by
  intro s
  have heq := powerOn_eq s.part
  obtain ⟨hexec, hsettle⟩ := event_of_quiet_end (s := s) (f := Part.powerOn) (by rw [heq]; rfl) (by rw [heq]; rfl) (by rw [heq]; rfl)
  exact ⟨s.part.powerOn, hexec, hsettle, heq, powerOn_output s.part⟩

/-! ### One chain among the others -/

/-- An operation on other chains passes chain `c` by: its record and its waiting request stay, and so do the access in flight and
the base. -/
structure Mailbox.Passes (c : Chain) (m m' : Mailbox) : Prop where
  base : m'.base = m.base
  chain : m'.chains.get c = m.chains.get c
  waiting : m'.port.waiting (chainRequester c) = m.port.waiting (chainRequester c)
  inFlight : ∀ a, m.port.inFlight = some a → m'.port.inFlight = some a

/-- An operation on chain `c` touches no other chain, and leaves the access in flight and the base. -/
structure Mailbox.Touches (c : Chain) (m m' : Mailbox) : Prop where
  base : m'.base = m.base
  only : m.onlyChain c m'
  inFlight : ∀ a, m.port.inFlight = some a → m'.port.inFlight = some a

theorem chainRequester_ne {c d : Chain} (h : c ≠ d) : chainRequester c ≠ chainRequester d := by
  revert h
  cases c <;> cases d <;> decide

theorem Mailbox.Passes.refl (c : Chain) (m : Mailbox) : m.Passes c m := ⟨rfl, rfl, rfl, fun _ h => h⟩

theorem Mailbox.Passes.trans {c : Chain} {m n k : Mailbox} (h : m.Passes c n) (h' : n.Passes c k) : m.Passes c k :=
  ⟨h'.base.trans h.base, h'.chain.trans h.chain, h'.waiting.trans h.waiting, fun a ha => h'.inFlight a (h.inFlight a ha)⟩

theorem Mailbox.Touches.passes {c d : Chain} {m m' : Mailbox} (h : m.Touches d m') (hne : c ≠ d) : m.Passes c m' :=
  ⟨h.base, h.only.1 c hne, h.only.2 _ (chainRequester_ne hne), h.inFlight⟩

theorem Mailbox.Touches.refl (c : Chain) (m : Mailbox) : m.Touches c m := ⟨rfl, onlyChain_refl m c, fun _ h => h⟩

theorem setChain_touches (m : Mailbox) (c : Chain) (r : ChainRec) : m.Touches c (m.setChain c r) :=
  ⟨rfl, setChain_onlyChain m c r, fun _ h => h⟩

theorem Mailbox.WalksTo.base {m n : Mailbox} (h : m.WalksTo n) : n.base = m.base := by
  obtain ⟨c, q, rfl⟩ := h
  rfl

theorem readAnchor_touches (m : Mailbox) (c : Chain) : m.Touches c (m.readAnchor c) := by
  refine ⟨(readAnchor_walks m c).base, readAnchor_onlyChain m c, fun a h => ?_⟩
  unfold Mailbox.readAnchor
  split
  · exact h
  · exact place_inFlight _ _ a h

theorem readHeader_touches (m : Mailbox) (c : Chain) (a : Word) (phase : WalkPhase) : m.Touches c (m.readHeader c a phase) :=
  ⟨(readHeader_walks m c a phase).base, readHeader_onlyChain m c a phase, fun b h => place_inFlight _ _ b h⟩

theorem startRescan_touches (m : Mailbox) (c : Chain) : m.Touches c (m.startRescan c) := by
  unfold Mailbox.startRescan
  split
  · exact .refl c m
  · exact readAnchor_touches m c
  · exact readHeader_touches m c _ _

theorem rewind_touches (m : Mailbox) (c : Chain) : m.Touches c (m.rewind c) := by
  unfold Mailbox.rewind
  dsimp only
  split
  · exact setChain_touches m c _
  · exact readAnchor_touches m c

theorem wake_touches (m : Mailbox) (c : Chain) : m.Touches c (m.wake c) := by
  unfold Mailbox.wake
  dsimp only
  split
  · exact startRescan_touches m c
  · exact setChain_touches m c _
  · exact .refl c m

theorem wakeIf_touches (m : Mailbox) (b : Bool) (c : Chain) : m.Touches c (m.wakeIf b c) := by
  unfold Mailbox.wakeIf
  split
  · exact wake_touches m c
  · exact .refl c m

/-- One operation for each chain, in the order of R15 (assumption log 9). -/
def Mailbox.eachChain (f : Mailbox → Chain → Mailbox) (m : Mailbox) : Mailbox := f (f (f m .control) .report) .setup

/-- In an operation for each chain, a chain's own operation finds the chain as it was and its result stays. -/
theorem eachChain_at {f : Mailbox → Chain → Mailbox} (hf : ∀ m c, Mailbox.Touches c m (f m c)) (m : Mailbox) (c : Chain) :
    ∃ m', m.Passes c m' ∧ (f m' c).Passes c (m.eachChain f) := by
  cases c with
  | control =>
    exact ⟨m, .refl _ m, ((hf _ .report).passes (by decide)).trans ((hf _ .setup).passes (by decide))⟩
  | report => exact ⟨f m .control, (hf _ .control).passes (by decide), (hf _ .setup).passes (by decide)⟩
  | setup =>
    exact ⟨f (f m .control) .report, ((hf _ .control).passes (by decide)).trans ((hf _ .report).passes (by decide)), .refl _ _⟩

/-- A request that is placed stays while others are served. -/
theorem requests_of_passes {m m' : Mailbox} {c : Chain} (h : m.Passes c m') {a : Access} (ha : a.op.requester = chainRequester c)
    (hr : m.port.requests a) : m'.port.requests a := by
  refine hr.imp (h.inFlight a) fun hw => ?_
  rw [ha] at hw ⊢
  exact h.waiting.trans hw

theorem readsAnchor_of_passes {m m' : Mailbox} {c : Chain} (h : m.Passes c m') {b : Word} (hr : m.readsAnchor c b) :
    m'.readsAnchor c b := by
  obtain ⟨hstate, hphase, hrewind, htimer, hrequest⟩ := hr
  unfold Mailbox.readsAnchor
  rw [h.chain]
  exact ⟨hstate, hphase, hrewind, htimer, requests_of_passes h rfl hrequest⟩

theorem readsHeader_of_passes {m m' : Mailbox} {c : Chain} (h : m.Passes c m') {a : Word} {phase : WalkPhase}
    (hr : m.readsHeader c a phase) : m'.readsHeader c a phase := by
  obtain ⟨hstate, hphase, hcursor, hrescan, htimer, hrequest⟩ := hr
  unfold Mailbox.readsHeader
  rw [h.chain]
  exact ⟨hstate, hphase, hcursor, hrescan, htimer, requests_of_passes h rfl hrequest⟩

theorem rescans_of_passes {m m' : Mailbox} {c : Chain} (h : m.Passes c m') {b : Word} {cursor : Option Word} {w : Wait}
    (hr : m.rescans c b cursor w) : m'.rescans c b cursor w := by
  unfold Mailbox.rescans at hr ⊢
  cases cursor with
  | none => exact readsAnchor_of_passes h hr
  | some a => exact readsHeader_of_passes h hr

/-! ### RESET (R178) -/

/-- The part of a RESET before its inputs and outputs are set up and its cut frame is sent. -/
def Part.freshFrom (p : Part) : Part :=
  { lastReset := .command, mbx := (p.mbx.reset p.tables.timers).readAnchors, tables := p.tables, outputs := p.outputs,
    line := ({} : Line).recompute p.tables, freeUses := p.freeUses }

theorem commandReset_eq (p : Part) : p.commandReset = p.freshFrom.inputsReset.outputsReset.cutFrame := rfl

/-- What a RESET sets one by one are the inputs and the outputs. -/
theorem pinsReset_eq (p : Part) : p.inputsReset.outputsReset =
    (p.withContacts p.inputsReset.contacts).withOutputs p.inputsReset.outputsReset.outputs := by
  have hinputs : p.inputsReset = p.withContacts p.inputsReset.contacts :=
    forEach_setInput_eq (fun q i => q.setInput i (q.tables.inputs.get i).setUp) (fun _ _ _ => rfl) allSixteen (p.withContacts {})
  calc p.inputsReset.outputsReset = p.inputsReset.withOutputs p.inputsReset.outputsReset.outputs :=
        forEach_setOutput_eq (fun q o => q.setOutput o ((q.tables.outputs.get o).fresh q (q.output o).readback))
          (fun _ _ _ => rfl) allSixteen p.inputsReset
    _ = _ := congrArg (Part.withOutputs p.inputsReset.outputsReset.outputs) hinputs

/-- Each input is set up from its entry (R42). -/
theorem inputsReset_input (p : Part) (i : InputNo) : p.inputsReset.input i = (p.tables.inputs.get i).setUp := by
  obtain ⟨q, htables, -, hq⟩ := forEach_at Part.tables Part.input
    (f := fun q i => q.setInput i (q.tables.inputs.get i).setUp) (fun _ _ => rfl)
    (fun q x y h => Part.input_set_other q x y _ h) nodup_allSixteen (mem_allSixteen i) (p.withContacts {})
  refine (hq.trans (Part.input_set_same _ _ _)).trans ?_
  rw [htables]
  rfl

/-- An output driven OFF afresh (R46). -/
theorem fresh_output (e : OutputEntry) (p : Part) (readback : Bool) : (e.fresh p readback).commanded = false
    ∧ (e.fresh p readback).failed = false ∧ (e.fresh p readback).readback = readback := by
  unfold OutputEntry.fresh OutputRec.supervise
  dsimp only
  repeat' split
  all_goals exact ⟨rfl, rfl, rfl⟩

/-- Each output is OFF with its failed flag clear and its read-back kept (R45, R46). -/
theorem outputsReset_output (p : Part) (o : OutputNo) : (p.outputsReset.output o).commanded = false
    ∧ (p.outputsReset.output o).failed = false ∧ (p.outputsReset.output o).readback = (p.output o).readback := by
  obtain ⟨q, -, hsame, hq⟩ := forEach_at (fun _ => ()) Part.output
    (f := fun q o => q.setOutput o ((q.tables.outputs.get o).fresh q (q.output o).readback)) (fun _ _ => rfl)
    (fun q x y h => Part.output_set_other q x y _ h) nodup_allSixteen (mem_allSixteen o) p
  have hfresh : p.outputsReset.output o = (q.tables.outputs.get o).fresh q (p.output o).readback := by
    rw [← hsame]
    exact hq.trans (Part.output_set_same _ _ _)
  rw [hfresh]
  exact fresh_output _ _ _

/-- A fresh part on which a RESET's inputs and outputs are set up, with its cut frame (R128, R178). -/
theorem commandReset_mbx (p : Part) : p.commandReset.mbx = (p.mbx.reset p.tables.timers).readAnchors := by
  rw [commandReset_eq, pinsReset_eq]
  rfl

/-- Each chain reads its anchor after a RESET with the base set (R5). -/
theorem readAnchors_at {m : Mailbox} {b : Word} (h : m.base = some b) (c : Chain) :
    m.readAnchors.readsAnchor c b ∧ (m.readAnchors.chains.get c).cursor = (m.chains.get c).cursor := by
  obtain ⟨m', hbefore, hafter⟩ := eachChain_at readAnchor_touches m c
  have hb : m'.base = some b := hbefore.base.trans h
  refine ⟨readsAnchor_of_passes hafter (readAnchor_reads m' c b hb), ?_⟩
  have hcursor : ((m'.readAnchor c).chains.get c).cursor = (m'.chains.get c).cursor := by
    unfold Mailbox.readAnchor
    rw [hb]
    simp only [place_chains, setChain_get]
  have hc : m.readAnchors.chains.get c = (m'.readAnchor c).chains.get c := hafter.chain
  rw [hc, hcursor, hbefore.chain]

/-- With the base unset no anchor is read (R1). -/
theorem readAnchors_of_unset {m : Mailbox} (h : m.base = none) : m.readAnchors = m := by
  have hnone : ∀ c, m.readAnchor c = m := fun c => by unfold Mailbox.readAnchor; rw [h]
  simp only [Mailbox.readAnchors, hnone]

/-- The pieces of the mailbox that a RESET does not take from its chains and port. -/
theorem readAnchors_rest (m : Mailbox) : ∃ c q, m.readAnchors = { m with chains := c, port := q } := readAnchors_walks m

theorem cutFrame_contacts (p : Part) : p.cutFrame.contacts = p.contacts := rfl
theorem cutFrame_outputs (p : Part) : p.cutFrame.outputs = p.outputs := rfl

theorem commandReset_output (p : Part) (o : OutputNo) : (p.commandReset.output o).commanded = false
    ∧ (p.commandReset.output o).failed = false ∧ (p.commandReset.output o).readback = (p.output o).readback := by
  have hsame : p.commandReset.output o = p.freshFrom.inputsReset.outputsReset.output o := by
    rw [commandReset_eq, Part.output, cutFrame_outputs, Part.output]
  have hreadback : p.freshFrom.inputsReset.output o = p.output o := by
    have hinputs : p.freshFrom.inputsReset.outputs = p.outputs :=
      forEach_view Part.outputs (fun q i => Part.setInput_outputs q i _) allSixteen (p.freshFrom.withContacts {})
    rw [Part.output, hinputs, Part.output]
  rw [hsame, ← hreadback]
  exact outputsReset_output _ o

theorem commandReset_input (p : Part) (i : InputNo) : p.commandReset.input i = (p.tables.inputs.get i).setUp := by
  have hcontacts : p.freshFrom.inputsReset.outputsReset.contacts = p.freshFrom.inputsReset.contacts := by
    rw [pinsReset_eq]
    rfl
  rw [commandReset_eq, Part.input, cutFrame_contacts, hcontacts]
  exact inputsReset_input p.freshFrom i

/-- Settles O11, which holds: a RESET fills the part with fresh values, sets up inputs and outputs and sends one cut frame. -/
theorem commandResetKeepsBaseAndTables : Obligations.CommandResetKeepsBaseAndTables := by
  intro s
  have houtput := commandReset_output s.part
  have hinput := commandReset_input s.part
  have hmbx := commandReset_mbx s.part
  have heq := commandReset_eq s.part
  rw [pinsReset_eq s.part.freshFrom] at heq
  obtain ⟨chains, port, hrest⟩ := readAnchors_rest (s.part.mbx.reset s.part.tables.timers)
  have hunset : s.part.mbx.base = none → s.part.commandReset.mbx.chains = ⟨{}, {}, {}⟩ ∧ s.part.commandReset.mbx.port = {} := by
    intro hb
    rw [hmbx, readAnchors_of_unset (m := s.part.mbx.reset s.part.tables.timers) hb]
    exact ⟨rfl, rfl⟩
  have hfirst : ∀ b c, s.part.mbx.base = some b → s.part.commandReset.mbx.readsAnchor c b
      ∧ (s.part.commandReset.mbx.chains.get c).cursor = none := by
    intro b c hb
    obtain ⟨hreads, hcursor⟩ := readAnchors_at (m := s.part.mbx.reset s.part.tables.timers) hb c
    rw [hmbx]
    exact ⟨hreads, hcursor.trans (by cases c <;> rfl)⟩
  rw [hrest] at hmbx
  obtain ⟨hexec, hsettle⟩ := event_of_quiet_end (s := s) (f := Part.commandReset) (by rw [heq]; rfl) (by rw [hmbx]; rfl)
    (by rw [hmbx]; rfl)
  refine ⟨s.part.commandReset, hexec, hsettle, ?_⟩
  generalize s.part.commandReset = q at *
  have hgrants : ∀ a, (({} : Line).grants.get a) = none := by decide
  refine ⟨by rw [heq]; rfl, by rw [heq]; rfl, by rw [heq]; rfl, by rw [heq]; rfl, by rw [hmbx]; rfl, by rw [hmbx]; rfl,
    by rw [hmbx]; rfl, by rw [hmbx]; rfl, by rw [hmbx]; rfl, by rw [hmbx]; rfl, by rw [hmbx]; rfl, by rw [hmbx]; rfl,
    by rw [hmbx]; rfl, by rw [hmbx]; simp [Mailbox.reset, timerFrom, word], hunset, hfirst, by rw [heq]; rfl, by rw [heq]; rfl, by rw [heq]; rfl, by rw [heq]; rfl,
    by rw [heq]; rfl, by rw [heq]; rfl, by rw [heq]; rfl, by rw [heq]; rfl, fun a => by rw [heq]; exact hgrants a,
    by rw [heq]; rfl, by rw [heq]; rfl, houtput, hinput, by rw [heq]; rfl⟩

/-! ### Writes to MAILBOX BASE (R2) -/

theorem outcome_eq_shows (p : Part) (o : CommandOutcome) : p.outcome o = p.shows o 0 := rfl

/-- A command that is ignored shows its cause, and nothing else changes (R25). -/
theorem event_of_shows {s : State} {f : Part → Part} {o : CommandOutcome} (h : f s.part = s.part.outcome o) :
    s.event f = .next { s with part := (s.part.shows o 0).settle } := by
  rw [event_moves s f (h ▸ outcome_moves s.part o), h, outcome_eq_shows]

/-- A chain that is PARKED or BROKEN reads its anchor when it is ordered to rewind (R2, R12). -/
theorem rewind_reads {m : Mailbox} {c : Chain} {b : Word} (hb : m.base = some b) (h : (m.chains.get c).state ≠ .walking) :
    (m.rewind c).readsAnchor c b := by
  rw [Mailbox.rewind, if_neg h]
  exact readAnchor_reads m c b hb

/-- A WALKING chain that is ordered to rewind notes it (R2, R12). -/
theorem rewind_of_walking {m : Mailbox} {c : Chain} (h : (m.chains.get c).state = .walking) :
    m.rewind c = m.setChain c { m.chains.get c with rewindPending := true } := by
  simp [Mailbox.rewind, h]

theorem validBase_iff (v : Word) : validBase v = true ↔ v.toNat % 4096 = 0 ∧ v.toNat ≤ 0xFFF00000 := by
  simp [validBase]

/-- The mailbox with another base. -/
def Mailbox.withBase (m : Mailbox) (v : Word) : Mailbox := { m with base := some v }

/-- A value that is a base is taken in HALT (R2). -/
theorem writeBase_taken {p : Part} {v : Word} (hmode : p.mode = .halt) (hv : validBase v = true) :
    p.writeBase v = { p.outcome .accepted with mbx := ((p.outcome .accepted).mbx.withBase v).eachChain Mailbox.rewind } := by
  simp [Part.writeBase, hmode, hv, Mailbox.withBase, Mailbox.eachChain]

/-- An operation for each chain leaves all of the mailbox but the chains and the port. -/
theorem eachChain_walks {f : Mailbox → Chain → Mailbox} (hf : ∀ m c, Mailbox.WalksTo m (f m c)) (m : Mailbox) :
    m.WalksTo (m.eachChain f) := ((hf _ _).trans (hf _ _)).trans (hf _ _)

theorem Mailbox.WalksTo.command {m n : Mailbox} (h : m.WalksTo n) : n.outcome = m.outcome ∧ n.missing = m.missing := by
  obtain ⟨c, q, rfl⟩ := h
  exact ⟨rfl, rfl⟩

/-- Settles O12, which holds: mode and value decide, and each chain is ordered by its own state. -/
theorem baseWriteIsTakenInHalt : Obligations.BaseWriteIsTakenInHalt := by
  intro s v
  refine ⟨fun hmode => ?notHalt, fun hmode hbad => ?badBase, fun hmode haligned hrange => ?taken⟩
  case notHalt => exact event_of_shows (f := (·.writeBase v)) (by simp [Part.writeBase, hmode])
  case badBase =>
    have hv : validBase v = false := by
      rw [← Bool.not_eq_true, validBase_iff]
      omega
    exact event_of_shows (f := (·.writeBase v)) (by simp [Part.writeBase, hmode, hv])
  case taken =>
    have hv : validBase v = true := (validBase_iff v).mpr ⟨haligned, hrange⟩
    have heq := writeBase_taken hmode hv
    have honly := (writeBase_moves s.part v).drifts.only
    refine ⟨s.part.writeBase v, event_moves s (·.writeBase v) (writeBase_moves s.part v), ?_⟩
    generalize hm : ((s.part.outcome .accepted).mbx.withBase v) = m at heq
    have hwalk := eachChain_walks rewind_walks m
    have hmbx : (s.part.writeBase v).mbx = m.eachChain Mailbox.rewind := by rw [heq]
    have hchains : m.chains = s.part.mbx.chains := by rw [← hm]; rfl
    have hport : m.port = s.part.mbx.port := by rw [← hm]; rfl
    have hbase : m.base = some v := by rw [← hm]; rfl
    rw [hmbx]
    refine ⟨hwalk.base.trans hbase, hwalk.command.1.trans (by rw [← hm]; rfl), hwalk.command.2.trans (by rw [← hm]; rfl),
      fun c hstate => ?_, fun c hstate => ?_, fun a ha => ?_, Part.onlyChanges_mono honly (by decide)⟩
    · obtain ⟨m', hbefore, hafter⟩ := eachChain_at rewind_touches m c
      refine readsAnchor_of_passes hafter (rewind_reads (hbefore.base.trans hbase) ?_)
      rw [hbefore.chain, hchains]
      exact hstate
    · obtain ⟨m', hbefore, hafter⟩ := eachChain_at rewind_touches m c
      have hwalking : (m'.chains.get c).state = .walking := by rw [hbefore.chain, hchains]; exact hstate
      rw [rewind_of_walking hwalking] at hafter
      rw [hafter.chain, setChain_get, hbefore.chain, hafter.waiting, ← hport, ← hchains]
      exact ⟨rfl, hbefore.waiting⟩
    · obtain ⟨m', hbefore, hafter⟩ := eachChain_at rewind_touches m .control
      exact hafter.inFlight a ((rewind_touches m' .control).inFlight a (hbefore.inFlight a (hport ▸ ha)))

/-! ### WAKE and REWIND (R9, R12) -/

/-- A PARKED chain that a WAKE names makes its rescan read (R9). -/
theorem wake_rescans {m : Mailbox} {c : Chain} {b : Word} (hb : m.base = some b) (h : (m.chains.get c).state = .parked) :
    (m.wake c).rescans c b (m.chains.get c).cursor (m.chains.get c).wait := by
  have hw : m.wake c = m.startRescan c := by simp [Mailbox.wake, h]
  rw [hw]
  exact startRescan_rescans m c b hb

theorem wake_of_walking {m : Mailbox} {c : Chain} (h : (m.chains.get c).state = .walking) :
    m.wake c = m.setChain c { m.chains.get c with rescanPending := true } := by
  simp [Mailbox.wake, h]

theorem wakeIf_of_not {m : Mailbox} {b : Bool} {c : Chain} (h : b = false ∨ (m.chains.get c).state = .broken) :
    m.wakeIf b c = m := by
  obtain hnot | hbroken := h
  · simp [Mailbox.wakeIf, hnot]
  · simp [Mailbox.wakeIf, Mailbox.wake, hbroken]

/-- A WAKE for the chains whose bits a mask sets. -/
def Mailbox.wakeMask (mask : Byte) (m : Mailbox) (c : Chain) : Mailbox := m.wakeIf (mask.getLsbD (chainNumber c)) c

theorem wakeMask_walks (mask : Byte) (m : Mailbox) (c : Chain) : m.WalksTo (m.wakeMask mask c) := wakeIf_walks m _ c

theorem wakeMask_touches (mask : Byte) (m : Mailbox) (c : Chain) : m.Touches c (m.wakeMask mask c) := wakeIf_touches m _ c

theorem wakeCommand_taken {p : Part} {mask : Byte} {b : Word} (hmask : mask.toNat < 8) (hb : p.mbx.base = some b) :
    p.wakeCommand mask = { p.outcome .accepted with mbx := (p.outcome .accepted).mbx.eachChain (Mailbox.wakeMask mask) } := by
  simp [Part.wakeCommand, Nat.not_le.mpr hmask, hb, Mailbox.eachChain, Mailbox.wakeMask, chainNumber]

/-- WAKE acts on each chain that its mask names by the state of the chain (R9, R25). -/
theorem wake_by_chain_state (s : State) (mask : Byte) (hmask : mask.toNat < 8) (b : Word) (hb : s.part.mbx.base = some b) :
    ∃ q : Part, exec (.wake mask) s = .next { s with part := q.settle }
      ∧ q.mbx.outcome = .accepted ∧ q.mbx.missing = 0
      ∧ (∀ c, mask.getLsbD (chainNumber c) = true → (s.part.mbx.chains.get c).state = .parked →
          q.mbx.rescans c b (s.part.mbx.chains.get c).cursor (s.part.mbx.chains.get c).wait)
      ∧ (∀ c, mask.getLsbD (chainNumber c) = true → (s.part.mbx.chains.get c).state = .walking →
          q.mbx.chains.get c = { s.part.mbx.chains.get c with rescanPending := true })
      ∧ (∀ c, mask.getLsbD (chainNumber c) = false ∨ (s.part.mbx.chains.get c).state = .broken →
          q.mbx.chains.get c = s.part.mbx.chains.get c)
      ∧ s.part.onlyChanges [.command, .chains, .port] q := by
  have heq := wakeCommand_taken hmask hb
  refine ⟨s.part.wakeCommand mask, event_moves s (·.wakeCommand mask) (wakeCommand_moves s.part mask), ?_⟩
  generalize hm : (s.part.outcome .accepted).mbx = m at heq
  have hwalk := eachChain_walks (wakeMask_walks mask) m
  have hmbx : (s.part.wakeCommand mask).mbx = m.eachChain (Mailbox.wakeMask mask) := by rw [heq]
  have hchains : m.chains = s.part.mbx.chains := by rw [← hm]; rfl
  have hbase : m.base = some b := by rw [← hm]; exact hb
  have hat := eachChain_at (wakeMask_touches mask) m
  rw [hmbx, ← hchains]
  refine ⟨hwalk.command.1.trans (by rw [← hm]; rfl), hwalk.command.2.trans (by rw [← hm]; rfl), fun c hbit hstate => ?parked,
    fun c hbit hstate => ?walking, fun c hnot => ?other, (wakeCommand_moves s.part mask).drifts.only⟩
  case parked =>
    obtain ⟨m', hbefore, hafter⟩ := hat c
    have hw : m'.wakeMask mask c = m'.wake c := by simp [Mailbox.wakeMask, Mailbox.wakeIf, hbit]
    rw [hw] at hafter
    rw [← hbefore.chain] at hstate ⊢
    exact rescans_of_passes hafter (wake_rescans (hbefore.base.trans hbase) hstate)
  case walking =>
    obtain ⟨m', hbefore, hafter⟩ := hat c
    rw [← hbefore.chain] at hstate ⊢
    rw [hafter.chain, Mailbox.wakeMask, Mailbox.wakeIf, if_pos hbit, wake_of_walking hstate, setChain_get]
  case other =>
    obtain ⟨m', hbefore, hafter⟩ := hat c
    rw [← hbefore.chain] at hnot ⊢
    rw [hafter.chain, Mailbox.wakeMask, wakeIf_of_not hnot]

theorem chainOfNumber_chainNumber (c : Chain) : chainOfNumber (chainNumber c) = some c := by cases c <;> rfl

theorem chainOfNumber_of_above {n : Nat} (h : 2 < n) : chainOfNumber n = none := by
  match n, h with
  | n + 3, _ => rfl

theorem chainOfNumber_isSome {n : Nat} (h : n ≤ 2) : ∃ c, chainOfNumber n = some c := by
  interval_cases n
  exacts [⟨.control, rfl⟩, ⟨.setup, rfl⟩, ⟨.report, rfl⟩]

/-- REWIND orders the chain that it names by the state of the chain (R12, R25). -/
theorem rewind_by_chain_state (s : State) (n : Byte) (c : Chain) (b : Word) (hn : n.toNat = chainNumber c)
    (hb : s.part.mbx.base = some b) :
    ∃ q : Part, exec (.rewind n) s = .next { s with part := q.settle }
      ∧ q.mbx.outcome = .accepted ∧ q.mbx.missing = 0
      ∧ ((s.part.mbx.chains.get c).state ≠ .walking → q.mbx.readsAnchor c b)
      ∧ ((s.part.mbx.chains.get c).state = .walking →
          q.mbx.chains.get c = { s.part.mbx.chains.get c with rewindPending := true })
      ∧ s.part.mbx.onlyChain c q.mbx ∧ s.part.onlyChanges [.command, .chains, .port] q := by
  have heq : s.part.rewindCommand n =
      { s.part.outcome .accepted with mbx := (s.part.outcome .accepted).mbx.rewind c } := by
    simp [Part.rewindCommand, hn, chainOfNumber_chainNumber, hb]
  refine ⟨s.part.rewindCommand n, event_moves s (·.rewindCommand n) (rewindCommand_moves s.part n), ?_⟩
  have hmbx : (s.part.rewindCommand n).mbx = (s.part.outcome .accepted).mbx.rewind c := by rw [heq]
  have hwalk := rewind_walks (s.part.outcome .accepted).mbx c
  rw [hmbx]
  refine ⟨hwalk.command.1, hwalk.command.2, fun hstate => rewind_reads hb hstate, fun hstate => ?_,
    (rewind_touches (s.part.outcome .accepted).mbx c).only, (rewindCommand_moves s.part n).drifts.only⟩
  rw [rewind_of_walking (m := (s.part.outcome .accepted).mbx) hstate, setChain_get]
  rfl

/-- Settles O17, which holds: each chain that is named is ordered by its own state. -/
theorem wakeAndRewindByChainState : Obligations.WakeAndRewindByChainState := by
  refine ⟨fun s mask => ⟨fun hmask => ?_, fun hmask hb => ?_, fun hmask b hb => wake_by_chain_state s mask hmask b hb⟩,
    fun s n => ⟨fun hn => ?_, fun hn hb => ?_, fun c b hn hb => rewind_by_chain_state s n c b hn hb⟩⟩
  · exact event_of_shows (f := (·.wakeCommand mask)) (by simp [Part.wakeCommand, hmask])
  · exact event_of_shows (f := (·.wakeCommand mask)) (by simp [Part.wakeCommand, Nat.not_le.mpr hmask, hb])
  · exact event_of_shows (f := (·.rewindCommand n)) (by simp [Part.rewindCommand, chainOfNumber_of_above hn])
  · obtain ⟨c, hc⟩ := chainOfNumber_isSome hn
    exact event_of_shows (f := (·.rewindCommand n)) (by simp [Part.rewindCommand, hc, hb])

/-! ### ACK_ATTENTION and words that name no command (R25, R26) -/

/-- A reason stays set after an ACK_ATTENTION where it stood and the mask does not name it. -/
theorem ack_getLsbD (a : Attention) (mask : Byte) (i : Nat) (hi : i < 5) :
    (a.ack mask).reg.getLsbD i = (a.reg.getLsbD i && !mask.getLsbD i) := by
  have hlt : i < 32 := by omega
  rw [Attention.reg, Attention.reg, word_setCode_getLsbD _ i hlt, word_setCode_getLsbD _ i hlt]
  interval_cases i <;> rfl

theorem badCommandWord_iff (w : Word) : badCommandWord w = true ↔
    0x10000 ≤ w.toNat ∨ w.toNat / 16 % 16 ≠ 0 ∨ w.toNat % 16 = 0 ∨ 6 < w.toNat % 16 := by
  have hw := w.isLt
  simp only [badCommandWord, field, Bool.or_eq_true, bne_iff_ne, beq_iff_eq, decide_eq_true_eq, Nat.pow_zero, Nat.div_one]
  omega

/-- Settles O19, which holds. -/
theorem ackAttentionAndBadCommand : Obligations.AckAttentionAndBadCommand := by
  intro s
  refine ⟨fun mask hmask => ?_, fun mask hmask => ?_, fun w hw => ?_⟩
  · exact event_of_shows (f := (·.ackCommand mask)) (by simp [Part.ackCommand, hmask])
  · have heq : s.part.ackCommand mask = { s.part.outcome .accepted with
        mbx := { (s.part.outcome .accepted).mbx with attention := s.part.mbx.attention.ack mask } } := by
      simp [Part.ackCommand, Nat.not_le.mpr hmask, Part.outcome]
    refine ⟨s.part.ackCommand mask, event_moves s (·.ackCommand mask) (ackCommand_moves s.part mask), by rw [heq]; rfl,
      by rw [heq]; rfl, fun i hi => ?_, (ackCommand_moves s.part mask).drifts.only⟩
    rw [heq]
    exact ack_getLsbD s.part.mbx.attention mask i hi
  · exact event_of_shows (f := (·.badCommand w)) (by simp [Part.badCommand, (badCommandWord_iff w).mpr hw])

end Sys2Proof.Machine

/-! ## Reports and raises (R21, R22, R158 to R166)

What the holding list becomes is a function of the list and of the records that are raised, in their order. `Part.Logs` says of an
operation what kinds of records it raises, and that it touches the Report chain alone, and that only while it is PARKED. -/

namespace Sys2Proof.Machine

/-! ### The holding list after one more report -/

/-- The list after a raise that finds it full and does not coalesce (R22). -/
def holdFull (held : List ReportRec) (r : ReportRec) : List ReportRec :=
  match r.severity, evictIndex held with
  | .alarm, some i => dropAt held i ++ [r]
  | _, _ => modLast (fun x => { x with droppedAfter := countUp x.droppedAfter 255 }) held

/-- The holding list after a record has been raised (R21, R22). -/
def holdAfter (held : List ReportRec) (r : ReportRec) : List ReportRec :=
  match held.getLast? with
  | some newest =>
    if coalesces newest r then modLast (coalesce r) held
    else if held.length < 16 then held ++ [r]
    else holdFull held r
  | none => held ++ [r]

theorem join_holding (p : Part) (m : Mailbox) (r : ReportRec) : (m.join p r).holding = m.holding ++ [r] := by
  obtain ⟨c, q, h⟩ := afterJoin_walks p { m with holding := m.holding ++ [r] } m.holding.isEmpty
  rw [Mailbox.join, h]

theorem dropAt_of_le {α : Type} (xs : List α) (i : Nat) (h : xs[i]? = none) : dropAt xs i = xs := by
  induction xs generalizing i with
  | nil => rfl
  | cons x xs ih =>
    cases i with
    | zero => simp at h
    | succ i => rw [dropAt, ih i (by simpa using h)]

theorem evict_holding (m : Mailbox) (i : Nat) : (m.evict i).holding = dropAt m.holding i := by
  unfold Mailbox.evict
  split
  next h => exact (dropAt_of_le m.holding i h).symm
  next => rfl

theorem overflow_holding (p : Part) (m : Mailbox) (r : ReportRec) : (m.overflow p r).holding = holdFull m.holding r := by
  unfold Mailbox.overflow holdFull
  cases r.severity <;> cases evictIndex m.holding
  case alarm.some i => exact (join_holding p _ r).trans (congrArg (· ++ [r]) (evict_holding m i))
  all_goals rfl

theorem takeReport_holding (p : Part) (m : Mailbox) (r : ReportRec) : (m.takeReport p r).holding = holdAfter m.holding r := by
  have hjoin := join_holding p { m with raised := m.raised + 1 } r
  have hover := overflow_holding p { m with raised := m.raised + 1 } r
  unfold Mailbox.takeReport holdAfter
  cases hlast : m.holding.getLast? with
  | none =>
    simp only [hlast]
    exact hjoin
  | some newest =>
    simp only [hlast]
    split
    · rfl
    · split
      · exact hjoin
      · exact hover

theorem dropReport_raised (m : Mailbox) : m.dropReport.raised = m.raised := rfl

theorem join_raised (p : Part) (m : Mailbox) (r : ReportRec) : (m.join p r).raised = m.raised := by
  obtain ⟨c, q, h⟩ := afterJoin_walks p { m with holding := m.holding ++ [r] } m.holding.isEmpty
  rw [Mailbox.join, h]

theorem evict_rest (m : Mailbox) (i : Nat) : (m.evict i).raised = m.raised ∧ (m.evict i).base = m.base
    ∧ (m.evict i).chains = m.chains ∧ (m.evict i).port = m.port := by
  unfold Mailbox.evict
  split <;> exact ⟨rfl, rfl, rfl, rfl⟩

theorem takeReport_raised (p : Part) (m : Mailbox) (r : ReportRec) : (m.takeReport p r).raised = m.raised + 1 := by
  unfold Mailbox.takeReport Mailbox.overflow
  dsimp only
  split
  · split
    · rfl
    · split
      · exact join_raised p _ r
      · split
        · rw [join_raised, (evict_rest _ _).1]
        · rfl
  · exact join_raised p _ r

theorem takeReport_written (p : Part) (m : Mailbox) (r : ReportRec) : (m.takeReport p r).written = m.written := by
  obtain ⟨_, _, _, _, _, _, h⟩ := takeReport_eq p m r
  rw [h]

/-! ### What a report does to the chains -/

/-- A chain that makes its rescan read is WALKING (R8). -/
theorem rescans_walking {m : Mailbox} {c : Chain} {b : Word} {cursor : Option Word} {w : Wait} (h : m.rescans c b cursor w) :
    (m.chains.get c).state = .walking := by
  unfold Mailbox.rescans at h
  cases cursor with
  | none => exact h.1
  | some a => exact h.1

/-- An operation that passes a chain by unless it is PARKED, and then either leaves it PARKED, its cursor and its wait as they were,
or has it make its rescan read (R8). -/
structure Mailbox.Rouses (c : Chain) (m m' : Mailbox) : Prop where
  base : m'.base = m.base
  busy : (m.chains.get c).state ≠ .parked → m.Passes c m'
  parked : (m.chains.get c).state = .parked →
    ((m'.chains.get c).state = .parked ∧ (m'.chains.get c).cursor = (m.chains.get c).cursor ∧ (m'.chains.get c).wait = (m.chains.get c).wait)
      ∨ ∀ b, m.base = some b → m'.rescans c b (m.chains.get c).cursor (m.chains.get c).wait

theorem Mailbox.Passes.rouses {c : Chain} {m m' : Mailbox} (h : m.Passes c m') : m.Rouses c m' :=
  ⟨h.base, fun _ => h, fun hs => .inl (by rw [h.chain]; exact ⟨hs, rfl, rfl⟩)⟩

/-- A rescan read once made is not made again. -/
theorem Mailbox.Rouses.trans {c : Chain} {m n k : Mailbox} (h : m.Rouses c n) (h' : n.Rouses c k) : m.Rouses c k := by
  refine ⟨h'.base.trans h.base, fun hs => ?_, fun hs => ?_⟩
  · exact (h.busy hs).trans (h'.busy (by rw [(h.busy hs).chain]; exact hs))
  · obtain ⟨hparked, hcursor, hwait⟩ | hreads := h.parked hs
    · obtain ⟨hstill, hcursors, hwaits⟩ | hread := h'.parked hparked
      · exact .inl ⟨hstill, hcursors.trans hcursor, hwaits.trans hwait⟩
      · refine .inr fun b hb => ?_
        have := hread b (h.base.trans hb)
        rwa [hcursor, hwait] at this
    · refine .inr fun b hb => rescans_of_passes (h'.busy fun hparked => ?_) (hreads b hb)
      exact absurd ((rescans_walking (hreads b hb)).symm.trans hparked) (by decide)

/-- An operation that touches the Report chain alone, and that only while it is PARKED, and never moves its cursor (R8, R24). -/
structure Mailbox.Nudges (m m' : Mailbox) : Prop where
  touches : m.Touches .report m'
  rouses : m.Rouses .report m'
  cursor : m'.chains.report.cursor = m.chains.report.cursor

theorem Mailbox.Nudges.refl (m : Mailbox) : m.Nudges m := ⟨.refl .report m, (Mailbox.Passes.refl .report m).rouses, rfl⟩

/-- A rescan read is made at the cursor (R8). -/
theorem startRescan_cursor (m : Mailbox) (c : Chain) : ((m.startRescan c).chains.get c).cursor = (m.chains.get c).cursor := by
  unfold Mailbox.startRescan
  split
  · rfl
  next b hb _ => rw [Mailbox.readAnchor, hb, place_chains, setChain_get]
  next hcursor => rw [Mailbox.readHeader, place_chains, setChain_get, hcursor]

theorem startRescan_rouses {m : Mailbox} {c : Chain} (h : (m.chains.get c).state = .parked) : m.Rouses c (m.startRescan c) :=
  ⟨(startRescan_touches m c).base, fun hne => absurd h hne, fun _ => .inr fun b hb => startRescan_rescans m c b hb⟩

theorem Mailbox.Touches.trans {c : Chain} {m n k : Mailbox} (h : m.Touches c n) (h' : n.Touches c k) : m.Touches c k :=
  ⟨h'.base.trans h.base, onlyChain_trans h.only h'.only, fun a ha => h'.inFlight a (h.inFlight a ha)⟩

theorem Mailbox.Nudges.trans {m n k : Mailbox} (h : m.Nudges n) (h' : n.Nudges k) : m.Nudges k :=
  ⟨h.touches.trans h'.touches, h.rouses.trans h'.rouses, h'.cursor.trans h.cursor⟩

/-- Mailboxes that agree on base, chains and port. -/
theorem Mailbox.Nudges.of_same {m m' : Mailbox} (hb : m'.base = m.base) (hc : m'.chains = m.chains) (hp : m'.port = m.port) :
    m.Nudges m' :=
  ⟨⟨hb, ⟨fun _ _ => by rw [hc], fun _ _ => by rw [hp]⟩, fun _ h => hp ▸ h⟩,
    Mailbox.Passes.rouses ⟨hb, by rw [hc], by rw [hp], fun _ h => hp ▸ h⟩, by rw [hc]⟩

theorem afterJoin_nudges (p : Part) (m : Mailbox) (wasEmpty : Bool) : m.Nudges (m.afterJoin p wasEmpty) := by
  unfold Mailbox.afterJoin
  dsimp only
  split
  · exact .refl m
  next hparked =>
    have hstate : m.chains.report.state = .parked := by simp at hparked; exact hparked.1.2
    split
    · exact ⟨startRescan_touches m .report, startRescan_rouses hstate, startRescan_cursor m .report⟩
    · split
      · exact .refl m
      · exact ⟨setChain_touches m .report _, ⟨rfl, fun hne => absurd hstate hne, fun h => .inl ⟨h, rfl, rfl⟩⟩, rfl⟩

theorem join_nudges (p : Part) (m : Mailbox) (r : ReportRec) : m.Nudges (m.join p r) :=
  (Mailbox.Nudges.of_same (m := m) (m' := { m with holding := m.holding ++ [r] }) rfl rfl rfl).trans
    (afterJoin_nudges p { m with holding := m.holding ++ [r] } m.holding.isEmpty)

theorem takeReport_nudges (p : Part) (m : Mailbox) (r : ReportRec) : m.Nudges (m.takeReport p r) := by
  have hcount : m.Nudges { m with raised := m.raised + 1 } := .of_same rfl rfl rfl
  unfold Mailbox.takeReport Mailbox.overflow
  dsimp only
  split
  · split
    · exact .of_same rfl rfl rfl
    · split
      · exact hcount.trans (join_nudges p _ r)
      · split
        · obtain ⟨-, hb, hc, hp⟩ := evict_rest { m with raised := m.raised + 1 } ‹_›
          exact hcount.trans ((Mailbox.Nudges.of_same hb hc hp).trans (join_nudges p _ r))
        · exact .of_same rfl rfl rfl
  · exact hcount.trans (join_nudges p _ r)

/-! ### What an operation raises -/

/-- From `p` to `q` records are raised, all of them such as `P` says, none marked as being written, and nothing else happens to the
holding list; the chains are touched as reports touch them. -/
structure Part.Logs (P : ReportRec → Prop) (p q : Part) : Prop where
  reports : ∃ rs : List ReportRec, (∀ r ∈ rs, P r ∧ r.beingWritten = false) ∧ q.mbx.holding = rs.foldl holdAfter p.mbx.holding
    ∧ q.mbx.raised = p.mbx.raised + word rs.length
  written : q.mbx.written = p.mbx.written
  nudges : p.mbx.Nudges q.mbx

/-- No record. -/
def noReport (_ : ReportRec) : Prop := False

/-- A record of this block. -/
def reportOf (b : Block) (r : ReportRec) : Prop := r.block = b

theorem Part.Logs.of_mailbox {P : ReportRec → Prop} {p q : Part} (hh : q.mbx.holding = p.mbx.holding)
    (hr : q.mbx.raised = p.mbx.raised) (hw : q.mbx.written = p.mbx.written) (hn : p.mbx.Nudges q.mbx) : p.Logs P q :=
  ⟨⟨[], fun _ h => absurd h List.not_mem_nil, hh, by simp [hr, word]⟩, hw, hn⟩

theorem Part.Logs.refl (P : ReportRec → Prop) (p : Part) : p.Logs P p := .of_mailbox rfl rfl rfl (.refl _)

theorem Part.Logs.andThen {P : ReportRec → Prop} {p q r : Part} (h : p.Logs P q) (k : q.Logs P r) : p.Logs P r := by
  obtain ⟨⟨xs, hxs, hheld, hraised⟩, hw, hn⟩ := h
  obtain ⟨⟨ys, hys, hheld', hraised'⟩, hw', hn'⟩ := k
  refine ⟨⟨xs ++ ys, fun r hr => (List.mem_append.mp hr).elim (hxs r) (hys r), ?_, ?_⟩, hw'.trans hw, hn.trans hn'⟩
  · rw [List.foldl_append, ← hheld, hheld']
  · rw [hraised', hraised, List.length_append, word_add, BitVec.add_assoc]

/-- The last operation first. -/
theorem Part.Logs.before {P : ReportRec → Prop} {p q r : Part} (k : q.Logs P r) (h : p.Logs P q) : p.Logs P r := h.andThen k

theorem Part.Logs.mono {P Q : ReportRec → Prop} {p q : Part} (h : p.Logs P q) (hPQ : ∀ r, P r → Q r) : p.Logs Q q := by
  obtain ⟨⟨xs, hxs, hheld, hraised⟩, hw, hn⟩ := h
  exact ⟨⟨xs, fun r hr => (hxs r hr).imp_left (hPQ r), hheld, hraised⟩, hw, hn⟩

/-- An operation without a report is one of any kind of reports. -/
theorem Part.Logs.silent {P : ReportRec → Prop} {p q : Part} (h : p.Logs noReport q) : p.Logs P q := h.mono fun _ => False.elim

/-- A frame that names no piece of the reports, the chains or the port. -/
theorem Part.Moves.logs {P : ReportRec → Prop} {xs : List Piece} {p q : Part} (h : p.Moves xs q)
    (hx : [Piece.reports, .chains, .port, .base].all (fun x => !xs.contains x) = true := by decide) : p.Logs P q := by
  have hsame : ∀ x ∈ [Piece.reports, .chains, .port, .base], p.same q x :=
    fun x hm => h.drifts.only x (by simpa using List.all_eq_true.mp hx x hm)
  obtain ⟨hheld, -, hraised, hwritten, -⟩ : p.same q .reports := hsame .reports (by decide)
  exact .of_mailbox hheld hraised hwritten (.of_same (hsame .base (by decide)) (hsame .chains (by decide)) (hsame .port (by decide)))

/-- A change of the part that is not one of the mailbox. -/
theorem Part.Logs.of_mbx {P : ReportRec → Prop} {p q : Part} (h : q.mbx = p.mbx) : p.Logs P q :=
  .of_mailbox (by rw [h]) (by rw [h]) (by rw [h]) (by rw [h]; exact .refl _)

theorem putReport_logs {P : ReportRec → Prop} (p : Part) (r : ReportRec) (hr : P r)
    (hu : r.beingWritten = false) : p.Logs P (p.putReport r) :=
  ⟨⟨[r], fun _ hx => List.mem_singleton.mp hx ▸ ⟨hr, hu⟩, takeReport_holding p p.mbx r, takeReport_raised p p.mbx r⟩,
    takeReport_written p p.mbx r, takeReport_nudges p p.mbx r⟩

theorem report_logs {P : ReportRec → Prop} (p : Part) (kind : ReportKind) (sev : Severity) (block : Block) (inst : Nat)
    (tag : Word) (items : List Item) (h : P (p.newReport kind sev block inst tag items)) :
    p.Logs P (p.report kind sev block inst tag items) := putReport_logs p _ h rfl

theorem forEach_logs {α : Type} {P : ReportRec → Prop} (f : Part → α → Part) (h : ∀ p x, Part.Logs P p (f p x)) (xs : List α)
    (p : Part) : p.Logs P (p.forEach xs f) := by
  induction xs generalizing p with
  | nil => exact .refl P p
  | cons x xs ih => exact (h p x).andThen (ih (f p x))

/-! ### Marks -/

/-- No held record is marked as being written (R24). -/
def unmarked (held : List ReportRec) : Prop := ∀ r ∈ held, r.beingWritten = false

theorem unmarked_modLast {held : List ReportRec} {f : ReportRec → ReportRec} (hf : ∀ r, (f r).beingWritten = r.beingWritten)
    (h : unmarked held) : unmarked (modLast f held) := by
  fun_induction modLast f held with
  | case1 => exact h
  | case2 x =>
    intro r hr
    rw [List.mem_singleton.mp hr, hf]
    exact h x List.mem_cons_self
  | case3 x y ys ih =>
    intro r hr
    obtain rfl | hr := List.mem_cons.mp hr
    · exact h r List.mem_cons_self
    · exact ih (fun z hz => h z (List.mem_cons_of_mem x hz)) r hr

theorem unmarked_append {held : List ReportRec} {r : ReportRec} (h : unmarked held) (hr : r.beingWritten = false) :
    unmarked (held ++ [r]) := by
  intro x hx
  obtain hx | hx := List.mem_append.mp hx
  · exact h x hx
  · rw [List.mem_singleton.mp hx]
    exact hr

theorem mem_of_mem_dropAt {α : Type} {xs : List α} {i : Nat} {x : α} (h : x ∈ dropAt xs i) : x ∈ xs := by
  induction xs generalizing i with
  | nil => exact h
  | cons y ys ih =>
    cases i with
    | zero => exact List.mem_cons_of_mem y h
    | succ i =>
      obtain rfl | h := List.mem_cons.mp h
      · exact List.mem_cons_self
      · exact List.mem_cons_of_mem y (ih h)

theorem unmarked_holdAfter {held : List ReportRec} {r : ReportRec} (h : unmarked held) (hr : r.beingWritten = false) :
    unmarked (holdAfter held r) := by
  have hfull : unmarked (holdFull held r) := by
    unfold holdFull
    split
    · exact unmarked_append (fun x hx => h x (mem_of_mem_dropAt hx)) hr
    · exact unmarked_modLast (fun _ => rfl) h
  unfold holdAfter
  split
  · split
    · exact unmarked_modLast (fun _ => rfl) h
    · split
      · exact unmarked_append h hr
      · exact hfull
  · exact unmarked_append h hr

theorem unmarked_foldl {rs held : List ReportRec} (h : unmarked held) (hrs : ∀ r ∈ rs, r.beingWritten = false) :
    unmarked (rs.foldl holdAfter held) := by
  induction rs generalizing held with
  | nil => exact h
  | cons r rs ih =>
    exact ih (unmarked_holdAfter h (hrs r List.mem_cons_self)) fun x hx => hrs x (List.mem_cons_of_mem r hx)

theorem Part.Logs.unmarked {P : ReportRec → Prop} {p q : Part} (h : p.Logs P q) (hp : unmarked p.mbx.holding) :
    unmarked q.mbx.holding := by
  obtain ⟨⟨rs, hrs, hheld, -⟩, -, -⟩ := h
  rw [hheld]
  exact unmarked_foldl hp fun r hr => (hrs r hr).2

/-! ### A report that the list tells of -/

/-- A list of held records tells of a report, unless it is full (R21, R22). -/
def heldTells (held : List ReportRec) (kind : ReportKind) (block : Block) (inst : Nat) (tag : Word) (items : List Item) : Prop :=
  (∃ r ∈ held, r.kind = kind ∧ r.block = block ∧ r.inst = inst ∧ r.tag = tag ∧ r.details = packItems items)
    ∨ 16 ≤ held.length

theorem mem_modLast {α : Type} (f : α → α) {xs : List α} {x : α} (h : x ∈ xs) :
    x ∈ modLast f xs ∨ (xs.getLast? = some x ∧ f x ∈ modLast f xs) := by
  fun_induction modLast f xs with
  | case1 => exact absurd h List.not_mem_nil
  | case2 y => exact .inr (by simp_all)
  | case3 y z zs ih =>
    obtain rfl | h := List.mem_cons.mp h
    · exact .inl List.mem_cons_self
    · refine (ih h).imp (List.mem_cons_of_mem y) fun ⟨hl, hm⟩ => ⟨?_, List.mem_cons_of_mem y hm⟩
      rw [List.getLast?_cons_cons]
      exact hl

theorem holdAfter_full {held : List ReportRec} (r : ReportRec) (h : 16 ≤ held.length) : 16 ≤ (holdAfter held r).length := by
  unfold holdAfter
  split
  · split
    · simpa [modLast_length] using h
    · split
      · simp; omega
      · unfold holdFull
        split
        next i _ hi =>
          have := dropAt_length held i (evictIndex_lt held i hi)
          simp
          omega
        next => simpa [modLast_length] using h
  · simp; omega

/-- A report of another kind or source leaves what the list tells (R21, R22). -/
theorem holdAfter_tells {held : List ReportRec} {r : ReportRec} {kind : ReportKind} {block : Block} {inst : Nat} {tag : Word}
    {items : List Item} (hr : r.kind ≠ kind ∨ r.block ≠ block ∨ r.inst ≠ inst) (h : heldTells held kind block inst tag items) :
    heldTells (holdAfter held r) kind block inst tag items := by
  obtain ⟨x, hx, hkind, hblock, hinst, htag, hdetails⟩ | hfull := h
  swap
  · exact .inr (holdAfter_full r hfull)
  by_cases hfull : 16 ≤ held.length
  · exact .inr (holdAfter_full r hfull)
  have hjoin : heldTells (held ++ [r]) kind block inst tag items :=
    .inl ⟨x, List.mem_append_left _ hx, hkind, hblock, hinst, htag, hdetails⟩
  unfold holdAfter
  split
  next newest hnewest =>
    split
    next hc =>
      simp only [coalesces, Bool.and_eq_true, beq_iff_eq] at hc
      obtain ⟨⟨⟨⟨hk, hb⟩, hi⟩, -⟩, -⟩ := hc
      obtain hm | ⟨hlast, -⟩ := mem_modLast (coalesce r) hx
      · exact .inl ⟨x, hm, hkind, hblock, hinst, htag, hdetails⟩
      · have hsame : newest = x := by simpa [hnewest] using hlast
        subst hsame
        simp_all
    next =>
      rw [if_pos (Nat.lt_of_not_le hfull)]
      exact hjoin
  next => exact hjoin

theorem Part.Logs.keepsTelling {P : ReportRec → Prop} {p q : Part} (h : p.Logs P q) {kind : ReportKind} {block : Block}
    {inst : Nat} {tag : Word} {items : List Item} (hP : ∀ r, P r → r.kind ≠ kind ∨ r.block ≠ block ∨ r.inst ≠ inst)
    (ht : p.mbx.tells kind block inst tag items) : q.mbx.tells kind block inst tag items := by
  obtain ⟨⟨rs, hrs, hheld, -⟩, -, -⟩ := h
  have hfold : ∀ (rs : List ReportRec) (held : List ReportRec), (∀ r ∈ rs, P r ∧ r.beingWritten = false) → heldTells held kind block inst tag items →
      heldTells (rs.foldl holdAfter held) kind block inst tag items := by
    intro rs
    induction rs with
    | nil => exact fun _ _ ht => ht
    | cons r rs ih =>
      exact fun held hrs ht => ih _ (fun x hx => hrs x (List.mem_cons_of_mem r hx))
        (holdAfter_tells (hP r (hrs r List.mem_cons_self).1) ht)
  have := hfold rs p.mbx.holding hrs ht
  rw [← hheld] at this
  exact this

/-- The newest report is one that the list tells of. -/
theorem tells_of_newest {m : Mailbox} {kind : ReportKind} {block : Block} {inst : Nat} {tag : Word} {items : List Item}
    (h : m.newest kind block inst tag items) : m.tells kind block inst tag items := by
  refine h.imp_left ?_
  rintro ⟨r, hr, hrest⟩
  exact ⟨r, List.mem_of_getLast? hr, hrest⟩

theorem report_tells (p : Part) (kind : ReportKind) (sev : Severity) (block : Block) (inst : Nat) (tag : Word)
    (items : List Item) : (p.report kind sev block inst tag items).mbx.tells kind block inst tag items :=
  tells_of_newest (report_newest p kind sev block inst tag items)

theorem tells_of_same {p q : Part} {kind : ReportKind} {block : Block} {inst : Nat} {tag : Word} {items : List Item}
    (h : p.same q .reports) (ht : p.mbx.tells kind block inst tag items) : q.mbx.tells kind block inst tag items := by
  obtain ⟨hholding, -⟩ := h
  simpa only [Mailbox.tells, hholding] using ht

end Sys2Proof.Machine

/-! ## Activations and their effects (R158 to R166)

A raise is cut into three parts: the record with its report, the change of collector state, and the holds, fallbacks and alarm outputs.
For each part these lemmas say what it does to the kinds' records, the collector state, the reports and the attention reasons. -/

namespace Sys2Proof.Machine

/-! ### Records of the kinds -/

theorem kindIndex_injective {k x : FaultKind} (h : kindIndex k = kindIndex x) : k = x := by
  revert h; cases k <;> cases x <;> decide

@[simp] theorem Collector.get_set_same (c : Collector) (k : FaultKind) (r : FaultRec) : (c.set k r).get k = r := by
  simp [Collector.get, Collector.set, Vector.get_eq_getElem]

theorem Collector.get_set_other (c : Collector) (k x : FaultKind) (r : FaultRec) (h : x ≠ k) : (c.set k r).get x = c.get x := by
  have : (kindIndex k).val ≠ (kindIndex x).val := fun e => h (kindIndex_injective (Fin.ext e)).symm
  simp [Collector.get, Collector.set, Vector.get_eq_getElem, Vector.getElem_set_ne _ _ this]

@[simp] theorem Collector.set_state (c : Collector) (k : FaultKind) (r : FaultRec) : (c.set k r).state = c.state := rfl

/-- The records are read from their own list. -/
theorem get_of_recs {c d : Collector} (h : c.recs = d.recs) (k : FaultKind) : c.get k = d.get k := congrArg (·.get (kindIndex k)) h

theorem get_of_same {p q : Part} (h : p.same q .records) (k : FaultKind) : q.faults.get k = p.faults.get k := get_of_recs h k

/-! ### The alarm outputs (R165, R166) -/

/-- Of the records, the evaluation of the alarm outputs changes the sources of ALARM_OUTPUT at most. -/
structure Part.KeepsRecords (p q : Part) : Prop where
  others : ∀ k, k ≠ .alarmOutput → q.faults.get k = p.faults.get k
  alarm : ∃ sources, q.faults.get .alarmOutput = { p.faults.get .alarmOutput with sources := sources }

theorem Part.KeepsRecords.refl (p : Part) : p.KeepsRecords p := ⟨fun _ _ => rfl, _, rfl⟩

theorem Part.KeepsRecords.trans {p q r : Part} (h : p.KeepsRecords q) (k : q.KeepsRecords r) : p.KeepsRecords r := by
  obtain ⟨s, hs⟩ := h.alarm
  obtain ⟨s', hs'⟩ := k.alarm
  exact ⟨fun x hx => (k.others x hx).trans (h.others x hx), s', by rw [hs', hs]⟩

theorem Part.KeepsRecords.of_same {p q : Part} (h : p.same q .records) : p.KeepsRecords q :=
  ⟨fun k _ => get_of_same h k, _, get_of_same h .alarmOutput⟩

theorem setCommanded_records (p : Part) (o : OutputNo) (on : Bool) : p.same (p.setCommanded o on) .records :=
  (setCommanded_moves p o on).drifts.only .records (by decide)

theorem driveAlarm_keepsRecords (p : Part) (r : DriveRole) (on : Bool) : p.KeepsRecords (p.driveAlarm r on) := by
  unfold Part.driveAlarm
  split
  · exact .refl p
  next o _ =>
    dsimp only
    refine (Part.KeepsRecords.of_same (setCommanded_records p o on)).trans ?_
    split
    · exact ⟨fun k hk => Collector.get_set_other _ _ _ _ hk, _, Collector.get_set_same _ _ _⟩
    · exact .refl _

theorem evalAlarms_keepsRecords (p : Part) : p.KeepsRecords p.evalAlarms :=
  (driveAlarm_keepsRecords p _ _).trans (driveAlarm_keepsRecords _ _ _)

theorem evalAlarms_mbx (p : Part) : p.evalAlarms.mbx = p.mbx := by
  have hdrive : ∀ (p : Part) r b, (p.driveAlarm r b).mbx = p.mbx := by
    intro p r b
    unfold Part.driveAlarm Part.setCommanded
    dsimp only
    repeat' split
    all_goals rfl
  exact (hdrive _ _ _).trans (hdrive _ _ _)

/-! ### The three parts of a raise -/

/-- The activation's record and its report (R158, R161 steps 1 and 2). -/
def Part.records (p : Part) (x : Raise) : Part :=
  (p.modFault x.kind (·.activate p x)).report (.fault x.kind) (faultSeverity x.kind (p.reactions x.kind)) x.source.block x.source.inst
    x.tag x.items

/-- The same with the change of collector state (R162). -/
def Part.activates (p : Part) (x : Raise) : Part :=
  (p.records x).collectorActivate x.kind (p.reactions x.kind).escalate (p.reactions x.kind).ackRequired 0

/-- The holds and fallbacks of an activation (R161 step 3, R166). -/
def Part.holdsOf (q : Part) (p : Part) (x : Raise) : Collector :=
  if x.kind = .alarmOutput then
    if h : x.source.inst < 16 then
      (q.faults.holds q (p.reactions x.kind)).outputFallback (q.tables.outputs.get ⟨x.source.inst, h⟩).role (q.roleFailed .lamp)
        (q.roleFailed .buzzer)
    else q.faults.holds q (p.reactions x.kind)
  else (q.faults.holds q (p.reactions x.kind)).fallback (p.reactions x.kind) (q.roleFailed .lamp) (q.roleFailed .buzzer)

/-- The collector's record replaced. -/
def Part.withFaults (p : Part) (c : Collector) : Part := { p with faults := c }

theorem raise_eq (p : Part) (x : Raise) : p.raise x = ((p.activates x).withFaults ((p.activates x).holdsOf p x)).evalAlarms := rfl

theorem holdsOf_same (q p : Part) (x : Raise) : (q.holdsOf p x).recs = q.faults.recs ∧ (q.holdsOf p x).state = q.faults.state := by
  obtain ⟨hr, hs, -⟩ := holds_same q.faults q (p.reactions x.kind)
  unfold Part.holdsOf
  split
  · split
    · obtain ⟨hr', hs', -⟩ := outputFallback_same (q.faults.holds q (p.reactions x.kind)) (q.tables.outputs.get _).role
        (q.roleFailed .lamp) (q.roleFailed .buzzer)
      exact ⟨hr'.trans hr, hs'.trans hs⟩
    · exact ⟨hr, hs⟩
  · exact ⟨hr, hs⟩

theorem records_same (p : Part) (x : Raise) {y : Piece} (hy : [Piece.records, .reports, .chains, .port].contains y = false) :
    p.same (p.records x) y :=
  (((modFault_moves p x.kind _).mono (ys := [.records, .reports, .chains, .port])).andThen (report_moves _ _ _ _ _ _ _)).drifts.only y
    (by simpa using hy)

theorem records_get (p : Part) (x : Raise) (k : FaultKind) :
    (p.records x).faults.get k = if k = x.kind then (p.faults.get k).activate p x else p.faults.get k := by
  have hreport : (p.records x).faults.get k = (p.modFault x.kind (·.activate p x)).faults.get k := rfl
  rw [hreport, Part.modFault_faults]
  split
  next h => rw [h, Collector.get_set_same]
  next h => exact Collector.get_set_other _ _ _ _ h

/-! ### Changes of collector state (R162) -/

/-- COLLECTOR_CHANGE stands. -/
def Part.notesChange (p : Part) : Part :=
  { p with mbx := { p.mbx with attention := { p.mbx.attention with collectorChange := true } } }

theorem moveCollector_same {p : Part} {new : CollectorState} (h : p.faults.state = new) (cause : CollectorCause)
    (kind : Option FaultKind) (tag : Word) : p.moveCollector new cause kind tag = p := by
  rw [Part.moveCollector, if_pos h]

theorem moveCollector_eq {p : Part} {new : CollectorState} (h : p.faults.state ≠ new) (cause : CollectorCause)
    (kind : Option FaultKind) (tag : Word) : p.moveCollector new cause kind tag =
      (p.collectorTo new).notesChange.report .collectorChanged (if new = CollectorState.fault then .warning else .info)
        .faultCollector 0 tag
        (.small (collectorCode p.faults.state) :: .small (collectorCode new) :: .small cause.ctorIdx
          :: (kind.map (fun k => Item.small (kindNumber k))).toList) := by
  rw [Part.moveCollector, if_neg h]
  rfl

theorem claim_faults (p : Part) (r : Reason) : (p.claim r).faults = p.faults := by
  unfold Part.claim
  dsimp only
  repeat' split
  all_goals rfl

theorem claim_mbx (p : Part) (r : Reason) : (p.claim r).mbx = p.mbx := by
  unfold Part.claim
  dsimp only
  repeat' split
  all_goals rfl

theorem collectorTo_state (p : Part) (new : CollectorState) : (p.collectorTo new).faults.state = new := by
  unfold Part.collectorTo
  dsimp only
  repeat' split
  all_goals simp only [Part.withdraw_faults, claim_faults, Part.collectorSet]

theorem collectorTo_mbx (p : Part) (new : CollectorState) : (p.collectorTo new).mbx = p.mbx := by
  unfold Part.collectorTo
  dsimp only
  repeat' split
  all_goals simp only [Part.withdraw_mbx, claim_mbx, Part.collectorSet]

theorem moveCollector_state (p : Part) (new : CollectorState) (cause : CollectorCause) (kind : Option FaultKind) (tag : Word) :
    (p.moveCollector new cause kind tag).faults.state = new := by
  by_cases h : p.faults.state = new
  · rw [moveCollector_same h, h]
  · rw [moveCollector_eq h]
    exact collectorTo_state p new

/-- A report leaves the attention reasons. -/
theorem report_attention (p : Part) (kind : ReportKind) (sev : Severity) (block : Block) (inst : Nat) (tag : Word)
    (items : List Item) : (p.report kind sev block inst tag items).mbx.attention = p.mbx.attention :=
  (report_moves p kind sev block inst tag items).drifts.only .attention (by decide)

theorem moveCollector_attention (p : Part) (new : CollectorState) (cause : CollectorCause) (kind : Option FaultKind) (tag : Word) :
    (p.moveCollector new cause kind tag).mbx.attention
      = { p.mbx.attention with collectorChange := p.mbx.attention.collectorChange || decide (p.faults.state ≠ new) } := by
  by_cases h : p.faults.state = new
  · simp [moveCollector_same h, h]
  · rw [moveCollector_eq h, report_attention, Part.notesChange, collectorTo_mbx]
    simp [h]

/-- Report records of a change of collector state. -/
def collectorReport (r : ReportRec) : Prop := r.kind = .collectorChanged ∧ r.block = .faultCollector

theorem moveCollector_logs (p : Part) (new : CollectorState) (cause : CollectorCause) (kind : Option FaultKind) (tag : Word) :
    p.Logs collectorReport (p.moveCollector new cause kind tag) := by
  by_cases h : p.faults.state = new
  · rw [moveCollector_same h]
    exact .refl _ p
  · rw [moveCollector_eq h]
    have hto : p.Logs collectorReport (p.collectorTo new).notesChange :=
      (Part.Logs.of_mbx (collectorTo_mbx p new)).andThen (moves_attention (p.collectorTo new) _).logs
    exact hto.andThen (report_logs _ _ _ _ _ _ _ ⟨rfl, rfl⟩)

theorem moveCollector_raised (p : Part) (new : CollectorState) (cause : CollectorCause) (kind : Option FaultKind) (tag : Word) :
    (p.moveCollector new cause kind tag).mbx.raised = p.mbx.raised + if new = p.faults.state then 0 else 1 := by
  by_cases h : p.faults.state = new
  · rw [moveCollector_same h, if_pos h.symm]
    simp
  · rw [moveCollector_eq h, if_neg (Ne.symm h)]
    have hcount : (p.collectorTo new).mbx.raised = p.mbx.raised := by rw [collectorTo_mbx]
    rw [← hcount]
    exact takeReport_raised _ _ _

theorem collectorActivate_eq (p : Part) (k : FaultKind) (x : Reactions) (tag : Word) :
    p.collectorActivate k x.escalate x.ackRequired tag = p.moveCollector (p.faults.state.after x) .activation (some k) tag := by
  unfold Part.collectorActivate CollectorState.after
  cases h : p.faults.state with
  | fault => exact (moveCollector_same h _ _ _).symm
  | alert =>
    dsimp only
    split
    · rfl
    · exact (moveCollector_same h _ _ _).symm
  | normal =>
    dsimp only
    split
    · rfl
    · split
      · rfl
      · exact (moveCollector_same h _ _ _).symm

/-! ### A raise (R158, R161) -/

theorem records_state (p : Part) (x : Raise) : (p.records x).faults.state = p.faults.state := rfl

theorem activates_eq (p : Part) (x : Raise) :
    p.activates x = (p.records x).moveCollector (p.faults.state.after (p.reactions x.kind)) .activation (some x.kind) 0 :=
  collectorActivate_eq (p.records x) x.kind (p.reactions x.kind) 0

theorem evalAlarms_state (p : Part) : p.evalAlarms.faults.state = p.faults.state :=
  ((evalAlarms_moves p).drifts.only .collector (by decide)).1

theorem raise_state (p : Part) (x : Raise) : (p.raise x).faults.state = p.faults.state.after (p.reactions x.kind) := by
  rw [raise_eq, evalAlarms_state]
  refine (holdsOf_same (p.activates x) p x).2.trans ?_
  rw [activates_eq, moveCollector_state]

theorem raise_keepsRecords (p : Part) (x : Raise) : (p.records x).KeepsRecords (p.raise x) := by
  have hactivates : (p.activates x).faults.recs = (p.records x).faults.recs := by
    rw [activates_eq]
    exact (moveCollector_moves _ _ _ _ _).drifts.only .records (by decide)
  rw [raise_eq]
  have hsame : (p.records x).same ((p.activates x).withFaults ((p.activates x).holdsOf p x)) .records :=
    (holdsOf_same (p.activates x) p x).1.trans hactivates
  exact (Part.KeepsRecords.of_same hsame).trans (evalAlarms_keepsRecords _)

theorem raise_get (p : Part) (x : Raise) {k : FaultKind} (hk : k ≠ .alarmOutput) :
    (p.raise x).faults.get k = if k = x.kind then (p.faults.get k).activate p x else p.faults.get k :=
  ((raise_keepsRecords p x).others k hk).trans (records_get p x k)

theorem raise_get_other (p : Part) (x : Raise) {k : FaultKind} (hk : k ≠ .alarmOutput) (hx : k ≠ x.kind) :
    (p.raise x).faults.get k = p.faults.get k := (raise_get p x hk).trans (if_neg hx)

theorem raise_mbx (p : Part) (x : Raise) : (p.raise x).mbx = (p.activates x).mbx := evalAlarms_mbx _

/-- The reports of a raise of a kind. -/
def faultReport (k : FaultKind) (r : ReportRec) : Prop := r.kind = .fault k ∨ collectorReport r

theorem records_logs (p : Part) (x : Raise) : p.Logs (faultReport x.kind) (p.records x) :=
  ((modFault_moves p x.kind _).logs).andThen (report_logs _ _ _ _ _ _ _ (.inl rfl))

theorem raise_logs (p : Part) (x : Raise) : p.Logs (faultReport x.kind) (p.raise x) := by
  have hactivates : p.Logs (faultReport x.kind) (p.activates x) := by
    rw [activates_eq]
    exact (records_logs p x).andThen ((moveCollector_logs _ _ _ _ _).mono fun _ => .inr)
  exact hactivates.andThen (.of_mbx (raise_mbx p x))

theorem raise_raised (p : Part) (x : Raise) : (p.raise x).mbx.raised
    = p.mbx.raised + 1 + if p.faults.state.after (p.reactions x.kind) = p.faults.state then 0 else 1 := by
  rw [raise_mbx, activates_eq, moveCollector_raised, records_state]
  congr 1
  exact takeReport_raised _ _ _

theorem raise_attention (p : Part) (x : Raise) : (p.raise x).mbx.attention = { p.mbx.attention with
    collectorChange := p.mbx.attention.collectorChange
      || decide (p.faults.state ≠ p.faults.state.after (p.reactions x.kind)) } := by
  have hrecords : (p.records x).mbx.attention = p.mbx.attention := records_same p x (y := .attention) (by decide)
  rw [raise_mbx, activates_eq, moveCollector_attention, records_state, hrecords]

/-- A raise reports the activation before the change of collector state that it brings (R161, R162). -/
theorem raise_tells (p : Part) (x : Raise) :
    (p.raise x).mbx.tells (.fault x.kind) x.source.block x.source.inst x.tag x.items := by
  have hrecords : (p.records x).mbx.tells (.fault x.kind) x.source.block x.source.inst x.tag x.items := report_tells _ _ _ _ _ _ _
  rw [raise_mbx, activates_eq]
  exact (moveCollector_logs _ _ _ _ _).keepsTelling (fun r hr => .inl (by simp [hr.1])) hrecords

theorem oneRaise_of_raise (p : Part) (x : Raise) : p.oneRaise (p.raise x) x.kind := by
  refine ⟨raise_state p x, ?_, fun k hk ha => raise_get_other p x ha hk⟩
  rw [raise_raised, raise_state]

/-- Only what these records, the clock and the tables hold counts for the words of an activation. -/
theorem activated_congr {p p' q q' : Part} {k : FaultKind} {s : Source} {items : List Item} (h : p.activated q k s items)
    (hp : p'.faults.get k = p.faults.get k) (hq : q'.faults.get k = q.faults.get k) (hnow : q'.now = q.now)
    (htables : q'.tables = q.tables) : p'.activated q' k s items := by
  unfold Part.activated at h ⊢
  rw [hp, hq, hnow, htables]
  exact h

theorem raise_now (p : Part) (x : Raise) : (p.raise x).now = p.now := (raise_moves p x).drifts.only .now (by decide)

theorem raise_tables (p : Part) (x : Raise) : (p.raise x).tables = p.tables := (raise_moves p x).drifts.only .tables (by decide)

theorem activated_of_record {p q : Part} {x : Raise} (h : q.faults.get x.kind = (p.faults.get x.kind).activate p x)
    (hnow : q.now = p.now) (htables : q.tables = p.tables) : p.activated q x.kind x.source x.items := by
  unfold Part.activated
  rw [h, hnow, htables]
  refine ⟨rfl, rfl, rfl, rfl, rfl, rfl, rfl, rfl, fun hedge => ?_, fun hedge => ?_⟩
  · simp [FaultRec.activate, hedge, Part.startTimer, timerFrom, word]
  · simp only [FaultRec.activate, hedge, Bool.false_or]
    by_cases hin : (p.faults.get x.kind).sources.contains x.source
    · simp only [hin, if_true]
      exact ⟨by simpa using hin, fun _ hy => hy⟩
    · simp only [hin, if_false, Bool.false_eq_true]
      exact ⟨by simp, fun y hy => List.mem_append_left _ hy⟩

theorem activated_of_raise (p : Part) (x : Raise) (hk : x.kind ≠ .alarmOutput := by decide) :
    p.activated (p.raise x) x.kind x.source x.items :=
  activated_of_record ((raise_get p x hk).trans (if_pos rfl)) (raise_now p x) (raise_tables p x)

end Sys2Proof.Machine

/-! ## The walkers' completions (R3 to R14, R24)

Each step of a walker is described once, as an operation of the part; the statements about the completion commands follow by freeing
the port first. -/

namespace Sys2Proof.Machine

/-! ### Chains beside reports -/

theorem Part.Logs.chain_of_ne {P : ReportRec → Prop} {p q : Part} (h : p.Logs P q) {c : Chain} (hc : c ≠ .report) :
    q.mbx.chains.get c = p.mbx.chains.get c := h.nudges.touches.only.1 c hc

theorem Part.Logs.chain {P : ReportRec → Prop} {p q : Part} (h : p.Logs P q) {c : Chain}
    (hc : (p.mbx.chains.get c).state ≠ .parked) : q.mbx.chains.get c = p.mbx.chains.get c := by
  by_cases hr : c = .report
  · subst hr
    exact (h.nudges.rouses.busy hc).chain
  · exact h.chain_of_ne hr

theorem Part.Logs.cursor {P : ReportRec → Prop} {p q : Part} (h : p.Logs P q) (c : Chain) :
    (q.mbx.chains.get c).cursor = (p.mbx.chains.get c).cursor := by
  by_cases hr : c = .report
  · subst hr
    exact h.nudges.cursor
  · rw [h.chain_of_ne hr]

/-! ### Breaks (R10, R11) -/

/-- The chain's record at its break, before the raise (R11). -/
def Part.chainBreaks (p : Part) (c : Chain) : Part :=
  { p with mbx := { (p.mbx.unmarkIf c).setChain c (p.mbx.chains.get c).broken with
      attention := { ((p.mbx.unmarkIf c).setChain c (p.mbx.chains.get c).broken).attention with chainBroken := true } } }

/-- The raise of a break (R11). -/
def breakRaise (r : ChainRec) (c : Chain) (phase : BreakPhase) : Raise :=
  { kind := .chainBroken, source := { block := .mailboxPort, inst := chainNumber c },
    items := [.large (r.cursor.getD 0), .small (breakPhaseCode phase)] }

theorem breakChain_eq (p : Part) (c : Chain) (phase : BreakPhase) :
    p.breakChain c phase = (p.chainBreaks c).raise (breakRaise (p.mbx.chains.get c) c phase) := rfl

theorem unmarkIf_chains (m : Mailbox) (c : Chain) : (m.unmarkIf c).chains = m.chains := by
  unfold Mailbox.unmarkIf; split <;> rfl

theorem unmarkIf_port (m : Mailbox) (c : Chain) : (m.unmarkIf c).port = m.port := by
  unfold Mailbox.unmarkIf; split <;> rfl

theorem unmarkIf_raised (m : Mailbox) (c : Chain) : (m.unmarkIf c).raised = m.raised := by
  unfold Mailbox.unmarkIf; split <;> rfl

theorem chainBreaks_chain (p : Part) (c : Chain) : (p.chainBreaks c).mbx.chains.get c = (p.mbx.chains.get c).broken :=
  setChain_get _ _ _

theorem chainBreaks_raised (p : Part) (c : Chain) : (p.chainBreaks c).mbx.raised = p.mbx.raised := unmarkIf_raised p.mbx c

theorem breakChain_chain (p : Part) (c : Chain) (phase : BreakPhase) :
    (p.breakChain c phase).mbx.chains.get c = (p.mbx.chains.get c).broken := by
  have hbroken := chainBreaks_chain p c
  rw [breakChain_eq, (raise_logs (p.chainBreaks c) _).chain (by rw [hbroken]; exact ChainState.noConfusion), hbroken]

theorem breakChain_chain_other (p : Part) {c d : Chain} (phase : BreakPhase) (hd : d ≠ c) (hr : d ≠ .report) :
    (p.breakChain c phase).mbx.chains.get d = p.mbx.chains.get d := by
  rw [breakChain_eq, (raise_logs (p.chainBreaks c) _).chain_of_ne hr]
  exact (setChain_get_other _ _ _ _ hd).trans (by rw [unmarkIf_chains])

theorem breakChain_broke (p : Part) (c : Chain) (phase : BreakPhase) : p.brokeChain (p.breakChain c phase) c phase := by
  have hactivated := activated_of_raise (p.chainBreaks c) (breakRaise (p.mbx.chains.get c) c phase)
    (show FaultKind.chainBroken ≠ .alarmOutput by decide)
  have hattention := raise_attention (p.chainBreaks c) (breakRaise (p.mbx.chains.get c) c phase)
  unfold Part.brokeChain
  rw [breakChain_chain]
  exact ⟨rfl, rfl, rfl, rfl, rfl, rfl, by rw [breakChain_eq, hattention]; rfl,
    activated_congr hactivated rfl rfl rfl rfl⟩

theorem breakChain_oneRaise (p : Part) (c : Chain) (phase : BreakPhase) : p.oneRaise (p.breakChain c phase) .chainBroken := by
  obtain ⟨hstate, hraised, hothers⟩ := oneRaise_of_raise (p.chainBreaks c) (breakRaise (p.mbx.chains.get c) c phase)
  rw [chainBreaks_raised] at hraised
  exact ⟨hstate, hraised, hothers⟩

/-! ### Moves of a chain (R7, R10) -/

/-- The chain's cursor is set down. -/
def Part.cursorAt (p : Part) (c : Chain) (cursor : Option Word) : Part :=
  { p with mbx := p.mbx.setChain c { p.mbx.chains.get c with cursor := cursor } }

theorem cursorAt_chain (p : Part) (c : Chain) (cursor : Option Word) :
    (p.cursorAt c cursor).mbx.chains.get c = { p.mbx.chains.get c with cursor := cursor } := setChain_get _ _ _

theorem cursorAt_moves (p : Part) (c : Chain) (cursor : Option Word) : p.Moves [.chains, .port] (p.cursorAt c cursor) :=
  moves_walk (setChain_walks p.mbx c _)

/-- A chain that would park at a cursor set down first. -/
theorem cursorAt_wouldPark {p : Part} {b : Word} (hb : p.mbx.base = some b) (c : Chain) (cursor : Option Word) (w : Wait) :
    ((p.cursorAt c cursor).parkChain c w).wouldPark (p.mbx.chains.get c) c b cursor w := by
  have hpark := parkChain_wouldPark (p.cursorAt c cursor) c w b hb
  rw [cursorAt_chain] at hpark
  exact hpark

theorem wouldPark_of_cursor {p : Part} {b x : Word} (hb : p.mbx.base = some b) {c : Chain}
    (hx : (p.mbx.chains.get c).cursor = some x) (w : Wait) :
    (p.parkChain c w).wouldPark (p.mbx.chains.get c) c b (some x) w := hx ▸ parkChain_wouldPark p c w b hb

theorem parkChain_onlyChain (p : Part) (c : Chain) (w : Wait) : p.mbx.onlyChain c (p.parkChain c w).mbx :=
  park_onlyChain p p.mbx c w

theorem cursorAt_onlyChain (p : Part) (c : Chain) (cursor : Option Word) (w : Wait) :
    p.mbx.onlyChain c ((p.cursorAt c cursor).parkChain c w).mbx :=
  onlyChain_trans (setChain_onlyChain p.mbx c _) (parkChain_onlyChain (p.cursorAt c cursor) c w)

theorem noRecord_iff (m : Mailbox) (c : Chain) : m.noRecord c = true ↔ c = .report ∧ m.holding = [] := by
  simp [Mailbox.noRecord]

theorem moveTo_eq (p : Part) (c : Chain) (a : Word) : p.moveTo c a =
    if p.mbx.noRecord c then (p.cursorAt c (some a)).parkChain c .record else p.walkTo c a := rfl

theorem moveTo_goesTo {p : Part} {b : Word} (hb : p.mbx.base = some b) (c : Chain) (a : Word) :
    (p.moveTo c a).goesTo (p.mbx.chains.get c) c b a := by
  have hholding : (p.moveTo c a).mbx.holding = p.mbx.holding := ((moveTo_moves p c a).drifts.only .reports (by decide)).1
  unfold Part.goesTo
  rw [hholding, moveTo_eq]
  by_cases hnone : p.mbx.noRecord c = true
  · rw [if_pos hnone, if_pos ((noRecord_iff p.mbx c).mp hnone)]
    exact cursorAt_wouldPark hb c (some a) .record
  · rw [if_neg hnone, if_neg (mt (noRecord_iff p.mbx c).mpr hnone)]
    exact readHeader_reads p.mbx c a .headerRead

theorem walkTo_onlyChain (p : Part) (c : Chain) (a : Word) : p.mbx.onlyChain c (p.walkTo c a).mbx :=
  readHeader_onlyChain p.mbx c a .headerRead

theorem moveTo_onlyChain (p : Part) (c : Chain) (a : Word) : p.mbx.onlyChain c (p.moveTo c a).mbx := by
  rw [moveTo_eq]
  split
  · exact cursorAt_onlyChain p c (some a) .record
  · exact walkTo_onlyChain p c a

theorem validAddress_eq {p : Part} {b : Word} (hb : p.mbx.base = some b) (a : Word) : p.validAddress a = validCard b a := by
  rw [Part.validAddress, hb]

/-! ### Completions -/

theorem completes_of {m : Mailbox} {a : Access} {op : PortOp} {c : Chain} {phase : WalkPhase} (hfly : m.port.inFlight = some a)
    (hop : a.op = op) (hphase : (m.chains.get c).phase = phase) : m.completes c op phase = true := by
  simp [Mailbox.completes, Mailbox.inFlightIs, hfly, hop, hphase]

/-- A step of the walker after the port is freed: only the chain's own record and request (R14). -/
theorem freed_only {p q : Part} (h : p.freePort.Moves [.chains, .port] q) : p.onlyChanges [.chains, .port] q :=
  ((partFreePort_moves p).andThen h).drifts.only

theorem freed_breaks {p q : Part} (h : p.freePort.Moves breakPieces q) : p.onlyChanges breakPieces q :=
  ((partFreePort_moves p).mono.andThen h).drifts.only

/-- A command whose event leaves the auxiliaries alone. -/
theorem exec_of_moves {c : Instr} {s : State} {f : Part → Part} (hexec : exec c s = s.event f) {q : Part} (hq : f s.part = q)
    {xs : List Piece} (h : s.part.Moves xs q) (hx : xs.contains .aux = false := by decide) :
    exec c s = .next { s with part := q.settle } := by
  rw [hexec, event_moves s f (hq ▸ h) hx, hq]

/-- Settles O22, which holds: the three branches of `takeAnchor`. -/
theorem anchorEntryPlacesTheCursor : Obligations.AnchorEntryPlacesTheCursor := by
  intro s c entry b a hfly hop hphase hb
  have hdone : s.part.anchorDone c entry = s.part.freePort.takeAnchor c entry :=
    if_pos (completes_of hfly hop hphase)
  have hbase : s.part.freePort.mbx.base = some b := hb
  refine ⟨_, exec_of_moves (exec_anchorReadComplete c entry s) hdone (hdone ▸ anchorDone_moves s.part c entry), ?_, ?_, ?_, ?_⟩
  · intro hzero
    rw [Part.takeAnchor, if_pos hzero]
    exact cursorAt_wouldPark hbase c none .link
  · intro hne hvalid
    rw [Part.takeAnchor, if_neg hne, validAddress_eq hbase, if_pos hvalid]
    exact moveTo_goesTo hbase c entry
  · intro hor
    by_cases hzero : entry = 0
    · rw [Part.takeAnchor, if_pos hzero]
      exact ⟨cursorAt_onlyChain s.part.freePort c none .link,
        freed_only ((cursorAt_moves _ c none).andThen (parkChain_moves _ c .link))⟩
    · rw [Part.takeAnchor, if_neg hzero, validAddress_eq hbase, if_pos (hor.resolve_left hzero)]
      exact ⟨moveTo_onlyChain s.part.freePort c entry, freed_only (moveTo_moves _ c entry)⟩
  · intro hne hvalid
    rw [Part.takeAnchor, if_neg hne, validAddress_eq hbase, if_neg (by simp [hvalid])]
    exact ⟨breakChain_broke s.part.freePort c .anchor, breakChain_oneRaise s.part.freePort c .anchor,
      freed_breaks (breakChain_moves _ c .anchor)⟩

/-! ### Header reads (R6, R8) -/

theorem headerDone_eq {p : Part} {a : Access} {c : Chain} (h : Header) {phase : WalkPhase} (hfly : p.mbx.port.inFlight = some a)
    (hop : a.op = .headerRead c) (hphase : (p.mbx.chains.get c).phase = phase) (hreads : phase.readsHeader = true) :
    p.headerDone c h = p.freePort.takeHeader c h phase := by
  have hin : p.mbx.inFlightIs (.headerRead c) = true := by simp [Mailbox.inFlightIs, hfly, hop]
  rw [Part.headerDone, hphase]
  exact if_pos (by rw [hin, hreads]; rfl)

theorem walk_requests (p : Part) (c : Chain) (r : ChainRec) (a : Access) (h : a.op ≠ .dataWrite .report) :
    (p.walk c r a).mbx.port.requests a := place_requests _ a h

theorem walk_chain (p : Part) (c : Chain) (r : ChainRec) (a : Access) : (p.walk c r a).mbx.chains.get c = r := by
  rw [Part.walk, place_chains, setChain_get]

theorem walk_onlyChain (p : Part) (c : Chain) (r : ChainRec) (a : Access) (h : a.op.requester = chainRequester c) :
    p.mbx.onlyChain c (p.walk c r a).mbx :=
  onlyChain_trans (setChain_onlyChain p.mbx c r)
    ⟨fun d _ => by rw [Part.walk, place_chains], fun q hq => place_waiting _ a q (by rw [h]; exact hq)⟩

theorem address_of_cursor {r : ChainRec} {x : Word} (h : r.cursor = some x) : r.address = x := by
  rw [ChainRec.address, h, Option.getD_some]

/-- A header that is acted on by its owner field, for the phases that do so. -/
theorem takeHeader_byOwner (p : Part) (c : Chain) (h : Header) {phase : WalkPhase}
    (hphase : phase ∈ [WalkPhase.headerRead, .rescanRead .owner, .rescanRead .record]) :
    p.takeHeader c h phase = p.byOwner c h := by
  simp only [List.mem_cons, List.not_mem_nil, or_false] at hphase
  obtain rfl | rfl | rfl := hphase <;> rfl

theorem byOwner_onlyChain (p : Part) (c : Chain) (h : Header) : p.mbx.onlyChain c (p.byOwner c h).mbx := by
  unfold Part.byOwner
  split
  · split
    · exact parkChain_onlyChain p c .record
    · exact walk_onlyChain p c _ _ rfl
  · exact parkChain_onlyChain p c .owner

theorem byOwner_walks (p : Part) (c : Chain) (h : Header) : p.Moves [.chains, .port] (p.byOwner c h) := by
  unfold Part.byOwner
  split
  · split
    · exact parkChain_moves p c .record
    · exact walk_moves p c _ _
  · exact parkChain_moves p c .owner

/-- Settles O23, which holds: the branches of `byOwner`. -/
theorem headerReadActsOnTheOwnerField : Obligations.HeaderReadActsOnTheOwnerField := by
  intro s c h b x a phase hfly hop hphase hmem hb hx
  have hreads : phase.readsHeader = true := by
    simp only [List.mem_cons, List.not_mem_nil, or_false] at hmem
    obtain rfl | rfl | rfl := hmem <;> rfl
  have hdone : s.part.headerDone c h = s.part.freePort.byOwner c h :=
    (headerDone_eq h hfly hop hphase hreads).trans (takeHeader_byOwner _ c h hmem)
  have hbase : s.part.freePort.mbx.base = some b := hb
  have hcursor : (s.part.freePort.mbx.chains.get c).cursor = some x := hx
  refine ⟨_, exec_of_moves (exec_headerReadComplete c h s) hdone (hdone ▸ headerDone_moves s.part c h), ?_, ?_, ?_,
    byOwner_onlyChain s.part.freePort c h, freed_only (byOwner_walks _ c h)⟩
  · intro hposted
    rw [Part.byOwner, if_neg (by simp [hposted])]
    exact wouldPark_of_cursor hbase hcursor .owner
  · intro hposted hreport hnone
    rw [Part.byOwner, if_pos hposted, if_pos ((noRecord_iff s.part.freePort.mbx c).mpr ⟨hreport, hnone⟩)]
    exact wouldPark_of_cursor hbase hcursor .record
  · intro hposted hrecord
    rw [Part.byOwner, if_pos hposted, if_neg]
    · unfold Part.writeTaken
      dsimp only
      refine ⟨?_, ?_, ?_, ?_⟩
      · rw [walk_chain]
      · rw [walk_chain]
      · rw [walk_chain]; rfl
      · rw [address_of_cursor hcursor]
        exact walk_requests _ c _ _ (by simp)
    · intro hnone
      obtain ⟨hreport, hempty⟩ := (noRecord_iff s.part.freePort.mbx c).mp hnone
      exact hrecord.elim (fun hne => hne hreport) (fun hne => hne hempty)

/-- Settles O24, which holds: the branches of `follow`. -/
theorem rescanForLinkFollowsTheNextCard : Obligations.RescanForLinkFollowsTheNextCard := by
  intro s c h b x a hfly hop hphase hb hx
  have hdone : s.part.headerDone c h = s.part.freePort.follow c h.next Part.walkTo := headerDone_eq h hfly hop hphase rfl
  have hbase : s.part.freePort.mbx.base = some b := hb
  have hcursor : (s.part.freePort.mbx.chains.get c).cursor = some x := hx
  refine ⟨_, exec_of_moves (exec_headerReadComplete c h s) hdone (hdone ▸ headerDone_moves s.part c h), ?_, ?_, ?_, ?_⟩
  · intro hzero
    rw [Part.follow, if_pos hzero]
    exact wouldPark_of_cursor hbase hcursor .link
  · intro hne hvalid
    rw [Part.follow, if_neg hne, validAddress_eq hbase, if_pos hvalid]
    refine ⟨readHeader_reads s.part.freePort.mbx c h.next .headerRead, ?_⟩
    rw [Part.walkTo, Mailbox.readHeader, place_chains, setChain_get]
    rfl
  · intro hor
    by_cases hzero : h.next = 0
    · rw [Part.follow, if_pos hzero]
      exact ⟨parkChain_onlyChain s.part.freePort c .link, freed_only (parkChain_moves _ c .link)⟩
    · rw [Part.follow, if_neg hzero, validAddress_eq hbase, if_pos (hor.resolve_left hzero)]
      exact ⟨walkTo_onlyChain s.part.freePort c h.next, freed_only (walkTo_moves _ c h.next)⟩
  · intro hne hvalid
    rw [Part.follow, if_neg hne, validAddress_eq hbase, if_neg (by simp [hvalid])]
    exact ⟨breakChain_broke s.part.freePort c .link, breakChain_oneRaise s.part.freePort c .link,
      freed_breaks (breakChain_moves _ c .link)⟩

/-! ### The generic checks (R4) -/

/-- Settles O27, which holds: the branches of `verdictOn`. -/
theorem genericChecksInOrder : Obligations.GenericChecksInOrder := by
  rintro p c card rfl
  refine ⟨fun hcheck => if_pos hcheck, fun hcheck => ⟨fun hkind => ?_, fun k hkind => ⟨fun hhalt hcontrol hk => ?_, fun hor => ?_⟩⟩⟩
  · rw [Part.verdictOn, if_neg (not_not_intro hcheck), hkind]
    rfl
  · rw [Part.verdictOn, if_neg (not_not_intro hcheck), hkind]
    have hin : (!k.inHalt) = true := by revert hk; cases k <;> decide
    exact if_pos ⟨hhalt, hcontrol, hin⟩
  · rw [Part.verdictOn, if_neg (not_not_intro hcheck), hkind]
    refine if_neg fun ⟨hhalt, hcontrol, hin⟩ => ?_
    obtain hmode | hchain | hk := hor
    · exact hmode hhalt
    · exact hchain hcontrol
    · revert hk hin; cases k <;> decide

end Sys2Proof.Machine

/-! ## The outcome of a card and the report cards (R3, R7, R14, R22 to R24) -/

namespace Sys2Proof.Machine

/-! ### The writes of a decided card (R3, R14) -/

/-- A request whose data its grant does not replace is made with its data. -/
theorem place_requests_of_atGrant {m : Mailbox} {a : Access} (h : m.atGrant a = a) : (m.place a).port.requests a := by
  unfold Mailbox.place Port.requests
  split
  · exact .inl (congrArg some h)
  · right
    cases a.op.requester <;> rfl

theorem writeData_of_none {p : Part} {c : Chain} (h : (p.mbx.chains.get c).card.dataLeft.take 16 = []) :
    p.writeData c = p.writeDetail c := if_pos h

theorem writeData_of_some {p : Part} {c : Chain} (h : (p.mbx.chains.get c).card.dataLeft.take 16 ≠ []) :
    p.writeData c = p.walk c { p.mbx.chains.get c with phase := .dataWrite }
      { op := .dataWrite c, addr := (p.mbx.chains.get c).address + 20 + word (4 * (p.mbx.chains.get c).card.dataDone),
        len := ((p.mbx.chains.get c).card.dataLeft.take 16).length, data := (p.mbx.chains.get c).card.dataLeft.take 16 } := if_neg h

theorem writeDetail_writes {p : Part} {c : Chain} {x : Word} (hx : (p.mbx.chains.get c).cursor = some x) :
    ((p.writeDetail c).mbx.chains.get c).phase = .detailWrite
      ∧ (p.writeDetail c).mbx.port.requests
          { op := .detailWrite c, addr := x + 16, len := 1, data := [(p.mbx.chains.get c).card.detail] } := by
  unfold Part.writeDetail
  dsimp only
  rw [walk_chain, address_of_cursor hx]
  exact ⟨rfl, walk_requests p c _ _ (by simp)⟩

theorem writeData_onlyChain (p : Part) (c : Chain) : p.mbx.onlyChain c (p.writeData c).mbx := by
  unfold Part.writeData Part.writeDetail
  dsimp only
  split
  · exact walk_onlyChain p c _ _ rfl
  · exact walk_onlyChain p c _ _ rfl

theorem writeData_card (p : Part) (c : Chain) : ((p.writeData c).mbx.chains.get c).card = (p.mbx.chains.get c).card := by
  unfold Part.writeData Part.writeDetail
  dsimp only
  split <;> rw [walk_chain]

theorem take_eq_nil_of_pos {α : Type} {xs : List α} {n : Nat} (hn : n ≠ 0) : xs.take n = [] ↔ xs = [] := by
  simp [List.take_eq_nil_iff, hn]

/-- The card's record with its verdict (R3). -/
def ChainRec.decided (r : ChainRec) (v : Verdict) : ChainRec :=
  { r with card := { r.card with result := v.result, detail := v.detail, dataLeft := v.data, dataDone := 0 } }

/-- A chain's record replaced. -/
def Part.withChain (p : Part) (c : Chain) (r : ChainRec) : Part := { p with mbx := p.mbx.setChain c r }

theorem withChain_chain (p : Part) (c : Chain) (r : ChainRec) : (p.withChain c r).mbx.chains.get c = r := setChain_get _ _ _

theorem withChain_onlyChain (p : Part) (c : Chain) (r : ChainRec) : p.mbx.onlyChain c (p.withChain c r).mbx :=
  setChain_onlyChain p.mbx c r

theorem withChain_moves (p : Part) (c : Chain) (r : ChainRec) : p.Moves [.chains, .port] (p.withChain c r) :=
  moves_walk (setChain_walks p.mbx c r)

/-- The verdict is kept with the card (R3). -/
def Part.keepsVerdict (p : Part) (c : Chain) (v : Verdict) : Part := p.withChain c ((p.mbx.chains.get c).decided v)

theorem finish_eq (p : Part) (c : Chain) (v : Verdict) : p.finish c v = (p.keepsVerdict c v).writeData c := rfl

theorem keepsVerdict_chain (p : Part) (c : Chain) (v : Verdict) :
    (p.keepsVerdict c v).mbx.chains.get c = (p.mbx.chains.get c).decided v := setChain_get _ _ _

theorem finish_onlyChain (p : Part) (c : Chain) (v : Verdict) : p.mbx.onlyChain c (p.finish c v).mbx :=
  onlyChain_trans (setChain_onlyChain p.mbx c _) (writeData_onlyChain (p.keepsVerdict c v) c)

/-- A burst of returned data is written as it was handed over, but for a report's, which the grant reads anew (R24). -/
def Mailbox.writesAsGiven (m : Mailbox) (c : Chain) (data : List Word) : Prop :=
  ∀ a : Access, a.op = .dataWrite c → a.data = data → m.atGrant a = a

theorem writesAsGiven_of_ne (m : Mailbox) {c : Chain} (hc : c ≠ .report) (data : List Word) : m.writesAsGiven c data := by
  intro a hop _
  unfold Mailbox.atGrant
  rw [hop]
  cases c
  case report => exact absurd rfl hc
  all_goals rfl

theorem finish_writesOutcome {p : Part} {c : Chain} {x : Word} {v : Verdict} (hx : (p.mbx.chains.get c).cursor = some x)
    (hdata : v.data = [] ∨ p.mbx.writesAsGiven c (v.data.take 16)) : (p.finish c v).mbx.writesOutcome c x v := by
  have hkept := keepsVerdict_chain p c v
  have hcursor : ((p.keepsVerdict c v).mbx.chains.get c).cursor = some x := by rw [hkept]; exact hx
  have hleft : ((p.keepsVerdict c v).mbx.chains.get c).card.dataLeft = v.data := by rw [hkept]; rfl
  have hdetail : ((p.keepsVerdict c v).mbx.chains.get c).card.detail = v.detail := by rw [hkept]; rfl
  have hcard : ((p.finish c v).mbx.chains.get c).card = ((p.mbx.chains.get c).decided v).card := by
    rw [finish_eq, writeData_card, hkept]
  refine ⟨by rw [hcard]; rfl, by rw [hcard]; rfl, fun hnone => ?_, fun hsome => ?_⟩
  · rw [finish_eq, writeData_of_none (by rw [hleft, hnone]; rfl), ← hdetail]
    exact writeDetail_writes hcursor
  · have hburst : ((p.keepsVerdict c v).mbx.chains.get c).card.dataLeft.take 16 ≠ [] := by
      rw [hleft]
      exact mt (take_eq_nil_of_pos (by decide)).mp hsome
    have hgiven := hdata.resolve_left hsome
    rw [finish_eq, writeData_of_some hburst, walk_chain, hleft, address_of_cursor hcursor, hkept]
    refine ⟨rfl, ?_⟩
    have hzero : x + 20 + word (4 * ((p.mbx.chains.get c).decided v).card.dataDone) = x + 20 := BitVec.add_zero _
    rw [hzero]
    exact place_requests_of_atGrant (hgiven _ rfl rfl)

/-- Settles O30, which holds. -/
theorem outcomeIsWrittenInOrder : Obligations.OutcomeIsWrittenInOrder := by
  rintro s c x r a hfly rfl hx
  refine ⟨fun hop hphase => ?_, fun hop hphase => ?_⟩
  · have hdone : s.part.dataDone c = (s.part.freePort.withChain c (s.part.mbx.chains.get c).dropData).writeData c :=
      if_pos (completes_of hfly hop hphase)
    have hchain := withChain_chain s.part.freePort c (s.part.mbx.chains.get c).dropData
    have hcursor : ((s.part.freePort.withChain c (s.part.mbx.chains.get c).dropData).mbx.chains.get c).cursor = some x := by
      rw [hchain]; exact hx
    refine ⟨_, exec_of_moves (exec_cardDataWriteComplete c s) hdone (hdone ▸ dataDone_moves s.part c), fun hnone => ?_,
      fun hc hsome => ?_, onlyChain_trans (withChain_onlyChain s.part.freePort c _) (writeData_onlyChain _ c),
      freed_only ((withChain_moves _ c _).andThen (writeData_moves _ c))⟩
    · rw [writeData_of_none (by rw [hchain]; exact (take_eq_nil_of_pos (by decide)).mpr hnone)]
      have hwrites := writeDetail_writes hcursor
      rw [hchain] at hwrites
      exact hwrites
    · rw [writeData_of_some (by rw [hchain]; exact mt (take_eq_nil_of_pos (by decide)).mp hsome), walk_chain,
        address_of_cursor hcursor, hchain]
      exact ⟨rfl, walk_requests _ c _ _ (by simpa using hc)⟩
  · have hdone : s.part.detailDone c = s.part.freePort.writeOwner c := if_pos (completes_of hfly hop hphase)
    have hcursor : (s.part.freePort.mbx.chains.get c).cursor = some x := hx
    refine ⟨_, exec_of_moves (exec_detailWriteComplete c s) hdone (hdone ▸ detailDone_moves s.part c), ?_⟩
    unfold Part.writeOwner
    dsimp only
    rw [walk_chain, address_of_cursor hcursor]
    exact ⟨rfl, walk_requests _ c _ _ (by simp), walk_onlyChain s.part.freePort c _ _ rfl, freed_only (walk_moves _ c _ _)⟩

/-! ### Report cards (R24) -/

theorem reportWords_length (r : ReportRec) : (reportWords r).length = 4 + r.details.length := by
  simp only [reportWords, List.length_cons]
  omega

/-- The oldest held record is marked as being written. -/
def Part.marksOldest (p : Part) : Part := { p with mbx := { p.mbx with holding := markOldest p.mbx.holding } }

theorem badPayload_iff {p : Part} {b x : Word} {c : Chain} (hb : p.mbx.base = some b) (hx : (p.mbx.chains.get c).cursor = some x) :
    p.badPayload c = true ↔ 124 < headerLength (p.mbx.chains.get c).card.header
      ∨ runsPast b x (headerLength (p.mbx.chains.get c).card.header) = true := by
  simp [Part.badPayload, hb, address_of_cursor hx]

theorem marksOldest_writesAsGiven {p : Part} {oldest : ReportRec} {rest : List ReportRec} (h : p.mbx.holding = oldest :: rest) :
    p.marksOldest.mbx.writesAsGiven .report (reportWords oldest) := by
  intro a hop hdata
  have hmarked : p.marksOldest.mbx.holding = { oldest with beingWritten := true } :: rest := by
    rw [Part.marksOldest, h]; rfl
  unfold Mailbox.atGrant
  rw [hop, hmarked]
  have hsame : ({ a with data := reportWords oldest } : Access) = a := by rw [← hdata]
  have hop' : ({ a with data := reportWords oldest } : Access) = { a with op := .dataWrite .report, data := reportWords oldest } := by
    rw [← hop]
  exact hop'.symm.trans hsame

theorem fillReport_of_held {p : Part} {oldest : ReportRec} {rest : List ReportRec} (h : p.mbx.holding = oldest :: rest) :
    p.fillReport =
      if p.badPayload .report || decide (headerLength p.mbx.chains.report.card.header < (reportWords oldest).length)
      then p.finish .report { result := .badLength }
      else p.marksOldest.finish .report { result := .ok, detail := word (reportWords oldest).length, data := reportWords oldest } := by
  unfold Part.fillReport
  split
  next hnil => exact absurd (h.symm.trans hnil) (List.cons_ne_nil _ _)
  next first others hfirst =>
    obtain rfl : first = oldest := (List.cons_eq_cons.mp (hfirst.symm.trans h)).1
    rfl

/-- Settles O29, which holds. -/
theorem reportCardTakesTheOldestRecord : Obligations.ReportCardTakesTheOldestRecord := by
  rintro s b x r a oldest rest hfly hop rfl hphase hb hx hheld
  have hdone : s.part.takenDone .report = s.part.freePort.fillReport := by
    rw [Part.takenDone, if_pos (completes_of (c := .report) hfly hop hphase), if_pos rfl]
  have hcursor : (s.part.freePort.mbx.chains.get .report).cursor = some x := hx
  have hbad : s.part.freePort.badPayload .report = true ↔ 124 < headerLength s.part.mbx.chains.report.card.header
      ∨ runsPast b x (headerLength s.part.mbx.chains.report.card.header) = true :=
    badPayload_iff (p := s.part.freePort) (c := .report) hb hcursor
  have hlen := reportWords_length oldest
  have hfill : s.part.freePort.fillReport =
      if s.part.freePort.badPayload .report || decide (headerLength s.part.mbx.chains.report.card.header < (reportWords oldest).length)
      then s.part.freePort.finish .report { result := .badLength }
      else s.part.freePort.marksOldest.finish .report
        { result := .ok, detail := word (reportWords oldest).length, data := reportWords oldest } :=
    fillReport_of_held (rest := rest) hheld
  have hmoves : s.part.Moves [.reports, .chains, .port, .attention] s.part.freePort.fillReport :=
    (partFreePort_moves s.part).mono.andThen (fillReport_moves _)
  refine ⟨_, exec_of_moves (exec_takenWriteComplete .report s) hdone hmoves, ?_, ?_, ?_⟩
  · rw [hfill]
    split
    · exact finish_onlyChain s.part.freePort .report _
    · exact finish_onlyChain s.part.freePort.marksOldest .report _
  · intro hor
    have hrefused : (s.part.freePort.badPayload .report
        || decide (headerLength s.part.mbx.chains.report.card.header < (reportWords oldest).length)) = true := by
      rw [Bool.or_eq_true, hbad, decide_eq_true_eq, hlen]
      exact or_assoc.mpr hor
    rw [hfill, if_pos hrefused]
    exact ⟨finish_writesOutcome hcursor (.inl rfl), freed_only (finish_moves _ _ _)⟩
  · intro hlength hwindow hfits hdetails
    have htaken : ¬ (s.part.freePort.badPayload .report
        || decide (headerLength s.part.mbx.chains.report.card.header < (reportWords oldest).length)) = true := by
      rw [Bool.or_eq_true, hbad, decide_eq_true_eq, hlen]
      rintro ((habove | hpast) | hshort)
      · exact absurd hlength (Nat.not_le.mpr habove)
      · exact absurd (hwindow.symm.trans hpast) (by decide)
      · omega
    have htake : (reportWords oldest).take 16 = reportWords oldest := List.take_of_length_le (by omega)
    have hwrites : s.part.freePort.marksOldest.mbx.writesAsGiven .report ((reportWords oldest).take 16) := by
      rw [htake]
      exact marksOldest_writesAsGiven (rest := rest) hheld
    have hmoves := (finish_moves s.part.freePort.marksOldest .report
      { result := .ok, detail := word (reportWords oldest).length, data := reportWords oldest }).drifts.only
    obtain ⟨hholding, -, hraised, hwritten, hdropped⟩ := hmoves .reports (by decide)
    rw [hfill, if_neg htaken, hholding, hraised, hwritten, hdropped, ← hlen]
    refine ⟨congrArg markOldest hheld, finish_writesOutcome hcursor (.inr hwrites), rfl, rfl, rfl, ?_⟩
    have hmark : s.part.onlyChanges [.reports, .chains, .port] s.part.freePort.marksOldest := by
      intro y hy
      cases y <;> simp_all [Part.same, Part.marksOldest, Part.freePort, Mailbox.freePort]
    exact hmark.andThen hmoves

/-! ### Finished cards (R7, R10, R23, R24) -/

theorem brokeChain_congr {p p' q : Part} {c : Chain} {phase : BreakPhase} (h : p.brokeChain q c phase)
    (hchains : p'.mbx.chains = p.mbx.chains) (hfaults : p'.faults = p.faults) : p'.brokeChain q c phase := by
  unfold Part.brokeChain at h ⊢
  rw [hchains]
  obtain ⟨h1, h2, h3, h4, h5, h6, h7, hactivated⟩ := h
  exact ⟨h1, h2, h3, h4, h5, h6, h7, activated_congr hactivated (by rw [hfaults]) rfl rfl rfl⟩

theorem reportWritten_of_ne (p : Part) {c : Chain} (h : c ≠ .report) : p.reportWritten c = p := if_neg fun ⟨hc, _⟩ => h hc

/-- A report card written DONE changes the holding list, its counts and REPORT_WRITTEN, and no chain (R24). -/
theorem reportWritten_rest (p : Part) (c : Chain) : (p.reportWritten c).mbx.chains = p.mbx.chains
    ∧ (p.reportWritten c).mbx.port = p.mbx.port ∧ (p.reportWritten c).mbx.base = p.mbx.base
    ∧ (p.reportWritten c).faults = p.faults ∧ (p.reportWritten c).tables = p.tables
    ∧ (p.reportWritten c).mbx.raised = p.mbx.raised ∧ (p.reportWritten c).mbx.dropped = p.mbx.dropped := by
  unfold Part.reportWritten
  split <;> exact ⟨rfl, rfl, rfl, rfl, rfl, rfl, rfl⟩

theorem onlyChain_of_same {c : Chain} {m m' n : Mailbox} (hchains : m'.chains = m.chains) (hport : m'.port = m.port)
    (h : m'.onlyChain c n) : m.onlyChain c n := by
  obtain ⟨hother, hwait⟩ := h
  rw [hchains] at hother
  rw [hport] at hwait
  exact ⟨hother, hwait⟩

/-- The part once a card's last write is done (R23, R24). -/
def Part.cardWritten (p : Part) (c : Chain) : Part := p.freePort.reportWritten c

theorem ownerDone_eq {p : Part} {a : Access} {c : Chain} {r : ChainRec} (hfly : p.mbx.port.inFlight = some a)
    (hop : a.op = .ownerWrite c) (hr : p.mbx.chains.get c = r) (hphase : r.phase = .ownerWrite) :
    p.ownerDone c = if r.rewindPending then { p.cardWritten c with mbx := (p.cardWritten c).mbx.readAnchor c }
      else (p.cardWritten c).follow c r.card.header.next Part.moveTo := by
  have hchains : (p.cardWritten c).mbx.chains = p.mbx.chains := (reportWritten_rest p.freePort c).1
  have hfollow : p.ownerDone c = (p.cardWritten c).followFinished c (p.mbx.chains.get c).card.header.next :=
    if_pos (completes_of hfly hop (hr ▸ hphase))
  rw [hfollow, Part.followFinished, hchains, hr]

theorem cardWritten_only (p : Part) (c : Chain) : p.onlyChanges [.reports, .attention, .chains, .port] (p.cardWritten c) :=
  ((partFreePort_moves p).mono.andThen (reportWritten_moves p.freePort c)).drifts.only

theorem readAnchor_part_moves (p : Part) (c : Chain) : p.Moves [.chains, .port] { p with mbx := p.mbx.readAnchor c } :=
  moves_walk (readAnchor_walks p.mbx c)

/-- Settles O31, which holds: a pending rewind, or one of the three links. -/
theorem finishedCardIsFollowed : Obligations.FinishedCardIsFollowed := by
  intro s c b x r a hfly hop hr hphase hb hx
  have hdone := ownerDone_eq hfly hop hr hphase
  obtain ⟨hchains, hport, hbase, hfaults, -⟩ := reportWritten_rest s.part.freePort c
  have hrec : (s.part.cardWritten c).mbx.chains.get c = r := by rw [Part.cardWritten, hchains]; exact hr
  have hcursor : ((s.part.cardWritten c).mbx.chains.get c).cursor = some x := by rw [hrec]; exact hx
  have hbase' : (s.part.cardWritten c).mbx.base = some b := hbase.trans hb
  have hchain : ∀ {m : Mailbox}, (s.part.cardWritten c).mbx.onlyChain c m → s.part.mbx.onlyChain c m := fun h =>
    onlyChain_of_same (m := s.part.freePort.mbx) hchains hport h
  have honly : ∀ {q : Part}, (s.part.cardWritten c).Moves [.chains, .port] q → c ≠ .report →
      s.part.onlyChanges [.chains, .port] q := by
    intro q h hc
    rw [Part.cardWritten, reportWritten_of_ne _ hc] at h
    exact freed_only h
  refine ⟨_, exec_of_moves (exec_ownerWriteComplete c s) rfl (ownerDone_moves s.part c), ?_, ?_, ?_, ?_, ?_,
    (ownerDone_moves s.part c).drifts.only⟩
  · intro hrewind
    rw [hdone, if_pos hrewind]
    exact readAnchor_reads _ c b hbase'
  · intro hrewind hzero
    rw [hdone, if_neg (by simp [hrewind]), Part.follow, if_pos hzero, ← hrec]
    exact wouldPark_of_cursor hbase' hcursor .link
  · intro hrewind hne hvalid
    rw [hdone, if_neg (by simp [hrewind]), Part.follow, if_neg hne, validAddress_eq hbase', if_pos hvalid]
    conv => arg 2; rw [← hrec]
    exact moveTo_goesTo hbase' c r.card.header.next
  · intro hor
    rw [hdone]
    by_cases hrewind : r.rewindPending = true
    · rw [if_pos hrewind]
      exact ⟨hchain (readAnchor_onlyChain _ c), honly (readAnchor_part_moves _ c)⟩
    · rw [if_neg hrewind, Part.follow]
      by_cases hzero : r.card.header.next = 0
      · rw [if_pos hzero]
        exact ⟨hchain (parkChain_onlyChain _ c .link), honly (parkChain_moves _ c .link)⟩
      · have hvalid := (hor.resolve_left hrewind).resolve_left hzero
        rw [if_neg hzero, validAddress_eq hbase', if_pos hvalid]
        exact ⟨hchain (moveTo_onlyChain _ c _), honly (moveTo_moves _ c _)⟩
  · intro hrewind hne hvalid
    rw [hdone, if_neg (by simp [hrewind]), Part.follow, if_neg hne, validAddress_eq hbase', if_neg (by simp [hvalid])]
    exact brokeChain_congr (breakChain_broke (s.part.cardWritten c) c .link) hchains.symm hfaults.symm

theorem reportWritten_of_ok {p : Part} (h : p.mbx.chains.report.card.result = .ok) :
    p.reportWritten .report = { p with mbx := p.mbx.reportDone } := if_pos ⟨rfl, h⟩

theorem reportWritten_of_refused {p : Part} (h : p.mbx.chains.report.card.result ≠ .ok) : p.reportWritten .report = p :=
  if_neg fun ⟨_, hok⟩ => h hok

theorem chainBreaks_unmarked (p : Part) : unmarked (p.chainBreaks .report).mbx.holding := by
  intro r hr
  obtain ⟨x, -, rfl⟩ := List.mem_map.mp hr
  rfl

theorem chainBreaks_written (p : Part) (c : Chain) : (p.chainBreaks c).mbx.written = p.mbx.written := by
  have hunmark : (p.mbx.unmarkIf c).written = p.mbx.written := by
    unfold Mailbox.unmarkIf
    split <;> rfl
  exact hunmark

theorem unmarkIf_attention (m : Mailbox) (c : Chain) : (m.unmarkIf c).attention = m.attention := by
  unfold Mailbox.unmarkIf
  split <;> rfl

theorem chainBreaks_reportWritten (p : Part) (c : Chain) :
    (p.chainBreaks c).mbx.attention.reportWritten = p.mbx.attention.reportWritten := by
  have hunmark : (p.mbx.unmarkIf c).attention.reportWritten = p.mbx.attention.reportWritten := by rw [unmarkIf_attention]
  exact hunmark

theorem oneRaise_congr {p p' q : Part} {k : FaultKind} (h : p.oneRaise q k) (hraised : p'.mbx.raised = p.mbx.raised)
    (hfaults : p'.faults = p.faults) (htables : p'.tables = p.tables) : p'.oneRaise q k := by
  obtain ⟨hstate, hcount, hothers⟩ := h
  have hreact : p'.reactions k = p.reactions k := congrArg (fun t : Tables => t.reactions.get (kindIndex k)) htables
  exact ⟨by rw [hstate, hfaults, hreact], by rw [hcount, hraised, hfaults], by rw [hfaults]; exact hothers⟩

theorem cardWritten_rest (p : Part) (c : Chain) : (p.cardWritten c).mbx.chains = p.mbx.chains
    ∧ (p.cardWritten c).mbx.base = p.mbx.base ∧ (p.cardWritten c).faults = p.faults ∧ (p.cardWritten c).tables = p.tables
    ∧ (p.cardWritten c).mbx.raised = p.mbx.raised ∧ (p.cardWritten c).mbx.dropped = p.mbx.dropped := by
  obtain ⟨hchains, -, hbase, hfaults, htables, hraised, hdropped⟩ := reportWritten_rest p.freePort c
  exact ⟨hchains, hbase, hfaults, htables, hraised, hdropped⟩

/-- A report card written DONE takes its records off the list (R23, R24). -/
theorem cardWritten_of_ok {p : Part} (h : p.mbx.chains.report.card.result = .ok) :
    (p.cardWritten .report).mbx.written = p.mbx.written + word ((p.mbx.holding.filter (fun x => x.beingWritten)).map (·.repeats)).sum
      ∧ (p.cardWritten .report).mbx.attention.reportWritten = true
      ∧ (p.cardWritten .report).mbx.holding = p.mbx.holding.filter (fun x => !x.beingWritten) := by
  have hok : p.freePort.mbx.chains.report.card.result = .ok := h
  rw [Part.cardWritten, reportWritten_of_ok hok]
  exact ⟨rfl, rfl, rfl⟩

/-- A refused report card leaves every record held (R24). -/
theorem cardWritten_of_refused {p : Part} (h : p.mbx.chains.report.card.result ≠ .ok) : p.cardWritten .report = p.freePort :=
  reportWritten_of_refused (p := p.freePort) h

/-- What a finished card's walker does where its link does not break the chain (R7, R10). -/
theorem ownerDone_walks {p : Part} {a : Access} {c : Chain} {r : ChainRec} (hfly : p.mbx.port.inFlight = some a)
    (hop : a.op = .ownerWrite c) (hr : p.mbx.chains.get c = r) (hphase : r.phase = .ownerWrite)
    (h : r.rewindPending = true ∨ r.card.header.next = 0 ∨ ∃ b, p.mbx.base = some b ∧ validCard b r.card.header.next = true) :
    (p.cardWritten c).Moves [.chains, .port] (p.ownerDone c) := by
  obtain ⟨-, hbase, -⟩ := cardWritten_rest p c
  rw [ownerDone_eq hfly hop hr hphase]
  by_cases hrewind : r.rewindPending = true
  · rw [if_pos hrewind]
    exact readAnchor_part_moves _ c
  · rw [if_neg hrewind, Part.follow]
    by_cases hzero : r.card.header.next = 0
    · rw [if_pos hzero]
      exact parkChain_moves _ c .link
    · obtain ⟨b, hb, hvalid⟩ := (h.resolve_left hrewind).resolve_left hzero
      rw [if_neg hzero, validAddress_eq (hbase.trans hb), if_pos hvalid]
      exact moveTo_moves _ c _

/-- A link that breaks the chain of a finished card (R7, R11). -/
theorem ownerDone_breaks {p : Part} {a : Access} {c : Chain} {r : ChainRec} (hfly : p.mbx.port.inFlight = some a)
    (hop : a.op = .ownerWrite c) (hr : p.mbx.chains.get c = r) (hphase : r.phase = .ownerWrite) (hrewind : r.rewindPending = false)
    (hne : r.card.header.next ≠ 0) (h : ∀ b, p.mbx.base = some b → validCard b r.card.header.next = false) :
    p.ownerDone c = (p.cardWritten c).breakChain c .link := by
  obtain ⟨-, hbase, -⟩ := cardWritten_rest p c
  have hvalid : (p.cardWritten c).validAddress r.card.header.next = false := by
    unfold Part.validAddress
    rw [hbase]
    cases hb : p.mbx.base with
    | none => rfl
    | some b => exact h b hb
  rw [ownerDone_eq hfly hop hr hphase, if_neg (by simp [hrewind]), Part.follow, if_neg hne, if_neg (by simp [hvalid])]

/-- Whether or not the chain breaks, the count and the mark of written reports are those of the finished card. -/
theorem ownerDone_written {p : Part} {a : Access} {r : ChainRec} (hfly : p.mbx.port.inFlight = some a)
    (hop : a.op = .ownerWrite .report) (hr : p.mbx.chains.report = r) (hphase : r.phase = .ownerWrite) :
    (p.ownerDone .report).mbx.written = (p.cardWritten .report).mbx.written
      ∧ (p.ownerDone .report).mbx.attention.reportWritten = (p.cardWritten .report).mbx.attention.reportWritten := by
  by_cases h : r.rewindPending = true ∨ r.card.header.next = 0 ∨ ∃ b, p.mbx.base = some b ∧ validCard b r.card.header.next = true
  · have hwalks := (ownerDone_walks (c := .report) hfly hop hr hphase h).drifts.only
    obtain ⟨-, -, -, hwritten, -⟩ := hwalks .reports (by decide)
    exact ⟨hwritten, congrArg Attention.reportWritten (hwalks .attention (by decide))⟩
  · simp only [not_or, not_exists, not_and, Bool.not_eq_true] at h
    obtain ⟨hrewind, hne, hinvalid⟩ := h
    have hlogs := raise_logs ((p.cardWritten .report).chainBreaks .report)
      (breakRaise ((p.cardWritten .report).mbx.chains.get .report) .report .link)
    rw [ownerDone_breaks (c := .report) hfly hop hr hphase hrewind hne hinvalid, breakChain_eq, hlogs.written, chainBreaks_written,
      raise_attention]
    exact ⟨rfl, chainBreaks_reportWritten _ _⟩

/-- Settles O32, which holds: the written record leaves the list first, then the link of the card is followed. -/
theorem writtenReportLeavesTheList : Obligations.WrittenReportLeavesTheList := by
  intro s r a hfly hop hr hphase
  obtain ⟨hwritten, hattention⟩ := ownerDone_written hfly hop hr hphase
  obtain ⟨hchains, hbase, hfaults, htables, hraised, hdropped⟩ := cardWritten_rest s.part .report
  have hresult : s.part.mbx.chains.report.card.result = r.card.result := congrArg (fun r => r.card.result) hr
  refine ⟨_, exec_of_moves (exec_ownerWriteComplete .report s) rfl (ownerDone_moves s.part .report), ?_, ?_, ?_, ?_⟩
  · rw [hwritten]
    split
    next hok => exact (cardWritten_of_ok (hresult.trans hok)).1
    next hrefused =>
      rw [cardWritten_of_refused (hresult ▸ hrefused)]
      exact (BitVec.add_zero _).symm
  · rw [hattention]
    by_cases hok : r.card.result = .ok
    · rw [decide_eq_true hok, Bool.or_true]
      exact (cardWritten_of_ok (hresult.trans hok)).2.1
    · rw [decide_eq_false hok, Bool.or_false, cardWritten_of_refused (hresult ▸ hok)]
      rfl
  · intro hwalk
    have hwalks := (ownerDone_walks (c := .report) hfly hop hr hphase hwalk).drifts.only
    obtain ⟨hholding', -, hraised', -, hdropped'⟩ := hwalks .reports (by decide)
    refine ⟨hraised'.trans hraised, hdropped'.trans hdropped, fun hok => ?_, fun hrefused => ?_,
      (cardWritten_only s.part .report).andThen hwalks⟩
    · exact hholding'.trans (cardWritten_of_ok (hresult.trans hok)).2.2
    · have hfreed := cardWritten_of_refused (p := s.part) (hresult ▸ hrefused)
      have hattention' := hwalks .attention (by decide)
      rw [hfreed] at hholding' hattention'
      exact ⟨hholding', hattention'⟩
  · intro hrewind hne hinvalid
    have hbreaks := ownerDone_breaks (c := .report) hfly hop hr hphase hrewind hne hinvalid
    have hlogs := raise_logs ((s.part.cardWritten .report).chainBreaks .report)
      (breakRaise ((s.part.cardWritten .report).mbx.chains.get .report) .report .link)
    refine ⟨?_, ?_, ?_, (ownerDone_moves s.part .report).drifts.only⟩
    · rw [hbreaks]
      exact brokeChain_congr (breakChain_broke (s.part.cardWritten .report) .report .link) hchains.symm hfaults.symm
    · rw [hbreaks]
      exact oneRaise_congr (breakChain_oneRaise (s.part.cardWritten .report) .report .link) hraised.symm hfaults.symm htables.symm
    · rw [hbreaks, breakChain_eq]
      exact hlogs.unmarked (chainBreaks_unmarked _)

end Sys2Proof.Machine

/-! ## The Traction Governor (R129 to R142)

The computation of a setpoint, then what a claim, a raise and a frame leave in the governor's record, and the deliveries of demand
reads. -/

namespace Sys2Proof.Machine

/-! ### The computation (R132, R133) -/

theorem target_targets (p : Part) : p.targets p.target := by
  unfold Part.targets Part.target
  dsimp only
  refine ⟨fun hpos => ?_, fun hzero => ?_, fun hneg => ?_⟩
  · rw [if_pos hpos]
    have hcast : (p.gov.held.toNat : Int) = p.gov.held := Int.toNat_of_nonneg hpos.le
    push_cast
    rw [hcast]
  · rw [if_neg (by omega), if_pos hzero]
  · rw [if_neg (by omega), if_neg (by omega)]
    have hcast : (p.gov.held.natAbs : Int) = -p.gov.held := Int.ofNat_natAbs_of_nonpos hneg.le
    push_cast at hcast ⊢
    rw [hcast]

/-- The step is the same on both sides of zero (R133). -/
theorem approach_neg (last target : Int) (rise fall : Nat) : approach (-last) (-target) rise fall = -approach last target rise fall := by
  unfold approach
  simp only [neg_eq_zero, Int.sign_neg, neg_inj, Int.natAbs_neg]
  split
  · exact Int.neg_mul _ _
  · split
    · split <;> exact Int.neg_mul _ _
    · exact Int.neg_mul _ _

theorem stepsToward_neg {last target rise fall x : Int} (h : stepsToward last target rise fall x) :
    stepsToward (-last) (-target) rise fall (-x) := by
  obtain ⟨h1, h2, h3, h4, h5, h6⟩ := h
  refine ⟨fun ha hb => ?_, fun ha hb => ?_, fun ha hb => ?_, fun ha hb => ?_, fun ha hb => ?_, fun ha hb => ?_⟩
  · have hx := h3 (by omega) (by omega)
    omega
  · have hx := h4 (by omega) (by omega)
    omega
  · have hx := h1 (by omega) (by omega)
    omega
  · have hx := h2 (by omega) (by omega)
    omega
  · have hx := h6 (by omega) (by omega)
    omega
  · have hx := h5 (by omega) (by omega)
    omega

/-- From a setpoint that does not brake, the step toward the target (R133). -/
theorem approach_steps_of_nonneg {last target : Int} (hlast : 0 ≤ last) (hzero : last = 0 → 0 ≤ target) (rise fall : Nat) :
    stepsToward last target rise fall (approach last target rise fall) := by
  lift last to ℕ using hlast
  unfold stepsToward approach
  obtain rfl | hpos := Nat.eq_zero_or_pos last
  · lift target to ℕ using hzero rfl
    rw [if_pos Int.ofNat_zero]
    obtain rfl | ht := Nat.eq_zero_or_pos target
    · simp
    · rw [Int.sign_eq_one_of_pos (by omega), one_mul, Int.natAbs_natCast]
      omega
  · have hsign : (last : Int).sign = 1 := Int.sign_eq_one_of_pos (by omega)
    rw [if_neg (by omega), hsign, Int.natAbs_natCast]
    simp only [one_mul]
    obtain ht | ht := Int.lt_or_le 0 target
    · rw [if_pos (Int.sign_eq_one_of_pos ht)]
      lift target to ℕ using ht.le
      rw [Int.natAbs_natCast]
      split <;> omega
    · rw [if_neg (mt Int.sign_eq_one_iff_pos.mp (by omega))]
      omega

/-- The step toward the target, by the signs of the last setpoint and the target (R133). -/
theorem approach_steps (last target : Int) (rise fall : Nat) :
    stepsToward last target rise fall (approach last target rise fall) := by
  by_cases h : 0 ≤ last ∧ (last = 0 → 0 ≤ target)
  · exact approach_steps_of_nonneg h.1 h.2 rise fall
  · have hneg : stepsToward (-last) (-target) rise fall (approach (-last) (-target) rise fall) :=
      approach_steps_of_nonneg (by omega) (by omega) rise fall
    have hback := stepsToward_neg hneg
    rw [← approach_neg, neg_neg, neg_neg] at hback
    exact hback

theorem bound_eq (s : Int) (motoring braking : Nat) : bound s motoring braking = max (-(braking : Int)) (min s motoring) := by
  unfold bound
  split
  · omega
  · split <;> omega

theorem rampStep_cast (rate period : Nat) : (rampStep rate period : Int) = max 1 ((rate : Int) * period / 1000) := by
  simp [rampStep]

theorem barred_of_not {a b : Bool} (h : ¬ (a = true ∧ b = true)) : a = false ∨ b = false := by
  cases a <;> cases b <;> simp_all

theorem nextSetpoint_of_armed {p : Part} (hempty : p.gov.inhibit.empty = true) (harmed : p.gov.armed = true) :
    p.nextSetpoint = bound (approach p.gov.setpoint p.target (rampStep p.tables.timers.rampRate p.tables.timers.controlPeriod)
      (rampStep p.tables.timers.inhibitRamp p.tables.timers.controlPeriod)) p.motoringCeiling p.brakingCeiling :=
  if_pos (by rw [hempty, harmed]; rfl)

theorem nextSetpoint_of_barred {p : Part} (h : p.gov.inhibit.empty = false ∨ p.gov.armed = false) : p.nextSetpoint = 0 :=
  if_neg (by obtain h | h := h <;> simp [h])

theorem nextSetpoint_follows {p : Part} (hempty : p.gov.inhibit.empty = true) (harmed : p.gov.armed = true) :
    p.follows p.nextSetpoint := by
  refine ⟨p.target, _, target_targets p, ?_, (nextSetpoint_of_armed hempty harmed).trans (bound_eq _ _ _)⟩
  rw [← rampStep_cast, ← rampStep_cast]
  exact approach_steps _ _ _ _

/-- The two ceilings bound a setpoint, ARMED or not (R133). -/
theorem nextSetpoint_bounds (p : Part) : p.nextSetpoint ≤ p.motoringCeiling ∧ -(p.brakingCeiling : Int) ≤ p.nextSetpoint := by
  by_cases h : p.gov.inhibit.empty = true ∧ p.gov.armed = true
  · rw [nextSetpoint_of_armed h.1 h.2, bound_eq]
    omega
  · rw [nextSetpoint_of_barred (barred_of_not h)]
    omega

/-- A step by its sides: no more than one step away from zero, and never across it (R133). -/
theorem approach_range (last target : Int) (rise fall : Nat) :
    approach last target rise fall ≤ max last 0 + rise ∧ min last 0 - rise ≤ approach last target rise fall
      ∧ (0 < last → 0 ≤ approach last target rise fall) ∧ (last < 0 → approach last target rise fall ≤ 0) := by
  obtain ⟨h1, h2, h3, h4, h5, h6⟩ := approach_steps last target rise fall
  generalize approach last target rise fall = x at *
  obtain hl | hl := Int.lt_or_le 0 last <;> obtain ht | ht := Int.lt_or_le 0 target <;>
    obtain hlt | hlt := Int.lt_or_le last target <;> omega

/-- Settles O34, which holds: the computation follows the rules of R132 and R133 by `approach_steps`. -/
theorem setpointStaysWithinBounds : Obligations.SetpointStaysWithinBounds := by
  intro p
  obtain ⟨hmotor, hbrake⟩ := nextSetpoint_bounds p
  have hrange : p.nextSetpoint ≤ max p.gov.setpoint 0 + rampStep p.tables.timers.rampRate p.tables.timers.controlPeriod
      ∧ min p.gov.setpoint 0 - rampStep p.tables.timers.rampRate p.tables.timers.controlPeriod ≤ p.nextSetpoint
      ∧ (0 < p.gov.setpoint → 0 ≤ p.nextSetpoint) ∧ (p.gov.setpoint < 0 → p.nextSetpoint ≤ 0) := by
    by_cases h : p.gov.inhibit.empty = true ∧ p.gov.armed = true
    · have hstep := approach_range p.gov.setpoint p.target (rampStep p.tables.timers.rampRate p.tables.timers.controlPeriod)
        (rampStep p.tables.timers.inhibitRamp p.tables.timers.controlPeriod)
      rw [nextSetpoint_of_armed h.1 h.2, bound_eq]
      omega
    · rw [nextSetpoint_of_barred (barred_of_not h)]
      omega
  obtain ⟨hrise, hfall, hpos, hneg⟩ := hrange
  refine ⟨nextSetpoint_of_barred, hmotor, hbrake, hrise, hfall, hpos, hneg, nextSetpoint_follows, rfl, rfl, fun hsource hv => ?_,
    fun hsource hn => ?_, fun hsource => ?_⟩
  · rw [Part.allowanceCurrent, hsource]
    exact if_neg (by omega)
  · rw [Part.allowanceCurrent, hsource]
    exact if_neg (by omega)
  · rw [Part.allowanceCurrent, hsource]

end Sys2Proof.Machine

/-! ## Frames, claims and the deliveries of demand reads (R17, R129 to R142) -/

namespace Sys2Proof.Machine

/-! ### What a raise does to the governor -/

/-- A cut frame is being sent, or waits to be. -/
def SendSide.cuts (d : SendSide) : Prop := ∃ f, (d.sending = some f ∨ d.waiting = some f) ∧ f.mode = .cut ∧ f.current = 0

theorem hand_cuts (d : SendSide) {f : SetpointFrame} (hmode : f.mode = .cut) (hcurrent : f.current = 0) : (d.hand f).cuts := by
  unfold SendSide.hand
  split
  · exact ⟨f, .inl rfl, hmode, hcurrent⟩
  · exact ⟨f, .inr rfl, hmode, hcurrent⟩

theorem has_put_other {s : InhibitSet} {r r' : Reason} {b : Bool} (h : r' ≠ r) : (s.put r b).has r' = s.has r' := put_has_other s r r' b h

/-- A claim that joins, before any cut frame (R136, R138). -/
def Part.joined (p : Part) (r : Reason) : Part :=
  { p with gov := { p.gov with inhibit := p.gov.inhibit.put r true, armed := p.gov.armed && !p.gov.inhibit.empty } }

theorem claim_of_has {p : Part} {r : Reason} (h : p.gov.inhibit.has r = true) : p.claim r = p := if_pos h

theorem claim_of_cut {p : Part} {r : Reason} (h : p.gov.inhibit.has r = false) (hcut : r.isCut = true) :
    p.claim r = (p.joined r).cutFrame := by
  rw [Part.claim, if_neg (by simp [h])]
  exact if_pos hcut

theorem claim_of_ramp {p : Part} {r : Reason} (h : p.gov.inhibit.has r = false) (hramp : r.isCut = false) : p.claim r = p.joined r := by
  rw [Part.claim, if_neg (by simp [h])]
  exact if_neg (by simp [hramp])

/-- From `p` to `q` no reason but FAULT_STATE is claimed or withdrawn, and a frame handed over is a cut frame. -/
structure Part.MayCut (p q : Part) : Prop where
  reasons : ∀ r, r ≠ .faultState → q.gov.inhibit.has r = p.gov.inhibit.has r
  setpoint : q.gov.setpoint = p.gov.setpoint ∨ q.gov.setpoint = 0
  replyWait : p.gov.replyWait ≠ none → q.gov.replyWait ≠ none
  frame : p.send.cuts → q.send.cuts

theorem Part.MayCut.trans {p q r : Part} (h : p.MayCut q) (k : q.MayCut r) : p.MayCut r :=
  ⟨fun x hx => (k.reasons x hx).trans (h.reasons x hx),
    k.setpoint.elim (fun e => h.setpoint.imp e.trans e.trans) .inr, k.replyWait ∘ h.replyWait, k.frame ∘ h.frame⟩

theorem Part.MayCut.of_same {p q : Part} (hg : q.gov = p.gov) (hs : q.send = p.send) : p.MayCut q :=
  ⟨fun _ _ => by rw [hg], .inl (by rw [hg]), fun h => by rw [hg]; exact h, fun h => by rw [hs]; exact h⟩

theorem claimFaultState_mayCut (p : Part) : p.MayCut (p.claim .faultState) := by
  by_cases h : p.gov.inhibit.has .faultState = true
  · rw [claim_of_has h]
    exact .of_same rfl rfl
  · rw [claim_of_cut (by simpa using h) rfl]
    exact ⟨fun r hr => put_has_other _ _ _ _ hr, .inr rfl, fun _ => Option.some_ne_none _, fun _ => hand_cuts _ rfl rfl⟩

/-- A change of collector state into FAULT, or from NORMAL into ALERT: what an activation can bring (R162). -/
theorem collectorTo_mayCut {p : Part} {new : CollectorState} (h : p.faults.state ≠ .fault) : p.MayCut (p.collectorTo new) := by
  unfold Part.collectorTo
  dsimp only
  rw [if_neg h]
  split
  · exact Part.MayCut.trans (q := p.collectorSet new _) (.of_same rfl rfl) (claimFaultState_mayCut _)
  · exact .of_same rfl rfl

theorem moveCollector_mayCut {p : Part} {new : CollectorState} (h : p.faults.state = .fault → new = .fault) (cause : CollectorCause)
    (kind : Option FaultKind) (tag : Word) : p.MayCut (p.moveCollector new cause kind tag) := by
  by_cases hsame : p.faults.state = new
  · rw [moveCollector_same hsame]
    exact .of_same rfl rfl
  · rw [moveCollector_eq hsame]
    have hfault : p.faults.state ≠ .fault := fun hf => hsame (hf.trans (h hf).symm)
    exact (collectorTo_mayCut hfault).trans (.of_same rfl rfl)

theorem after_of_fault {c : CollectorState} (x : Reactions) (h : c = .fault) : c.after x = .fault := by rw [h]; rfl

theorem evalAlarms_gov (p : Part) : p.evalAlarms.gov = p.gov ∧ p.evalAlarms.send = p.send := by
  have hdrive : ∀ (p : Part) r b, (p.driveAlarm r b).gov = p.gov ∧ (p.driveAlarm r b).send = p.send := by
    intro p r b
    unfold Part.driveAlarm Part.setCommanded
    dsimp only
    repeat' split
    all_goals exact ⟨rfl, rfl⟩
  exact ⟨((hdrive _ _ _).1).trans (hdrive _ _ _).1, ((hdrive _ _ _).2).trans (hdrive _ _ _).2⟩

theorem raise_mayCut (p : Part) (x : Raise) : p.MayCut (p.raise x) := by
  have hrecords : p.MayCut (p.records x) := .of_same rfl rfl
  obtain ⟨hgov, hsend⟩ := evalAlarms_gov ((p.activates x).withFaults ((p.activates x).holdsOf p x))
  have halarms : (p.activates x).MayCut (p.raise x) := .of_same hgov hsend
  rw [activates_eq] at halarms
  exact hrecords.trans ((moveCollector_mayCut (after_of_fault _) _ _ _).trans halarms)

/-- An end notice leaves the governor and the send side. -/
theorem endFault_gov (p : Part) (k : FaultKind) (s : Source) : (p.endFault k s).gov = p.gov ∧ (p.endFault k s).send = p.send :=
  evalAlarms_gov (p.modFault k _)

theorem endFault_ended {p : Part} {k : FaultKind} (s : Source) (hk : k ≠ .alarmOutput) : (p.endFault k s).endedFault k s := by
  have hget : (p.endFault k s).faults.get k = (p.faults.get k).dropSource s :=
    ((evalAlarms_keepsRecords _).others k hk).trans (Collector.get_set_same _ _ _)
  unfold Part.endedFault
  rw [hget]
  simp [FaultRec.dropSource]

theorem endFault_get {p : Part} {k x : FaultKind} (s : Source) (hx : x ≠ k) (ha : x ≠ .alarmOutput) :
    (p.endFault k s).faults.get x = p.faults.get x :=
  ((evalAlarms_keepsRecords _).others x ha).trans (Collector.get_set_other _ _ _ _ hx)

theorem endFault_mbx (p : Part) (k : FaultKind) (s : Source) : (p.endFault k s).mbx = p.mbx := evalAlarms_mbx _

/-! ### Stale deliveries (R131) -/

/-- The stale count reaches its limit with this delivery. -/
def Part.reachesLimit (p : Part) : Prop :=
  p.gov.stale < p.tables.timers.staleLimit ∧ countUp p.gov.stale 255 = p.tables.timers.staleLimit

/-- The stale count after a delivery that is not fresh. -/
def Part.countsStale (p : Part) : Part := { p with gov := { p.gov with stale := countUp p.gov.stale 255 } }

/-- The raise of a stale episode (R131). -/
def staleRaise (c : StaleCause) (count : Nat) (fresh : Option Word) : Raise :=
  { kind := .demandStale, source := governorSource, items := [.small c.ctorIdx, .small count, .large (fresh.getD 0)] }

theorem takeStale_of_short {p : Part} (h : ¬ p.reachesLimit) (c : StaleCause) : p.takeStale c = p.countsStale :=
  if_neg fun ⟨hbelow, hlimit⟩ => h ⟨hbelow, hlimit⟩

theorem claim_demand {p : Part} (r : Reason) : p.same (p.claim r) .demand := claim_only p r .demand (by decide)

theorem takeStale_of_reached {p : Part} (h : p.reachesLimit) (c : StaleCause) : p.takeStale c =
    (p.countsStale.claim .demandStale).raise (staleRaise c (countUp p.gov.stale 255) p.gov.lastFresh) := by
  obtain ⟨hbelow, hlimit⟩ := h
  unfold Part.takeStale
  dsimp only
  rw [if_pos ⟨hbelow, hlimit⟩]
  rfl

theorem takeStale_demand (p : Part) (c : StaleCause) : p.countsStale.same (p.takeStale c) .demand := by
  by_cases h : p.reachesLimit
  · rw [takeStale_of_reached h]
    exact Part.same_trans (claim_demand .demandStale) ((raise_moves _ _).drifts.only .demand (by decide))
  · rw [takeStale_of_short h]
    exact Part.same_refl _ _

/-! ### Period frames (R134, R141, R142) -/

/-- The part with its period frame handed over. -/
def Part.hands (p : Part) : Part := p.handFrame p.nextSetpoint (p.frameMode p.nextSetpoint) p.regenPermitted

/-- The missed reply is counted. -/
def Part.countsMiss (p : Part) : Part := { p with gov := { p.gov with misses := countUp p.gov.misses 255, goodRun := 0 } }

/-- The raise of the third missed reply in a row (R142). -/
def lossRaise (misses : Nat) (awaited : Byte) (link : LinkState) (i : Inverter) : Raise :=
  { kind := .driveLinkLost, source := driveLinkSource,
    items := [.small misses, .small awaited.toNat, .small (linkStateCode link), .small (inverterCode i)] }

theorem countMiss_of_claims {p : Part} (hmisses : countUp p.gov.misses 255 = 3) (hlink : p.gov.inhibit.driveLink = false)
    (awaited : Byte) : p.countMiss awaited =
      (p.countsMiss.claim .driveLink).raise (lossRaise (countUp p.gov.misses 255) awaited p.links.recs.drive.state p.gov.inverter) := by
  unfold Part.countMiss
  dsimp only
  rw [if_pos ⟨hmisses, by simp [hlink]⟩]
  rfl

theorem countMiss_quiet {p : Part} (h : ¬ (countUp p.gov.misses 255 = 3 ∧ p.gov.inhibit.driveLink = false)) (awaited : Byte) :
    p.countMiss awaited = p.countsMiss := by
  refine if_neg fun ⟨hmisses, hlink⟩ => h ⟨hmisses, ?_⟩
  simpa using hlink

theorem countUp_eq_three {n : Nat} : countUp n 255 = 3 ↔ n = 2 := by
  unfold countUp
  split <;> omega

theorem periodFrame_of_closed {p : Part} (h : p.gov.replyWait = none) : p.periodFrame = p.hands := by
  unfold Part.periodFrame
  dsimp only
  rw [h]
  rfl

theorem periodFrame_of_open {p : Part} {awaited : Byte} (h : p.gov.replyWait = some awaited) :
    p.periodFrame = p.hands.countMiss awaited := by
  unfold Part.periodFrame
  dsimp only
  rw [h]
  rfl

/-! ### What a period frame leaves -/

theorem hands_gov (p : Part) : p.hands.gov = { p.gov with
    counter := p.gov.counter + 1, setpoint := p.nextSetpoint, replyWait := some p.gov.counter } := rfl

theorem claim_setpoint (p : Part) (r : Reason) : (p.claim r).gov.setpoint = p.gov.setpoint ∨ (p.claim r).gov.setpoint = 0 := by
  unfold Part.claim
  dsimp only
  split
  · exact .inl rfl
  · split
    · exact .inr rfl
    · exact .inl rfl

theorem claim_replyWait {p : Part} (r : Reason) (h : p.gov.replyWait ≠ none) : (p.claim r).gov.replyWait ≠ none := by
  unfold Part.claim
  dsimp only
  split
  · exact h
  · split
    · exact Option.some_ne_none _
    · exact h

theorem countMiss_only (p : Part) (awaited : Byte) : p.onlyChanges (raisePieces ++ [.replies]) (p.countMiss awaited) := by
  have hcounts : p.onlyChanges [.replies] p.countsMiss := by
    intro x hx
    cases x <;> simp_all [Part.same, Part.countsMiss]
  by_cases h : countUp p.gov.misses 255 = 3 ∧ p.gov.inhibit.driveLink = false
  · rw [countMiss_of_claims h.1 h.2]
    exact (Part.onlyChanges_mono hcounts (by decide)).andThen
      ((Part.onlyChanges_mono (ys := raisePieces) (claim_only p.countsMiss .driveLink) (by decide)).andThen (raise_moves _ _).drifts.only)
  · rw [countMiss_quiet h]
    exact Part.onlyChanges_mono hcounts (by decide)

theorem periodFrame_only (p : Part) : p.onlyChanges (raisePieces ++ [.replies]) p.periodFrame := by
  have hhands : p.onlyChanges [.setpoint, .send] p.hands := (handFrame_moves _ _ _ _).drifts.only
  cases h : p.gov.replyWait with
  | none =>
    rw [periodFrame_of_closed h]
    exact Part.onlyChanges_mono hhands (by decide)
  | some awaited =>
    rw [periodFrame_of_open h]
    exact (Part.onlyChanges_mono (ys := raisePieces ++ [.replies]) hhands (by decide)).andThen (countMiss_only p.hands awaited)

/-- A period frame keeps what the governor holds of demands (R130). -/
theorem periodFrame_demand (p : Part) : p.same p.periodFrame .demand := periodFrame_only p .demand (by decide)

/-- A frame of a period opens the reply wait, and a later one of its event keeps it OPEN (R141). -/
theorem countMiss_replyWait {p : Part} (awaited : Byte) (h : p.gov.replyWait ≠ none) : (p.countMiss awaited).gov.replyWait ≠ none := by
  by_cases hclaims : countUp p.gov.misses 255 = 3 ∧ p.gov.inhibit.driveLink = false
  · rw [countMiss_of_claims hclaims.1 hclaims.2]
    exact (raise_mayCut _ _).replyWait (claim_replyWait (p := p.countsMiss) _ h)
  · rw [countMiss_quiet hclaims]
    exact h

theorem periodFrame_replyWait (p : Part) : p.periodFrame.gov.replyWait ≠ none := by
  have hhands : p.hands.gov.replyWait ≠ none := Option.some_ne_none _
  cases h : p.gov.replyWait with
  | none => rw [periodFrame_of_closed h]; exact hhands
  | some awaited => rw [periodFrame_of_open h]; exact countMiss_replyWait awaited hhands

/-- Of the reasons, a period frame claims DRIVE_LINK at most, and FAULT_STATE with its raise (R142). -/
theorem countMiss_reasons {p : Part} (awaited : Byte) {r : Reason} (hlink : r ≠ .driveLink) (hfault : r ≠ .faultState) :
    (p.countMiss awaited).gov.inhibit.has r = p.gov.inhibit.has r := by
  by_cases hclaims : countUp p.gov.misses 255 = 3 ∧ p.gov.inhibit.driveLink = false
  · rw [countMiss_of_claims hclaims.1 hclaims.2, (raise_mayCut _ _).reasons r hfault, claim_inhibit]
    exact put_has_other _ _ _ _ hlink
  · rw [countMiss_quiet hclaims]
    rfl

theorem periodFrame_reasons (p : Part) {r : Reason} (hlink : r ≠ .driveLink) (hfault : r ≠ .faultState) :
    p.periodFrame.gov.inhibit.has r = p.gov.inhibit.has r := by
  cases h : p.gov.replyWait with
  | none => rw [periodFrame_of_closed h]; rfl
  | some awaited =>
    rw [periodFrame_of_open h]
    exact countMiss_reasons (p := p.hands) awaited hlink hfault

/-- The setpoint after a period frame is the computed one, or 0 by a cut frame (R134, R137). -/
theorem countMiss_setpoint (p : Part) (awaited : Byte) :
    (p.countMiss awaited).gov.setpoint = p.gov.setpoint ∨ (p.countMiss awaited).gov.setpoint = 0 := by
  by_cases hclaims : countUp p.gov.misses 255 = 3 ∧ p.gov.inhibit.driveLink = false
  · rw [countMiss_of_claims hclaims.1 hclaims.2]
    have hraise := (raise_mayCut (p.countsMiss.claim .driveLink)
      (lossRaise (countUp p.gov.misses 255) awaited p.links.recs.drive.state p.gov.inverter)).setpoint
    have hclaim : (p.countsMiss.claim .driveLink).gov.setpoint = p.gov.setpoint ∨ (p.countsMiss.claim .driveLink).gov.setpoint = 0 :=
      claim_setpoint p.countsMiss .driveLink
    exact hraise.elim (fun h => hclaim.imp h.trans h.trans) .inr
  · rw [countMiss_quiet hclaims]
    exact .inl rfl

theorem periodFrame_setpoint_of_zero {p : Part} (h : p.nextSetpoint = 0) : p.periodFrame.gov.setpoint = 0 := by
  have hhands : p.hands.gov.setpoint = 0 := h
  cases hw : p.gov.replyWait with
  | none => rw [periodFrame_of_closed hw]; exact hhands
  | some awaited =>
    rw [periodFrame_of_open hw]
    exact (countMiss_setpoint p.hands awaited).elim (fun e => e.trans hhands) id

/-- A period frame raises DRIVE_LINK_LOST at most. -/
theorem periodFrame_get (p : Part) {k : FaultKind} (hk : k ≠ .driveLinkLost) (ha : k ≠ .alarmOutput) :
    p.periodFrame.faults.get k = p.faults.get k := by
  cases hw : p.gov.replyWait with
  | none => rw [periodFrame_of_closed hw]; rfl
  | some awaited =>
    rw [periodFrame_of_open hw]
    by_cases hclaims : countUp p.hands.gov.misses 255 = 3 ∧ p.hands.gov.inhibit.driveLink = false
    · rw [countMiss_of_claims hclaims.1 hclaims.2, raise_get_other _ _ ha hk, claim_faults]
      rfl
    · rw [countMiss_quiet hclaims]
      rfl

theorem periodFrame_now (p : Part) : p.periodFrame.now = p.now := (periodFrame_moves p).drifts.only .now (by decide)

theorem periodFrame_tables (p : Part) : p.periodFrame.tables = p.tables := (periodFrame_moves p).drifts.only .tables (by decide)

/-- A non-empty set keeps the setpoint at 0 (R133). -/
theorem not_empty_of_has {s : InhibitSet} {r : Reason} (h : s.has r = true) : s.empty = false := by
  refine Bool.eq_false_iff.mpr fun he => ?_
  have := (empty_iff s).mp he r
  rw [h] at this
  exact absurd this (by decide)

/-- A stale delivery that reaches the limit: DEMAND_STALE is claimed and raised, and the frame's setpoint is 0 (R131, R133). -/
theorem takeStale_claims {p : Part} (h : p.reachesLimit) (c : StaleCause) :
    (p.takeStale c).gov.inhibit.demandStale = true ∧ p.activated (p.takeStale c) .demandStale { block := .tractionGovernor }
      [.small c.ctorIdx, .small (countUp p.gov.stale 255), .large (p.gov.lastFresh.getD 0)] := by
  rw [takeStale_of_reached h]
  refine ⟨?_, ?_⟩
  · have hkept := (raise_mayCut (p.countsStale.claim .demandStale)
      (staleRaise c (countUp p.gov.stale 255) p.gov.lastFresh)).reasons .demandStale (by decide)
    refine hkept.trans ?_
    rw [claim_inhibit]
    exact put_has _ _ _
  · have hactivated := activated_of_raise (p.countsStale.claim .demandStale)
      (staleRaise c (countUp p.gov.stale 255) p.gov.lastFresh) (show FaultKind.demandStale ≠ .alarmOutput by decide)
    exact activated_congr hactivated (by rw [claim_faults]; rfl) rfl rfl rfl

theorem staleFrame_claims {p : Part} (h : p.reachesLimit) (c : StaleCause) :
    (p.takeStale c).periodFrame.gov.inhibit.demandStale = true ∧ (p.takeStale c).periodFrame.gov.setpoint = 0
      ∧ p.activated (p.takeStale c).periodFrame .demandStale { block := .tractionGovernor }
        [.small c.ctorIdx, .small (countUp p.gov.stale 255), .large (p.gov.lastFresh.getD 0)] := by
  obtain ⟨hstale, hactivated⟩ := takeStale_claims h c
  have hhas : (p.takeStale c).gov.inhibit.has .demandStale = true := hstale
  refine ⟨(periodFrame_reasons _ (r := .demandStale) (by decide) (by decide)).trans hstale,
    periodFrame_setpoint_of_zero (nextSetpoint_of_barred (.inl (not_empty_of_has hhas))), ?_⟩
  exact activated_congr hactivated rfl (periodFrame_get _ (by decide) (by decide)) (periodFrame_now _) (periodFrame_tables _)

end Sys2Proof.Machine

/-! ## The control period, failed accesses, the mirror and the Mailbox Port's timers (R8, R16 to R19, R129) -/

namespace Sys2Proof.Machine

/-! ### Expiries -/

/-- The part at a time. -/
def Part.atTime (p : Part) (t : Word) : Part := { p with now := t }

/-- At a timer's expiry the timestamp alone may have moved (assumption log 1). -/
theorem clockTo_eq (p : Part) (e : Word) : ∃ t, p.clockTo e = p.atTime t := by
  unfold Part.clockTo
  split
  · exact ⟨e, rfl⟩
  · exact ⟨p.now, rfl⟩

/-- A timer's expiry whose action leaves the auxiliaries alone. -/
theorem exec_of_expiry {c : Instr} {s : State} {t : Part → Timer} {f : Part → Part} {e : Word} {xs : List Piece}
    (hexec : exec c s = s.event (fun p => p.onExpiry (t p) f)) (ht : t s.part = .running e)
    (h : (s.part.clockTo e).Moves xs (f (s.part.clockTo e))) (hx : xs.contains .aux = false := by decide) :
    exec c s = .next { s with part := (f (s.part.clockTo e)).settle } := by
  have hrun : s.part.onExpiry (t s.part) f = f (s.part.clockTo e) := by rw [ht, onExpiry_running]
  have haux : (f (s.part.clockTo e)).aux = s.part.aux :=
    Part.same_trans (x := .aux) (clockTo_onlyChanges s.part e .aux (by decide)) (h.drifts.only .aux (by simpa using hx))
  rw [hexec, event_same s _ (by rw [hrun]; exact haux), hrun]

/-! ### Failed deliveries (R17, R130, R131) -/

theorem deliver_failed {p : Part} (h : p.mode = .run) : p.deliver .failed = (p.takeStale .failedRead).periodFrame := if_pos h

theorem deliver_outside {p : Part} (h : p.mode ≠ .run) (d : Delivery) : p.deliver d = p := if_neg h

/-- A delivery that is not fresh, judged and answered with a frame. -/
theorem staleFrame_demand (p : Part) (c : StaleCause) : p.countsStale.same (p.takeStale c).periodFrame .demand :=
  Part.same_trans (takeStale_demand p c) (periodFrame_demand _)

/-- What a stale frame leaves of the demand's record, and what it counts (R131). -/
theorem staleFrame_gov (p : Part) (c : StaleCause) : (p.takeStale c).periodFrame.gov.lastFresh = p.gov.lastFresh
    ∧ (p.takeStale c).periodFrame.gov.held = p.gov.held ∧ (p.takeStale c).periodFrame.gov.stale = countUp p.gov.stale 255 := by
  obtain ⟨-, hfresh, hheld, hstale⟩ := staleFrame_demand p c
  exact ⟨hfresh, hheld, hstale⟩

/-- The control period is restarted (R129). -/
def Part.restartsPeriod (p : Part) : Part :=
  { p with gov := { p.gov with period := p.startTimer p.tables.timers.controlPeriod } }

theorem restartsPeriod_only (p : Part) : p.onlyChanges [.demand] p.restartsPeriod := by
  intro x hx
  cases x <;> simp_all [Part.same, Part.restartsPeriod]

theorem requestDemand_of_unset {p : Part} (h : p.mbx.base = none) : p.requestDemand = p.deliver .failed := by
  rw [Part.requestDemand, h]

theorem demandBusy_iff (m : Mailbox) : m.demandBusy = true ↔ m.port.demand ≠ none ∨ ∃ a, m.port.inFlight = some a ∧ a.op = .demandRead := by
  unfold Mailbox.demandBusy Mailbox.inFlightIs
  rw [Bool.or_eq_true, Option.isSome_iff_ne_none]
  refine or_congr Iff.rfl ?_
  cases m.port.inFlight <;> simp

/-- Settles O58, which holds. -/
theorem controlPeriodAsksForDemand : Obligations.ControlPeriodAsksForDemand := by
  intro s e hrun
  refine ⟨_, exec_of_expiry (exec_controlPeriodExpiry s) hrun (periodExpired_moves _), ?_, ?_, ?_, ?_, ?_,
    (periodExpired_moves _).drifts.only⟩
  all_goals
    obtain ⟨t, ht⟩ := clockTo_eq s.part e
    have hexpired : (s.part.atTime t).periodExpired = (s.part.atTime t).restartsPeriod.requestDemand := rfl
    rw [ht, hexpired]
  · cases hb : s.part.mbx.base with
    | none =>
      rw [requestDemand_of_unset (p := (s.part.atTime t).restartsPeriod) hb]
      by_cases hmode : s.part.mode = .run
      · rw [deliver_failed (p := (s.part.atTime t).restartsPeriod) hmode]
        exact (staleFrame_demand (s.part.atTime t).restartsPeriod .failedRead).1
      · rw [deliver_outside (p := (s.part.atTime t).restartsPeriod) hmode]
        rfl
    | some b =>
      have hbase : (s.part.atTime t).restartsPeriod.mbx.base = some b := hb
      rw [Part.requestDemand, hbase]
      dsimp only
      split <;> rfl
  · intro b hb hidle hfly
    have hbase : (s.part.atTime t).restartsPeriod.mbx.base = some b := hb
    have hfree : ¬ (s.part.atTime t).restartsPeriod.mbx.demandBusy = true := by
      rw [demandBusy_iff]
      rintro (hwaits | ⟨a, ha, hop⟩)
      · exact hwaits hidle
      · exact hfly a ha hop
    rw [Part.requestDemand, hbase]
    dsimp only
    rw [if_neg hfree]
    exact ⟨place_requests _ _ (by simp),
      (Part.onlyChanges_mono (restartsPeriod_only _) (by decide)).andThen (place_moves (s.part.atTime t).restartsPeriod _).drifts.only⟩
  · intro hb hbusy
    obtain ⟨b, hb⟩ := Option.ne_none_iff_exists'.mp hb
    have hbase : (s.part.atTime t).restartsPeriod.mbx.base = some b := hb
    have htaken : (s.part.atTime t).restartsPeriod.mbx.demandBusy = true := (demandBusy_iff _).mpr hbusy
    rw [Part.requestDemand, hbase]
    dsimp only
    rw [if_pos htaken]
    exact ⟨restartsPeriod_only _, rfl⟩
  · intro hb hmode
    rw [requestDemand_of_unset (p := (s.part.atTime t).restartsPeriod) hb,
      deliver_failed (p := (s.part.atTime t).restartsPeriod) hmode]
    obtain ⟨-, hfresh, -, hstale⟩ := staleFrame_demand (s.part.atTime t).restartsPeriod .failedRead
    exact ⟨hstale, periodFrame_replyWait _, hfresh⟩
  · intro hb hmode
    rw [requestDemand_of_unset (p := (s.part.atTime t).restartsPeriod) hb,
      deliver_outside (p := (s.part.atTime t).restartsPeriod) hmode]
    exact restartsPeriod_only _

end Sys2Proof.Machine

/-! ## Demand reads judged (R17, R129 to R142) -/

namespace Sys2Proof.Machine

/-! ### A fresh delivery, step by step (R130, R138) -/

/-- The reasons without DEMAND_STALE. -/
def InhibitSet.notStale (s : InhibitSet) : InhibitSet := { s with demandStale := false }

theorem notStale_of_not {s : InhibitSet} (h : s.demandStale = false) : s.notStale = s := by
  cases s
  subst h
  rfl

theorem endStale_gov (p : Part) : p.endStale.gov = { p.gov with inhibit := p.gov.inhibit.notStale } ∧ p.endStale.send = p.send := by
  unfold Part.endStale
  split
  next => exact endFault_gov (p.withdraw .demandStale) _ _
  next h => exact ⟨by rw [notStale_of_not (by simpa using h)], rfl⟩

theorem endStale_ended {p : Part} (h : p.gov.inhibit.demandStale = true) :
    p.endStale.endedFault .demandStale { block := .tractionGovernor } := by
  rw [Part.endStale, if_pos h]
  exact endFault_ended _ (by decide)

theorem endStale_mbx (p : Part) : p.endStale.mbx = p.mbx := by
  unfold Part.endStale
  split
  · exact endFault_mbx _ _ _
  · rfl

theorem endStale_get (p : Part) {k : FaultKind} (hk : k ≠ .demandStale) (ha : k ≠ .alarmOutput) :
    p.endStale.faults.get k = p.faults.get k := by
  unfold Part.endStale
  split
  · exact endFault_get _ hk ha
  · rfl

theorem endStale_moves_few (p : Part) : p.Moves [.inhibit, .outputs, .records] p.endStale := by
  unfold Part.endStale
  split
  · exact .before (endFault_moves _ _ _) (withdraw_moves _ _).mono
  · exact .refl _ _

/-- The arming test sets ARMED, and nothing else in the governor (R138). -/
theorem arm_gov (p : Part) (s v : Word) :
    (p.arm s v).gov = { p.gov with armed := p.gov.armed || (decide (v.toInt ≤ 0) && p.gov.inhibit.empty) } := by
  by_cases h : v.toInt ≤ 0 ∧ p.gov.inhibit.empty = true ∧ p.gov.armed = false
  · obtain ⟨hv, hempty, harmed⟩ := h
    have harms : (p.arm s v).gov = { p.gov with armed := true } := by
      rw [Part.arm, if_pos ⟨hv, hempty, by simp [harmed]⟩]
      rfl
    rw [harms, hempty, decide_eq_true hv, Bool.and_self, Bool.or_true]
  · have hsame : (p.gov.armed || (decide (v.toInt ≤ 0) && p.gov.inhibit.empty)) = p.gov.armed := by
      cases harmed : p.gov.armed with
      | true => rfl
      | false =>
        have hbarred : ¬ (v.toInt ≤ 0 ∧ p.gov.inhibit.empty = true) := fun ⟨hv, hempty⟩ => h ⟨hv, hempty, harmed⟩
        simpa using hbarred
    rw [hsame, Part.arm, if_neg fun ⟨hv, hempty, harmed⟩ => h ⟨hv, hempty, by simpa using harmed⟩]

theorem arm_of_barred {p : Part} (h : p.gov.inhibit.empty = false) (s v : Word) : p.arm s v = p :=
  if_neg fun ⟨_, hempty, _⟩ => by rw [h] at hempty; exact absurd hempty (by decide)

theorem arm_send (p : Part) (s v : Word) : (p.arm s v).send = p.send := by
  unfold Part.arm
  split <;> rfl

theorem arm_faults (p : Part) (s v : Word) : (p.arm s v).faults = p.faults := by
  unfold Part.arm
  split <;> rfl

/-! ### A period frame that claims nothing -/

/-- The count of missed replies set. -/
def Part.missesAt (p : Part) (misses goodRun : Nat) : Part := { p with gov := { p.gov with misses := misses, goodRun := goodRun } }

theorem periodFrame_quiet {p : Part} (h : p.gov.replyWait = none ∨ p.gov.misses ≠ 2 ∨ p.gov.inhibit.driveLink = true) :
    ∃ misses goodRun, p.periodFrame = p.hands.missesAt misses goodRun := by
  cases hw : p.gov.replyWait with
  | none => exact ⟨p.gov.misses, p.gov.goodRun, periodFrame_of_closed hw⟩
  | some awaited =>
    have hclaims : ¬ (countUp p.hands.gov.misses 255 = 3 ∧ p.hands.gov.inhibit.driveLink = false) := by
      rintro ⟨hmisses, hlink⟩
      obtain hnone | hne | hheld := h
      · exact Option.some_ne_none _ (hw.symm.trans hnone)
      · exact hne (countUp_eq_three.mp hmisses)
      · exact Bool.false_ne_true (hlink.symm.trans hheld)
    exact ⟨_, _, (periodFrame_of_open hw).trans (countMiss_quiet hclaims awaited)⟩

theorem periodFrame_open_quiet {p : Part} (hopen : p.gov.replyWait ≠ none) (h : p.gov.misses ≠ 2 ∨ p.gov.inhibit.driveLink = true) :
    p.periodFrame = p.hands.missesAt (countUp p.gov.misses 255) 0 := by
  obtain ⟨awaited, hw⟩ := Option.ne_none_iff_exists'.mp hopen
  refine (periodFrame_of_open hw).trans (countMiss_quiet ?_ awaited)
  rintro ⟨hmisses, hlink⟩
  obtain hne | hheld := h
  · exact hne (countUp_eq_three.mp hmisses)
  · exact Bool.false_ne_true (hlink.symm.trans hheld)

/-! ### The third missed reply (R137, R141, R142) -/

/-- DRIVE_LINK joins: a claim on an empty set disarms, and a set that is not empty was not ARMED. -/
theorem disarmed_of_has {p : Part} {r : Reason} (h : p.guarded) (hr : p.gov.inhibit.has r = true) : p.gov.armed = false := by
  refine Bool.eq_false_iff.mpr fun harmed => ?_
  have := h.2 harmed
  rw [not_empty_of_has hr] at this
  exact absurd this (by decide)

theorem periodFrame_loses {p : Part} {awaited : Byte} (hw : p.gov.replyWait = some awaited) (hmisses : p.gov.misses = 2)
    (hlink : p.gov.inhibit.driveLink = false) : p.losesDriveLink p.periodFrame awaited := by
  have hthree : countUp p.gov.misses 255 = 3 := countUp_eq_three.mpr hmisses
  have hframe : p.periodFrame = (p.hands.countsMiss.claim .driveLink).raise
      (lossRaise (countUp p.gov.misses 255) awaited p.links.recs.drive.state p.gov.inverter) :=
    (periodFrame_of_open hw).trans (countMiss_of_claims (p := p.hands) hthree hlink awaited)
  have hclaim : p.hands.countsMiss.claim .driveLink = (p.hands.countsMiss.joined .driveLink).cutFrame := claim_of_cut hlink rfl
  have hcut := raise_mayCut (p.hands.countsMiss.claim .driveLink)
    (lossRaise (countUp p.gov.misses 255) awaited p.links.recs.drive.state p.gov.inverter)
  obtain ⟨hmiss, hrun, -⟩ := Part.same_trans (claim_only p.hands.countsMiss .driveLink .replies (by decide))
    ((raise_moves (p.hands.countsMiss.claim .driveLink)
      (lossRaise (countUp p.gov.misses 255) awaited p.links.recs.drive.state p.gov.inverter)).drifts.only .replies (by decide))
  have hjoined : p.periodFrame.gov.inhibit.has .driveLink = true := by
    rw [hframe, hcut.reasons .driveLink (by decide), claim_inhibit]
    exact put_has _ _ _
  refine ⟨?_, ?_, hjoined, ?_, fun hguarded => disarmed_of_has ((periodFrame_moves p).drifts.guarded hguarded) hjoined, ?_, ?_⟩
  · rw [hframe, hmiss]; exact hthree
  · rw [hframe, hrun]; rfl
  · rw [hframe]
    refine hcut.setpoint.elim (fun h => h.trans ?_) id
    rw [hclaim]; rfl
  · rw [hframe]
    refine hcut.frame ?_
    rw [hclaim]
    exact hand_cuts _ rfl rfl
  · have hraised := activated_of_raise (p.hands.countsMiss.claim .driveLink) (lossRaise 3 awaited p.links.recs.drive.state p.gov.inverter)
      (show FaultKind.driveLinkLost ≠ .alarmOutput by decide)
    rw [hframe, hthree]
    exact activated_congr hraised
      (by rw [claim_faults]; rfl) rfl rfl rfl

/-- The words of a lost drive link read of the part before only its guard, the record, the link and the inverter. -/
theorem losesDriveLink_congr {p p' q q' : Part} {awaited : Byte} (h : p.losesDriveLink q awaited) (hguarded : p'.guarded → p.guarded)
    (hget : p'.faults.get .driveLinkLost = p.faults.get .driveLinkLost) (hlinks : p'.links = p.links)
    (hinverter : p'.gov.inverter = p.gov.inverter) (hq : ∃ i, i.driveLink = q.gov.inhibit.driveLink ∧ q'.gov = { q.gov with inhibit := i })
    (hsend : q'.send = q.send) (hget' : q'.faults.get .driveLinkLost = q.faults.get .driveLinkLost) (hnow : q'.now = q.now)
    (htables : q'.tables = q.tables) : p'.losesDriveLink q' awaited := by
  obtain ⟨hmisses, hrun, hlink, hsetpoint, harmed, hcut, hactivated⟩ := h
  obtain ⟨i, hi, hgov⟩ := hq
  refine ⟨by rw [hgov]; exact hmisses, by rw [hgov]; exact hrun, by rw [hgov]; exact hi.trans hlink, by rw [hgov]; exact hsetpoint,
    fun hg => by rw [hgov]; exact harmed (hguarded hg), by rw [hsend]; exact hcut, ?_⟩
  rw [hlinks, hinverter]
  exact activated_congr hactivated hget hget' hnow htables

/-! ### What the setpoint is computed from -/

/-- Two parts whose computations agree: demand, last setpoint, limits and budget. -/
structure Part.ComputesAs (p q : Part) : Prop where
  held : q.gov.held = p.gov.held
  setpoint : q.gov.setpoint = p.gov.setpoint
  tables : q.tables = p.tables
  zones : q.zones = p.zones
  line : q.line = p.line

theorem motoringCeiling_congr {p q : Part} (ht : q.tables = p.tables) (hz : q.zones = p.zones) (hl : q.line = p.line) :
    q.motoringCeiling = p.motoringCeiling ∧ q.brakingCeiling = p.brakingCeiling := by
  simp only [Part.motoringCeiling, Part.brakingCeiling, Part.allowanceCurrent, ht, hz, hl, and_self]

theorem Part.ComputesAs.follows {p q : Part} (h : p.ComputesAs q) {s : Int} (hs : q.follows s) : p.follows s := by
  obtain ⟨hmotor, hbrake⟩ := motoringCeiling_congr h.tables h.zones h.line
  obtain ⟨t, x, htarget, hstep, hx⟩ := hs
  unfold Part.targets at htarget
  rw [h.held, h.tables, hmotor, hbrake] at htarget
  rw [h.setpoint, h.tables] at hstep
  rw [hmotor, hbrake] at hx
  exact ⟨t, x, htarget, hstep, hx⟩

theorem line_of_moves {xs : List Piece} {p q : Part} (h : p.onlyChanges xs q)
    (hl : (xs.contains .line || xs.contains .budget) = false := by decide) : q.line = p.line := by
  simp only [Bool.or_eq_false_iff] at hl
  have hown : q.line.own = p.line.own := h .line (by simpa using hl.1)
  obtain ⟨hbudget, hgrants, hlast⟩ : p.same q .budget := h .budget (by simpa using hl.2)
  revert hown hbudget hgrants hlast
  cases p.line
  cases q.line
  simp only [Line.own, Line.mk.injEq]
  intro h1 h2 h3 h4
  simp_all

/-! ### Deliveries that are read (R130) -/

theorem staleCause_of_fresh {g : Governor} {sq v cm : Word} (hcm : cm = ~~~v) (hlow : -1000 ≤ v.toInt) (hhigh : v.toInt ≤ 1000)
    (hfresh : g.lastFresh ≠ some sq) : g.staleCause (.read sq v cm) = none := by
  rw [Governor.staleCause, if_neg (not_not_intro hcm), if_neg (by omega), if_neg hfresh]

/-- Why a delivery that was read is not fresh (R130). -/
def readCause (v cm : Word) : StaleCause :=
  if cm ≠ ~~~v then .mismatch else if v.toInt < -1000 ∨ 1000 < v.toInt then .range else .unchanged

theorem staleCause_of_stale {g : Governor} {sq v cm : Word}
    (h : cm ≠ ~~~v ∨ v.toInt < -1000 ∨ 1000 < v.toInt ∨ g.lastFresh = some sq) :
    g.staleCause (.read sq v cm) = some (readCause v cm) := by
  unfold Governor.staleCause readCause
  dsimp only
  by_cases hcm : cm ≠ ~~~v
  · rw [if_pos hcm, if_pos hcm]
  · rw [if_neg hcm, if_neg hcm]
    by_cases hrange : v.toInt < -1000 ∨ 1000 < v.toInt
    · rw [if_pos hrange, if_pos hrange]
    · rw [if_neg hrange, if_neg hrange]
      obtain h | h | h | h := h
      · exact absurd h hcm
      · exact absurd (.inl h) hrange
      · exact absurd (.inr h) hrange
      · rw [if_pos h]

theorem deliver_fresh {p : Part} {sq v cm : Word} (hmode : p.mode = .run) (h : p.gov.staleCause (.read sq v cm) = none) :
    p.deliver (.read sq v cm) = p.deliverFresh sq v := by
  unfold Part.deliver
  rw [if_pos hmode]
  simp only [h]

theorem deliver_stale {p : Part} {sq v cm : Word} {c : StaleCause} (hmode : p.mode = .run)
    (h : p.gov.staleCause (.read sq v cm) = some c) : p.deliver (.read sq v cm) = (p.takeStale c).periodFrame := by
  unfold Part.deliver
  rw [if_pos hmode]
  simp only [h]

theorem missClaims_iff (g : Governor) : g.missClaims = true ↔ g.replyWait ≠ none ∧ g.misses = 2 ∧ g.inhibit.driveLink = false := by
  simp [Governor.missClaims, Option.isSome_iff_ne_none, and_assoc]

theorem demandDone_eq {s : Part} {a : Access} (hfly : s.mbx.port.inFlight = some a) (hop : a.op = .demandRead) (sq v cm : Word) :
    s.demandDone sq v cm = s.freePort.deliver (.read sq v cm) := if_pos (by simp [Mailbox.inFlightIs, hfly, hop])

/-- The governor once a fresh sample is stored, its stale episode ended and the arming test made (R130, R138). -/
def Part.armedBy (p : Part) (sq v : Word) : Part := (p.takeFresh sq v).endStale.arm sq v

theorem armedBy_gov (p : Part) (sq v : Word) : (p.armedBy sq v).gov = { p.gov with
    lastFresh := some sq, held := v.toInt, stale := 0, inhibit := p.gov.inhibit.notStale,
    armed := p.gov.armed || (decide (v.toInt ≤ 0) && p.gov.inhibit.notStale.empty) } := by
  rw [Part.armedBy, arm_gov, (endStale_gov _).1]
  rfl

theorem armedBy_send (p : Part) (sq v : Word) : (p.armedBy sq v).send = p.send := by
  rw [Part.armedBy, arm_send, (endStale_gov _).2]
  rfl

theorem armedBy_moves (p : Part) (sq v : Word) : p.Moves govPieces (p.armedBy sq v) :=
  (((takeFresh_moves p sq v).mono (ys := govPieces)).andThen (endStale_moves _)).andThen (arm_moves _ sq v)

theorem armedBy_same (p : Part) (sq v : Word) {x : Piece} (hx : govPieces.contains x = false) : p.same (p.armedBy sq v) x :=
  (armedBy_moves p sq v).drifts.only x (by simpa using hx)

theorem armedBy_computes (p : Part) (sq v : Word) : ({ p with gov := { p.gov with held := v.toInt } } : Part).ComputesAs (p.armedBy sq v) := by
  have hgov := armedBy_gov p sq v
  refine ⟨by rw [hgov], by rw [hgov], armedBy_same p sq v (x := .tables) (by decide), armedBy_same p sq v (x := .zones) (by decide), ?_⟩
  have hline : (p.armedBy sq v).line = p.line := line_of_moves (armedBy_moves p sq v).drifts.only
  exact hline

theorem deliverFresh_quiet {p : Part} (h : p.gov.missClaims = false) (sq v : Word) : p.deliverFresh sq v = (p.armedBy sq v).periodFrame :=
  if_neg (by simp [h])

theorem deliverFresh_claims {p : Part} (h : p.gov.missClaims = true) (sq v : Word) :
    p.deliverFresh sq v = ((p.takeFresh sq v).arm sq v).periodFrame.endStale := if_pos h

/-- The demand as a fresh delivery leaves it (R130, R136). -/
theorem deliverFresh_demand (p : Part) (sq v : Word) : (p.deliverFresh sq v).gov.lastFresh = some sq
    ∧ (p.deliverFresh sq v).gov.held = v.toInt ∧ (p.deliverFresh sq v).gov.stale = 0
    ∧ (p.deliverFresh sq v).gov.inhibit.demandStale = false := by
  by_cases h : p.gov.missClaims = true
  · obtain ⟨-, hfresh, hheld, hstale⟩ := periodFrame_demand ((p.takeFresh sq v).arm sq v)
    rw [arm_gov] at hfresh hheld hstale
    rw [deliverFresh_claims h, (endStale_gov _).1]
    exact ⟨hfresh, hheld, hstale, rfl⟩
  · obtain ⟨-, hfresh, hheld, hstale⟩ := periodFrame_demand (p.armedBy sq v)
    have hreason := periodFrame_reasons (p.armedBy sq v) (r := .demandStale) (by decide) (by decide)
    have hreason : (p.armedBy sq v).periodFrame.gov.inhibit.demandStale = (p.armedBy sq v).gov.inhibit.demandStale := hreason
    rw [armedBy_gov] at hfresh hheld hstale hreason
    rw [deliverFresh_quiet (by simpa using h)]
    exact ⟨hfresh, hheld, hstale, hreason⟩

/-- A fresh delivery ends the stale episode (R130). -/
theorem deliverFresh_ends {p : Part} (hstale : p.gov.inhibit.demandStale = true) (sq v : Word) :
    (p.deliverFresh sq v).endedFault .demandStale { block := .tractionGovernor } := by
  by_cases h : p.gov.missClaims = true
  · rw [deliverFresh_claims h]
    refine endStale_ended ((periodFrame_reasons _ (r := .demandStale) (by decide) (by decide)).trans ?_)
    rw [arm_gov]
    exact hstale
  · rw [deliverFresh_quiet (by simpa using h)]
    have hended := endStale_ended (p := p.takeFresh sq v) hstale
    unfold Part.endedFault at hended ⊢
    rw [periodFrame_get _ (by decide) (by decide), Part.armedBy, arm_faults]
    exact hended

/-- A fresh delivery whose frame claims nothing: the frame, its setpoint and the governor's record (R132 to R134, R138, R141). -/
theorem deliverFresh_frame {p : Part} {sq v : Word}
    (h : p.gov.replyWait = none ∨ p.gov.misses ≠ 2 ∨ p.gov.inhibit.driveLink = true) :
    (p.deliverFresh sq v).gov.inhibit = { p.gov.inhibit with demandStale := false }
      ∧ (p.deliverFresh sq v).gov.armed
        = (p.gov.armed || (decide (v.toInt ≤ 0) && (p.deliverFresh sq v).gov.inhibit.empty))
      ∧ (p.deliverFresh sq v).gov.counter = p.gov.counter + 1 ∧ (p.deliverFresh sq v).gov.replyWait = some p.gov.counter
      ∧ (p.deliverFresh sq v).send = p.send.hand
          { seq := p.gov.counter, current := (p.deliverFresh sq v).gov.setpoint,
            mode := (p.deliverFresh sq v).frameMode (p.deliverFresh sq v).gov.setpoint,
            regen := (p.deliverFresh sq v).regenPermitted }
      ∧ ((p.deliverFresh sq v).gov.inhibit.empty = false ∨ (p.deliverFresh sq v).gov.armed = false →
          (p.deliverFresh sq v).gov.setpoint = 0)
      ∧ ((p.deliverFresh sq v).gov.inhibit.empty = true → (p.deliverFresh sq v).gov.armed = true →
          { p with gov := { p.gov with held := v.toInt } }.follows (p.deliverFresh sq v).gov.setpoint)
      ∧ (p.deliverFresh sq v).gov.setpoint ≤ (p.deliverFresh sq v).motoringCeiling
      ∧ -((p.deliverFresh sq v).brakingCeiling : Int) ≤ (p.deliverFresh sq v).gov.setpoint := by
  have hclaims : p.gov.missClaims = false := by
    rw [Bool.eq_false_iff, ne_eq, missClaims_iff]
    rintro ⟨hopen, hmisses, hlink⟩
    obtain h | h | h := h
    · exact hopen h
    · exact h hmisses
    · exact Bool.false_ne_true (hlink.symm.trans h)
  have hgov := armedBy_gov p sq v
  obtain ⟨misses, goodRun, hframe⟩ := periodFrame_quiet (p := p.armedBy sq v) (by rw [hgov]; exact h)
  have hsend : (p.armedBy sq v).hands.send = p.send.hand
      { seq := p.gov.counter, current := (p.armedBy sq v).nextSetpoint,
        mode := (p.armedBy sq v).frameMode (p.armedBy sq v).nextSetpoint, regen := (p.armedBy sq v).regenPermitted } := by
    have hseq : (p.armedBy sq v).gov.counter = p.gov.counter := by rw [hgov]
    rw [← armedBy_send p sq v, ← hseq]
    rfl
  have hinhibit : (p.armedBy sq v).gov.inhibit = { p.gov.inhibit with demandStale := false } := by rw [hgov]; rfl
  have harmed : (p.armedBy sq v).gov.armed = (p.gov.armed || (decide (v.toInt ≤ 0) && (p.armedBy sq v).gov.inhibit.empty)) := by rw [hgov]
  have hcounter : (p.armedBy sq v).gov.counter = p.gov.counter := by rw [hgov]
  rw [deliverFresh_quiet hclaims, hframe]
  refine ⟨hinhibit, harmed, congrArg (· + 1) hcounter, congrArg some hcounter, hsend,
    fun hbarred => nextSetpoint_of_barred (p := p.armedBy sq v) hbarred,
    fun he ha => (armedBy_computes p sq v).follows (nextSetpoint_follows (p := p.armedBy sq v) he ha),
    nextSetpoint_bounds (p.armedBy sq v)⟩

/-- In an event that brings the claim of DRIVE_LINK on a set with DEMAND_STALE, the governor is not armed (R136, R138). -/
theorem deliverFresh_raised {p : Part} (hopen : p.gov.replyWait ≠ none) (hmisses : p.gov.misses = 2)
    (hlink : p.gov.inhibit.driveLink = false) (hstale : p.gov.inhibit.demandStale = true) (sq v : Word) :
    (p.deliverFresh sq v).mbx.raised
      = p.mbx.raised + 1 + (if (p.deliverFresh sq v).faults.state = p.faults.state then 0 else 1) := by
  obtain ⟨awaited, hw⟩ := Option.ne_none_iff_exists'.mp hopen
  have hclaims : p.gov.missClaims = true := (missClaims_iff p.gov).mpr ⟨hopen, hmisses, hlink⟩
  have hhas : (p.takeFresh sq v).gov.inhibit.has .demandStale = true := hstale
  have hframe : (p.takeFresh sq v).periodFrame = ((p.takeFresh sq v).hands.countsMiss.claim .driveLink).raise
      (lossRaise (countUp p.gov.misses 255) awaited p.links.recs.drive.state p.gov.inverter) :=
    (periodFrame_of_open (p := p.takeFresh sq v) hw).trans
      (countMiss_of_claims (p := (p.takeFresh sq v).hands) (countUp_eq_three.mpr hmisses) hlink awaited)
  have hstate : (p.deliverFresh sq v).faults.state = (p.takeFresh sq v).periodFrame.faults.state := by
    rw [deliverFresh_claims hclaims, arm_of_barred (not_empty_of_has hhas)]
    exact ((endStale_moves_few _).drifts.only .collector (by decide)).1
  have hclaim : ((p.takeFresh sq v).hands.countsMiss.claim .driveLink).mbx.raised = p.mbx.raised := by rw [claim_mbx]; rfl
  rw [hstate, deliverFresh_claims hclaims, arm_of_barred (not_empty_of_has hhas), endStale_mbx, hframe, raise_raised, raise_state,
    hclaim, claim_faults]
  rfl

/-! ### Lost drive links and missed replies (R141, R142) -/

/-- What a stale delivery leaves of the replies, the link and its reason, and the guard (R131). -/
structure Part.KeepsLink (p q : Part) : Prop where
  replies : p.same q .replies
  link : q.gov.inhibit.driveLink = p.gov.inhibit.driveLink
  links : q.links = p.links
  guarded : p.guarded → q.guarded
  replyWait : p.gov.replyWait ≠ none → q.gov.replyWait ≠ none
  get : q.faults.get .driveLinkLost = p.faults.get .driveLinkLost

theorem takeStale_keepsLink (p : Part) (c : StaleCause) : p.KeepsLink (p.takeStale c) := by
  by_cases h : p.reachesLimit
  · have hraise := raise_moves (p.countsStale.claim .demandStale) (staleRaise c (countUp p.gov.stale 255) p.gov.lastFresh)
    have hcut := raise_mayCut (p.countsStale.claim .demandStale) (staleRaise c (countUp p.gov.stale 255) p.gov.lastFresh)
    refine ⟨?_, ?_, ?_, (takeStale_moves p c).drifts.guarded, fun hopen => ?_, ?_⟩
    · rw [takeStale_of_reached h]
      exact Part.same_trans (q := p.countsStale.claim .demandStale) (claim_only p.countsStale .demandStale .replies (by decide))
        (hraise.drifts.only .replies (by decide))
    · rw [takeStale_of_reached h]
      refine (hcut.reasons .driveLink (by decide)).trans ?_
      rw [claim_inhibit]
      exact put_has_other _ .demandStale .driveLink true (by decide)
    · exact (takeStale_moves p c).drifts.only .links (by decide)
    · rw [takeStale_of_reached h]
      exact hcut.replyWait (claim_replyWait (p := p.countsStale) .demandStale hopen)
    · rw [takeStale_of_reached h, raise_get_other _ _ (by decide) (show FaultKind.driveLinkLost ≠ .demandStale by decide), claim_faults]
      rfl
  · rw [takeStale_of_short h]
    exact ⟨⟨rfl, rfl, rfl, rfl⟩, rfl, rfl, id, id, rfl⟩

/-- The third missed reply of a fresh delivery (R142). -/
theorem deliverFresh_loses {p : Part} {awaited : Byte} (hw : p.gov.replyWait = some awaited) (hmisses : p.gov.misses = 2)
    (hlink : p.gov.inhibit.driveLink = false) (sq v : Word) : p.losesDriveLink (p.deliverFresh sq v) awaited := by
  have hclaims : p.gov.missClaims = true := (missClaims_iff p.gov).mpr ⟨by rw [hw]; exact Option.some_ne_none _, hmisses, hlink⟩
  have hgov := arm_gov (p.takeFresh sq v) sq v
  have hmoves : p.Moves govPieces ((p.takeFresh sq v).arm sq v) := ((takeFresh_moves p sq v).mono (ys := govPieces)).andThen (arm_moves _ sq v)
  have hloses := periodFrame_loses (p := (p.takeFresh sq v).arm sq v) (awaited := awaited) (by rw [hgov]; exact hw)
    (by rw [hgov]; exact hmisses) (by rw [hgov]; exact hlink)
  obtain ⟨hend, hsend⟩ := endStale_gov ((p.takeFresh sq v).arm sq v).periodFrame
  rw [deliverFresh_claims hclaims]
  exact losesDriveLink_congr hloses hmoves.drifts.guarded (by rw [arm_faults]; rfl)
    (Eq.symm (hmoves.drifts.only .links (by decide))) (by rw [hgov]; rfl)
    ⟨((p.takeFresh sq v).arm sq v).periodFrame.gov.inhibit.notStale, rfl, hend⟩ hsend
    (endStale_get _ (by decide) (by decide)) ((endStale_moves_few _).drifts.only .now (by decide))
    ((endStale_moves_few _).drifts.only .tables (by decide))

/-- The third missed reply of a stale delivery (R142). -/
theorem staleFrame_loses {p : Part} (hopen : p.gov.replyWait ≠ none) (hmisses : p.gov.misses = 2)
    (hlink : p.gov.inhibit.driveLink = false) (c : StaleCause) :
    ∃ awaited, p.losesDriveLink (p.takeStale c).periodFrame awaited ∧ (¬ p.reachesLimit → p.gov.replyWait = some awaited) := by
  have hkeeps := takeStale_keepsLink p c
  obtain ⟨hsame, -, hinverter, -⟩ := hkeeps.replies
  obtain ⟨awaited, hw⟩ := Option.ne_none_iff_exists'.mp (hkeeps.replyWait hopen)
  have hloses := periodFrame_loses hw (hsame.trans hmisses) (hkeeps.link.trans hlink)
  refine ⟨awaited, losesDriveLink_congr hloses hkeeps.guarded hkeeps.get.symm hkeeps.links.symm hinverter.symm ⟨_, rfl, rfl⟩ rfl rfl rfl rfl,
    fun hshort => ?_⟩
  rw [takeStale_of_short hshort] at hw
  exact hw

/-- A missed reply that does not lose the link is counted (R141). -/
theorem periodFrame_counts {p : Part} (hopen : p.gov.replyWait ≠ none) (h : p.gov.misses ≠ 2 ∨ p.gov.inhibit.driveLink = true) :
    p.periodFrame.gov.misses = countUp p.gov.misses 255 ∧ p.periodFrame.gov.goodRun = 0
      ∧ p.periodFrame.gov.inhibit.driveLink = p.gov.inhibit.driveLink := by
  rw [periodFrame_open_quiet hopen h]
  exact ⟨rfl, rfl, rfl⟩

theorem deliverFresh_counts {p : Part} (hopen : p.gov.replyWait ≠ none) (h : p.gov.misses ≠ 2 ∨ p.gov.inhibit.driveLink = true)
    (sq v : Word) : (p.deliverFresh sq v).gov.misses = countUp p.gov.misses 255 ∧ (p.deliverFresh sq v).gov.goodRun = 0
      ∧ (p.deliverFresh sq v).gov.inhibit.driveLink = p.gov.inhibit.driveLink := by
  have hclaims : p.gov.missClaims = false := by
    rw [Bool.eq_false_iff, ne_eq, missClaims_iff]
    rintro ⟨-, hmisses, hlink⟩
    obtain h | h := h
    · exact h hmisses
    · exact Bool.false_ne_true (hlink.symm.trans h)
  have hgov := armedBy_gov p sq v
  rw [deliverFresh_quiet hclaims]
  have hcounts := periodFrame_counts (p := p.armedBy sq v) (by rw [hgov]; exact hopen) (by rw [hgov]; exact h)
  rw [hgov] at hcounts
  exact hcounts

theorem deliverFresh_closed {p : Part} (hclosed : p.gov.replyWait = none) (sq v : Word) :
    (p.deliverFresh sq v).gov.misses = p.gov.misses ∧ (p.deliverFresh sq v).gov.goodRun = p.gov.goodRun := by
  have hclaims : p.gov.missClaims = false := by simp [Governor.missClaims, hclosed]
  have hgov := armedBy_gov p sq v
  rw [deliverFresh_quiet hclaims, periodFrame_of_closed (by rw [hgov]; exact hclosed), hands_gov, hgov]
  exact ⟨rfl, rfl⟩

/-- A stale delivery short of the limit, whose frame claims nothing, follows the held demand (R131 to R133). -/
theorem staleFrame_follows {p : Part} (hshort : ¬ p.reachesLimit) (h : p.gov.replyWait = none ∨ p.gov.misses ≠ 2)
    (hempty : p.gov.inhibit.empty = true) (harmed : p.gov.armed = true) (c : StaleCause) :
    p.follows (p.takeStale c).periodFrame.gov.setpoint := by
  obtain ⟨misses, goodRun, hframe⟩ := periodFrame_quiet (p := p.countsStale) (h.imp_right .inl)
  have hcomputes : p.ComputesAs p.countsStale := ⟨rfl, rfl, rfl, rfl, rfl⟩
  rw [takeStale_of_short hshort, hframe]
  exact hcomputes.follows (nextSetpoint_follows (p := p.countsStale) hempty harmed)

/-- The demand read of the statements, with the port freed. -/
theorem exec_demandRead {s : State} {a : Access} (hfly : s.part.mbx.port.inFlight = some a) (hop : a.op = .demandRead) (sq v cm : Word) :
    exec (.demandReadComplete sq v cm) s = .next { s with part := (s.part.freePort.deliver (.read sq v cm)).settle } :=
  exec_of_moves (exec_demandReadComplete sq v cm s) (demandDone_eq hfly hop sq v cm)
    (demandDone_eq hfly hop sq v cm ▸ demandDone_moves s.part sq v cm)

/-- Settles O33, which holds: a fresh delivery, a stale one, and what either does to the drive link. -/
theorem demandReadIsJudged : Obligations.DemandReadIsJudged := by
  intro s sq v cm a hfly hop
  have hexec := exec_demandRead hfly hop sq v cm
  refine ⟨fun hmode => ?_, fun hmode hcm hlow hhigh hnew => ?_, fun hmode hstale => ?_, fun hmode => ?_⟩
  · rw [hexec, deliver_outside (p := s.part.freePort) hmode]
  · have hcause := staleCause_of_fresh (g := s.part.freePort.gov) hcm hlow hhigh hnew
    obtain ⟨hfresh, hheld, hcount, hended⟩ := deliverFresh_demand s.part.freePort sq v
    rw [deliver_fresh (p := s.part.freePort) hmode hcause] at hexec
    exact ⟨_, hexec, hfresh, hheld, hcount, hended, fun hstale => deliverFresh_ends (p := s.part.freePort) hstale sq v,
      fun hquiet => deliverFresh_frame (p := s.part.freePort) hquiet,
      fun hopen hmisses hlink hstale => deliverFresh_raised (p := s.part.freePort) hopen hmisses hlink hstale sq v⟩
  · have hcause := staleCause_of_stale (g := s.part.freePort.gov) (sq := sq) (v := v) (cm := cm) hstale
    obtain ⟨-, hfresh, hheld, hcount⟩ := staleFrame_demand s.part.freePort (readCause v cm)
    rw [deliver_stale (p := s.part.freePort) hmode hcause] at hexec
    refine ⟨_, hexec, hfresh, hheld, hcount, fun hbelow hlimit => ?_, fun hshort hquiet hempty harmed => ?_⟩
    · exact staleFrame_claims (p := s.part.freePort) ⟨hbelow, hlimit⟩ (readCause v cm)
    · refine staleFrame_follows (p := s.part.freePort) (fun ⟨hbelow, hlimit⟩ => ?_) hquiet hempty harmed (readCause v cm)
      obtain habove | hne := hshort
      · exact absurd hbelow (Nat.not_lt.mpr habove)
      · exact hne hlimit
  · refine ⟨_, hexec, ?_, ?_, ?_, ?_⟩
    · intro hopen hmisses hlink
      cases hcause : s.part.gov.staleCause (.read sq v cm) with
      | none =>
        obtain ⟨awaited, hw⟩ := Option.ne_none_iff_exists'.mp hopen
        rw [deliver_fresh (p := s.part.freePort) hmode hcause]
        exact ⟨awaited, deliverFresh_loses (p := s.part.freePort) hw hmisses hlink sq v, fun _ => hw⟩
      | some c =>
        rw [deliver_stale (p := s.part.freePort) hmode hcause]
        obtain ⟨awaited, hloses, hshort⟩ := staleFrame_loses (p := s.part.freePort) hopen hmisses hlink c
        exact ⟨awaited, hloses, fun h => hshort fun ⟨hbelow, hlimit⟩ => h.elim (Option.some_ne_none c) fun hn => hn ⟨hbelow, hlimit⟩⟩
    · intro hopen hquiet
      cases hcause : s.part.gov.staleCause (.read sq v cm) with
      | none =>
        rw [deliver_fresh (p := s.part.freePort) hmode hcause]
        exact deliverFresh_counts (p := s.part.freePort) hopen hquiet sq v
      | some c =>
        rw [deliver_stale (p := s.part.freePort) hmode hcause]
        have hkeeps := takeStale_keepsLink s.part.freePort c
        obtain ⟨hmisses, -⟩ := hkeeps.replies
        have hcounts := periodFrame_counts (hkeeps.replyWait hopen) (by rw [hmisses, hkeeps.link]; exact hquiet)
        rw [hmisses, hkeeps.link] at hcounts
        exact hcounts
    · intro hclosed hcm hlow hhigh hnew
      rw [deliver_fresh (p := s.part.freePort) hmode (staleCause_of_fresh (g := s.part.freePort.gov) hcm hlow hhigh hnew)]
      exact deliverFresh_closed (p := s.part.freePort) hclosed sq v
    · exact ((partFreePort_moves s.part).mono.andThen (deliver_moves _ _)).drifts.only

end Sys2Proof.Machine

/-! ## Failed accesses (R11, R14, R16, R17, R19) -/

namespace Sys2Proof.Machine

/-! ### The reports of the governor -/

/-- Records of faults and of changes of collector state. -/
def someFault (r : ReportRec) : Prop := ∃ k, faultReport k r

theorem raise_logs_some (p : Part) (x : Raise) : p.Logs someFault (p.raise x) := (raise_logs p x).mono fun _ h => ⟨x.kind, h⟩

theorem claim_logs {P : ReportRec → Prop} (p : Part) (r : Reason) : p.Logs P (p.claim r) := .of_mbx (claim_mbx p r)

theorem takeStale_logs (p : Part) (c : StaleCause) : p.Logs someFault (p.takeStale c) := by
  by_cases h : p.reachesLimit
  · rw [takeStale_of_reached h]
    exact (Part.Logs.of_mbx (p := p) (q := p.countsStale) rfl).andThen ((claim_logs p.countsStale .demandStale).andThen (raise_logs_some _ _))
  · rw [takeStale_of_short h]
    exact .of_mbx rfl

theorem countMiss_logs (p : Part) (awaited : Byte) : p.Logs someFault (p.countMiss awaited) := by
  by_cases h : countUp p.gov.misses 255 = 3 ∧ p.gov.inhibit.driveLink = false
  · rw [countMiss_of_claims h.1 h.2]
    exact (Part.Logs.of_mbx (p := p) (q := p.countsMiss) rfl).andThen ((claim_logs p.countsMiss .driveLink).andThen (raise_logs_some _ _))
  · rw [countMiss_quiet h]
    exact .of_mbx rfl

theorem periodFrame_logs (p : Part) : p.Logs someFault p.periodFrame := by
  cases hw : p.gov.replyWait with
  | none => rw [periodFrame_of_closed hw]; exact .of_mbx rfl
  | some awaited =>
    rw [periodFrame_of_open hw]
    exact (Part.Logs.of_mbx (p := p) (q := p.hands) rfl).andThen (countMiss_logs p.hands awaited)

/-! ### The raise of a failed access (R16) -/

/-- The access has ended, and the record that its burst wrote is unmarked (R14, R24). -/
def Part.accessEnds (p : Part) (op : PortOp) : Part := { p with mbx := p.mbx.freePort.unmarkFor op }

/-- MEMORY_PORT raised for a failed access (R16). -/
def Part.accessRaised (p : Part) (a : Access) : Part := (p.accessEnds a.op).raiseMemoryPort a

theorem accessFails_eq {p : Part} {a : Access} (hfly : p.mbx.port.inFlight = some a) : p.accessFails = (p.accessRaised a).failed a.op := by
  rw [Part.accessFails, hfly]
  rfl

theorem accessEnds_rest (p : Part) (op : PortOp) : (p.accessEnds op).mbx.chains = p.mbx.chains
    ∧ (p.accessEnds op).mbx.raised = p.mbx.raised ∧ (p.accessEnds op).mbx.mirror = p.mbx.mirror := by
  unfold Part.accessEnds Mailbox.unmarkFor
  split <;> exact ⟨rfl, rfl, rfl⟩

theorem accessRaised_logs (p : Part) (a : Access) : (p.accessEnds a.op).Logs someFault (p.accessRaised a) := raise_logs_some _ _

theorem accessRaised_cursor (p : Part) (a : Access) (c : Chain) :
    ((p.accessRaised a).mbx.chains.get c).cursor = (p.mbx.chains.get c).cursor := by
  rw [(accessRaised_logs p a).cursor c, (accessEnds_rest p a.op).1]

theorem accessRaised_chain (p : Part) (a : Access) {c : Chain} (hc : c ≠ .report) :
    (p.accessRaised a).mbx.chains.get c = p.mbx.chains.get c := by
  rw [(accessRaised_logs p a).chain_of_ne hc, (accessEnds_rest p a.op).1]

theorem accessRaised_get (p : Part) (a : Access) {k : FaultKind} (hk : k ≠ .memoryPort) (ha : k ≠ .alarmOutput) :
    (p.accessRaised a).faults.get k = p.faults.get k := raise_get_other (p.accessEnds a.op) _ ha hk

theorem accessRaised_oneRaise (p : Part) (a : Access) : p.oneRaise (p.accessRaised a) .memoryPort :=
  oneRaise_congr (oneRaise_of_raise (p.accessEnds a.op) _) (accessEnds_rest p a.op).2.1.symm rfl rfl

theorem accessRaised_activated (p : Part) (a : Access) : p.activated (p.accessRaised a) .memoryPort
    { block := .mailboxPort, inst := requesterNumber a.op.requester } [.large a.addr] := by
  have hraised : (p.accessEnds a.op).activated (p.accessRaised a) .memoryPort
      { block := .mailboxPort, inst := requesterNumber a.op.requester } [.large a.addr] :=
    activated_of_raise (p.accessEnds a.op) _ (show FaultKind.memoryPort ≠ .alarmOutput by decide)
  exact activated_congr (q' := p.accessRaised a) hraised rfl rfl rfl rfl

theorem accessRaised_moves (p : Part) (a : Access) : (p.accessEnds a.op).Moves raisePieces (p.accessRaised a) := raise_moves _ _

/-! ### What the failure does to its requester (R16) -/

theorem failed_chain {p : Part} {op : PortOp} {c : Chain} (h : op.chain = some c) : p.failed op = p.breakChain c op.breakPhase := by
  rw [Part.failed, h]

theorem failed_demand (p : Part) : p.failed .demandRead = p.deliver .failed := rfl

theorem failed_mirror {p : Part} {op : PortOp} (h : op.requester = .mirror) : p.failed op = p.mirrorEnd := by
  cases op
  case mirrorFirst | mirrorBody | mirrorLast => rfl
  case demandRead => exact absurd h (by decide)
  all_goals exact absurd h (by rename_i c; cases c <;> decide)

/-- An access is a walker's, the demand sampler's or the mirror writer's. -/
theorem requester_cases (op : PortOp) : (∃ c, op.chain = some c) ∨ op = .demandRead ∨ (op.requester = .mirror ∧ op.chain = none) := by
  cases op
  case demandRead => exact .inr (.inl rfl)
  case mirrorFirst | mirrorBody | mirrorLast => exact .inr (.inr ⟨rfl, rfl⟩)
  all_goals exact .inl ⟨_, rfl⟩

/-- A failure leaves the record of MEMORY_PORT, the clock and the tables (R16). -/
theorem failed_keeps (p : Part) (op : PortOp) : (p.failed op).faults.get .memoryPort = p.faults.get .memoryPort
    ∧ (p.failed op).now = p.now ∧ (p.failed op).tables = p.tables := by
  obtain ⟨c, hchain⟩ | rfl | ⟨hmirror, -⟩ := requester_cases op
  · have hmoves := (breakChain_moves p c op.breakPhase).drifts.only
    rw [failed_chain hchain]
    exact ⟨raise_get_other (p.chainBreaks c) _ (by decide) (show FaultKind.memoryPort ≠ .chainBroken by decide),
      hmoves .now (by decide), hmoves .tables (by decide)⟩
  · have hmoves := (deliver_moves p .failed).drifts.only
    refine ⟨?_, hmoves .now (by decide), hmoves .tables (by decide)⟩
    rw [failed_demand]
    by_cases hmode : p.mode = .run
    · rw [deliver_failed hmode, periodFrame_get _ (by decide) (by decide)]
      by_cases h : p.reachesLimit
      · rw [takeStale_of_reached h, raise_get_other _ _ (by decide) (show FaultKind.memoryPort ≠ .demandStale by decide), claim_faults]
        rfl
      · rw [takeStale_of_short h]
        rfl
    · rw [deliver_outside hmode]
  · have hmoves := (mirrorEnd_moves p).drifts.only
    rw [failed_mirror hmirror]
    exact ⟨get_of_same (hmoves .records (by decide)) _, hmoves .now (by decide), hmoves .tables (by decide)⟩

/-- A failure leaves the Control and Setup chains that it does not break (R16). -/
theorem failed_chain_other (p : Part) {op : PortOp} {c : Chain} (hc : c ≠ .report) (hop : op.chain ≠ some c) :
    (p.failed op).mbx.chains.get c = p.mbx.chains.get c := by
  obtain ⟨d, hchain⟩ | rfl | ⟨hmirror, -⟩ := requester_cases op
  · rw [failed_chain hchain]
    exact breakChain_chain_other p _ (fun h => hop (h ▸ hchain)) hc
  · rw [failed_demand]
    by_cases hmode : p.mode = .run
    · rw [deliver_failed hmode]
      exact ((takeStale_logs p .failedRead).andThen (periodFrame_logs _)).chain_of_ne hc
    · rw [deliver_outside hmode]
  · rw [failed_mirror hmirror]
    exact congrArg (·.get c) ((mirrorEnd_moves p).drifts.only .chains (by decide))

/-- The words of a break read of the part before only the cursor and the record of CHAIN_BROKEN. -/
theorem brokeChain_of_cursor {p p' q : Part} {c : Chain} {phase : BreakPhase} (h : p.brokeChain q c phase)
    (hcursor : (p'.mbx.chains.get c).cursor = (p.mbx.chains.get c).cursor)
    (hget : p'.faults.get .chainBroken = p.faults.get .chainBroken) : p'.brokeChain q c phase := by
  unfold Part.brokeChain at h ⊢
  rw [hcursor]
  obtain ⟨h1, h2, h3, h4, h5, h6, h7, hactivated⟩ := h
  exact ⟨h1, h2, h3, h4, h5, h6, h7, activated_congr hactivated hget rfl rfl rfl⟩

theorem mirrorEnd_of_single {p : Part} (h : p.mbx.mirror.pendingStart = false) :
    p.mirrorEnd = { p with mbx := { p.mbx with mirror := { p.mbx.mirror with writing := none } } } := if_neg (by simp [h])

theorem exec_accessFails {c : Instr} (hc : c ∈ [Instr.memoryAccessError, .memoryAccessTimeout]) (s : State) :
    exec c s = .next { s with part := s.part.accessFails.settle } := by
  simp only [List.mem_cons, List.not_mem_nil, or_false] at hc
  obtain rfl | rfl := hc
  · exact exec_of_moves (exec_memoryAccessError s) rfl (accessFails_moves s.part)
  · exact exec_of_moves (exec_memoryAccessTimeout s) rfl (accessFails_moves s.part)

/-- A mirror write is abandoned, and nothing else raised (R19). -/
theorem accessRaised_mirrorEnd {p : Part} (a : Access) (hsingle : p.mbx.mirror.pendingStart = false) :
    (p.accessRaised a).mirrorEnd.mbx.mirror = { p.mbx.mirror with writing := none }
      ∧ p.oneRaise (p.accessRaised a).mirrorEnd .memoryPort := by
  have hmirror : (p.accessRaised a).mbx.mirror = p.mbx.mirror :=
    ((accessRaised_moves p a).drifts.only .mirror (by decide)).trans (accessEnds_rest p a.op).2.2
  obtain ⟨hstate, hraised, hothers⟩ := accessRaised_oneRaise p a
  have hend := mirrorEnd_of_single (p := p.accessRaised a) (by rw [hmirror]; exact hsingle)
  have hm : (p.accessRaised a).mirrorEnd.mbx.mirror = { (p.accessRaised a).mbx.mirror with writing := none } := by rw [hend]
  have hf : (p.accessRaised a).mirrorEnd.faults = (p.accessRaised a).faults := by rw [hend]
  have hr : (p.accessRaised a).mirrorEnd.mbx.raised = (p.accessRaised a).mbx.raised := by rw [hend]
  rw [hmirror] at hm
  exact ⟨hm, by rw [hf]; exact hstate, by rw [hr, hf]; exact hraised, by rw [hf]; exact hothers⟩

/-- Settles O36, which holds: MEMORY_PORT first, then what the failure does to the requester. -/
theorem failedAccessAffectsItsRequester : Obligations.FailedAccessAffectsItsRequester := by
  intro s
  refine ⟨exec_of_moves (exec_lateCompletion s) rfl (.refl [] s.part), fun c hc => ⟨fun hnone => ?_, fun a hfly => ?_⟩⟩
  · have hidle : s.part.accessFails = s.part := by rw [Part.accessFails, hnone]
    rw [exec_accessFails hc, hidle]
  · obtain ⟨hget, hnow, htables⟩ := failed_keeps (s.part.accessRaised a) a.op
    have hmoves := (accessRaised_moves s.part a).drifts.only
    have hgov : s.part.same (s.part.accessRaised a) .demand := hmoves .demand (by decide)
    have hlimits : (s.part.accessRaised a).tables = s.part.tables := hmoves .tables (by decide)
    have hrun : (s.part.accessRaised a).mode = s.part.mode := hmoves .mode (by decide)
    obtain ⟨-, hfresh, hheld, hstale⟩ := hgov
    have hactivated : s.part.activated ((s.part.accessRaised a).failed a.op) .memoryPort
        { block := .mailboxPort, inst := requesterNumber a.op.requester } [.large a.addr] :=
      activated_congr (accessRaised_activated s.part a) rfl hget hnow htables
    rw [exec_accessFails hc, accessFails_eq hfly]
    refine ⟨_, rfl, hactivated, fun ch hchain => ?_,
      fun hop hsingle => ?_, fun hop hmode => ?_, fun hop hmode => ?_, fun ch hch hop => ?_,
      accessFails_eq hfly ▸ (accessFails_moves s.part).drifts.only⟩
    · rw [failed_chain hchain]
      exact brokeChain_of_cursor (breakChain_broke _ ch _) (accessRaised_cursor s.part a ch).symm
        (accessRaised_get s.part a (by decide) (by decide)).symm
    · rw [failed_mirror hop]
      exact accessRaised_mirrorEnd a hsingle
    · rw [hop, failed_demand, deliver_outside (by rw [hrun]; exact hmode)]
      exact accessRaised_oneRaise s.part a
    · obtain ⟨hfresh', hheld', hstale'⟩ := staleFrame_gov (s.part.accessRaised a) .failedRead
      rw [hop, failed_demand, deliver_failed (hrun.trans hmode)]
      refine ⟨hfresh'.trans hfresh, hheld'.trans hheld, hstale'.trans (congrArg (countUp · 255) hstale), periodFrame_replyWait _,
        fun hbelow hlimit => ?_⟩
      have hreaches : (s.part.accessRaised a).reachesLimit := by
        rw [Part.reachesLimit, hstale, hlimits]
        exact ⟨hbelow, hlimit⟩
      obtain ⟨hclaimed, -, hactivated⟩ := staleFrame_claims hreaches .failedRead
      have hstale : (s.part.accessRaised a).gov.stale = s.part.gov.stale := hstale
      have hfresh : (s.part.accessRaised a).gov.lastFresh = s.part.gov.lastFresh := hfresh
      rw [hstale, hfresh] at hactivated
      exact ⟨hclaimed, activated_congr hactivated (accessRaised_get s.part a (by decide) (by decide)).symm rfl rfl rfl⟩
    · rw [failed_chain_other _ hch hop, accessRaised_chain s.part a hch]

end Sys2Proof.Machine

/-! ## The mirror, the Mailbox Port's timers and stopped timers (R8, R18, R19) -/

namespace Sys2Proof.Machine

/-! ### Stopped timers (assumption log 2) -/

/-- The expiry of a timer that does not run is an event that changes nothing. -/
theorem exec_of_stopped {c : Instr} {s : State} {t : Part → Timer} {f : Part → Part}
    (hexec : exec c s = s.event (fun p => p.onExpiry (t p) f)) (ht : t s.part = .stopped) :
    exec c s = .next { s with part := s.part.settle } := by
  have hsame : s.part.onExpiry (t s.part) f = s.part := by rw [ht, onExpiry_stopped]
  exact exec_of_moves (xs := []) hexec hsame (.refl [] s.part)

/-- Settles O38, which holds: each expiry command by `exec_of_stopped`. -/
theorem expiryOfStoppedTimerChangesNothing : Obligations.ExpiryOfStoppedTimerChangesNothing := by
  intro s
  exact ⟨fun c => exec_of_stopped (exec_rescanTimerExpiry c s), exec_of_stopped (exec_mirrorIntervalExpiry s),
    fun l => exec_of_stopped (exec_silenceTimerExpiry l s), fun i => exec_of_stopped (exec_debounceExpiry i s),
    fun i => exec_of_stopped (exec_cleaningPulseEnd i s), fun x => exec_of_stopped (exec_pollTimerExpiry x s),
    fun x => exec_of_stopped (exec_secondSample x s), fun o => exec_of_stopped (exec_mismatchTimerExpiry o s),
    exec_of_stopped (exec_gapTimerExpiry s), exec_of_stopped (exec_restoreTimerExpiry s),
    exec_of_stopped (exec_highPersistExpiry s), fun i => exec_of_stopped (exec_confirmTimerExpiry i s),
    fun i => exec_of_stopped (exec_resolutionTimerExpiry i s), fun i => exec_of_stopped (exec_retrieverHoldExpiry i s),
    fun i => exec_of_stopped (exec_lowerTimerExpiry i s), fun i => exec_of_stopped (exec_raiseTimerExpiry i s),
    fun i => exec_of_stopped (exec_settleTimerExpiry i s), exec_of_stopped (exec_speedTimerExpiry s),
    exec_of_stopped (exec_stationaryTimerExpiry s), exec_of_stopped (exec_controlPeriodExpiry s),
    exec_of_stopped (exec_staggerTimerExpiry s), fun a => exec_of_stopped (exec_startTimerExpiry a s),
    fun a => exec_of_stopped (exec_offTimerExpiry a s), fun k => exec_of_stopped (exec_edgeHoldExpiry k s),
    fun k => exec_of_stopped (exec_testHoldExpiry k s), exec_of_stopped (exec_alertTimerExpiry s),
    exec_of_stopped (exec_lampHoldExpiry s), exec_of_stopped (exec_buzzerHoldExpiry s)⟩

/-! ### Mirror writes (R18, R19) -/

theorem beginMirror_begins (p : Part) (b : Word) :
    (p.beginMirror b).mbx.mirror
        = { p.mbx.mirror with seq := p.mbx.mirror.seq + 1, writing := some { base := b, body := p.mirrorBody }, pendingStart := false }
      ∧ (p.beginMirror b).mbx.port.requests
          { op := .mirrorFirst, addr := b + 0x100, len := 1, data := [p.mbx.mirror.seq + 1] } := by
  refine ⟨?_, place_requests _ _ (by simp)⟩
  obtain ⟨q, hq⟩ := place_port { p.mbx with mirror := { p.mbx.mirror with
      seq := p.mbx.mirror.seq + 1, writing := some { base := b, body := p.mirrorBody }, pendingStart := false } }
    { op := .mirrorFirst, addr := b + 0x100, len := 1, data := [p.mbx.mirror.seq + 1] }
  exact congrArg Mailbox.mirror hq

/-- The body of a mirror write shows the part apart from its mirror and its port. -/
theorem mirrorBody_congr {p q : Part} (h : ∃ m t, q = { p with mbx := { p.mbx with mirror := m, port := t } }) :
    q.mirrorBody = p.mirrorBody := by
  obtain ⟨m, t, rfl⟩ := h
  rfl

/-- The mirror interval restarted (R18). -/
theorem restartMirror_mirror (p : Part) : p.restartMirror.mbx.mirror
    = { p.mbx.mirror with timer := p.startTimer p.tables.timers.mirrorInterval } := rfl

/-- Settles O37, which holds. -/
theorem mailboxTimersStartReadsAndMirrors : Obligations.MailboxTimersStartReadsAndMirrors := by
  intro s e
  obtain ⟨t, ht⟩ := clockTo_eq s.part e
  refine ⟨fun c hrun => ?_, fun hrun => ?_⟩
  · have hexec := exec_of_expiry (exec_rescanTimerExpiry c s) hrun (rescanExpired_moves _ c)
    rw [ht] at hexec ⊢
    refine ⟨fun hb => ?_, fun b hb => ?_⟩
    · have hnone : (s.part.atTime t).rescanExpired c = s.part.atTime t := by
        have hsame : (s.part.atTime t).mbx.startRescan c = (s.part.atTime t).mbx := by
          have hbase : (s.part.atTime t).mbx.base = none := hb
          rw [Mailbox.startRescan, hbase]
        rw [Part.rescanExpired, hsame]
      rw [hexec, hnone]
    · exact ⟨_, hexec, startRescan_rescans s.part.mbx c b hb, startRescan_onlyChain s.part.mbx c,
        (rescanExpired_moves _ c).drifts.only⟩
  · have hexec := exec_of_expiry (exec_mirrorIntervalExpiry s) hrun (mirrorInterval_moves _)
    have htimer : (s.part.atTime t).restartMirror.mbx.mirror
        = { s.part.mbx.mirror with timer := (s.part.atTime t).startTimer s.part.tables.timers.mirrorInterval } := rfl
    rw [ht] at hexec ⊢
    refine ⟨_, hexec, ?_⟩
    have honly := (mirrorInterval_moves (s.part.atTime t)).drifts.only
    have hstart : (s.part.atTime t).mirrorInterval = (s.part.atTime t).restartMirror.mirrorStart := rfl
    cases hb : s.part.mbx.base with
    | none =>
      have hunset : (s.part.atTime t).mirrorInterval = (s.part.atTime t).restartMirror := by
        have hbase : (s.part.atTime t).restartMirror.mbx.base = none := hb
        rw [hstart, Part.mirrorStart, hbase]
      rw [hunset] at honly ⊢
      exact ⟨rfl, fun _ => ⟨rfl, rfl⟩, fun _ h => (nomatch h), fun h => absurd rfl h, honly⟩
    | some b =>
      have hbase : (s.part.atTime t).restartMirror.mbx.base = some b := hb
      cases hw : s.part.mbx.mirror.writing with
      | none =>
        have hwriting : (s.part.atTime t).restartMirror.mbx.mirror.writing = none := hw
        have hbegins : (s.part.atTime t).mirrorInterval = (s.part.atTime t).restartMirror.beginMirror b := by
          rw [hstart, Part.mirrorStart, hbase, hwriting]
        obtain ⟨hmirror, hrequest⟩ := beginMirror_begins (s.part.atTime t).restartMirror b
        have hbody : (s.part.atTime t).restartMirror.mirrorBody = (s.part.atTime t).mirrorBody := mirrorBody_congr ⟨_, _, rfl⟩
        rw [hbegins] at honly ⊢
        rw [hmirror, hbody]
        refine ⟨rfl, fun h => (nomatch h), fun b' hb' _ => ?_, fun _ h => absurd rfl h, honly⟩
        obtain rfl := Option.some.inj hb'
        exact ⟨rfl, rfl, hrequest⟩
      | some w =>
        have hwriting : (s.part.atTime t).restartMirror.mbx.mirror.writing = some w := hw
        have hkept : (s.part.atTime t).mirrorInterval.mbx.mirror = { (s.part.atTime t).restartMirror.mbx.mirror with pendingStart := true } := by
          rw [hstart, Part.mirrorStart, hbase, hwriting]
        rw [hkept]
        exact ⟨rfl, fun h => (nomatch h), fun _ _ h => (nomatch h), fun _ _ => rfl, honly⟩

/-- The access of a mirror write's body burst. -/
def MirrorWrite.burst (w : MirrorWrite) (i : Nat) : Access :=
  { op := .mirrorBody i, addr := w.base + word (0x104 + 64 * i), len := ((w.body.drop (16 * i)).take 16).length,
    data := (w.body.drop (16 * i)).take 16 }

/-- An access placed for the mirror writer leaves the mirror's record (R19). -/
theorem placed_mirror (p : Part) (a : Access) (h : a.op ≠ .dataWrite .report) :
    ({ p with mbx := p.mbx.place a } : Part).mbx.mirror = p.mbx.mirror ∧ ({ p with mbx := p.mbx.place a } : Part).mbx.port.requests a := by
  obtain ⟨q, hq⟩ := place_port p.mbx a
  exact ⟨by rw [hq], place_requests p.mbx a h⟩

theorem mirrorNext_of_writing {p : Part} {w : MirrorWrite} (h : p.mbx.mirror.writing = some w) (op : PortOp) :
    p.mirrorNext op = match op with
      | .mirrorFirst => { p with mbx := p.mbx.place (w.burst 0) }
      | .mirrorBody i =>
        if i < 11 then { p with mbx := p.mbx.place (w.burst (i + 1)) }
        else { p with mbx := p.mbx.place { op := .mirrorLast, addr := w.base + 0x3FC, len := 1, data := [p.mbx.mirror.seq] } }
      | _ => p.mirrorEnd := by
  unfold Part.mirrorNext
  rw [h]
  cases op <;> rfl

theorem mirrorEnd_of_pending {p : Part} {b : Word} (h : p.mbx.mirror.pendingStart = true) (hb : p.mbx.base = some b) :
    p.mirrorEnd = ({ p with mbx := { p.mbx with mirror := { p.mbx.mirror with writing := none } } } : Part).beginMirror b := by
  unfold Part.mirrorEnd
  dsimp only
  rw [if_pos h, hb]

/-- Settles O35, which holds: the parts of a write, its end, and the start that waits for it. -/
theorem mirrorIsWrittenInParts : Obligations.MirrorIsWrittenInParts := by
  intro s w a hfly hreq hwriting
  have hop : s.part.mbx.mirrorInFlight = some a.op := by
    rw [Mailbox.mirrorInFlight, hfly]
    exact if_pos hreq
  have hdone : s.part.mirrorDone = s.part.freePort.mirrorNext a.op := by
    rw [Part.mirrorDone, hop]
  have hnext := mirrorNext_of_writing (p := s.part.freePort) hwriting a.op
  have hmoves : s.part.Moves [.mirror, .chains, .port] s.part.mirrorDone := mirrorDone_moves s.part
  have honly : s.part.onlyChanges [.mirror, .port] s.part.mirrorDone := by
    have hfree : s.part.onlyChanges [.mirror, .port] s.part.freePort := by
      intro x hx
      cases x <;> simp_all [Part.same, Part.freePort, Mailbox.freePort]
    rw [hdone]
    exact hfree.andThen (mirrorNext_moves s.part.freePort a.op).drifts.only
  refine ⟨_, exec_of_moves (exec_mirrorBurstComplete s) rfl hmoves, fun hfirst => ?_, fun i hbody hi => ?_, fun hlast => ?_,
    fun hend hsingle => ?_, fun hend hpending b hb => ?_, honly⟩
  · rw [hdone, hnext, hfirst]
    exact placed_mirror s.part.freePort (w.burst 0) (by simp [MirrorWrite.burst])
  · rw [hdone, hnext, hbody]
    dsimp only
    rw [if_pos hi]
    exact placed_mirror s.part.freePort (w.burst (i + 1)) (by simp [MirrorWrite.burst])
  · rw [hdone, hnext, hlast]
    exact placed_mirror s.part.freePort _ (by simp)
  · rw [hdone, hnext, hend]
    dsimp only
    rw [mirrorEnd_of_single (p := s.part.freePort) hsingle]
    rfl
  · rw [hdone, hnext, hend]
    dsimp only
    rw [mirrorEnd_of_pending (p := s.part.freePort) hpending hb]
    obtain ⟨hmirror, hrequest⟩ := beginMirror_begins
      ({ s.part.freePort with mbx := { s.part.freePort.mbx with mirror := { s.part.freePort.mbx.mirror with writing := none } } } : Part) b
    rw [hmirror]
    exact ⟨rfl, rfl, rfl, hrequest⟩

end Sys2Proof.Machine

/-! ## The timers of the Fault Collector and the supervision of outputs (R46, R159, R162, R165, R166) -/

namespace Sys2Proof.Machine

/-! ### Commanded outputs (R45, R46) -/

theorem holds_of_outputFor {p : Part} {r : DriveRole} {o : OutputNo} (h : p.outputFor r = some o) :
    (p.tables.outputs.get o).holds r = true :=
  List.find?_some (p := fun o => (p.tables.outputs.get o).holds r) h

/-- The output record after a command, with its supervision (R46). -/
theorem setCommanded_output (p : Part) (o : OutputNo) (on : Bool) :
    (p.setCommanded o on).output o = if (p.output o).commanded = on then p.output o
      else ({ p.output o with commanded := on } : OutputRec).supervise p := by
  unfold Part.setCommanded
  by_cases h : (p.output o).commanded = on
  · rw [if_pos (by simpa using h), if_pos h]
  · rw [if_neg (by simpa using h), if_neg h, Part.output_set_same]

theorem setCommanded_output_other (p : Part) {o j : OutputNo} (h : j ≠ o) (on : Bool) :
    (p.setCommanded o on).output j = p.output j := by
  unfold Part.setCommanded
  split
  · rfl
  · exact Part.output_set_other p o j _ h

theorem supervise_commanded (r : OutputRec) (p : Part) : (r.supervise p).commanded = r.commanded := by
  unfold OutputRec.supervise
  split
  · rfl
  · split <;> rfl

theorem setCommanded_commanded (p : Part) (o : OutputNo) (on : Bool) : ((p.setCommanded o on).output o).commanded = on := by
  rw [setCommanded_output]
  split
  next h => exact h
  next => exact supervise_commanded _ _

theorem driveAlarm_outputs {p : Part} {r : DriveRole} {o : OutputNo} (h : p.outputFor r = some o) (on : Bool) (j : OutputNo) :
    (p.driveAlarm r on).output j = (p.setCommanded o on).output j := by
  unfold Part.driveAlarm
  rw [h]
  dsimp only
  split <;> rfl

theorem driveAlarm_of_none {p : Part} {r : DriveRole} (h : p.outputFor r = none) (on : Bool) : p.driveAlarm r on = p := by
  rw [Part.driveAlarm, h]

theorem outputFor_congr {p q : Part} (h : q.tables = p.tables) (r : DriveRole) : q.outputFor r = p.outputFor r := by
  rw [Part.outputFor, h]
  rfl

theorem driveAlarm_tables (p : Part) (r : DriveRole) (on : Bool) : (p.driveAlarm r on).tables = p.tables :=
  (driveAlarm_moves p r on).drifts.only .tables (by decide)

/-- No output holds both alarm roles (R45). -/
theorem lamp_ne_buzzer {p : Part} {x y : OutputNo} (hx : p.outputFor .lamp = some x) (hy : p.outputFor .buzzer = some y) : x ≠ y := by
  rintro rfl
  have hlamp := holds_of_outputFor hx
  have hbuzzer := holds_of_outputFor hy
  simp only [OutputEntry.holds, beq_iff_eq] at hlamp hbuzzer
  rw [hlamp] at hbuzzer
  exact absurd hbuzzer (by decide)

/-- The evaluation commands each alarm output as R165 wants it. -/
theorem evalAlarms_lamp {p : Part} {o : OutputNo} (h : p.outputFor .lamp = some o) :
    p.evalAlarms.output o = (p.setCommanded o p.lampWanted).output o := by
  have hlamp := driveAlarm_outputs h p.lampWanted o
  have htables := driveAlarm_tables p .lamp p.lampWanted
  unfold Part.evalAlarms
  cases hb : (p.driveAlarm .lamp p.lampWanted).outputFor .buzzer with
  | none => rw [driveAlarm_of_none hb, hlamp]
  | some x =>
    have hne : o ≠ x := lamp_ne_buzzer h ((outputFor_congr htables .buzzer).symm.trans hb)
    rw [driveAlarm_outputs hb, setCommanded_output_other _ hne, hlamp]

theorem evalAlarms_buzzer {p : Part} {o : OutputNo} (h : p.outputFor .buzzer = some o) :
    (p.evalAlarms.output o).commanded = p.buzzerWanted := by
  have hb : (p.driveAlarm .lamp p.lampWanted).outputFor .buzzer = some o :=
    (outputFor_congr (driveAlarm_tables p .lamp p.lampWanted) .buzzer).trans h
  unfold Part.evalAlarms
  rw [driveAlarm_outputs hb, setCommanded_commanded]

theorem evalAlarms_lamp_commanded {p : Part} {o : OutputNo} (h : p.outputFor .lamp = some o) :
    (p.evalAlarms.output o).commanded = p.lampWanted := by
  rw [evalAlarms_lamp h, setCommanded_commanded]

/-! ### The collector's own timers -/

theorem claim_alertTimer (p : Part) (r : Reason) : (p.claim r).faults.alertTimer = p.faults.alertTimer := by rw [claim_faults]

theorem moveCollector_alertTimer {p : Part} {new : CollectorState} (hnew : new ≠ .alert) (hne : p.faults.state ≠ new)
    (cause : CollectorCause) (kind : Option FaultKind) (tag : Word) :
    (p.moveCollector new cause kind tag).faults.alertTimer = .stopped := by
  have hto : (p.collectorTo new).faults.alertTimer = .stopped := by
    unfold Part.collectorTo
    dsimp only
    rw [if_neg hnew]
    repeat' split
    all_goals simp only [Part.withdraw_faults, claim_faults, Part.collectorSet]
  rw [moveCollector_eq hne]
  exact hto

theorem moveCollector_newest {p : Part} {new : CollectorState} (hne : p.faults.state ≠ new) (cause : CollectorCause)
    (kind : Option FaultKind) (tag : Word) : (p.moveCollector new cause kind tag).mbx.newest .collectorChanged .faultCollector 0 tag
      (.small (collectorCode p.faults.state) :: .small (collectorCode new) :: .small cause.ctorIdx
        :: (kind.map (fun k => Item.small (kindNumber k))).toList) := by
  rw [moveCollector_eq hne]
  exact report_newest _ _ _ _ _ _ _

/-- FAULT claims FAULT_STATE (R162). -/
theorem moveCollector_claims {p : Part} (hne : p.faults.state ≠ .fault) (cause : CollectorCause) (kind : Option FaultKind) (tag : Word) :
    (p.moveCollector .fault cause kind tag).gov.inhibit.faultState = true := by
  have hto : (p.collectorTo .fault).gov.inhibit.has .faultState = true := by
    unfold Part.collectorTo
    dsimp only
    rw [if_neg hne, if_pos rfl, claim_inhibit]
    exact put_has _ _ _
  rw [moveCollector_eq hne]
  exact hto

/-- The alert timer stopped. -/
def Part.alertStopped (p : Part) : Part := { p with faults := { p.faults with alertTimer := .stopped } }

theorem alertExpired_eq (p : Part) : p.alertExpired =
    if p.faults.state = .alert then p.alertStopped.moveCollector .fault .alertExpiry none 0 else p.alertStopped := rfl

/-- The evaluation at the end of a hold, as the words of a collector timer's expiry. -/
theorem evalAlarms_shown (p : Part) :
    (∀ o, p.outputFor .lamp = some o → (p.evalAlarms.output o).commanded = p.lampWanted)
      ∧ (∀ o, p.outputFor .buzzer = some o → (p.evalAlarms.output o).commanded = p.buzzerWanted)
      ∧ (∀ x, x ≠ .alarmOutput → p.evalAlarms.faults.get x = p.faults.get x) ∧ p.onlyChanges [.outputs, .records] p.evalAlarms :=
  ⟨fun _ => evalAlarms_lamp_commanded, fun _ => evalAlarms_buzzer, (evalAlarms_keepsRecords p).others, (evalAlarms_moves p).drifts.only⟩

/-- Settles O60, which holds: each of the four holds ends in an evaluation, and the alert timer in FAULT. -/
theorem collectorTimers : Obligations.CollectorTimers := by
  refine ⟨fun s e c k p h => ?_, fun s e hrun => ?_⟩
  · obtain ⟨t, ht⟩ := clockTo_eq s.part e
    have hshown := evalAlarms_shown p
    obtain ⟨rfl, hrun, hp⟩ | ⟨rfl, hrun, hp⟩ | ⟨rfl, hrun, hp⟩ | ⟨rfl, hrun, hp⟩ := h
    · have hexec := exec_of_expiry (exec_edgeHoldExpiry k s) hrun (edgeHoldExpired_moves _ k)
      have hend : (s.part.clockTo e).edgeHoldExpired k = p.evalAlarms := by rw [hp]; rfl
      rw [hend] at hexec
      refine ⟨_, hexec, ?_⟩
      rw [hp, ht] at hshown ⊢
      exact hshown
    · have hexec := exec_of_expiry (exec_testHoldExpiry k s) hrun (testHoldExpired_moves _ k)
      have hend : (s.part.clockTo e).testHoldExpired k = p.evalAlarms := by rw [hp]; rfl
      rw [hend] at hexec
      refine ⟨_, hexec, ?_⟩
      rw [hp, ht] at hshown ⊢
      exact hshown
    · have hexec := exec_of_expiry (exec_lampHoldExpiry s) hrun (lampHoldExpired_moves _)
      have hend : (s.part.clockTo e).lampHoldExpired = p.evalAlarms := by rw [hp, ht]; rfl
      rw [hend] at hexec
      refine ⟨_, hexec, ?_⟩
      rw [hp, ht] at hshown ⊢
      exact hshown
    · have hexec := exec_of_expiry (exec_buzzerHoldExpiry s) hrun (buzzerHoldExpired_moves _)
      have hend : (s.part.clockTo e).buzzerHoldExpired = p.evalAlarms := by rw [hp, ht]; rfl
      rw [hend] at hexec
      refine ⟨_, hexec, ?_⟩
      rw [hp, ht] at hshown ⊢
      exact hshown
  · obtain ⟨t, ht⟩ := clockTo_eq s.part e
    refine ⟨_, exec_of_expiry (exec_alertTimerExpiry s) hrun (alertExpired_moves _), ?_, fun halert => ?_, fun hother => ?_,
      (alertExpired_moves _).drifts.only⟩
    · rw [ht, alertExpired_eq]
      split
      next halert =>
        have hne : (s.part.atTime t).alertStopped.faults.state ≠ .fault := fun h => absurd (halert.symm.trans h) (by decide)
        exact moveCollector_alertTimer (by decide) hne _ _ _
      next => rfl
    · have hstate : (s.part.atTime t).alertStopped.faults.state = .alert := halert
      have hne : (s.part.atTime t).alertStopped.faults.state ≠ .fault := fun h => absurd (hstate.symm.trans h) (by decide)
      have hnewest := moveCollector_newest hne .alertExpiry none 0
      rw [hstate] at hnewest
      rw [ht, alertExpired_eq, if_pos (by exact halert)]
      refine ⟨moveCollector_state _ _ _ _ _, moveCollector_claims hne _ _ _, ?_, ?_, hnewest,
        (moveCollector_moves _ _ _ _ _).drifts.only .records (by decide)⟩
      · rw [moveCollector_attention, hstate]
        simp
      · rw [moveCollector_raised, if_neg (Ne.symm hne)]
        rfl
    · rw [ht, alertExpired_eq, if_neg (by exact hother)]
      rfl

end Sys2Proof.Machine

/-! ## The supervision of the outputs by their read-back (R46, R166) -/

namespace Sys2Proof.Machine

/-! ### What the evaluation of the alarm outputs leaves -/

theorem driveAlarm_output (p : Part) (r : DriveRole) (on : Bool) (o : OutputNo) : (p.driveAlarm r on).output o =
    if p.outputFor r = some o then (p.setCommanded o on).output o else p.output o := by
  cases h : p.outputFor r with
  | none => rw [driveAlarm_of_none h, if_neg (by simp)]
  | some x =>
    rw [driveAlarm_outputs h]
    split
    next hx => rw [Option.some.inj hx]
    next hx => exact setCommanded_output_other p (fun ho => hx (by rw [ho])) on

/-- An alarm output is commanded anew, with its supervision, or keeps its record (R46, R165). -/
theorem evalAlarms_output (p : Part) (o : OutputNo) : p.evalAlarms.output o = p.output o
    ∨ ∃ on, (p.output o).commanded ≠ on ∧ p.evalAlarms.output o = ({ p.output o with commanded := on } : OutputRec).supervise p := by
  have hset : ∀ (q : Part) on, q.now = p.now → q.output o = p.output o → (q.setCommanded o on).output o = p.output o
      ∨ (p.output o).commanded ≠ on
        ∧ (q.setCommanded o on).output o = ({ p.output o with commanded := on } : OutputRec).supervise p := by
    intro q on hnow hrec
    rw [setCommanded_output, hrec]
    split
    next => exact .inl rfl
    next hne => exact .inr ⟨hne, by simp only [OutputRec.supervise, Part.startTimer, hnow]⟩
  by_cases hlamp : p.outputFor .lamp = some o
  · rw [evalAlarms_lamp hlamp]
    exact (hset p p.lampWanted rfl rfl).imp_right fun h => ⟨_, h⟩
  · have hkept : (p.driveAlarm .lamp p.lampWanted).output o = p.output o := by rw [driveAlarm_output, if_neg hlamp]
    unfold Part.evalAlarms
    rw [driveAlarm_output _ .buzzer]
    split
    · exact (hset _ p.buzzerWanted ((driveAlarm_moves p .lamp _).drifts.only .now (by decide)) hkept).imp_right fun h => ⟨_, h⟩
    · exact .inl hkept

theorem supervise_readback (r : OutputRec) (p : Part) : (r.supervise p).readback = r.readback := by
  unfold OutputRec.supervise
  repeat' split
  all_goals rfl

/-- A supervision fails no output. -/
theorem supervise_failed {r : OutputRec} (h : r.failed = false) (p : Part) : (r.supervise p).failed = false := by
  unfold OutputRec.supervise
  split
  · rfl
  · split <;> exact h

theorem evalAlarms_readback (p : Part) (o : OutputNo) : (p.evalAlarms.output o).readback = (p.output o).readback := by
  obtain h | ⟨on, -, h⟩ := evalAlarms_output p o
  · rw [h]
  · rw [h, supervise_readback]

theorem evalAlarms_failed {p : Part} {o : OutputNo} (h : (p.output o).failed = false) : (p.evalAlarms.output o).failed = false := by
  obtain hsame | ⟨on, -, hanew⟩ := evalAlarms_output p o
  · rw [hsame, h]
  · rw [hanew]
    exact supervise_failed (r := { p.output o with commanded := on }) h p

/-- An output that holds no alarm role keeps its record. -/
theorem evalAlarms_output_of_role {p : Part} {o : OutputNo} (hlamp : (p.tables.outputs.get o).role ≠ .alarmLamp)
    (hbuzzer : (p.tables.outputs.get o).role ≠ .alarmBuzzer) : p.evalAlarms.output o = p.output o := by
  have hl : p.outputFor .lamp ≠ some o := fun h => hlamp (by simpa [OutputEntry.holds] using holds_of_outputFor h)
  have hb : p.outputFor .buzzer ≠ some o := fun h => hbuzzer (by simpa [OutputEntry.holds] using holds_of_outputFor h)
  unfold Part.evalAlarms
  rw [driveAlarm_output, if_neg, driveAlarm_output, if_neg hl]
  rwa [outputFor_congr (driveAlarm_tables p .lamp _)]

/-- No source of ALARM_OUTPUT comes into force by the evaluation. -/
theorem driveAlarm_sources (p : Part) (r : DriveRole) (on : Bool) {x : Source}
    (h : x ∈ ((p.driveAlarm r on).faults.get .alarmOutput).sources) : x ∈ (p.faults.get .alarmOutput).sources := by
  cases ho : p.outputFor r with
  | none => rwa [driveAlarm_of_none ho] at h
  | some o =>
    have hkept := get_of_same (setCommanded_records p o on) .alarmOutput
    unfold Part.driveAlarm at h
    rw [ho] at h
    dsimp only at h
    split at h
    · rw [Part.modFault_faults, Collector.get_set_same, hkept] at h
      exact (List.mem_filter.mp h).1
    · rwa [hkept] at h

theorem evalAlarms_sources (p : Part) (k : FaultKind) {x : Source} (h : x ∈ (p.evalAlarms.faults.get k).sources) :
    x ∈ (p.faults.get k).sources := by
  by_cases hk : k = .alarmOutput
  · subst hk
    exact driveAlarm_sources _ _ _ (driveAlarm_sources _ _ _ h)
  · rwa [(evalAlarms_keepsRecords p).others k hk] at h

/-- An end notice ends the source, whatever the kind (R159). -/
theorem endFault_endedFault (p : Part) (k : FaultKind) (s : Source) : (p.endFault k s).endedFault k s := by
  intro h
  have hdropped := evalAlarms_sources _ k h
  rw [Part.modFault_faults, Collector.get_set_same] at hdropped
  simp [FaultRec.dropSource] at hdropped

/-- While ALARM_OUTPUT is not acknowledged, the evaluation does not change what it wants of the outputs. -/
theorem evalAlarms_wants {p : Part} (hunack : (p.faults.get .alarmOutput).unack = true) :
    p.evalAlarms.lampWanted = p.lampWanted ∧ p.evalAlarms.buzzerWanted = p.buzzerWanted := by
  have honly := (evalAlarms_moves p).drifts.only
  have hmode : p.evalAlarms.mode = p.mode := honly .mode (by decide)
  have htables : p.evalAlarms.tables = p.tables := honly .tables (by decide)
  obtain ⟨hlampHold, hbuzzerHold, hlampFallback, hbuzzerFallback⟩ := honly .alarms (by decide)
  have hkept := evalAlarms_keepsRecords p
  obtain ⟨sources, halarm⟩ := hkept.alarm
  have hshown : ∀ k, ((p.evalAlarms.faults.get k).active || (p.evalAlarms.faults.get k).unack)
      = ((p.faults.get k).active || (p.faults.get k).unack) := by
    intro k
    by_cases hk : k = .alarmOutput
    · simp [hk, halarm, hunack]
    · rw [hkept.others k hk]
  have hunacks : ∀ k, (p.evalAlarms.faults.get k).unack = (p.faults.get k).unack := by
    intro k
    by_cases hk : k = .alarmOutput
    · rw [hk, halarm]
    · rw [hkept.others k hk]
  constructor
  · simp only [Part.lampWanted, hshown, hmode, Part.reactions, htables, hlampHold, hlampFallback]
  · simp only [Part.buzzerWanted, hunacks, hmode, Part.reactions, htables, hbuzzerHold, hbuzzerFallback]

/-! ### A raise of ALARM_OUTPUT (R166) -/

theorem records_moves (p : Part) (x : Raise) : p.Moves [.records, .reports, .chains, .port] (p.records x) :=
  ((modFault_moves p x.kind _).mono (ys := [.records, .reports, .chains, .port])).andThen (report_moves _ _ _ _ _ _ _)

theorem activates_moves (p : Part) (x : Raise) : p.Moves (.records :: collectorPieces) (p.activates x) :=
  ((records_moves p x).mono (ys := .records :: collectorPieces)).andThen (collectorActivate_moves _ _ _ _ _)

theorem output_of_same {p q : Part} (h : p.same q .outputs) (o : OutputNo) : q.output o = p.output o := congrArg (·.get o) h

/-- The outputs of a raise are those before it, evaluated. -/
theorem raise_output (p : Part) (x : Raise) (o : OutputNo) : (p.raise x).output o = p.output o
    ∨ ∃ on, (p.output o).commanded ≠ on ∧ (p.raise x).output o = ({ p.output o with commanded := on } : OutputRec).supervise p := by
  have hsame := (activates_moves p x).drifts.only
  have houtput := output_of_same (hsame .outputs (by decide)) o
  have hnow : (p.activates x).now = p.now := hsame .now (by decide)
  have heval := evalAlarms_output ((p.activates x).withFaults ((p.activates x).holdsOf p x)) o
  rw [← raise_eq] at heval
  have hheld : ((p.activates x).withFaults ((p.activates x).holdsOf p x)).output o = p.output o := houtput
  rw [hheld] at heval
  refine heval.imp_right fun ⟨on, hne, h⟩ => ⟨on, hne, ?_⟩
  rw [h]
  simp only [OutputRec.supervise, Part.startTimer, Part.withFaults, hnow]

theorem raise_output_of_role {p : Part} (x : Raise) {o : OutputNo} (hlamp : (p.tables.outputs.get o).role ≠ .alarmLamp)
    (hbuzzer : (p.tables.outputs.get o).role ≠ .alarmBuzzer) : (p.raise x).output o = p.output o := by
  have hsame := (activates_moves p x).drifts.only
  have houtput : ((p.activates x).withFaults ((p.activates x).holdsOf p x)).output o = p.output o :=
    output_of_same (hsame .outputs (by decide)) o
  have htables : ((p.activates x).withFaults ((p.activates x).holdsOf p x)).tables = p.tables := hsame .tables (by decide)
  rw [raise_eq, evalAlarms_output_of_role (htables ▸ hlamp) (htables ▸ hbuzzer), houtput]

theorem roleFailed_congr {p q : Part} (houtputs : q.outputs = p.outputs) (htables : q.tables = p.tables) (r : DriveRole) :
    q.roleFailed r = p.roleFailed r := by
  simp only [Part.roleFailed, outputFor_congr htables, Part.output, houtputs]

/-- The alarm output's record after its raise: all but the sources is the activation's (R158). -/
theorem raise_alarmOutput (p : Part) {x : Raise} (hx : x.kind = .alarmOutput) :
    ∃ sources, (p.raise x).faults.get .alarmOutput = { (p.faults.get .alarmOutput).activate p x with sources := sources } := by
  obtain ⟨sources, h⟩ := (raise_keepsRecords p x).alarm
  refine ⟨sources, ?_⟩
  rw [h, records_get, if_pos hx.symm]

theorem holds_fallbacks (c : Collector) (p : Part) (x : Reactions) :
    (c.holds p x).lampFallback = c.lampFallback ∧ (c.holds p x).buzzerFallback = c.buzzerFallback := by
  unfold Collector.holds
  split <;> exact ⟨rfl, rfl⟩

/-- A raise of ALARM_OUTPUT leaves the alarm outputs as it then wants them (R165). -/
theorem raise_shows (p : Part) {x : Raise} (hx : x.kind = .alarmOutput) :
    (∀ o, (p.raise x).outputFor .lamp = some o → ((p.raise x).output o).commanded = (p.raise x).lampWanted)
      ∧ ∀ o, (p.raise x).outputFor .buzzer = some o → ((p.raise x).output o).commanded = (p.raise x).buzzerWanted := by
  obtain ⟨sources, halarm⟩ := raise_alarmOutput p hx
  have hunack : ((p.raise x).faults.get .alarmOutput).unack = true := by rw [halarm]; rfl
  rw [raise_eq] at hunack ⊢
  generalize (p.activates x).withFaults ((p.activates x).holdsOf p x) = w at hunack ⊢
  obtain ⟨_, hkept⟩ := (evalAlarms_keepsRecords w).alarm
  have hw : (w.faults.get .alarmOutput).unack = true := by rw [hkept] at hunack; exact hunack
  obtain ⟨hlamp, hbuzzer⟩ := evalAlarms_wants hw
  have hfor := outputFor_congr ((evalAlarms_moves w).drifts.only .tables (by decide))
  rw [hlamp, hbuzzer]
  exact ⟨fun o h => evalAlarms_lamp_commanded ((hfor _).symm.trans h), fun o h => evalAlarms_buzzer ((hfor _).symm.trans h)⟩

/-- The fallbacks after a raise of ALARM_OUTPUT that names an output (R166). -/
theorem raise_fallbacks (p : Part) {x : Raise} {o : OutputNo} (hx : x.kind = .alarmOutput) (ho : x.source.inst = o.val)
    {c : Collector} (hc : c = p.faults.outputFallback (p.tables.outputs.get o).role (p.roleFailed .lamp) (p.roleFailed .buzzer)) :
    (p.raise x).faults.lampFallback = c.lampFallback ∧ (p.raise x).faults.buzzerFallback = c.buzzerFallback := by
  have hsame := (activates_moves p x).drifts.only
  have htables : (p.activates x).tables = p.tables := hsame .tables (by decide)
  have hfailed := roleFailed_congr (hsame .outputs (by decide)) htables
  obtain ⟨-, -, hlamp, hbuzzer⟩ := hsame .alarms (by decide)
  obtain ⟨hlampHeld, hbuzzerHeld⟩ := holds_fallbacks (p.activates x).faults (p.activates x) (p.reactions x.kind)
  have hinst : x.source.inst < 16 := ho ▸ o.isLt
  have hindex : (⟨x.source.inst, hinst⟩ : OutputNo) = o := Fin.ext ho
  have hholds : (p.activates x).holdsOf p x = ((p.activates x).faults.holds (p.activates x) (p.reactions x.kind)).outputFallback
      (p.tables.outputs.get o).role (p.roleFailed .lamp) (p.roleFailed .buzzer) := by
    unfold Part.holdsOf
    rw [if_pos hx, dif_pos hinst, hindex, htables, hfailed, hfailed]
  obtain ⟨-, -, hlampKept, hbuzzerKept⟩ :=
    (evalAlarms_moves ((p.activates x).withFaults ((p.activates x).holdsOf p x))).drifts.only .alarms (by decide)
  rw [raise_eq, hlampKept, hbuzzerKept, Part.withFaults]
  dsimp only
  rw [hholds, hc]
  unfold Collector.outputFallback
  split
  all_goals simp only [hlampHeld, hbuzzerHeld, hlamp, hbuzzer, and_self]

/-! ### O49 -/

/-- The raise of a mismatch (R46). -/
def Part.mismatchRaise (p : Part) (o : OutputNo) : Raise :=
  { kind := mismatchKind (p.tables.outputs.get o).role, source := outputSource o,
    items := [.small (outputRoleCode (p.tables.outputs.get o).role), .small (firstOfTwo (p.output o).commanded),
      .small (firstOfTwo (p.output o).readback)] }

/-- The output marked failed, its mismatch timer done. -/
def Part.marksFailed (p : Part) (o : OutputNo) : Part := p.setOutput o { p.output o with failed := true, mismatch := .stopped }

theorem outputFails_eq (p : Part) (o : OutputNo) : p.outputFails o = (p.marksFailed o).raise (p.mismatchRaise o) := rfl

theorem marksFailed_output (p : Part) (o : OutputNo) :
    (p.marksFailed o).output o = { p.output o with failed := true, mismatch := .stopped } := Part.output_set_same _ _ _

/-- The failed flag of the other alarm role, before and after an output of one alarm role fails. -/
theorem marksFailed_roleFailed {p : Part} {o : OutputNo} {r : DriveRole} (h : (p.tables.outputs.get o).holds r = false) :
    (p.marksFailed o).roleFailed r = p.roleFailed r := by
  unfold Part.roleFailed
  have hfor : (p.marksFailed o).outputFor r = p.outputFor r := outputFor_congr rfl r
  rw [hfor]
  cases hr : p.outputFor r with
  | none => rfl
  | some x =>
    have hne : x ≠ o := by
      rintro rfl
      exact absurd (holds_of_outputFor hr) (by simp [h])
    exact congrArg OutputRec.failed (Part.output_set_other p o x _ hne)

theorem mismatchKind_alarm {r : OutputRole} (h : r = .alarmLamp ∨ r = .alarmBuzzer) : mismatchKind r = .alarmOutput := by
  rcases h with rfl | rfl <;> rfl

theorem mismatchKind_other {r : OutputRole} (hlamp : r ≠ .alarmLamp) (hbuzzer : r ≠ .alarmBuzzer) :
    mismatchKind r = .outputMismatch := by
  unfold mismatchKind
  split
  · exact absurd rfl hlamp
  · exact absurd rfl hbuzzer
  · rfl

/-- A read-back that changes at a supervised output: its supervision, with the end notice when a failure ends. -/
theorem readbackChange_eq {p : Part} {o : OutputNo} {on : Bool} (hchange : (p.output o).readback ≠ on)
    (hrole : (p.tables.outputs.get o).role ≠ .none) {r : OutputRec}
    (hr : r = ({ p.output o with readback := on } : OutputRec).supervise p) : p.readbackChange o on =
      if (p.output o).failed = true ∧ r.failed = false
      then (p.setOutput o r).endFault (mismatchKind (p.tables.outputs.get o).role) (outputSource o) else p.setOutput o r := by
  unfold Part.readbackChange
  rw [if_neg (by simpa using hchange)]
  dsimp only
  rw [if_neg hrole, ← hr]
  simp only [Bool.and_eq_true, Bool.not_eq_true']

/-- Settles O49, which holds: a read-back that differs, one that agrees, and the expiry of the mismatch timer. -/
theorem outputMismatchIsSupervised : Obligations.OutputMismatchIsSupervised := by
  intro s o r role hr hrole
  subst hr hrole
  have hexec : ∀ on {q : Part}, s.part.readbackChange o on = q → exec (.readbackChange o on) s = .next { s with part := q.settle } :=
    fun on q hq => exec_of_moves (exec_readbackChange o on s) hq (hq ▸ readbackChange_moves s.part o on)
  refine ⟨fun on hsame => hexec on ?_, fun on hdiff hnone => hexec on ?_, fun on hdiff hrole hon => hexec on ?_,
    fun on hdiff hrole hon hsound => hexec on ?_, fun on hdiff hrole hon hfailed => ?_, fun t hrun hlamp hbuzzer => ?_,
    fun t hrun halarm => ?_⟩
  · rw [Part.readbackChange, if_pos (by simpa using hsame)]
  · rw [Part.readbackChange, if_neg (by simpa using hdiff)]
    dsimp only
    rw [if_pos hnone]
  · rw [readbackChange_eq hdiff hrole rfl]
    have hsup : ({ s.part.output o with readback := on } : OutputRec).supervise s.part = { s.part.output o with
        readback := on, mismatch := if (s.part.output o).mismatch.isRunning then (s.part.output o).mismatch else s.part.startTimer 20 } := by
      unfold OutputRec.supervise
      rw [if_neg (by simpa using Ne.symm hon)]
      split <;> rfl
    rw [hsup, if_neg (by simp)]
  · rw [readbackChange_eq hdiff hrole rfl]
    have hsup : ({ s.part.output o with readback := on } : OutputRec).supervise s.part
        = { s.part.output o with readback := on, mismatch := .stopped } := by
      simp [OutputRec.supervise, hon, hsound]
    rw [hsup, if_neg (by simp [hsound])]
  · have hq := readbackChange_eq hdiff hrole rfl
    have hsup : ({ s.part.output o with readback := on } : OutputRec).supervise s.part
        = { s.part.output o with readback := on, failed := false, mismatch := .stopped } := by
      simp [OutputRec.supervise, hon]
    rw [hsup, if_pos ⟨hfailed, rfl⟩] at hq
    refine ⟨_, hexec on hq, ?_, ?_, endFault_endedFault _ _ _, hq ▸ (readbackChange_moves s.part o on).drifts.only⟩
    · exact evalAlarms_failed (congrArg OutputRec.failed (Part.output_set_same _ _ _))
    · exact (evalAlarms_readback _ _).trans (congrArg OutputRec.readback (Part.output_set_same _ _ _))
  · have hexec := exec_of_expiry (exec_mismatchTimerExpiry o s) hrun (outputFails_moves _ o)
    have hmoves := (outputFails_moves (s.part.clockTo t) o).drifts.only
    obtain ⟨u, hu⟩ := clockTo_eq s.part t
    refine ⟨_, hexec, ?_, ?_, ?_, hmoves⟩
    · rw [hu, outputFails_eq, raise_output_of_role _ (by exact hlamp) (by exact hbuzzer)]
      exact marksFailed_output _ o
    · rw [hu, outputFails_eq]
      have hkind : ((s.part.atTime u).mismatchRaise o).kind = .outputMismatch := mismatchKind_other hlamp hbuzzer
      have hact := activated_of_raise ((s.part.atTime u).marksFailed o) ((s.part.atTime u).mismatchRaise o) (by rw [hkind]; decide)
      rw [hkind] at hact
      exact activated_congr hact rfl rfl rfl rfl
    · rw [hu, outputFails_eq]
      have hkind : ((s.part.atTime u).mismatchRaise o).kind = .outputMismatch := mismatchKind_other hlamp hbuzzer
      have hone := oneRaise_of_raise ((s.part.atTime u).marksFailed o) ((s.part.atTime u).mismatchRaise o)
      rw [hkind] at hone
      exact hone
  · have hexec := exec_of_expiry (exec_mismatchTimerExpiry o s) hrun (outputFails_moves _ o)
    have hmoves := (outputFails_moves (s.part.clockTo t) o).drifts.only
    obtain ⟨u, hu⟩ := clockTo_eq s.part t
    have hfails : (s.part.clockTo t).outputFails o = ((s.part.atTime u).marksFailed o).raise ((s.part.atTime u).mismatchRaise o) := by
      rw [hu, outputFails_eq]
    have hkind : ((s.part.atTime u).mismatchRaise o).kind = .alarmOutput := mismatchKind_alarm halarm
    have hshows := raise_shows ((s.part.atTime u).marksFailed o) hkind
    obtain ⟨sources, hrec⟩ := raise_alarmOutput ((s.part.atTime u).marksFailed o) hkind
    have hnow := raise_now ((s.part.atTime u).marksFailed o) ((s.part.atTime u).mismatchRaise o)
    have hone := oneRaise_of_raise ((s.part.atTime u).marksFailed o) ((s.part.atTime u).mismatchRaise o)
    have houtput := raise_output ((s.part.atTime u).marksFailed o) ((s.part.atTime u).mismatchRaise o) o
    have hfallbacks := raise_fallbacks ((s.part.atTime u).marksFailed o) (o := o) hkind rfl rfl
    rw [hkind] at hone
    rw [marksFailed_output] at houtput
    rw [hfails] at hexec hmoves
    refine ⟨_, hexec, by rw [hrec]; rfl, by rw [hrec]; rfl, hone, fun hkept => ?_, fun hanew => ?_, by rw [hrec, hnow]; rfl,
      by rw [hrec]; rfl, by rw [hrec]; rfl, fun hlamp => ?_, fun hbuzzer => ?_, hshows.1, hshows.2, hmoves⟩
    · obtain hsame | ⟨on, hne, hsup⟩ := houtput
      · exact hsame
      · rw [hsup, supervise_commanded] at hkept
        exact absurd hkept.symm hne
    · obtain hsame | ⟨on, -, hsup⟩ := houtput
      · rw [hsame] at hanew
        exact absurd rfl hanew
      · rw [hsup, supervise_commanded, supervise_readback, hu]
        have hread : ((s.part.atTime u).output o).readback = (s.part.output o).readback := rfl
        by_cases hagree : on = (s.part.output o).readback
        · simp [OutputRec.supervise, hagree, hread]
        · simp [OutputRec.supervise, hagree, hread, Timer.isRunning]
          rfl
    · have hrole : (((s.part.atTime u).marksFailed o).tables.outputs.get o).role = .alarmLamp := hlamp
      have hother : ((s.part.atTime u).marksFailed o).roleFailed .buzzer = s.part.roleFailed .buzzer :=
        marksFailed_roleFailed (p := s.part.atTime u) (r := .buzzer)
          (show (s.part.tables.outputs.get o).holds .buzzer = false by simp [OutputEntry.holds, hlamp])
      rw [hrole, hother] at hfallbacks
      exact ⟨hfallbacks.2, hfallbacks.1⟩
    · have hrole : (((s.part.atTime u).marksFailed o).tables.outputs.get o).role = .alarmBuzzer := hbuzzer
      have hother : ((s.part.atTime u).marksFailed o).roleFailed .lamp = s.part.roleFailed .lamp :=
        marksFailed_roleFailed (p := s.part.atTime u) (r := .lamp)
          (show (s.part.tables.outputs.get o).holds .lamp = false by simp [OutputEntry.holds, hbuzzer])
      rw [hrole, hother] at hfallbacks
      exact hfallbacks

end Sys2Proof.Machine

/-! ## The receivers of the links (R27 to R37) -/

namespace Sys2Proof.Machine

/-! ### A first activity (R32) -/

/-- A record of a link that leaves SILENT. -/
def LinkRec.wake (r : LinkRec) (timer : Timer) : LinkRec :=
  { r with state := .hunting, goodRun := 0, errorRun := 0, silence := timer }

theorem firstActivity_of_silent {p : Part} {l : Link} (hstarted : (p.linkRec l).started = true) (hsilent : (p.linkRec l).state = .silent) :
    p.firstActivity l = p.setLink l ((p.linkRec l).wake (p.silenceTimer l)) := by
  unfold Part.firstActivity
  dsimp only
  rw [if_pos ⟨hstarted, hsilent⟩]
  rfl

theorem firstActivity_of_not {p : Part} {l : Link} (h : (p.linkRec l).started = false ∨ (p.linkRec l).state ≠ .silent) :
    p.firstActivity l = p := by
  unfold Part.firstActivity
  dsimp only
  refine if_neg fun ⟨hstarted, hsilent⟩ => ?_
  rcases h with h | h
  · simp [h] at hstarted
  · exact h hsilent

/-- The receivers are not touched by a first activity. -/
theorem firstActivity_links (p : Part) (l : Link) :
    (p.firstActivity l).links.pl = p.links.pl ∧ (p.firstActivity l).links.serial = p.links.serial
      ∧ (p.firstActivity l).tables = p.tables := by
  unfold Part.firstActivity
  dsimp only
  split <;> exact ⟨rfl, rfl, rfl⟩

@[simp] theorem linkRec_setLink_same (p : Part) (l : Link) (r : LinkRec) : (p.setLink l r).linkRec l = r := PerLink.get_set_same _ _ _

/-! ### The SYNC (R27) -/

theorem inWindow_iff (unit n : Nat) : inWindow unit n = true ↔ 36000 * unit ≤ n ∧ n ≤ 60000 * unit := by
  simp [inWindow]

theorem syncDrifts_iff (reference : Option Nat) (n : Nat) :
    syncDrifts reference n = true ↔ ∃ last, reference = some last ∧ (last : Int) < 32 * |(n : Int) - last| := by
  cases reference with
  | none => simp [syncDrifts]
  | some r =>
    have habs : ((n - r + (r - n) : Nat) : Int) = |(n : Int) - r| := by
      rw [Int.abs_eq_natAbs]
      omega
    simp only [syncDrifts, decide_eq_true_eq, Option.some.injEq, exists_eq_left', ← habs]
    omega

/-- A receiver that has begun a frame at an interval, after a receiver `before` (R27). -/
def PlRx.Began (x before : PlRx) (n : Nat) : Prop :=
  x.syncRef = some n ∧ x.unit48 = some n ∧ ∃ f, x.frame = some f ∧ f.symbols = []
    ∧ (f.error = some .syncDrift ↔ ∃ last, before.syncRef = some last ∧ (last : Int) < 32 * |(n : Int) - last|)
    ∧ (f.error = none ∨ f.error = some .syncDrift)

theorem beginFrame_began (x : PlRx) (n : Nat) : (x.beginFrame n).Began x n := by
  refine ⟨rfl, rfl, _, rfl, rfl, ?_, ?_⟩
  · rw [← syncDrifts_iff]
    split <;> simp_all
  · dsimp only
    split
    · exact .inr rfl
    · exact .inl rfl

theorem trySync_in {p : Part} {l : PLink} {n : Nat} (hlow : 36000 * (p.tables.links.get (plLink l)).unitOrRate ≤ n)
    (hhigh : n ≤ 60000 * (p.tables.links.get (plLink l)).unitOrRate) :
    p.trySync l n = p.setPlRx l ((p.links.pl.get l).beginFrame n) := by
  rw [Part.trySync, if_pos ((inWindow_iff _ _).mpr ⟨hlow, hhigh⟩)]

theorem trySync_out {p : Part} {l : PLink} {n : Nat} (h : ¬ (36000 * (p.tables.links.get (plLink l)).unitOrRate ≤ n
    ∧ n ≤ 60000 * (p.tables.links.get (plLink l)).unitOrRate)) : p.trySync l n = p := by
  rw [Part.trySync, if_neg (fun hw => h ((inWindow_iff _ _).mp hw))]

theorem trySync_recs (p : Part) (l : PLink) (n : Nat) : (p.trySync l n).links.recs = p.links.recs := by
  unfold Part.trySync
  split <;> rfl

theorem setPlRx_get (p : Part) (l : PLink) (x : PlRx) : (p.setPlRx l x).links.pl.get l = x := PerPL.get_set_same _ _ _

/-- Settles O39, which holds: an interval in the window begins a frame, and the edge is an activity of the link. -/
theorem syncBeginsAFrame : Obligations.SyncBeginsAFrame := by
  intro s l n r hr hstarted hnone
  subst hr
  obtain ⟨hpl, -, htables⟩ := firstActivity_links s.part (plLink l)
  have htaken : s.part.syncTaken l n = (s.part.firstActivity (plLink l)).trySync l n := by
    rw [Part.syncTaken, if_pos ⟨hstarted, hnone⟩]
  refine ⟨_, exec_of_moves (exec_syncTaken l n s) htaken (htaken ▸ syncTaken_moves s.part l n), fun hlow hhigh => ?_, fun hout => ?_,
    fun hstate => ?_, fun hstate => ?_, htaken ▸ (syncTaken_moves s.part l n).drifts.only⟩
  · rw [trySync_in (by rwa [htables]) (by rwa [htables]), setPlRx_get, hpl]
    exact beginFrame_began _ n
  · rw [trySync_out (by rw [htables]; omega), hpl]
  · rw [trySync_recs, firstActivity_of_not (.inr hstate)]
  · have hrec : ((s.part.firstActivity (plLink l)).trySync l n).linkRec (plLink l)
        = (s.part.firstActivity (plLink l)).linkRec (plLink l) := congrArg (·.get (plLink l)) (trySync_recs _ l n)
    rw [hrec, firstActivity_of_silent hstarted hstate, linkRec_setLink_same]
    rfl

/-! ### A symbol (R28) -/

theorem inAssembly_some {p : Part} {l : PLink} {u : Nat} {f : PlFrame} (hstarted : (p.linkRec (plLink l)).started = true)
    (hu : (p.links.pl.get l).unit48 = some u) (hf : (p.links.pl.get l).frame = some f) : p.inAssembly l = some (u, f) := by
  rw [Part.inAssembly, hstarted, hu, hf]

theorem aborts_iff (u n : Nat) : aborts u n = true ↔ 40 * u < 48 * n := by simp [aborts]

/-- A symbol interval is the nearest number of units less 10 (R28). -/
theorem symbolValue_some {u n v : Nat} (h : symbolValue u n = some v) (hu : 0 < u) :
    19 * u ≤ 96 * n ∧ 96 * n < 51 * u ∧ v ≤ 15 ∧ 2 * u * (v + 10) ≤ 96 * n + u ∧ 96 * n + u < 2 * u * (v + 11) := by
  unfold symbolValue at h
  split at h
  next hrange =>
    have hv : (96 * n + u) / (2 * u) - 10 = v := Option.some.inj h
    have hten : 10 ≤ (96 * n + u) / (2 * u) := (Nat.le_div_iff_mul_le (by omega)).mpr (by omega)
    have htop : (96 * n + u) / (2 * u) < 26 := (Nat.div_lt_iff_lt_mul (by omega)).mpr (by omega)
    have hdiv : (96 * n + u) / (2 * u) = v + 10 := by omega
    refine ⟨hrange.1, hrange.2, by omega, ?_, ?_⟩
    · rw [← hdiv]
      exact Nat.mul_div_le _ _
    · rw [show v + 11 = (96 * n + u) / (2 * u) + 1 by omega]
      exact Nat.lt_mul_div_succ _ (by omega)
  next => exact absurd h (by simp)

theorem symbolValue_none {u n : Nat} : symbolValue u n = none ↔ 96 * n < 19 * u ∨ 51 * u ≤ 96 * n := by
  unfold symbolValue
  split
  next h => simp only [reduceCtorEq, false_iff]; omega
  next h => simp only [true_iff]; omega

/-- Settles O40, which holds: the symbol in its place, errored when its interval is out of range. -/
theorem symbolIntervalIsDecoded : Obligations.SymbolIntervalIsDecoded := by
  intro s l n u f hstarted hstate hu hpos hf hseven hlong
  have hactive : s.part.firstActivity (plLink l) = s.part := firstActivity_of_not (.inr hstate)
  have htaken : s.part.symbolTaken l n = s.part.setPlRx l { s.part.links.pl.get l with frame := some (f.take u n) } := by
    unfold Part.symbolTaken
    rw [inAssembly_some hstarted hu hf]
    dsimp only
    rw [if_pos ⟨hseven, by simp [aborts]; omega⟩, hactive]
  have hexec := exec_of_moves (exec_symbolInterval l n s) htaken (htaken ▸ symbolTaken_moves s.part l n)
  have honly := htaken ▸ (symbolTaken_moves s.part l n).drifts.only
  cases hv : symbolValue u n with
  | some v =>
    obtain ⟨hlow, hhigh, hle, hfloor, hceil⟩ := symbolValue_some hv hpos
    have htake : f.take u n = { f with symbols := f.symbols ++ [v] } := by rw [PlFrame.take, hv]
    exact ⟨_, f.take u n, v, hexec, setPlRx_get _ _ _, by rw [htake], hle, fun _ _ => ⟨by rw [htake], hfloor, hceil⟩,
      fun hout => by omega, rfl, honly⟩
  | none =>
    have hout := symbolValue_none.mp hv
    have htake : f.take u n = { symbols := f.symbols ++ [0], error := f.error <|> some .symbolInvalid } := by rw [PlFrame.take, hv]
    refine ⟨_, f.take u n, 0, hexec, setPlRx_get _ _ _, by rw [htake], by omega, fun hlow hhigh => by omega, fun _ => ?_, rfl, honly⟩
    rw [htake]
    cases f.error <;> rfl

end Sys2Proof.Machine

/-! ## What an event spares

An obligation about a fault, a report or an output of an event asks that nothing else in the event undoes it. `Part.Spares` names the kinds whose
records an operation may write, the kinds of its reports, and the roles it may command; what it does not name it spares. -/

namespace Sys2Proof.Machine

/-! ### Roles of outputs -/

/-- The role an output holds (R45). -/
def OutputEntry.driveRole (e : OutputEntry) : Option DriveRole :=
  match e.role with
  | .raiseP => some (.raise .p)
  | .raiseN => some (.raise .n)
  | .retrieverP => some (.retriever .p)
  | .retrieverN => some (.retriever .n)
  | .alarmLamp => some .lamp
  | .alarmBuzzer => some .buzzer
  | .auxRun => if h : e.aux < 12 then some (.auxRun ⟨e.aux, h⟩) else none
  | .none => none

theorem driveRole_of_holds {e : OutputEntry} {r : DriveRole} (h : e.holds r = true) : e.driveRole = some r := by
  cases r with
  | raise i => cases i <;> simp_all [OutputEntry.holds, OutputEntry.driveRole]
  | retriever i => cases i <;> simp_all [OutputEntry.holds, OutputEntry.driveRole]
  | lamp => simp_all [OutputEntry.holds, OutputEntry.driveRole]
  | buzzer => simp_all [OutputEntry.holds, OutputEntry.driveRole]
  | auxRun a => simp_all [OutputEntry.holds, OutputEntry.driveRole]

/-- An output holds one role at most (R45). -/
theorem holds_unique {e : OutputEntry} {r x : DriveRole} (hr : e.holds r = true) (hx : e.holds x = true) : r = x :=
  Option.some.inj ((driveRole_of_holds hr).symm.trans (driveRole_of_holds hx))

/-- The roles of the auxiliaries' run outputs. -/
def auxRoles : List DriveRole := allAux.map .auxRun

/-- The roles of a pole's outputs. -/
def poleRoles (i : PoleId) : List DriveRole := [.raise i, .retriever i]

/-! ### The relation -/

/-- From `p` to `q` no record is written but of the kinds `ks` and of ALARM_OUTPUT, no report made but of the kinds `rs`, and no output
commanded anew but one that holds an alarm role or one of `os`. -/
structure Part.Spares (ks : List FaultKind) (rs : List ReportKind) (os : List DriveRole) (p q : Part) : Prop where
  tables : q.tables = p.tables
  faults : ∀ k, k ∉ ks → k ≠ .alarmOutput → q.faults.get k = p.faults.get k
  logs : p.Logs (fun r => r.kind ∈ rs) q
  commands : ∀ o, (∀ r ∈ .lamp :: .buzzer :: os, (p.tables.outputs.get o).holds r = false) →
    (q.output o).commanded = (p.output o).commanded

theorem Part.Spares.refl (ks : List FaultKind) (rs : List ReportKind) (os : List DriveRole) (p : Part) : p.Spares ks rs os p :=
  ⟨rfl, fun _ _ _ => rfl, .refl _ p, fun _ _ => rfl⟩

theorem Part.Spares.mono {ks ks' : List FaultKind} {rs rs' : List ReportKind} {os os' : List DriveRole} {p q : Part}
    (h : p.Spares ks rs os q) (hk : ∀ k ∈ ks, k ∈ ks' := by grind [poleRoles]) (hr : ∀ r ∈ rs, r ∈ rs' := by grind [poleRoles])
    (ho : ∀ o ∈ os, o ∈ os' := by grind [poleRoles]) : p.Spares ks' rs' os' q where
  tables := h.tables
  faults k hn := h.faults k fun hm => hn (hk k hm)
  logs := h.logs.mono fun r => hr r.kind
  commands o hn := h.commands o fun r hm => hn r <| by
    simp only [List.mem_cons] at hm ⊢
    exact hm.imp_right (Or.imp_right (ho r))

theorem Part.Spares.andThen {ks ks' : List FaultKind} {rs rs' : List ReportKind} {os os' : List DriveRole} {p q r : Part}
    (h : p.Spares ks rs os q) (k : q.Spares ks' rs' os' r) (hk : ∀ k ∈ ks', k ∈ ks := by grind [poleRoles])
    (hr : ∀ r ∈ rs', r ∈ rs := by grind [poleRoles]) (ho : ∀ o ∈ os', o ∈ os := by grind [poleRoles]) : p.Spares ks rs os r := by
  have k := k.mono hk hr ho
  exact ⟨k.tables.trans h.tables, fun x hx ha => (k.faults x hx ha).trans (h.faults x hx ha), h.logs.andThen k.logs,
    fun o hn => (k.commands o fun r hm => h.tables ▸ hn r hm).trans (h.commands o hn)⟩

/-- The last operation first. -/
theorem Part.Spares.before {ks ks' : List FaultKind} {rs rs' : List ReportKind} {os os' : List DriveRole} {p q r : Part}
    (k : q.Spares ks' rs' os' r) (h : p.Spares ks rs os q) (hk : ∀ k ∈ ks', k ∈ ks := by grind [poleRoles])
    (hr : ∀ r ∈ rs', r ∈ rs := by grind [poleRoles]) (ho : ∀ o ∈ os', o ∈ os := by grind [poleRoles]) : p.Spares ks rs os r := h.andThen k hk hr ho

/-- Pieces that hold no record, no report and no output. -/
def sparing (xs : List Piece) : Bool :=
  [Piece.tables, .records, .outputs, .reports, .chains, .port, .base].all (fun x => !xs.contains x)

theorem Part.onlyChanges.spares {ks : List FaultKind} {rs : List ReportKind} {os : List DriveRole} {xs : List Piece} {p q : Part}
    (h : p.onlyChanges xs q) (hx : sparing xs = true := by decide) : p.Spares ks rs os q := by
  have hsame : ∀ x ∈ [Piece.tables, .records, .outputs, .reports, .chains, .port, .base], p.same q x :=
    fun x hm => h x (by simpa using List.all_eq_true.mp hx x hm)
  obtain ⟨hheld, -, hraised, hwritten, -⟩ : p.same q .reports := hsame .reports (by decide)
  exact ⟨hsame .tables (by decide), fun k _ _ => get_of_same (hsame .records (by decide)) k,
    .of_mailbox hheld hraised hwritten (.of_same (hsame .base (by decide)) (hsame .chains (by decide)) (hsame .port (by decide))),
    fun o _ => congrArg OutputRec.commanded (output_of_same (hsame .outputs (by decide)) o)⟩

theorem Part.Moves.spares {ks : List FaultKind} {rs : List ReportKind} {os : List DriveRole} {xs : List Piece} {p q : Part}
    (h : p.Moves xs q) (hx : sparing xs = true := by decide) : p.Spares ks rs os q := h.drifts.only.spares hx

theorem forEach_spares {α : Type} {ks : List FaultKind} {rs : List ReportKind} {os : List DriveRole} (f : Part → α → Part)
    (h : ∀ p x, Part.Spares ks rs os p (f p x)) (xs : List α) (p : Part) :
    p.Spares ks rs os (p.forEach xs f) := by
  induction xs generalizing p with
  | nil => exact .refl _ _ _ p
  | cons x xs ih => exact (h p x).andThen (ih (f p x)) (fun _ => id) (fun _ => id) (fun _ => id)

/-! ### What it is for -/

theorem Part.Spares.outputFor {ks : List FaultKind} {rs : List ReportKind} {os : List DriveRole} {p q : Part} (h : p.Spares ks rs os q)
    (r : DriveRole) : q.outputFor r = p.outputFor r := outputFor_congr h.tables r

/-- An output of a role that is spared keeps its command. -/
theorem Part.Spares.commanded {ks : List FaultKind} {rs : List ReportKind} {os : List DriveRole} {p q : Part} (h : p.Spares ks rs os q)
    {r : DriveRole} {o : OutputNo} (ho : p.outputFor r = some o) (hr : r ∉ .lamp :: .buzzer :: os) :
    (q.output o).commanded = (p.output o).commanded := by
  refine h.commands o fun x hx => ?_
  by_contra hne
  have hsame := holds_unique (holds_of_outputFor ho) (by simpa using hne)
  exact hr (hsame ▸ hx)

theorem Part.Spares.driven {ks : List FaultKind} {rs : List ReportKind} {os : List DriveRole} {p q z : Part} (h : q.Spares ks rs os z)
    {i : PoleId} {a b : Bool} (hd : p.driven q i a b) (htables : q.tables = p.tables)
    (hr : ∀ x ∈ poleRoles i, x ∉ os := by decide) : p.driven z i a b := by
  have hfor : ∀ x, q.outputFor x = p.outputFor x := outputFor_congr htables
  refine ⟨fun o ho => ?_, fun o ho => ?_⟩
  · rw [h.commanded ((hfor _).trans ho) (by simpa using hr _ (by simp [poleRoles])), hd.1 o ho]
  · rw [h.commanded ((hfor _).trans ho) (by simpa using hr _ (by simp [poleRoles])), hd.2 o ho]

/-- A report of a kind that is not made again stays told (R21, R22). -/
theorem Part.Spares.tells {ks : List FaultKind} {rs : List ReportKind} {os : List DriveRole} {p q : Part} (h : p.Spares ks rs os q)
    {kind : ReportKind} {block : Block} {inst : Nat} {tag : Word} {items : List Item} (hk : kind ∉ rs)
    (ht : p.mbx.tells kind block inst tag items) : q.mbx.tells kind block inst tag items :=
  h.logs.keepsTelling (fun _ hr => .inl fun he => hk (he ▸ hr)) ht

/-- An activation stands if the rest of its event spares its kind. -/
theorem Part.Spares.activated {ks ks' : List FaultKind} {rs rs' : List ReportKind} {os os' : List DriveRole} {p p' q r : Part}
    {k : FaultKind} {s : Source} {items : List Item} (h : p'.activated q k s items) (hbefore : p.Spares ks rs os p')
    (hafter : q.Spares ks' rs' os' r) (hnow : r.now = q.now) (hk : k ∉ ks := by decide) (hk' : k ∉ ks' := by decide)
    (ha : k ≠ .alarmOutput := by decide) : p.activated r k s items :=
  activated_congr h (hbefore.faults k hk ha).symm (hafter.faults k hk' ha) hnow hafter.tables

/-! ### The shared operations -/

theorem report_spares {ks : List FaultKind} {os : List DriveRole} (p : Part) (kind : ReportKind) (sev : Severity) (block : Block)
    (inst : Nat) (tag : Word) (items : List Item) : p.Spares ks [kind] os (p.report kind sev block inst tag items) :=
  ⟨rfl, fun _ _ _ => rfl, report_logs _ _ _ _ _ _ _ (List.mem_singleton.mpr rfl), fun _ _ => rfl⟩

theorem setCommanded_commands {p : Part} {o x : OutputNo} (h : x ≠ o) (on : Bool) :
    ((p.setCommanded o on).output x).commanded = (p.output x).commanded := by rw [setCommanded_output_other p h]

theorem evalAlarms_commands {p : Part} {o : OutputNo} (h : ∀ r ∈ [DriveRole.lamp, .buzzer], (p.tables.outputs.get o).holds r = false) :
    (p.evalAlarms.output o).commanded = (p.output o).commanded := by
  have hlamp := h .lamp (by simp)
  have hbuzzer := h .buzzer (by simp)
  simp only [OutputEntry.holds, beq_eq_false_iff_ne] at hlamp hbuzzer
  rw [evalAlarms_output_of_role hlamp hbuzzer]

/-- A raise writes its kind's record (R158) and reports it, with the change of collector state that it brings (R161, R162). -/
theorem raise_spares {os : List DriveRole} (p : Part) (x : Raise) :
    p.Spares [x.kind] [.fault x.kind, .collectorChanged] os (p.raise x) where
  tables := raise_tables p x
  faults k hk ha := raise_get_other p x ha (by simpa using hk)
  logs := (raise_logs p x).mono fun r hr => by
    obtain h | ⟨h, -⟩ := hr
    · simp [h]
    · simp [h]
  commands o hn := by
    have hlamp := hn .lamp (by simp)
    have hbuzzer := hn .buzzer (by simp)
    simp only [OutputEntry.holds, beq_eq_false_iff_ne] at hlamp hbuzzer
    rw [raise_output_of_role x hlamp hbuzzer]

theorem endFault_spares {rs : List ReportKind} {os : List DriveRole} (p : Part) (k : FaultKind) (s : Source) :
    p.Spares [k] rs os (p.endFault k s) where
  tables := (endFault_moves p k s).drifts.only .tables (by decide)
  faults x hx ha := endFault_get s (by simpa using hx) ha
  logs := .of_mbx (endFault_mbx p k s)
  commands _ hn := evalAlarms_commands (p := p.modFault k (·.dropSource s)) fun r hr => hn r <| by
    simp only [List.mem_cons, List.not_mem_nil, or_false] at hr ⊢
    exact hr.imp_right .inl

/-- A command of a role may end that output's mismatch (R46). -/
theorem drive_spares {rs : List ReportKind} (p : Part) (r : DriveRole) (on : Bool) :
    p.Spares [.outputMismatch] rs [r] (p.drive r on) := by
  unfold Part.drive
  split
  · exact .refl _ _ _ p
  next o ho =>
    dsimp only
    have hset : p.Spares [.outputMismatch] rs [r] (p.setCommanded o on) := by
      refine ⟨(setCommanded_moves p o on).drifts.only .tables (by decide), fun k _ _ => get_of_same (setCommanded_records p o on) k,
        (setCommanded_moves p o on).logs, fun x hx => setCommanded_commands ?_ on⟩
      rintro rfl
      have := hx r (by simp)
      simp [holds_of_outputFor ho] at this
    split
    · exact hset.andThen (endFault_spares (rs := []) (os := []) _ _ _)
    · exact hset

/-- A role is commanded as the owner wants it. -/
theorem drive_commanded {p : Part} {r : DriveRole} (on : Bool) {o : OutputNo} (h : p.outputFor r = some o) (hlamp : r ≠ .lamp)
    (hbuzzer : r ≠ .buzzer) : ((p.drive r on).output o).commanded = on := by
  unfold Part.drive
  rw [h]
  dsimp only
  split
  · have htables : (p.setCommanded o on).tables = p.tables := (setCommanded_moves p o on).drifts.only .tables (by decide)
    rw [(endFault_spares (rs := []) (os := []) (p.setCommanded o on) .outputMismatch (outputSource o)).commanded
      ((outputFor_congr htables r).trans h) (by simp [hlamp, hbuzzer]), setCommanded_commanded]
  · exact setCommanded_commanded p o on

theorem drivePole_spares {rs : List ReportKind} (p : Part) (i : PoleId) (a b : Bool) :
    p.Spares [.outputMismatch] rs (poleRoles i) (p.drivePole i a b) :=
  (drive_spares (rs := []) p _ a).mono.andThen (drive_spares (rs := []) _ _ b)

theorem drivePole_driven (p : Part) (i : PoleId) (a b : Bool) : p.driven (p.drivePole i a b) i a b := by
  have hfirst := drive_spares (rs := []) p (.raise i) a
  have hsecond := drive_spares (rs := []) (p.drive (.raise i) a) (.retriever i) b
  refine ⟨fun o ho => ?_, fun o ho => ?_⟩
  · rw [Part.drivePole, hsecond.commanded ((hfirst.outputFor _).trans ho) (by simp), drive_commanded a ho (by simp) (by simp)]
  · exact drive_commanded b ((hfirst.outputFor _).trans ho) (by simp) (by simp)

end Sys2Proof.Machine

/-! ## The matters of one auxiliary (R63, R144 to R155)

`Part.Leaves a` says of an operation that it leaves everything of an auxiliary `a` alone; the operations of another auxiliary do. Shedding
is then proved once, for one auxiliary, and carried through the rest of its event. -/

namespace Sys2Proof.Machine

/-! ### Grants -/

theorem grants_set_same (g : Vector (Option Nat) 12) (a : AuxNo) (x : Option Nat) : (g.set a x).get a = x := by
  simp [Vector.get_eq_getElem]

theorem grants_set_other (g : Vector (Option Nat) 12) {a b : AuxNo} (h : b ≠ a) (x : Option Nat) : (g.set a x).get b = g.get b := by
  have : a.val ≠ b.val := fun e => h (Fin.ext e.symm)
  simp [Vector.get_eq_getElem, Vector.getElem_set_ne _ _ this]

theorem release_none (p : Part) (a : AuxNo) : (p.release a).line.grants.get a = none := by
  unfold Part.release
  split
  next h => exact h
  next => exact grants_set_same _ _ _

theorem release_other (p : Part) {a b : AuxNo} (h : b ≠ a) : (p.release a).line.grants.get b = p.line.grants.get b := by
  unfold Part.release
  split
  · rfl
  · exact grants_set_other _ h _

/-! ### What an operation leaves of an auxiliary -/

/-- From `p` to `q` the auxiliary's record, claim, place, output and reports are left, and what its entries read is as it was. -/
structure Part.Leaves (a : AuxNo) (p q : Part) : Prop where
  record : q.auxRec a = p.auxRec a
  grant : q.line.grants.get a = p.line.grants.get a
  queued : a ∈ q.aux.queue ↔ a ∈ p.aux.queue
  output : ∀ o, p.outputFor (.auxRun a) = some o → (q.output o).commanded = (p.output o).commanded
  told : ∀ items, p.mbx.tells .auxShed .auxiliaryScheduler a.val 0 items → q.mbx.tells .auxShed .auxiliaryScheduler a.val 0 items
  tables : q.tables = p.tables
  now : q.now = p.now
  mode : q.mode = p.mode
  line : q.line.state = p.line.state

theorem Part.Leaves.refl (a : AuxNo) (p : Part) : p.Leaves a p := ⟨rfl, rfl, .rfl, fun _ _ => rfl, fun _ => id, rfl, rfl, rfl, rfl⟩

theorem Part.Leaves.andThen {a : AuxNo} {p q r : Part} (h : p.Leaves a q) (k : q.Leaves a r) : p.Leaves a r where
  record := k.record.trans h.record
  grant := k.grant.trans h.grant
  queued := k.queued.trans h.queued
  output o ho := (k.output o ((outputFor_congr h.tables _).trans ho)).trans (h.output o ho)
  told items ht := k.told items (h.told items ht)
  tables := k.tables.trans h.tables
  now := k.now.trans h.now
  mode := k.mode.trans h.mode
  line := k.line.trans h.line

/-- A frame of the auxiliaries alone. -/
def auxFrame (xs : List Piece) : Bool :=
  [Piece.tables, .now, .mode, .line].all (fun x => !xs.contains x)

/-- An operation that touches neither the Auxiliary Scheduler nor the claims leaves every auxiliary that it spares. -/
theorem Part.Spares.leaves {ks : List FaultKind} {rs : List ReportKind} {os : List DriveRole} {xs : List Piece} {p q : Part}
    (h : p.Spares ks rs os q) {a : AuxNo} (ho : p.onlyChanges xs q) (hr : ReportKind.auxShed ∉ rs := by decide)
    (hos : DriveRole.auxRun a ∉ os := by decide)
    (hx : [Piece.now, .mode, .line, .budget, .aux].all (fun x => !xs.contains x) = true := by decide) : p.Leaves a q := by
  have hsame : ∀ x ∈ [Piece.now, .mode, .line, .budget, .aux], p.same q x :=
    fun x hm => ho x (by simpa using List.all_eq_true.mp hx x hm)
  have haux : q.aux = p.aux := hsame .aux (by decide)
  have hline : q.line.own = p.line.own := hsame .line (by decide)
  have hstate : q.line.own.state = p.line.own.state := congrArg Line.state hline
  obtain ⟨-, hgrants, -⟩ : p.same q .budget := hsame .budget (by decide)
  exact ⟨congrArg (·.recs.get a) haux, congrArg (·.get a) hgrants, by rw [haux], fun o hfor => h.commanded hfor (by simpa using hos),
    fun items ht => h.tells hr ht, h.tables, hsame .now (by decide), hsame .mode (by decide), hstate⟩

/-- A change of the Auxiliary Scheduler that keeps one record and one place. -/
theorem leaves_of_aux {a : AuxNo} {p q : Part} (ho : p.onlyChanges [.aux] q) (hrec : q.auxRec a = p.auxRec a)
    (hqueue : a ∈ q.aux.queue ↔ a ∈ p.aux.queue) : p.Leaves a q := by
  have hline : q.line = p.line := line_of_moves ho
  have hspares : p.Spares [] [] [] q := ho.spares
  exact ⟨hrec, by rw [hline], hqueue, fun o hfor => hspares.commanded hfor (by simp), fun items ht => hspares.tells (by simp) ht,
    hspares.tables, ho .now (by decide), ho .mode (by decide), by rw [hline]⟩

theorem setAux_leaves (p : Part) {a b : AuxNo} (h : a ≠ b) (r : AuxRec) : p.Leaves a (p.setAux b r) :=
  leaves_of_aux (setAux_moves p b r).drifts.only (Part.auxRec_set_other p b a r h) .rfl

theorem mem_filter_ne {a b : AuxNo} (h : a ≠ b) (l : List AuxNo) : a ∈ l.filter (· != b) ↔ a ∈ l := by simp [h]

theorem leaveQueue_leaves (p : Part) {a b : AuxNo} (h : a ≠ b) : p.Leaves a (p.leaveQueue b) :=
  leaves_of_aux (leaveQueue_moves p b).drifts.only rfl (mem_filter_ne h _)

theorem leaveQueue_not_mem (p : Part) (a : AuxNo) : a ∉ (p.leaveQueue a).aux.queue := by simp [Part.leaveQueue]

theorem release_leaves (p : Part) {a b : AuxNo} (h : a ≠ b) : p.Leaves a (p.release b) := by
  have ho := (release_moves p b).drifts.only
  have hspares : p.Spares [] [] [] (p.release b) := ho.spares
  have hline : (p.release b).line.own = p.line.own := ho .line (by decide)
  have hstate : (p.release b).line.own.state = p.line.own.state := congrArg Line.state hline
  have haux : (p.release b).aux = p.aux := ho .aux (by decide)
  exact ⟨congrArg (·.recs.get a) haux, release_other p h, by rw [haux], fun o hfor => hspares.commanded hfor (by simp),
    fun items ht => hspares.tells (by simp) ht, hspares.tables, ho .now (by decide), ho .mode (by decide), hstate⟩

theorem drive_leaves (p : Part) {a : AuxNo} {r : DriveRole} (h : DriveRole.auxRun a ≠ r) (on : Bool) : p.Leaves a (p.drive r on) :=
  (drive_spares (rs := []) p r on).leaves (drive_moves p r on).drifts.only (hos := by simpa using h)

theorem switchOff_leaves (p : Part) {a b : AuxNo} (h : a ≠ b) : p.Leaves a (p.switchOff b) :=
  (drive_leaves p (by simpa using h) false).andThen (release_leaves _ h)

/-! ### The restart queue (R146) -/

/-- An auxiliary that joins the queue, with the next entry order. -/
def Part.joinsQueue (p : Part) (a : AuxNo) : Part :=
  { p.setAux a { p.auxRec a with state := .waiting, offDone := false, entryOrder := p.aux.entryCount + 1 } with
    aux := { (p.setAux a { p.auxRec a with state := .waiting, offDone := false, entryOrder := p.aux.entryCount + 1 }).aux with
      entryCount := p.aux.entryCount + 1
      queue := insertBy
        (p.setAux a { p.auxRec a with state := .waiting, offDone := false, entryOrder := p.aux.entryCount + 1 }).queueBefore a
        (p.aux.queue.filter (· != a)) } }

theorem enterQueue_eq (p : Part) (a : AuxNo) : p.enterQueue a =
    if p.mode = .layover ∧ (p.auxRec a).keptInLayover = false then p.setAux a { p.auxRec a with state := .off, offDone := false }
    else if (p.auxEntry a).cls = .deferrable ∧ p.line.state.classHold = true then
      p.setAux a { p.auxRec a with state := .shed, offDone := true }
    else if (p.auxRec a).offTimer.isRunning = true then p.setAux a { p.auxRec a with state := .locked, offDone := false }
    else p.joinsQueue a := by
  simp only [Part.enterQueue, Bool.and_eq_true, beq_iff_eq, Bool.not_eq_true']
  rfl

theorem joinsQueue_auxRec (p : Part) (a : AuxNo) : (p.joinsQueue a).auxRec a =
    { p.auxRec a with state := .waiting, offDone := false, entryOrder := p.aux.entryCount + 1 } := Part.auxRec_set_same _ _ _

theorem joinsQueue_queue (p : Part) (a b : AuxNo) : b ∈ (p.joinsQueue a).aux.queue ↔ b = a ∨ b ∈ p.aux.queue := by
  simp only [Part.joinsQueue, mem_insertBy, List.mem_filter, bne_iff_ne]
  tauto

theorem enterQueue_leaves (p : Part) {a b : AuxNo} (h : a ≠ b) : p.Leaves a (p.enterQueue b) := by
  rw [enterQueue_eq]
  split
  · exact setAux_leaves p h _
  split
  · exact setAux_leaves p h _
  split
  · exact setAux_leaves p h _
  · refine leaves_of_aux ((setAux_moves p b _).andThen (moves_aux _ _)).drifts.only (Part.auxRec_set_other p b a _ h) ?_
    rw [joinsQueue_queue]
    simp [h]

/-- The state in which an entry to the queue leaves the auxiliary, its off timer stopped. -/
theorem enterQueue_state {p : Part} {a : AuxNo} (h : (p.auxRec a).offTimer = .stopped) :
    ((p.enterQueue a).auxRec a).state = p.entryState a := by
  rw [enterQueue_eq, Part.entryState]
  split
  · exact congrArg AuxRec.state (Part.auxRec_set_same _ _ _)
  split
  · exact congrArg AuxRec.state (Part.auxRec_set_same _ _ _)
  rw [if_neg (by simp [h, Timer.isRunning])]
  exact congrArg AuxRec.state (joinsQueue_auxRec p a)

/-- An entry to the queue changes the state, the off-time mark and the entry order of the record, and no more. -/
theorem enterQueue_auxRec (p : Part) (a : AuxNo) : ∃ s d n, (p.enterQueue a).auxRec a =
    { p.auxRec a with state := s, offDone := d, entryOrder := n } := by
  rw [enterQueue_eq]
  split
  · exact ⟨_, _, _, Part.auxRec_set_same _ _ _⟩
  split
  · exact ⟨_, _, _, Part.auxRec_set_same _ _ _⟩
  split
  · exact ⟨_, _, _, Part.auxRec_set_same _ _ _⟩
  · exact ⟨_, _, _, joinsQueue_auxRec p a⟩

theorem entryState_congr {p q : Part} {a : AuxNo} (htables : q.tables = p.tables) (hmode : q.mode = p.mode)
    (hline : q.line.state = p.line.state) (hkept : (q.auxRec a).keptInLayover = (p.auxRec a).keptInLayover) :
    q.entryState a = p.entryState a := by
  have hentry : q.auxEntry a = p.auxEntry a := by rw [Part.auxEntry, Part.auxEntry, htables]
  simp only [Part.entryState, hmode, hline, hkept, hentry]

/-! ### The off time (R152, R154) -/

theorem offExpired_eq {p : Part} {a : AuxNo} (h : (p.auxRec a).state = .shed ∨ (p.auxRec a).state = .locked) : p.offExpired a =
    if (p.auxRec a).requested = true then (p.setAux a { p.auxRec a with offTimer := .stopped }).enterQueue a
    else (p.setAux a { p.auxRec a with offTimer := .stopped }).setAux a
      { p.auxRec a with offTimer := .stopped, state := .off, offDone := false } := by
  unfold Part.offExpired
  dsimp only
  rw [if_pos (by simpa using h)]

theorem offExpired_other {p : Part} {a : AuxNo} (h : (p.auxRec a).state ≠ .shed) (h' : (p.auxRec a).state ≠ .locked) :
    p.offExpired a = p.setAux a { p.auxRec a with offTimer := .stopped } := by
  unfold Part.offExpired
  dsimp only
  rw [if_neg (by simp [h, h'])]

theorem offExpired_leaves (p : Part) {a b : AuxNo} (h : a ≠ b) : p.Leaves a (p.offExpired b) := by
  unfold Part.offExpired
  dsimp only
  split
  · split
    · exact (setAux_leaves p h _).andThen (enterQueue_leaves _ h)
    · exact (setAux_leaves p h _).andThen (setAux_leaves _ h _)
  · exact setAux_leaves p h _

/-- What the off time that ends leaves of the record. -/
theorem offExpired_auxRec (p : Part) (a : AuxNo) : ∃ s d n, (p.offExpired a).auxRec a =
    { p.auxRec a with state := s, offDone := d, entryOrder := n, offTimer := .stopped } := by
  by_cases h : (p.auxRec a).state = .shed ∨ (p.auxRec a).state = .locked
  · rw [offExpired_eq h]
    split
    · obtain ⟨s, d, n, hrec⟩ := enterQueue_auxRec (p.setAux a { p.auxRec a with offTimer := .stopped }) a
      rw [Part.auxRec_set_same] at hrec
      exact ⟨s, d, n, hrec⟩
    · exact ⟨.off, false, _, Part.auxRec_set_same _ _ _⟩
  · rw [not_or] at h
    rw [offExpired_other h.1 h.2]
    exact ⟨_, _, _, Part.auxRec_set_same _ _ _⟩

/-- A SHED or LOCKED auxiliary whose off time is over enters the queue if it is requested (R152, R154). -/
theorem offExpired_state {p : Part} {a : AuxNo} (h : (p.auxRec a).state = .shed ∨ (p.auxRec a).state = .locked) :
    ((p.offExpired a).auxRec a).state = if (p.auxRec a).requested = true then p.entryState a else .off := by
  rw [offExpired_eq h]
  split
  · rw [enterQueue_state (congrArg AuxRec.offTimer (Part.auxRec_set_same _ _ _))]
    exact entryState_congr rfl rfl rfl (by rw [Part.auxRec_set_same])
  · exact congrArg AuxRec.state (Part.auxRec_set_same _ _ _)

theorem startOff_eq (p : Part) (a : AuxNo) : p.startOff a = if (p.auxEntry a).minOff = 0 then p.offExpired a
    else p.setAux a { p.auxRec a with offTimer := p.startTimer ((p.auxEntry a).minOff * 1000) } := by
  unfold Part.startOff
  dsimp only
  split
  next h => rw [if_pos (by omega)]
  next h => rw [if_neg (by omega)]

theorem startOff_leaves (p : Part) {a b : AuxNo} (h : a ≠ b) : p.Leaves a (p.startOff b) := by
  rw [startOff_eq]
  split
  · exact offExpired_leaves p h
  · exact setAux_leaves p h _

/-- The off timer after its start (R154). -/
def Part.offTimerOf (p : Part) (a : AuxNo) : Timer :=
  if (p.auxEntry a).minOff = 0 then .stopped else p.startTimer ((p.auxEntry a).minOff * 1000)

/-- What the start of the off time leaves of the record (R154). -/
theorem startOff_auxRec (p : Part) (a : AuxNo) : ∃ s d n, (p.startOff a).auxRec a =
    { p.auxRec a with state := s, offDone := d, entryOrder := n, offTimer := p.offTimerOf a } := by
  rw [startOff_eq, Part.offTimerOf]
  split
  · exact offExpired_auxRec p a
  · exact ⟨_, _, _, Part.auxRec_set_same _ _ _⟩

/-- A minimum off time of 0 is over at once (R154). -/
theorem startOff_state {p : Part} {a : AuxNo} (h : (p.auxRec a).state = .shed ∨ (p.auxRec a).state = .locked) :
    ((p.startOff a).auxRec a).state = if (p.auxEntry a).minOff ≠ 0 then (p.auxRec a).state
      else if (p.auxRec a).requested = true then p.entryState a else .off := by
  rw [startOff_eq]
  by_cases hzero : (p.auxEntry a).minOff = 0
  · rw [if_pos hzero, if_neg (by simp [hzero]), offExpired_state h]
  · rw [if_neg hzero, if_pos hzero, Part.auxRec_set_same]

theorem startOff_state_other {p : Part} {a : AuxNo} (h : (p.auxRec a).state ≠ .shed) (h' : (p.auxRec a).state ≠ .locked) :
    ((p.startOff a).auxRec a).state = (p.auxRec a).state := by
  rw [startOff_eq]
  split
  · rw [offExpired_other h h', Part.auxRec_set_same]
  · rw [Part.auxRec_set_same]

/-! ### An auxiliary that stops (section 8.2) -/

/-- From `p` to `q` the auxiliary's claim and output are left, and the settings. -/
structure Part.StaysOff (a : AuxNo) (p q : Part) : Prop where
  grant : q.line.grants.get a = p.line.grants.get a
  output : ∀ o, p.outputFor (.auxRun a) = some o → (q.output o).commanded = (p.output o).commanded
  tables : q.tables = p.tables
  now : q.now = p.now
  mode : q.mode = p.mode
  line : q.line.state = p.line.state

theorem Part.StaysOff.andThen {a : AuxNo} {p q r : Part} (h : p.StaysOff a q) (k : q.StaysOff a r) : p.StaysOff a r where
  grant := k.grant.trans h.grant
  output o ho := (k.output o ((outputFor_congr h.tables _).trans ho)).trans (h.output o ho)
  tables := k.tables.trans h.tables
  now := k.now.trans h.now
  mode := k.mode.trans h.mode
  line := k.line.trans h.line

theorem Part.Leaves.staysOff {a : AuxNo} {p q : Part} (h : p.Leaves a q) : p.StaysOff a q :=
  ⟨h.grant, h.output, h.tables, h.now, h.mode, h.line⟩

/-- A change of the Auxiliary Scheduler alone. -/
theorem staysOff_of_aux {p q : Part} (ho : p.onlyChanges [.aux] q) (a : AuxNo) : p.StaysOff a q := by
  have hline : q.line = p.line := line_of_moves ho
  have hspares : p.Spares [] [] [] q := ho.spares
  exact ⟨by rw [hline], fun o hfor => hspares.commanded hfor (by simp), hspares.tables, ho .now (by decide), ho .mode (by decide),
    by rw [hline]⟩

/-- A report leaves everything of the auxiliaries but what is told. -/
theorem report_staysOff (p : Part) (kind : ReportKind) (sev : Severity) (block : Block) (inst : Nat) (tag : Word) (items : List Item)
    (a : AuxNo) : p.StaysOff a (p.report kind sev block inst tag items) := ⟨rfl, fun _ _ => rfl, rfl, rfl, rfl, rfl⟩

theorem switchOff_aux (p : Part) (a : AuxNo) : (p.switchOff a).aux = p.aux := (switchOff_moves p a).drifts.only .aux (by decide)

theorem switchOff_auxRec (p : Part) (a b : AuxNo) : (p.switchOff a).auxRec b = p.auxRec b := congrArg (·.recs.get b) (switchOff_aux p a)

theorem switchOff_settings (p : Part) (a : AuxNo) : (p.switchOff a).tables = p.tables ∧ (p.switchOff a).now = p.now
    ∧ (p.switchOff a).mode = p.mode ∧ (p.switchOff a).line.state = p.line.state := by
  have ho := (switchOff_moves p a).drifts.only
  have hown : (p.switchOff a).line.own = p.line.own := ho .line (by decide)
  have hstate : (p.switchOff a).line.own.state = p.line.own.state := congrArg Line.state hown
  exact ⟨ho .tables (by decide), ho .now (by decide), ho .mode (by decide), hstate⟩

/-- Output and claim given back, the auxiliary stops with its off timer (section 8.2, R154). -/
theorem auxStops_of {p q : Part} {a : AuxNo} (h : (p.switchOff a).StaysOff a q) (htimer : (q.auxRec a).offTimer = p.offTimerOf a) :
    p.auxStops q a := by
  have hdrive := drive_spares (rs := []) p (.auxRun a) false
  have hrelease : (p.drive (.auxRun a) false).Spares [] [] [] (p.switchOff a) := (release_moves _ a).spares
  refine ⟨h.grant.trans (release_none _ a), htimer, fun o ho => ?_⟩
  have hdriven := (hdrive.outputFor (.auxRun a)).trans ho
  rw [h.output o ((hrelease.outputFor _).trans hdriven), hrelease.commanded hdriven (by simp), drive_commanded false ho (by simp) (by simp)]

theorem Part.StaysOff.auxStops {p q r : Part} {a : AuxNo} (h : q.StaysOff a r) (hs : p.auxStops q a) (htables : q.tables = p.tables)
    (htimer : (r.auxRec a).offTimer = (q.auxRec a).offTimer) : p.auxStops r a := by
  obtain ⟨hgrant, hoff, hout⟩ := hs
  exact ⟨h.grant.trans hgrant, htimer.trans hoff, fun o ho => (h.output o ((outputFor_congr htables _).trans ho)).trans (hout o ho)⟩

/-! ### Shedding (R150 to R152) -/

/-- An auxiliary that is marked SHED, its output and claim given back. -/
def Part.shedMarked (p : Part) (a : AuxNo) : Part :=
  (p.switchOff a).setAux a { p.auxRec a with state := .shed, startTimer := .stopped, offDone := false }

/-- The same with its report. -/
def Part.shedReported (p : Part) (a : AuxNo) (cause : ShedCause) : Part :=
  (p.shedMarked a).report .auxShed .info .auxiliaryScheduler a.val 0
    [.small (auxClassCode (p.auxEntry a).cls), bigNat ((p.line.grants.get a).getD 0), .small (auxStateCode (p.auxRec a).state),
     .small cause.ctorIdx]

theorem shedReported_only (p : Part) (a : AuxNo) (cause : ShedCause) :
    (p.shedMarked a).onlyChanges [.reports, .chains, .port] (p.shedReported a cause) := (report_moves (p.shedMarked a) _ _ _ _ _ _).drifts.only

theorem shed_eq (p : Part) (a : AuxNo) (cause : ShedCause) : p.shed a cause = (p.shedReported a cause).startOff a := by
  obtain ⟨htables, -⟩ := switchOff_settings p a
  unfold Part.shed Part.shedReported Part.shedMarked
  dsimp only
  simp only [switchOff_auxRec, Part.auxEntry, Part.setAux_tables, htables]

theorem shedReported_auxRec (p : Part) (a : AuxNo) (cause : ShedCause) : (p.shedReported a cause).auxRec a =
    { p.auxRec a with state := .shed, startTimer := .stopped, offDone := false } := Part.auxRec_set_same _ _ _

theorem shedReported_staysOff (p : Part) (a : AuxNo) (cause : ShedCause) : (p.switchOff a).StaysOff a (p.shedReported a cause) :=
  (staysOff_of_aux (setAux_moves _ a _).drifts.only a).andThen (report_staysOff _ _ _ _ _ _ _ a)

theorem shedReported_settings (p : Part) (a : AuxNo) (cause : ShedCause) : (p.shedReported a cause).tables = p.tables
    ∧ (p.shedReported a cause).now = p.now ∧ (p.shedReported a cause).mode = p.mode
    ∧ (p.shedReported a cause).line.state = p.line.state := by
  have hreport := shedReported_only p a cause
  have hline : (p.shedReported a cause).line = (p.shedMarked a).line := line_of_moves hreport
  have htables : (p.shedReported a cause).tables = (p.shedMarked a).tables := hreport .tables (by decide)
  have hnow : (p.shedReported a cause).now = (p.shedMarked a).now := hreport .now (by decide)
  have hmode : (p.shedReported a cause).mode = (p.shedMarked a).mode := hreport .mode (by decide)
  rw [htables, hnow, hmode, hline]
  exact switchOff_settings p a

theorem offTimerOf_congr {p q : Part} (htables : q.tables = p.tables) (hnow : q.now = p.now) (a : AuxNo) :
    q.offTimerOf a = p.offTimerOf a := by
  have hentry : q.auxEntry a = p.auxEntry a := by rw [Part.auxEntry, Part.auxEntry, htables]
  simp only [Part.offTimerOf, hentry, Part.startTimer, hnow]

/-- What shedding brings the auxiliary (R152, R154). -/
theorem shed_sheds (p : Part) (a : AuxNo) (cause : ShedCause) : p.sheds (p.shed a cause) a cause := by
  obtain ⟨htables, hnow, hmode, hline⟩ := shedReported_settings p a cause
  have hentry : (p.shedReported a cause).auxEntry a = p.auxEntry a := by rw [Part.auxEntry, Part.auxEntry, htables]
  have hrec := shedReported_auxRec p a cause
  have hshed : ((p.shedReported a cause).auxRec a).state = .shed := by rw [hrec]
  obtain ⟨s, d, n, hafter⟩ := startOff_auxRec (p.shedReported a cause) a
  have hstate := startOff_state (.inl hshed)
  have hoff : (p.shedReported a cause).StaysOff a ((p.shedReported a cause).startOff a) :=
    staysOff_of_aux (startOff_moves _ a).drifts.only a
  rw [hentry, hshed] at hstate
  rw [shed_eq]
  refine ⟨auxStops_of ((shedReported_staysOff p a cause).andThen hoff) ?_, ?_, ?_, ?_, fun hpos => ⟨?_, ?_⟩, fun hzero => ?_, ?_⟩
  · rw [hafter]
    exact offTimerOf_congr htables hnow a
  · rw [hafter, hrec]
  · rw [hafter, hrec]
  · rw [hafter, hrec]
  · rw [hstate, if_pos hpos]
  · rw [startOff_eq, hentry, if_neg hpos, Part.auxRec_set_same, hrec]
  · have hkept : (((p.shedReported a cause).startOff a).auxRec a).keptInLayover
        = ((p.shedReported a cause).auxRec a).keptInLayover := by rw [hafter]
    rw [hstate, if_neg (by simp [hzero]), hrec, entryState_congr hoff.tables hoff.mode hoff.line hkept]
  · exact tells_of_same ((startOff_moves _ a).drifts.only .reports (by decide)) (report_tells _ _ _ _ _ _ _)

/-- A shedding leaves the other auxiliaries. -/
theorem shed_leaves (p : Part) {a b : AuxNo} (h : a ≠ b) (cause : ShedCause) : p.Leaves a (p.shed b cause) := by
  have ho := shedReported_only p b cause
  have haux : (p.shedReported b cause).aux = (p.shedMarked b).aux := ho .aux (by decide)
  have hline : (p.shedReported b cause).line = (p.shedMarked b).line := line_of_moves ho
  have houtputs : (p.shedReported b cause).output = (p.shedMarked b).output := rfl
  have hlogs : Part.Logs (fun r => r.inst = b.val) (p.shedMarked b) (p.shedReported b cause) := report_logs (p.shedMarked b) _ _ _ _ _ _ rfl
  have hreport : (p.shedMarked b).Leaves a (p.shedReported b cause) :=
    ⟨congrArg (fun x : Auxiliaries => x.recs.get a) haux, congrArg (fun l : Line => l.grants.get a) hline, by rw [haux],
      fun o _ => congrArg (fun m => (m o).commanded) houtputs, fun items ht => hlogs.keepsTelling
      (fun r hr => .inr (.inr fun he => h (Fin.ext (he.symm.trans hr)))) ht, ho .tables (by decide), ho .now (by decide), ho .mode (by decide),
      congrArg Line.state hline⟩
  rw [shed_eq]
  exact (((switchOff_leaves p h).andThen (setAux_leaves _ h _)).andThen hreport).andThen (startOff_leaves _ h)

/-- The rest of an event that leaves an auxiliary leaves its shedding. -/
theorem Part.Leaves.sheds {p q r : Part} {a : AuxNo} {cause : ShedCause} (h : q.Leaves a r) (hs : p.sheds q a cause)
    (htables : q.tables = p.tables) : p.sheds r a cause := by
  obtain ⟨hstops, hstart, hreq, hfails, hpos, hzero, htold⟩ := hs
  refine ⟨h.staysOff.auxStops hstops htables (by rw [h.record]), by rw [h.record, hstart], by rw [h.record, hreq],
    by rw [h.record, hfails], by rwa [h.record], fun hz => ?_, h.told _ htold⟩
  rw [h.record, hzero hz, entryState_congr h.tables h.mode h.line (by rw [h.record])]

/-- Only its record, its claim, the settings and the clock count for what is shed. -/
theorem sheds_congr {p q r : Part} {a : AuxNo} {cause : ShedCause} (hrecord : q.auxRec a = p.auxRec a)
    (hgrant : q.line.grants.get a = p.line.grants.get a) (htables : q.tables = p.tables) (hnow : q.now = p.now)
    (hs : q.sheds r a cause) : p.sheds r a cause := by
  have hentry : q.auxEntry a = p.auxEntry a := by rw [Part.auxEntry, Part.auxEntry, htables]
  have hfor : q.outputFor (.auxRun a) = p.outputFor (.auxRun a) := outputFor_congr htables _
  have htimer : ∀ n, q.startTimer n = p.startTimer n := fun n => by rw [Part.startTimer, Part.startTimer, hnow]
  unfold Part.sheds Part.auxStops at hs ⊢
  simpa only [hentry, hfor, htimer, hrecord, hgrant] using hs

/-- What comes before in an event that leaves an auxiliary. -/
theorem Part.Leaves.before_sheds {p q r : Part} {a : AuxNo} {cause : ShedCause} (h : p.Leaves a q) (hs : q.sheds r a cause) :
    p.sheds r a cause := sheds_congr h.record h.grant h.tables h.now hs

end Sys2Proof.Machine

/-! ## Shed demands and class sheds (R150, R151) -/

namespace Sys2Proof.Machine

/-! ### The auxiliaries that may be shed -/

theorem drawing_iff (s : AuxState) : s.drawing = true ↔ s ∈ [AuxState.starting, .running] := by cases s <;> decide

theorem mem_sheddable (p : Part) (a : AuxNo) : a ∈ p.sheddable ↔ p.mayShed a := by
  simp only [Part.sheddable, mem_sortBy, List.mem_filter, Bool.and_eq_true, bne_iff_ne, drawing_iff, mem_allAux, true_and, Part.mayShed]

theorem sheddable_nil (p : Part) : p.sheddable = [] ↔ ∀ a, ¬ p.mayShed a := by
  simp only [List.eq_nil_iff_forall_not_mem, mem_sheddable]

theorem insertBy_perm {α : Type} (f : α → α → Bool) (x : α) (l : List α) : (insertBy f x l).Perm (x :: l) := by
  induction l with
  | nil => exact .refl _
  | cons y ys ih =>
    unfold insertBy
    split
    · exact .refl _
    · exact (ih.cons y).trans (.swap x y ys)

theorem sortBy_perm {α : Type} (f : α → α → Bool) (l : List α) : (sortBy f l).Perm l := by
  induction l with
  | nil => exact .refl _
  | cons x xs ih => exact (insertBy_perm f x _).trans (ih.cons x)

theorem sheddable_nodup (p : Part) : p.sheddable.Nodup := (sortBy_perm _ _).nodup_iff.mpr (nodup_allAux.filter _)

/-- A SHED auxiliary that its event has moved on draws nothing. -/
theorem entryState_idle (p : Part) (a : AuxNo) : (p.entryState a).drawing = false := by
  unfold Part.entryState
  repeat' split
  all_goals rfl

theorem Part.sheds.notDrawing {p q : Part} {a : AuxNo} {cause : ShedCause} (h : p.sheds q a cause) : ¬ q.mayShed a := by
  obtain ⟨-, -, -, -, hpos, hzero, -⟩ := h
  have hidle : (q.auxRec a).state.drawing = false := by
    by_cases hmin : (p.auxEntry a).minOff = 0
    · rw [hzero hmin]
      split
      · exact entryState_idle q a
      · rfl
    · rw [(hpos hmin).1]
      rfl
  rintro ⟨hdraws, -⟩
  rw [← drawing_iff, hidle] at hdraws
  exact absurd hdraws (by decide)

theorem mayShed_congr {p q : Part} {a : AuxNo} (h : p.Leaves a q) : q.mayShed a ↔ p.mayShed a := by
  have hentry : q.auxEntry a = p.auxEntry a := by rw [Part.auxEntry, Part.auxEntry, h.tables]
  simp only [Part.mayShed, h.record, hentry]

theorem shed_tables (p : Part) (a : AuxNo) (c : ShedCause) : (p.shed a c).tables = p.tables :=
  (shed_moves p a c).drifts.only .tables (by decide)

/-- One shedding leaves one auxiliary less to shed. -/
theorem sheddable_shed {p : Part} {a : AuxNo} (h : a ∈ p.sheddable) (c : ShedCause) :
    (p.shed a c).sheddable.length < p.sheddable.length := by
  have hsub : (p.shed a c).sheddable ⊆ p.sheddable.erase a := by
    intro b hb
    have hne : b ≠ a := by
      rintro rfl
      exact (shed_sheds p b c).notDrawing ((mem_sheddable _ _).mp hb)
    rw [(sheddable_nodup p).mem_erase_iff, mem_sheddable]
    exact ⟨hne, (mayShed_congr (shed_leaves p hne c)).mp ((mem_sheddable _ _).mp hb)⟩
  have hle := (List.subperm_of_subset (sheddable_nodup _) hsub).length_le
  rw [List.length_erase_of_mem h] at hle
  have := List.length_pos_of_mem h
  omega

theorem sheddable_length (p : Part) : p.sheddable.length ≤ 12 := by
  rw [Part.sheddable, length_sortBy]
  exact List.length_filter_le _ _

/-! ### A shed demand (R150) -/

theorem excess_eq (p : Part) : p.excess = p.line.budget.excess := rfl

theorem shedLoop_done {p : Part} (h : p.excess = 0 ∨ p.sheddable = []) (n : Nat) : shedLoop n p = p := by
  cases n with
  | zero => rfl
  | succ n =>
    unfold shedLoop
    rcases h with h | h
    · exact if_pos h
    · split
      · rfl
      · rw [h]

theorem shedLoop_cons {p : Part} {a : AuxNo} {rest : List AuxNo} (h : p.excess ≠ 0) (hs : p.sheddable = a :: rest) (n : Nat) :
    shedLoop (n + 1) p = shedLoop n (p.shed a .demand) := by
  simp only [shedLoop, hs]
  exact if_neg h

/-- With as much fuel as there is to shed, more changes nothing. -/
theorem shedLoop_succ {n : Nat} {p : Part} (h : p.sheddable.length ≤ n) : shedLoop (n + 1) p = shedLoop n p := by
  induction n generalizing p with
  | zero =>
    have hnil : p.sheddable = [] := List.eq_nil_of_length_eq_zero (by omega)
    rw [shedLoop_done (.inr hnil), shedLoop_done (.inr hnil)]
  | succ n ih =>
    by_cases hdone : p.excess = 0 ∨ p.sheddable = []
    · rw [shedLoop_done hdone, shedLoop_done hdone]
    · rw [not_or] at hdone
      obtain ⟨a, rest, hs⟩ := List.exists_cons_of_ne_nil hdone.2
      have hless := sheddable_shed (p := p) (a := a) (by simp [hs]) .demand
      rw [shedLoop_cons hdone.1 hs, shedLoop_cons hdone.1 hs, ih (by omega)]

/-- A shed demand ends with the excess covered or nothing left to shed. -/
theorem shedLoop_ends {n : Nat} {p : Part} (h : p.sheddable.length ≤ n) :
    (shedLoop n p).excess = 0 ∨ (shedLoop n p).sheddable = [] := by
  induction n generalizing p with
  | zero => exact .inr (List.eq_nil_of_length_eq_zero (by simpa [shedLoop] using h))
  | succ n ih =>
    by_cases hdone : p.excess = 0 ∨ p.sheddable = []
    · rwa [shedLoop_done hdone]
    · rw [not_or] at hdone
      obtain ⟨a, rest, hs⟩ := List.exists_cons_of_ne_nil hdone.2
      have hless := sheddable_shed (p := p) (a := a) (by simp [hs]) .demand
      rw [shedLoop_cons hdone.1 hs]
      exact ih (by omega)

/-! ### The order of shedding (R150) -/

theorem insertBy_head_other {α : Type} {f : α → α → Bool} {x a : α} {rest : List α} (h : f x a = false) :
    ∃ l, insertBy f x (a :: rest) = a :: l := by
  unfold insertBy
  rw [if_neg (by simp [h])]
  exact ⟨_, rfl⟩

theorem insertBy_head_first {α : Type} {f : α → α → Bool} {a : α} {l : List α} (h : ∀ b ∈ l, f a b = true) :
    insertBy f a l = a :: l := by
  cases l with
  | nil => rfl
  | cons b rest => exact if_pos (h b List.mem_cons_self)

/-- An element before all others stands at the head of the sorted list. -/
theorem sortBy_head {α : Type} {f : α → α → Bool} {a : α} {l : List α} (hmem : a ∈ l) (hnodup : l.Nodup)
    (hfirst : ∀ b ∈ l, b ≠ a → f a b = true ∧ f b a = false) : ∃ rest, sortBy f l = a :: rest := by
  induction l with
  | nil => exact absurd hmem List.not_mem_nil
  | cons x xs ih =>
    rw [List.nodup_cons] at hnodup
    by_cases hx : x = a
    · subst hx
      refine ⟨sortBy f xs, insertBy_head_first fun b hb => ?_⟩
      rw [mem_sortBy] at hb
      exact (hfirst b (List.mem_cons_of_mem x hb) (fun he => hnodup.1 (he ▸ hb))).1
    · obtain ⟨rest, hrest⟩ := ih ((List.mem_cons.mp hmem).resolve_left (Ne.symm hx)) hnodup.2
        fun b hb => hfirst b (List.mem_cons_of_mem x hb)
      rw [sortBy, hrest]
      exact insertBy_head_other (hfirst x List.mem_cons_self hx).2

theorem shedBefore_of_shedsFirst {p : Part} {a b : AuxNo} (h : p.shedsFirst a b) : p.shedBefore a b = true ∧ p.shedBefore b a = false := by
  unfold Part.shedBefore
  obtain ⟨ha, hb⟩ | ⟨hsame, hprio | ⟨hprio, horder⟩⟩ := h
  · simp [ha, hb]
  · by_cases ha : (p.auxEntry a).cls = .deferrable
    · simp [ha, hsame.mp ha, hprio, hprio.ne, hprio.ne', hprio.le]
    · have hb : (p.auxEntry b).cls ≠ .deferrable := fun hb => ha (hsame.mpr hb)
      simp [ha, hb, hprio, hprio.ne, hprio.ne', hprio.le]
  · by_cases ha : (p.auxEntry a).cls = .deferrable
    · simp [ha, hsame.mp ha, hprio, horder, horder.le]
    · have hb : (p.auxEntry b).cls ≠ .deferrable := fun hb => ha (hsame.mpr hb)
      simp [ha, hb, hprio, horder, horder.le]

theorem sheddable_head {p : Part} {a : AuxNo} (ha : p.mayShed a) (hfirst : ∀ b, b ≠ a → p.mayShed b → p.shedsFirst a b) :
    ∃ rest, p.sheddable = a :: rest := by
  have hmem := (mem_sheddable p a).mpr ha
  rw [Part.sheddable, mem_sortBy] at hmem
  refine sortBy_head hmem (nodup_allAux.filter _) fun b hb hne => shedBefore_of_shedsFirst (hfirst b hne ?_)
  rwa [← mem_sheddable, Part.sheddable, mem_sortBy]

/-- A shed demand (R150). -/
theorem meetsDemand (p : Part) : p.meetsDemand := by
  refine ⟨fun h => shedLoop_done (h.imp_right (sheddable_nil p).mpr) 12, fun a hexcess ha hfirst => ⟨shed_sheds p a .demand,
    fun b hb => (shed_leaves p hb .demand).record, ?_⟩, (shedLoop_ends (sheddable_length p)).imp_right (sheddable_nil _).mp⟩
  obtain ⟨rest, hs⟩ := sheddable_head ha hfirst
  have hless := sheddable_shed (p := p) (a := a) (by simp [hs]) .demand
  have hlength := sheddable_length p
  calc p.shedDemand = shedLoop 11 (p.shed a .demand) := shedLoop_cons hexcess hs 11
    _ = shedLoop 12 (p.shed a .demand) := (shedLoop_succ (by omega)).symm

/-- A shed demand sheds an auxiliary that it may shed, or leaves it; another it leaves. -/
theorem shedLoop_each (n : Nat) (p : Part) (a : AuxNo) :
    p.Leaves a (shedLoop n p) ∨ (p.mayShed a ∧ p.sheds (shedLoop n p) a .demand) := by
  induction n generalizing p with
  | zero => exact .inl (.refl a p)
  | succ n ih =>
    by_cases hdone : p.excess = 0 ∨ p.sheddable = []
    · rw [shedLoop_done hdone]
      exact .inl (.refl a p)
    · rw [not_or] at hdone
      obtain ⟨b, rest, hs⟩ := List.exists_cons_of_ne_nil hdone.2
      rw [shedLoop_cons hdone.1 hs]
      by_cases hab : a = b
      · subst hab
        have hsheds := shed_sheds p a .demand
        have hleaves := (ih (p.shed a .demand)).resolve_right fun h => hsheds.notDrawing h.1
        exact .inr ⟨(mem_sheddable p a).mp (by simp [hs]), hleaves.sheds hsheds (shed_tables p a .demand)⟩
      · have hleaves := shed_leaves p hab .demand
        obtain hrest | ⟨hmay, hsheds⟩ := ih (p.shed b .demand)
        · exact .inl (hleaves.andThen hrest)
        · exact .inr ⟨(mayShed_congr hleaves).mp hmay, hleaves.before_sheds hsheds⟩

/-! ### A class shed (R151) -/

theorem forEach_leaves {f : Part → AuxNo → Part} {a : AuxNo} (hf : ∀ (p : Part) b, a ≠ b → p.Leaves a (f p b)) {xs : List AuxNo} (ha : a ∉ xs)
    (p : Part) : p.Leaves a (p.forEach xs f) := by
  induction xs generalizing p with
  | nil => exact .refl a p
  | cons b rest ih =>
    rw [List.mem_cons, not_or] at ha
    exact (hf p b ha.1).andThen (ih ha.2 (f p b))

/-- In a list of like operations, those of the other auxiliaries come before and after the one of `a`. -/
theorem forEach_around {f : Part → AuxNo → Part} {a : AuxNo} (hf : ∀ (p : Part) b, a ≠ b → p.Leaves a (f p b)) {xs : List AuxNo} (hnodup : xs.Nodup)
    (ha : a ∈ xs) (p : Part) : ∃ q, p.Leaves a q ∧ (f q a).Leaves a (p.forEach xs f) := by
  induction xs generalizing p with
  | nil => exact absurd ha List.not_mem_nil
  | cons b rest ih =>
    rw [List.nodup_cons] at hnodup
    by_cases hab : a = b
    · subst hab
      exact ⟨p, .refl a p, forEach_leaves hf hnodup.1 (f p a)⟩
    · obtain ⟨q, hbefore, hafter⟩ := ih hnodup.2 ((List.mem_cons.mp ha).resolve_left hab) (f p b)
      exact ⟨q, (hf p b hab).andThen hbefore, hafter⟩

theorem shedWaiting_leaves (p : Part) {a b : AuxNo} (h : a ≠ b) : p.Leaves a (p.shedWaiting b) := by
  unfold Part.shedWaiting
  split
  · exact (leaveQueue_leaves p h).andThen (setAux_leaves _ h _)
  · exact .refl a p

theorem shedWaiting_idle {p : Part} {a : AuxNo} (h : ¬ ((p.auxRec a).state = .waiting ∧ (p.auxEntry a).cls = .deferrable)) :
    p.shedWaiting a = p := by
  rw [Part.shedWaiting, if_neg (by simpa using h)]

/-- The auxiliaries of a class shed that draw, in shedding order. -/
def Part.classSheddable (p : Part) : List AuxNo := p.sheddable.filter (fun a => (p.auxEntry a).cls == .deferrable)

theorem mem_classSheddable (p : Part) (a : AuxNo) :
    a ∈ p.classSheddable ↔ (p.auxEntry a).cls = .deferrable ∧ (p.auxRec a).state ∈ [AuxState.starting, .running] := by
  simp only [Part.classSheddable, List.mem_filter, mem_sheddable, Part.mayShed, beq_iff_eq]
  constructor
  · rintro ⟨⟨hstate, -⟩, hcls⟩
    exact ⟨hcls, hstate⟩
  · rintro ⟨hcls, hstate⟩
    exact ⟨⟨hstate, by simp [hcls]⟩, hcls⟩

/-- The first part of a class shed. -/
def Part.classDrops (p : Part) : Part := p.forEach p.classSheddable (fun p a => p.shed a .cls)

theorem classShed_eq (p : Part) (s : LineState) :
    p.classShed s = if s.classHold then p.classDrops.forEach allAux Part.shedWaiting else p.classDrops := rfl

theorem classDrops_sheds {p : Part} {a : AuxNo} (h : a ∈ p.classSheddable) : p.sheds p.classDrops a .cls := by
  obtain ⟨q, hbefore, hafter⟩ := forEach_around (f := fun p b => p.shed b .cls) (fun p _ hb => shed_leaves p hb .cls)
    ((sheddable_nodup p).filter _) h p
  exact hbefore.before_sheds (hafter.sheds (shed_sheds q a .cls) (shed_tables q a .cls))

theorem classDrops_leaves {p : Part} {a : AuxNo} (h : a ∉ p.classSheddable) : p.Leaves a p.classDrops :=
  forEach_leaves (f := fun p b => p.shed b .cls) (fun p _ hb => shed_leaves p hb .cls) h p

theorem classDrops_settings (p : Part) : p.classDrops.tables = p.tables ∧ p.classDrops.line.state = p.line.state := by
  have ho := (forEach_moves (ys := shedPieces) (fun p a => p.shed a .cls) (fun p a => shed_moves p a .cls) p.classSheddable p).drifts.only
  have hown : p.classDrops.line.own = p.line.own := ho .line (by decide)
  have hstate : p.classDrops.line.own.state = p.line.own.state := congrArg Line.state hown
  exact ⟨ho .tables (by decide), hstate⟩

/-- An auxiliary that a class shed takes stays as it was shed. -/
theorem classShed_drawing {p : Part} {a : AuxNo} {s : LineState} (hline : p.line.state = s) (h : a ∈ p.classSheddable) :
    p.sheds (p.classShed s) a .cls := by
  have hdrops := classDrops_sheds h
  obtain ⟨htables, hstate⟩ := classDrops_settings p
  rw [classShed_eq]
  split
  next hhold =>
    obtain ⟨q, hbefore, hafter⟩ := forEach_around (f := Part.shedWaiting) (fun p _ hb => shedWaiting_leaves p hb) nodup_allAux (mem_allAux a)
      p.classDrops
    have hq : p.sheds q a .cls := hbefore.sheds hdrops htables
    have hidle : (q.auxRec a).state ≠ .waiting := by
      obtain ⟨-, -, -, -, hpos, hzero, -⟩ := hq
      obtain ⟨hcls, -⟩ := (mem_classSheddable p a).mp h
      by_cases hmin : (p.auxEntry a).minOff = 0
      · have hentry : q.auxEntry a = p.auxEntry a := by rw [Part.auxEntry, Part.auxEntry, hbefore.tables, htables]
        rw [hzero hmin, Part.entryState, hentry, hbefore.line, hstate, hline]
        simp only [hcls, hhold, and_self, if_true]
        split
        · split <;> decide
        · decide
      · rw [(hpos hmin).1]
        decide
    rw [shedWaiting_idle fun hw => hidle hw.1] at hafter
    exact hafter.sheds hq (hbefore.tables.trans htables)
  · exact hdrops

/-- A WAITING DEFERRABLE auxiliary is SHED with its off time done. -/
theorem classShed_waiting {p : Part} {a : AuxNo} {s : LineState} (hhold : s.classHold = true) (hwait : (p.auxRec a).state = .waiting)
    (hcls : (p.auxEntry a).cls = .deferrable) : ((p.classShed s).auxRec a).state = .shed ∧ ((p.classShed s).auxRec a).offDone = true
      ∧ a ∉ (p.classShed s).aux.queue := by
  have hnot : a ∉ p.classSheddable := fun h => by
    rw [mem_classSheddable, hwait] at h
    exact absurd h.2 (by decide)
  obtain ⟨q, hbefore, hafter⟩ := forEach_around (f := Part.shedWaiting) (fun p _ hb => shedWaiting_leaves p hb) nodup_allAux (mem_allAux a)
    p.classDrops
  have hleaves := (classDrops_leaves hnot).andThen hbefore
  have hentry : q.auxEntry a = p.auxEntry a := by rw [Part.auxEntry, Part.auxEntry, hleaves.tables]
  have hshed : q.shedWaiting a = (q.leaveQueue a).setAux a { q.auxRec a with state := .shed, offDone := true } := by
    rw [Part.shedWaiting, if_pos (by simp [hleaves.record, hwait, hentry, hcls])]
  rw [classShed_eq, if_pos hhold, hafter.record, hafter.queued, hshed, Part.auxRec_set_same]
  exact ⟨rfl, rfl, leaveQueue_not_mem q a⟩

/-- Every other auxiliary is left. -/
theorem classShed_leaves {p : Part} {a : AuxNo} {s : LineState} (hdraws : a ∉ p.classSheddable)
    (hwaits : ¬ (s.classHold = true ∧ (p.auxRec a).state = .waiting ∧ (p.auxEntry a).cls = .deferrable)) :
    p.Leaves a (p.classShed s) := by
  have hdrops := classDrops_leaves hdraws
  rw [classShed_eq]
  split
  next hhold =>
    obtain ⟨q, hbefore, hafter⟩ := forEach_around (f := Part.shedWaiting) (fun p _ hb => shedWaiting_leaves p hb) nodup_allAux (mem_allAux a)
      p.classDrops
    have hleaves := hdrops.andThen hbefore
    have hentry : q.auxEntry a = p.auxEntry a := by rw [Part.auxEntry, Part.auxEntry, hleaves.tables]
    rw [shedWaiting_idle fun hw => hwaits ⟨hhold, by rwa [hleaves.record, hentry] at hw⟩] at hafter
    exact hleaves.andThen hafter
  · exact hdrops

/-- A class-shed notice of an unsupplied line (R151). -/
theorem classShed_classSheds {p : Part} (h : p.line.state.supplied = false) : p.classSheds (p.classShed p.line.state) := by
  have hholds : p.line.state ≠ .offWire → p.line.state.classHold = true := by
    cases hs : p.line.state <;> simp_all [LineState.supplied, LineState.classHold]
  refine fun a => ⟨fun hcls hdraws => classShed_drawing rfl ((mem_classSheddable p a).mpr ⟨hcls, hdraws⟩),
    fun hcls hwait hoff => classShed_waiting (hholds hoff) hwait hcls, fun hother => (classShed_leaves ?_ ?_).record⟩
  · rw [mem_classSheddable]
    rintro ⟨hcls, hdraws⟩
    obtain hne | hidle | ⟨hwait, -⟩ := hother
    · exact hne hcls
    · cases hstate : (p.auxRec a).state <;> simp_all
    · simp [hwait] at hdraws
  · rintro ⟨hhold, hwait, hcls⟩
    obtain hne | hidle | ⟨-, hoff⟩ := hother
    · exact hne hcls
    · simp [hwait] at hidle
    · simp [hoff, LineState.classHold] at hhold

end Sys2Proof.Machine

/-! ## Changes of line state (R49 to R61) -/

namespace Sys2Proof.Machine

/-- The kinds whose conditions a change of line state may end. -/
def lineKinds : List FaultKind := [.lineHigh, .lineLost] ++ [.outputMismatch]

/-! ### The budget (R61) -/

/-- The Power Budget record is what a recompute would make it. -/
def Line.balanced (l : Line) (t : Tables) : Prop := l.budget = (l.recompute t).budget

theorem budgeted_of_balanced {l : Line} {t : Tables} (h : l.balanced t) : l.budgeted t := by
  unfold Line.budgeted
  rw [h]
  refine ⟨fun hs => ?_, fun hs hlt => ?_, fun hs => ?_, fun hs hb => ?_, fun hs hb => ?_, rfl, rfl, rfl⟩
  · cases hstate : l.state <;> simp_all [Line.recompute, Line.supply]
  · have hpos : 4 * (t.lineLimits.lowLimit - t.lineLimits.gapThreshold) ≠ 0 := by omega
    simp [Line.recompute, Line.supply, hs, sagPower, quotient, hpos]
  · cases hstate : l.state <;> simp_all [Line.recompute, Line.supply, LineState.supplied]
  · have hsupply : l.supply t = (l.battery.discharge, .battery, quotient (l.battery.charge * 100) t.budget.nominal) := by
      cases hstate : l.state <;> simp_all [Line.supply, LineState.supplied]
    refine ⟨by simp [Line.recompute, hsupply], by simp [Line.recompute, hsupply], fun hpos => ?_⟩
    simp only [Line.recompute, hsupply, quotient, if_neg hpos.ne']
  · have hsupply : l.supply t = (0, .none, 0) := by
      cases hstate : l.state <;> simp_all [Line.supply, LineState.supplied]
    simp [Line.recompute, hsupply]

theorem rebudget_balanced (p : Part) : p.rebudget.line.balanced p.rebudget.tables := rfl

theorem balanced_of_same {p q : Part} (hline : q.line = p.line) (htables : q.tables = p.tables) (h : p.line.balanced p.tables) :
    q.line.balanced q.tables := by rwa [hline, htables]

theorem release_balanced {p : Part} (h : p.line.balanced p.tables) (a : AuxNo) : (p.release a).line.balanced (p.release a).tables := by
  unfold Part.release
  split
  · exact h
  · exact rebudget_balanced _

theorem shed_balanced {p : Part} (h : p.line.balanced p.tables) (a : AuxNo) (c : ShedCause) :
    (p.shed a c).line.balanced (p.shed a c).tables := by
  have hdrive := (drive_moves p (.auxRun a) false).drifts.only
  have hoff : (p.switchOff a).line.balanced (p.switchOff a).tables :=
    release_balanced (balanced_of_same (line_of_moves hdrive) (hdrive .tables (by decide)) h) a
  have hmarked : (p.shedMarked a).line.balanced (p.shedMarked a).tables := hoff
  have hreport := shedReported_only p a c
  have hreported : (p.shedReported a c).line.balanced (p.shedReported a c).tables :=
    balanced_of_same (line_of_moves hreport) (hreport .tables (by decide)) hmarked
  have hstart := (startOff_moves (p.shedReported a c) a).drifts.only
  rw [shed_eq]
  exact balanced_of_same (line_of_moves hstart) (hstart .tables (by decide)) hreported

theorem shedLoop_balanced (n : Nat) {p : Part} (h : p.line.balanced p.tables) : (shedLoop n p).line.balanced (shedLoop n p).tables := by
  induction n generalizing p with
  | zero => exact h
  | succ n ih =>
    unfold shedLoop
    split
    · exact h
    · split
      · exact h
      · exact ih (shed_balanced h _ _)

theorem recompute_balanced (p : Part) : p.recompute.line.balanced p.recompute.tables := by
  unfold Part.recompute
  split
  · exact shedLoop_balanced 12 (rebudget_balanced p)
  · exact rebudget_balanced p

theorem forEach_balanced {f : Part → AuxNo → Part} (hf : ∀ (p : Part) a, p.line.balanced p.tables → (f p a).line.balanced (f p a).tables)
    (xs : List AuxNo) {p : Part} (h : p.line.balanced p.tables) : (p.forEach xs f).line.balanced (p.forEach xs f).tables := by
  induction xs generalizing p with
  | nil => exact h
  | cons a xs ih => exact ih (hf p a h)

theorem classShed_balanced {p : Part} (h : p.line.balanced p.tables) (s : LineState) :
    (p.classShed s).line.balanced (p.classShed s).tables := by
  have hdrops : p.classDrops.line.balanced p.classDrops.tables :=
    forEach_balanced (f := fun p a => p.shed a .cls) (fun p a h => shed_balanced h a .cls) _ h
  rw [classShed_eq]
  split
  · refine forEach_balanced (fun p a h => ?_) _ hdrops
    have ho := (shedWaiting_moves p a).drifts.only
    exact balanced_of_same (line_of_moves ho) (ho .tables (by decide)) h
  · exact hdrops

/-! ### What sheddings spare -/

theorem shed_spares (p : Part) (a : AuxNo) (c : ShedCause) : p.Spares [.outputMismatch] [.auxShed] auxRoles (p.shed a c) := by
  have hdrive : p.Spares [.outputMismatch] [.auxShed] auxRoles (p.drive (.auxRun a) false) :=
    (drive_spares (rs := []) p (.auxRun a) false).mono (ho := by simp [auxRoles, mem_allAux])
  have hrelease : (p.drive (.auxRun a) false).Spares [] [] [] (p.switchOff a) := (release_moves _ a).spares
  have hmark : (p.switchOff a).Spares [] [] [] (p.shedMarked a) := (setAux_moves _ a _).spares
  have hreport : (p.shedMarked a).Spares [] [.auxShed] [] (p.shedReported a c) := report_spares _ _ _ _ _ _ _
  have hstart : (p.shedReported a c).Spares [] [] [] ((p.shedReported a c).startOff a) := (startOff_moves _ a).spares
  rw [shed_eq]
  exact (((hdrive.andThen hrelease).andThen hmark).andThen hreport).andThen hstart

theorem shedLoop_spares (n : Nat) (p : Part) : p.Spares [.outputMismatch] [.auxShed] auxRoles (shedLoop n p) := by
  induction n generalizing p with
  | zero => exact .refl _ _ _ p
  | succ n ih =>
    unfold shedLoop
    split
    · exact .refl _ _ _ p
    · split
      · exact .refl _ _ _ p
      · exact (shed_spares p _ _).andThen (ih _)

theorem recompute_spares (p : Part) : p.Spares [.outputMismatch] [.auxShed] auxRoles p.recompute := by
  have hbudget : p.Spares [.outputMismatch] [.auxShed] auxRoles p.rebudget := (rebudget_moves p).spares
  unfold Part.recompute
  split
  · exact hbudget.andThen (shedLoop_spares 12 _)
  · exact hbudget

theorem classShed_spares (p : Part) (s : LineState) : p.Spares [.outputMismatch] [.auxShed] auxRoles (p.classShed s) := by
  have hdrops : p.Spares [.outputMismatch] [.auxShed] auxRoles p.classDrops :=
    forEach_spares (fun p a => p.shed a .cls) (fun p a => shed_spares p a .cls) _ p
  rw [classShed_eq]
  split
  · exact hdrops.andThen (forEach_spares (ks := []) (rs := []) (os := []) _ (fun p a => (shedWaiting_moves p a).spares) _ _)
  · exact hdrops

/-! ### A change of line state, part by part (R59) -/

/-- The zones after a gap-end notice, if one goes out. -/
def Part.tellsGapEnd (p : Part) (g : Option GapEnd) : Part :=
  match g with
  | some g => { p with zones := p.zones.noteGapEnd g }
  | none => p

/-- The Line Supervisor in its new state. -/
def Part.entersLine (p : Part) (new : LineState) : Part := { p with line := p.line.enter p new }

/-- The conditions that a change from `old` ends. -/
def Part.endsLineFaults (p : Part) (old : LineState) : Part :=
  let p := if old == .high then p.endFault .lineHigh lineSource else p
  if old == .lost then p.endFault .lineLost lineSource else p

/-- The poles after the notice of a change of line state. -/
def Part.tellsPoles (p : Part) (old new : LineState) : Part := { p with poles := notePolesGap p.poles old new p.line.gap.expected }

/-- The zones after the notice of an entry to GAP. -/
def Part.tellsGap (p : Part) (new : LineState) : Part := if new == .gap then { p with zones := p.zones.noteGap } else p

/-- The Line Supervisor in its new state, the conditions of the old one ended. -/
def Part.lineEnded (p : Part) (new : LineState) (g : Option GapEnd) : Part :=
  ((p.tellsGapEnd g).entersLine new).endsLineFaults p.line.state

/-- The budget and the notices of a change of line state. -/
def Part.lineNotified (p : Part) (old new : LineState) : Part := ((p.rebudget.tellsPoles old new).auxLineNotice new).tellsGap new

/-- A change of line state before its auxiliaries are shed. -/
def Part.lineChanged (p : Part) (new : LineState) (g : Option GapEnd) : Part := (p.lineEnded new g).lineNotified p.line.state new

/-- A shed demand of the change is due. -/
def Part.changeDemands (p : Part) (new : LineState) (g : Option GapEnd) : Bool := (p.lineEnded new g).demandDue

/-- The class shed of a change of line state. -/
def Part.lineSheds (p : Part) (new : LineState) : Part := if new.supplied then p else p.classShed new

theorem lineMove_eq {p : Part} {new : LineState} (h : p.line.state ≠ new) (g : Option GapEnd) : p.lineMove new g =
    if p.changeDemands new g then ((p.lineChanged new g).lineSheds new).shedDemand else (p.lineChanged new g).lineSheds new := by
  unfold Part.lineMove
  dsimp only
  rw [if_neg h]
  rfl

theorem lineMove_same {p : Part} {new : LineState} (h : p.line.state = new) (g : Option GapEnd) :
    p.lineMove new g = (p.tellsGapEnd g).recompute := by
  unfold Part.lineMove
  dsimp only
  rw [if_pos h]
  rfl

/-! ### What a change of line state does -/

theorem tellsGapEnd_moves (p : Part) (g : Option GapEnd) : p.Moves [.zones] (p.tellsGapEnd g) := by
  unfold Part.tellsGapEnd
  split
  · exact moves_zones p _
  · exact .refl _ p

theorem endsLineFaults_moves (p : Part) (old : LineState) : p.Moves [.outputs, .records] (p.endsLineFaults old) :=
  (endFaultIf_moves p (old == .high) .lineHigh lineSource).andThen (endFaultIf_moves _ (old == .lost) .lineLost lineSource)

theorem endsLineFaults_spares {ks : List FaultKind} (p : Part) {old : LineState} (hhigh : old = .high → .lineHigh ∈ ks)
    (hlost : old = .lost → .lineLost ∈ ks) : p.Spares ks [] [] (p.endsLineFaults old) := by
  have hend : ∀ (p : Part) (b : LineState) k, (old = b → k ∈ ks) → p.Spares ks [] [] (if old == b then p.endFault k lineSource else p) := by
    intro p b k hk
    split
    next h => exact (endFault_spares (rs := []) (os := []) p k lineSource).mono (by simpa using hk (by simpa using h))
    next => exact .refl _ _ _ p
  exact (hend p .high .lineHigh hhigh).andThen (hend _ .lost .lineLost hlost) (fun _ => id)

theorem endsLineFaults_ended {p : Part} : (p.endsLineFaults .lost).endedFault .lineLost lineSource := endFault_endedFault _ _ _

theorem tellsPoles_only (p : Part) (old new : LineState) : p.onlyChanges [.poles] (p.tellsPoles old new) :=
  (notePolesGap_moves p old new _).drifts.only

theorem tellsGap_moves (p : Part) (new : LineState) : p.Moves [.zones] (p.tellsGap new) := by
  unfold Part.tellsGap
  split
  · exact moves_zones p _
  · exact .refl _ p

/-- What the budget and the notices of a change of line state may write. -/
def notifiedPieces : List Piece := [.budget, .poles] ++ [.aux, .zones]

theorem lineNotified_only (p : Part) (old new : LineState) : p.onlyChanges notifiedPieces (p.lineNotified old new) :=
  ((Part.onlyChanges_mono (ys := notifiedPieces) (rebudget_moves p).drifts.only (by decide)).andThen
    (tellsPoles_only _ old new)).andThen ((auxLineNotice_moves _ new).mono.andThen (tellsGap_moves _ new) :
      Part.Moves notifiedPieces _ _).drifts.only

theorem lineNotified_balanced (p : Part) (old new : LineState) :
    (p.lineNotified old new).line.balanced (p.lineNotified old new).tables := by
  have haux := (auxLineNotice_moves (p.rebudget.tellsPoles old new) new).drifts.only
  have hzones := (tellsGap_moves ((p.rebudget.tellsPoles old new).auxLineNotice new) new).drifts.only
  exact balanced_of_same (line_of_moves hzones) (hzones .tables (by decide))
    (balanced_of_same (line_of_moves haux) (haux .tables (by decide)) (rebudget_balanced p))

theorem lineNotified_zones (p : Part) (old new : LineState) :
    (p.lineNotified old new).zones = if new = .gap then p.zones.noteGap else p.zones := by
  have haux : ((p.rebudget.tellsPoles old new).auxLineNotice new).zones = p.zones :=
    (auxLineNotice_moves (p.rebudget.tellsPoles old new) new).drifts.only .zones (by decide)
  unfold Part.lineNotified Part.tellsGap
  by_cases h : new = .gap
  · rw [if_pos (by simp [h]), if_pos h, haux]
  · rw [if_neg (by simp [h]), if_neg h, haux]

/-- The poles after the notice of R76. -/
theorem lineNotified_poles (p : Part) (old new : LineState) :
    (p.lineNotified old new).poles = notePolesGap p.poles old new p.line.gap.expected := by
  have haux : ((p.rebudget.tellsPoles old new).auxLineNotice new).poles = (p.rebudget.tellsPoles old new).poles :=
    (auxLineNotice_moves (p.rebudget.tellsPoles old new) new).drifts.only .poles (by decide)
  have hzones : (p.lineNotified old new).poles = ((p.rebudget.tellsPoles old new).auxLineNotice new).poles :=
    (tellsGap_moves ((p.rebudget.tellsPoles old new).auxLineNotice new) new).drifts.only .poles (by decide)
  rw [hzones, haux]
  rfl

/-- The line in its new state, before the budget (R56, R58, R59). -/
theorem lineEnded_line (p : Part) (new : LineState) (g : Option GapEnd) : (p.lineEnded new g).line = p.line.enter p new := by
  have hgap := (tellsGapEnd_moves p g).drifts.only
  have hline : (p.tellsGapEnd g).line = p.line := line_of_moves hgap
  have htables : (p.tellsGapEnd g).tables = p.tables := hgap .tables (by decide)
  have hnow : (p.tellsGapEnd g).now = p.now := hgap .now (by decide)
  have hends : (p.lineEnded new g).line = ((p.tellsGapEnd g).entersLine new).line :=
    line_of_moves (endsLineFaults_moves ((p.tellsGapEnd g).entersLine new) p.line.state).drifts.only
  rw [hends, Part.entersLine, hline]
  simp only [Line.enter, Part.startTimer, htables, hnow]

theorem lineEnded_zones (p : Part) (new : LineState) (g : Option GapEnd) : (p.lineEnded new g).zones = (p.tellsGapEnd g).zones :=
  (endsLineFaults_moves ((p.tellsGapEnd g).entersLine new) p.line.state).drifts.only .zones (by decide)

theorem lineEnded_poles (p : Part) (new : LineState) (g : Option GapEnd) : (p.lineEnded new g).poles = p.poles :=
  (show _ = _ from (endsLineFaults_moves ((p.tellsGapEnd g).entersLine new) p.line.state).drifts.only .poles (by decide)).trans
    ((tellsGapEnd_moves p g).drifts.only .poles (by decide))

theorem lineEnded_spares {ks : List FaultKind} (p : Part) (new : LineState) (g : Option GapEnd)
    (hhigh : p.line.state = .high → .lineHigh ∈ ks) (hlost : p.line.state = .lost → .lineLost ∈ ks) :
    p.Spares ks [] [] (p.lineEnded new g) := by
  have hgap : p.Spares ks [] [] (p.tellsGapEnd g) := (tellsGapEnd_moves p g).spares
  have henter : (p.tellsGapEnd g).Spares [] [] [] ((p.tellsGapEnd g).entersLine new) := (moves_line _ _).spares
  exact (hgap.andThen henter).andThen (endsLineFaults_spares _ hhigh hlost) (fun _ => id)

theorem lineChanged_own (p : Part) (new : LineState) (g : Option GapEnd) :
    (p.lineChanged new g).line.own = (p.line.enter p new).own := by
  have hown : (p.lineChanged new g).line.own = (p.lineEnded new g).line.own := lineNotified_only _ _ _ .line (by decide)
  rw [hown, lineEnded_line]

theorem lineChanged_balanced (p : Part) (new : LineState) (g : Option GapEnd) :
    (p.lineChanged new g).line.balanced (p.lineChanged new g).tables := lineNotified_balanced _ _ _

theorem lineChanged_zones (p : Part) (new : LineState) (g : Option GapEnd) :
    (p.lineChanged new g).zones = if new = .gap then (p.tellsGapEnd g).zones.noteGap else (p.tellsGapEnd g).zones := by
  rw [Part.lineChanged, lineNotified_zones, lineEnded_zones]

theorem lineChanged_poles (p : Part) (new : LineState) (g : Option GapEnd) :
    (p.lineChanged new g).poles = notePolesGap p.poles p.line.state new p.line.gap.expected := by
  rw [Part.lineChanged, lineNotified_poles, lineEnded_poles, lineEnded_line]
  rfl

theorem lineChanged_spares {ks : List FaultKind} (p : Part) (new : LineState) (g : Option GapEnd)
    (hhigh : p.line.state = .high → .lineHigh ∈ ks) (hlost : p.line.state = .lost → .lineLost ∈ ks) :
    p.Spares ks [.auxShed] auxRoles (p.lineChanged new g) :=
  ((lineEnded_spares p new g hhigh hlost).mono (fun _ => id)).andThen
    ((lineNotified_only _ _ _).spares (ks := []) (rs := []) (os := []))

/-- The sheddings of a change of line state. -/
theorem lineSheds_moves (p : Part) (new : LineState) : p.Moves shedPieces (p.lineSheds new) := by
  unfold Part.lineSheds
  split
  · exact .refl _ p
  · exact classShed_moves p new

theorem lineSheds_spares (p : Part) (new : LineState) : p.Spares [.outputMismatch] [.auxShed] auxRoles (p.lineSheds new) := by
  unfold Part.lineSheds
  split
  · exact .refl _ _ _ p
  · exact classShed_spares p new

theorem lineMove_sheds {p : Part} {new : LineState} (h : p.line.state ≠ new) (g : Option GapEnd) :
    (p.lineChanged new g).onlyChanges shedPieces (p.lineMove new g)
      ∧ (p.lineChanged new g).Spares [.outputMismatch] [.auxShed] auxRoles (p.lineMove new g)
      ∧ (p.lineMove new g).line.balanced (p.lineMove new g).tables := by
  have hsheds := lineSheds_moves (p.lineChanged new g) new
  have hspares := lineSheds_spares (p.lineChanged new g) new
  have hbalanced : ((p.lineChanged new g).lineSheds new).line.balanced ((p.lineChanged new g).lineSheds new).tables := by
    unfold Part.lineSheds
    split
    · exact lineChanged_balanced p new g
    · exact classShed_balanced (lineChanged_balanced p new g) new
  rw [lineMove_eq h]
  split
  · exact ⟨(hsheds.andThen (shedLoop_moves 12 _)).drifts.only, hspares.andThen (shedLoop_spares 12 _), shedLoop_balanced 12 hbalanced⟩
  · exact ⟨hsheds.drifts.only, hspares, hbalanced⟩

theorem lineMove_balanced (p : Part) (new : LineState) (g : Option GapEnd) :
    (p.lineMove new g).line.balanced (p.lineMove new g).tables := by
  by_cases h : p.line.state = new
  · rw [lineMove_same h]
    exact recompute_balanced _
  · exact (lineMove_sheds h g).2.2

/-- The line after a change of its state, but for the budget and the claims. -/
theorem lineMove_own {p : Part} {new : LineState} (h : p.line.state ≠ new) (g : Option GapEnd) :
    (p.lineMove new g).line.own = (p.line.enter p new).own := by
  have hown : (p.lineMove new g).line.own = (p.lineChanged new g).line.own := (lineMove_sheds h g).1 .line (by decide)
  rw [hown, lineChanged_own]

theorem lineMove_own_same {p : Part} {new : LineState} (h : p.line.state = new) (g : Option GapEnd) :
    (p.lineMove new g).line.own = p.line.own := by
  have hgap : (p.tellsGapEnd g).line.own = p.line.own := (tellsGapEnd_moves p g).drifts.only .line (by decide)
  have hbudget : (p.tellsGapEnd g).recompute.line.own = (p.tellsGapEnd g).line.own :=
    (recompute_moves _).drifts.only .line (by decide)
  rw [lineMove_same h, hbudget, hgap]

/-- A field of the line that is not of the budget. -/
theorem field_of_own {α : Type} {l m : Line} (h : l.own = m.own) (f : Line → α) (hf : ∀ x : Line, f x.own = f x) : f l = f m := by
  rw [← hf l, ← hf m, h]

theorem lineMove_state (p : Part) (new : LineState) (g : Option GapEnd) : (p.lineMove new g).line.state = new := by
  by_cases h : p.line.state = new
  · rw [field_of_own (lineMove_own_same h g) Line.state fun _ => rfl, h]
  · exact field_of_own (lineMove_own h g) Line.state fun _ => rfl

theorem lineMove_zones (p : Part) {new : LineState} (h : p.line.state ≠ new) (g : Option GapEnd) :
    (p.lineMove new g).zones = if new = .gap then (p.tellsGapEnd g).zones.noteGap else (p.tellsGapEnd g).zones := by
  have hzones : (p.lineMove new g).zones = (p.lineChanged new g).zones := (lineMove_sheds h g).1 .zones (by decide)
  rw [hzones, lineChanged_zones]

theorem lineMove_poles {p : Part} {new : LineState} (h : p.line.state ≠ new) (g : Option GapEnd) :
    (p.lineMove new g).poles = notePolesGap p.poles p.line.state new p.line.gap.expected := by
  have hpoles : (p.lineMove new g).poles = (p.lineChanged new g).poles := (lineMove_sheds h g).1 .poles (by decide)
  rw [hpoles, lineChanged_poles]

theorem lineMove_poles_same {p : Part} {new : LineState} (h : p.line.state = new) (g : Option GapEnd) :
    (p.lineMove new g).poles = p.poles := by
  have hgap : (p.tellsGapEnd g).poles = p.poles := (tellsGapEnd_moves p g).drifts.only .poles (by decide)
  have hbudget : (p.tellsGapEnd g).recompute.poles = (p.tellsGapEnd g).poles := (recompute_moves _).drifts.only .poles (by decide)
  rw [lineMove_same h, hbudget, hgap]

/-- Of the records, a change of line state ends the conditions of the state left; sheddings end mismatches (R46). -/
theorem lineMove_spares {ks : List FaultKind} (p : Part) (new : LineState) (g : Option GapEnd) (hmismatch : .outputMismatch ∈ ks)
    (hhigh : p.line.state = .high → .lineHigh ∈ ks) (hlost : p.line.state = .lost → .lineLost ∈ ks) :
    p.Spares ks [.auxShed] auxRoles (p.lineMove new g) := by
  by_cases h : p.line.state = new
  · rw [lineMove_same h]
    have hgap : p.Spares ks [.auxShed] auxRoles (p.tellsGapEnd g) := (tellsGapEnd_moves p g).spares
    exact hgap.andThen (recompute_spares _) (by simpa using hmismatch)
  · exact (lineChanged_spares p new g hhigh hlost).andThen (lineMove_sheds h g).2.1 (by simpa using hmismatch)

/-- Any change of line state. -/
theorem lineMove_spares_any (p : Part) (new : LineState) (g : Option GapEnd) :
    p.Spares [.lineHigh, .lineLost, .outputMismatch] [.auxShed] auxRoles (p.lineMove new g) :=
  lineMove_spares p new g (by decide) (fun _ => by decide) fun _ => by decide

/-- A line that leaves LOST ends LINE_LOST (R59). -/
theorem lineMove_endsLost {p : Part} {new : LineState} (hlost : p.line.state = .lost) (h : new ≠ .lost) (g : Option GapEnd) :
    (p.lineMove new g).endedFault .lineLost lineSource := by
  have hne : p.line.state ≠ new := fun he => h (he.symm.trans hlost)
  have hends := endsLineFaults_ended (p := (p.tellsGapEnd g).entersLine new)
  have hended : p.lineEnded new g = ((p.tellsGapEnd g).entersLine new).endsLineFaults .lost := by rw [Part.lineEnded, hlost]
  have hnotified := (lineNotified_only (p.lineEnded new g) p.line.state new).spares (ks := []) (rs := []) (os := [])
  have hchanged : (p.lineChanged new g).faults.get .lineLost = (p.lineEnded new g).faults.get .lineLost :=
    hnotified.faults .lineLost (by decide) (by decide)
  unfold Part.endedFault
  rw [(lineMove_sheds hne g).2.1.faults .lineLost (by decide) (by decide), hchanged, hended]
  exact hends

end Sys2Proof.Machine

/-! ## The timers of the line (R52, R56, R58) -/

namespace Sys2Proof.Machine

/-- An expiry command in any event: the entry orders come last (R146). -/
theorem exec_of_expiry_ordered {c : Instr} {s : State} {t : Part → Timer} {f : Part → Part} {e : Word}
    (hexec : exec c s = s.event (fun p => p.onExpiry (t p) f)) (ht : t s.part = .running e) :
    exec c s = .next { s with part := ((f (s.part.clockTo e)).orderEntries s.part).settle } := by
  have hrun : s.part.onExpiry (t s.part) f = f (s.part.clockTo e) := by rw [ht, onExpiry_running]
  rw [hexec, event_next, hrun]

/-! ### The auxiliaries of a line that is LOST (R150 to R152) -/

theorem auxLineNotice_held {s : LineState} (h : s.classHold = true) (p : Part) : p.auxLineNotice s = p := by
  rw [Part.auxLineNotice, if_pos h]

/-- A change to a line state of the class hold leaves the auxiliaries until the sheddings. -/
theorem lineChanged_aux (p : Part) {new : LineState} (h : new.classHold = true) (g : Option GapEnd) :
    (p.lineChanged new g).aux = p.aux ∧ (p.lineChanged new g).line.grants = p.line.grants := by
  have hended : (p.lineEnded new g).aux = p.aux :=
    (show _ = _ from (endsLineFaults_moves ((p.tellsGapEnd g).entersLine new) p.line.state).drifts.only .aux (by decide)).trans
      ((tellsGapEnd_moves p g).drifts.only .aux (by decide))
  have hgap := (tellsGap_moves ((p.lineEnded new g).rebudget.tellsPoles p.line.state new) new).drifts.only
  have hbudget : (p.lineEnded new g).rebudget.aux = (p.lineEnded new g).aux := (rebudget_moves (p.lineEnded new g)).drifts.only .aux (by decide)
  have htold : (((p.lineEnded new g).rebudget.tellsPoles p.line.state new).tellsGap new).aux = (p.lineEnded new g).rebudget.aux :=
    hgap .aux (by decide)
  have haux := htold.trans hbudget
  have hline : (((p.lineEnded new g).rebudget.tellsPoles p.line.state new).tellsGap new).line
      = ((p.lineEnded new g).rebudget.tellsPoles p.line.state new).line := line_of_moves hgap
  have hgrants : ((p.lineEnded new g).rebudget.tellsPoles p.line.state new).line.grants = (p.lineEnded new g).line.grants := rfl
  unfold Part.lineChanged Part.lineNotified
  rw [auxLineNotice_held h, haux, hended, hline]
  refine ⟨rfl, ?_⟩
  rw [hgrants, lineEnded_line]
  rfl

/-- What becomes of the auxiliaries when the line becomes LOST (R150 to R152). -/
theorem lineMove_losesSupply {p : Part} (h : p.line.state ≠ .lost) (g : Option GapEnd) : p.losesSupply (p.lineMove .lost g) := by
  intro a
  obtain ⟨haux, hgrants⟩ := lineChanged_aux p (new := .lost) rfl g
  have hspares := lineChanged_spares (ks := [.lineHigh, .lineLost]) p .lost g (fun _ => by decide) (fun _ => by decide)
  have hrecord : (p.lineChanged .lost g).auxRec a = p.auxRec a := congrArg (·.recs.get a) haux
  have hgrant : (p.lineChanged .lost g).line.grants.get a = p.line.grants.get a := congrArg (·.get a) hgrants
  have hnow : (p.lineChanged .lost g).now = p.now :=
    (show _ = _ from lineNotified_only _ _ _ .now (by decide)).trans
      ((show _ = _ from (endsLineFaults_moves ((p.tellsGapEnd g).entersLine .lost) p.line.state).drifts.only .now (by decide)).trans
        ((tellsGapEnd_moves p g).drifts.only .now (by decide)))
  have hentry : (p.lineChanged .lost g).auxEntry a = p.auxEntry a := by rw [Part.auxEntry, Part.auxEntry, hspares.tables]
  have hstate : (p.lineChanged .lost g).line.state = .lost := field_of_own (lineChanged_own p .lost g) Line.state fun _ => rfl
  have hback : ∀ {q : Part} {c : ShedCause}, (p.lineChanged .lost g).sheds q a c → p.sheds q a c :=
    fun hs => sheds_congr hrecord hgrant hspares.tables hnow hs
  -- the shed demand, if one is due, comes after the class shed
  have hdemand : ((p.lineChanged .lost g).classShed .lost).Leaves a (p.lineMove .lost g)
      ∨ (((p.lineChanged .lost g).classShed .lost).mayShed a
        ∧ ((p.lineChanged .lost g).classShed .lost).sheds (p.lineMove .lost g) a .demand) := by
    rw [lineMove_eq h]
    have hsheds : (p.lineChanged .lost g).lineSheds .lost = (p.lineChanged .lost g).classShed .lost := rfl
    rw [hsheds]
    split
    · exact shedLoop_each 12 _ a
    · exact .inl (.refl a _)
  have hmem := mem_classSheddable (p.lineChanged .lost g) a
  rw [hentry, hrecord] at hmem
  refine ⟨fun hcls hdraws => ?_, fun hcls hwait => ?_, fun hcls hdraws => ?_, fun hother => ?_⟩
  · have hsheds := classShed_drawing hstate (hmem.mpr ⟨hcls, hdraws⟩)
    have hleaves := hdemand.resolve_right fun hd => hsheds.notDrawing hd.1
    exact hback (hleaves.sheds hsheds ((classShed_moves _ .lost).drifts.only .tables (by decide)))
  · have hwaits := classShed_waiting (s := .lost) rfl (hrecord ▸ hwait) (hentry ▸ hcls)
    have hleaves := hdemand.resolve_right fun hd => absurd hd.1.1 (by rw [hwaits.1]; decide)
    rwa [hleaves.record, hleaves.queued]
  · have hclass : (p.lineChanged .lost g).Leaves a ((p.lineChanged .lost g).classShed .lost) :=
      classShed_leaves (fun hin => absurd (hmem.mp hin).1 (by simp [hcls])) fun hw => absurd hw.2.2 (by simp [hentry, hcls])
    obtain hleaves | ⟨-, hsheds⟩ := hdemand
    · exact .inl ((hclass.andThen hleaves).record.trans hrecord)
    · exact .inr (hback (hclass.before_sheds hsheds))
  · have hdraws : ¬ ((p.auxRec a).state ∈ [AuxState.starting, .running] ∧ (p.auxEntry a).cls ≠ .essential) := by
      rintro ⟨hdraws, hne⟩
      obtain hess | hidle | ⟨-, hwait⟩ := hother
      · exact hne hess
      · cases hs : (p.auxRec a).state <;> simp_all
      · simp [hwait] at hdraws
    have hclass : (p.lineChanged .lost g).Leaves a ((p.lineChanged .lost g).classShed .lost) := by
      refine classShed_leaves (fun hin => hdraws ⟨(hmem.mp hin).2, by simp [(hmem.mp hin).1]⟩) fun ⟨_, hwait, hcls⟩ => ?_
      rw [hrecord] at hwait
      rw [hentry] at hcls
      obtain hess | hidle | ⟨hcomfort, -⟩ := hother
      · simp [hess] at hcls
      · simp [hwait] at hidle
      · simp [hcomfort] at hcls
    have hleaves := hdemand.resolve_right fun hd => hdraws (by
      have := (mayShed_congr hclass).mp hd.1
      rwa [Part.mayShed, hrecord, hentry] at this)
    exact (hclass.andThen hleaves).record.trans hrecord

theorem orderEntries_leaves (q p : Part) (a : AuxNo) (h : (q.auxRec a).entryOrder = (p.auxRec a).entryOrder) :
    q.Leaves a (q.orderEntries p) :=
  leaves_of_aux (orderEntries_moves q p).drifts.only (orderEntries_others q p a (by simp [Part.entered, h])) (orderEntries_queue q p a)

theorem Part.sheds.ordered {p q : Part} {a : AuxNo} {cause : ShedCause} (h : p.sheds q a cause) (o : Part) (htables : q.tables = p.tables) :
    p.sheds (q.orderEntries o) a cause := by
  obtain ⟨n, hrec⟩ := orderEntries_auxRec q o a
  have ho := (orderEntries_moves q o).drifts.only
  have hoff := staysOff_of_aux ho a
  obtain ⟨hstops, hstart, hreq, hfails, hpos, hzero, htold⟩ := h
  refine ⟨hoff.auxStops hstops htables (by rw [hrec]), by rw [hrec]; exact hstart, by rw [hrec]; exact hreq, by rw [hrec]; exact hfails,
    fun hp => by rw [hrec]; exact hpos hp, fun hz => ?_, tells_of_same (ho .reports (by decide)) htold⟩
  have hstate := hzero hz
  rw [entryState_congr hoff.tables hoff.mode hoff.line (by rw [hrec]), hrec]
  exact hstate

/-- The entry orders of the event change nothing of this. -/
theorem Part.losesSupply.ordered {p q o : Part} (h : p.losesSupply q) (htables : q.tables = p.tables)
    (horder : ∀ a, (o.auxRec a).entryOrder = (p.auxRec a).entryOrder) : p.losesSupply (q.orderEntries o) := by
  intro a
  obtain ⟨hdraws, hwaits, hcomfort, hother⟩ := h a
  have hkept : q.auxRec a = p.auxRec a → (q.orderEntries o).auxRec a = p.auxRec a :=
    fun he => (orderEntries_leaves q o a (by rw [he, horder])).record.trans he
  refine ⟨fun hcls hd => (hdraws hcls hd).ordered o htables, fun hcls hw => ?_,
    fun hcls hd => (hcomfort hcls hd).imp hkept fun hs => hs.ordered o htables, fun ho => hkept (hother ho)⟩
  obtain ⟨n, hrec⟩ := orderEntries_auxRec q o a
  rw [hrec, orderEntries_queue]
  exact hwaits hcls hw

/-! ### O50 -/

theorem orderEntries_of_lineFrame {xs : List Piece} {p q o : Part} (h : p.onlyChanges xs q) (hx : xs.contains .aux = true := by decide) :
    p.onlyChanges xs (q.orderEntries o) :=
  Part.onlyChanges_trans h (Part.onlyChanges_mono (orderEntries_moves q o).drifts.only (by simpa [within] using hx))

theorem orderEntries_line (q o : Part) : (q.orderEntries o).line = q.line := line_of_moves (orderEntries_moves q o).drifts.only

/-- The gap timer done. -/
def Part.gapTimerDone (p : Part) : Part := { p with line := { p.line with gapTimer := .stopped } }

/-- The raise of LINE_LOST (R52). -/
def Part.lostRaise (p : Part) : Raise :=
  { kind := .lineLost, source := lineSource,
    items := [bigNat p.line.gap.tolerance, .small (lineStateCode p.line.gap.before), .small (flagCode p.line.gap.expected),
      bigNat p.line.gap.peak] }

/-- The gap-end notice of a gap that has lasted its tolerance. -/
def Part.lostGap (p : Part) : GapEnd := { outcome := .lost, duration := p.line.gap.tolerance, peak := p.line.gap.peak }

/-- The part with LINE_LOST raised, before the line changes its state. -/
def Part.lostRaised (p : Part) : Part := p.gapTimerDone.raise p.lostRaise

theorem gapExpired_eq (p : Part) : p.gapExpired = p.lostRaised.lineMove .lost (some p.lostGap) := rfl

theorem gapTimerDone_moves (p : Part) : p.Moves [.line] p.gapTimerDone := moves_lineOwn p _

theorem raise_line (p : Part) (x : Raise) : (p.raise x).line = p.line := line_of_moves (raise_moves p x).drifts.only

theorem lostRaised_line (p : Part) : p.lostRaised.line = p.gapTimerDone.line := raise_line _ _

theorem lostRaised_leaves (p : Part) (a : AuxNo) : p.Leaves a p.lostRaised :=
  Part.Leaves.andThen (q := p.gapTimerDone) ⟨rfl, rfl, .rfl, fun _ _ => rfl, fun _ => id, rfl, rfl, rfl, rfl⟩
    ((raise_spares (os := []) p.gapTimerDone p.lostRaise).leaves (raise_moves _ _).drifts.only (hr := by simp) (hos := by simp))

theorem losesSupply_congr {p q r : Part} (h : ∀ a, p.Leaves a q) (hl : q.losesSupply r) : p.losesSupply r := by
  intro a
  have hleaves := h a
  have hentry : q.auxEntry a = p.auxEntry a := by rw [Part.auxEntry, Part.auxEntry, hleaves.tables]
  obtain ⟨hdraws, hwaits, hcomfort, hother⟩ := hl a
  rw [hentry, hleaves.record] at hdraws hwaits hcomfort hother
  exact ⟨fun hc hd => hleaves.before_sheds (hdraws hc hd), hwaits, fun hc hd => (hcomfort hc hd).imp_right hleaves.before_sheds, hother⟩

theorem noteGapEnd_lastGap (z : Zones) (g : GapEnd) {x : Zone} (hx : x ∈ (z.noteGapEnd g).active) (hseen : x.gapCount ≠ 0) :
    x.lastGap = some g.outcome := by
  obtain ⟨y, -, rfl⟩ := List.mem_map.mp hx
  unfold Zone.noteGapEnd at hseen ⊢
  split
  next h =>
    rw [if_pos h] at hseen
    exact absurd h hseen
  next => rfl

section
variable {p : Part} (h : p.line.state = .gap)
include h

theorem lostRaised_state : p.lostRaised.line.state = .gap := by
  rw [lostRaised_line]
  exact h

theorem lostRaised_ne : p.lostRaised.line.state ≠ .lost := by
  rw [lostRaised_state h]
  decide

/-- The line after the gap's end, but for its budget. -/
theorem gapExpired_own : p.gapExpired.line.own = (p.gapTimerDone.line.enter p.lostRaised .lost).own := by
  rw [gapExpired_eq, lineMove_own (lostRaised_ne h), lostRaised_line]

theorem gapExpired_spares : p.lostRaised.Spares [.outputMismatch] [.auxShed] auxRoles p.gapExpired := by
  rw [gapExpired_eq]
  refine lineMove_spares _ .lost _ (by decide) (fun hs => ?_) fun hs => absurd hs (lostRaised_ne h)
  rw [lostRaised_state h] at hs
  exact absurd hs (by decide)

/-- LINE_LOST is raised with the gap's tolerance (R52). -/
theorem gapExpired_activated : p.activated p.gapExpired .lineLost lineSource p.lostRaise.items := by
  have hraised : p.gapTimerDone.activated p.lostRaised .lineLost lineSource p.lostRaise.items :=
    activated_of_raise p.gapTimerDone p.lostRaise (show FaultKind.lineLost ≠ .alarmOutput by decide)
  have hbefore : p.Spares [] [] [] p.gapTimerDone := (gapTimerDone_moves p).spares
  have hnow : p.gapExpired.now = p.lostRaised.now := (lineMove_moves p.lostRaised .lost (some p.lostGap)).drifts.only .now (by decide)
  exact Part.Spares.activated hraised hbefore (gapExpired_spares h) hnow

theorem gapExpired_zones : p.gapExpired.zones = p.zones.noteGapEnd p.lostGap := by
  have hraised : p.lostRaised.zones = p.zones := (raise_moves p.gapTimerDone p.lostRaise).drifts.only .zones (by decide)
  rw [gapExpired_eq, lineMove_zones _ (lostRaised_ne h), if_neg (by decide)]
  exact congrArg (·.noteGapEnd p.lostGap) hraised

theorem gapExpired_losesSupply : p.losesSupply p.gapExpired := by
  rw [gapExpired_eq]
  exact losesSupply_congr (lostRaised_leaves p) (lineMove_losesSupply (lostRaised_ne h) _)

end

/-- Settles O50, which holds: the gap's end, the class shed and the shed demand that follow it. -/
theorem gapTimerLosesTheLine : Obligations.GapTimerLosesTheLine := by
  intro s e
  refine ⟨fun hrun hgap => ?_, meetsDemand s.part, classShed_classSheds⟩
  have hexec := exec_of_expiry_ordered (exec_gapTimerExpiry s) hrun
  obtain ⟨t, ht⟩ := clockTo_eq s.part e
  rw [ht] at hexec ⊢
  have hstate : (s.part.atTime t).line.state = .gap := hgap
  have hmoves := (gapExpired_moves (s.part.atTime t)).drifts.only
  have hact := gapExpired_activated hstate
  have hown := gapExpired_own hstate
  have hzones := gapExpired_zones hstate
  have hsupply := gapExpired_losesSupply hstate
  have htables : (s.part.atTime t).gapExpired.tables = (s.part.atTime t).tables := hmoves .tables (by decide)
  have hbudget := budgeted_of_balanced (lineMove_balanced (s.part.atTime t).lostRaised .lost (some (s.part.atTime t).lostGap))
  rw [← gapExpired_eq] at hbudget
  have horder := orderEntries_moves (s.part.atTime t).gapExpired s.part
  have hkeptZones : ((s.part.atTime t).gapExpired.orderEntries s.part).zones = (s.part.atTime t).gapExpired.zones :=
    horder.drifts.only .zones (by decide)
  have hkeptTables : ((s.part.atTime t).gapExpired.orderEntries s.part).tables = (s.part.atTime t).gapExpired.tables :=
    horder.drifts.only .tables (by decide)
  refine ⟨_, hexec, ?_, ?_, ?_, ?_, ?_, ?_, ?_, ?_, ?_, ?_, ?_, orderEntries_of_lineFrame hmoves⟩
  · rw [orderEntries_line, gapExpired_eq, lineMove_state]
  · rw [orderEntries_line, field_of_own hown Line.gapTimer fun _ => rfl, Line.enter]
    exact if_pos (by rw [show (s.part.atTime t).gapTimerDone.line.state = .gap from hstate]; rfl)
  · rw [orderEntries_line, field_of_own hown Line.restoreTimer fun _ => rfl]
    rfl
  · rw [orderEntries_line, field_of_own hown Line.highTimer fun _ => rfl]
    rfl
  · rw [orderEntries_line, field_of_own hown Line.voltage fun _ => rfl]
    rfl
  · rw [orderEntries_line, field_of_own hown Line.current fun _ => rfl]
    rfl
  · have hafter : (s.part.atTime t).gapExpired.Spares [] [] [] ((s.part.atTime t).gapExpired.orderEntries s.part) := horder.spares
    have hnow : ((s.part.atTime t).gapExpired.orderEntries s.part).now = (s.part.atTime t).gapExpired.now :=
      horder.drifts.only .now (by decide)
    exact activated_congr hact rfl (hafter.faults .lineLost (by decide) (by decide)) hnow hafter.tables
  · rwa [orderEntries_line, hkeptTables]
  · rw [orderEntries_line, field_of_own hown Line.battery fun _ => rfl]
    rfl
  · rw [hkeptZones, hzones]
    exact fun z hz hseen => noteGapEnd_lastGap _ _ hz hseen
  · exact hsupply.ordered htables fun a => rfl

/-! ### O51 -/

/-- The restore timer done. -/
def Part.restoreTimerDone (p : Part) : Part := { p with line := { p.line with restoreTimer := .stopped } }

/-- The high-persist timer done. -/
def Part.highTimerDone (p : Part) : Part := { p with line := { p.line with highTimer := .stopped } }

/-- The raise of LINE_HIGH (R58). -/
def Part.highRaise (p : Part) : Raise :=
  { kind := .lineHigh, source := lineSource, items := [bigNat p.line.voltage, bigNat (p.since p.line.highEntry)] }

/-- The state a restored line takes (R56). -/
def Part.restoredState (p : Part) : LineState := freshClass p.tables.lineLimits p.line.voltage

/-- The line restored, before its report. -/
def Part.lineRestored (p : Part) : Part := p.restoreTimerDone.lineMove p.restoredState none

theorem restoreExpired_eq (p : Part) : p.restoreExpired = p.lineRestored.report .lineRestored .info .lineSupervisor 0 0
    [.small (lineStateCode p.line.state), .small (lineStateCode p.restoredState), bigNat p.lineRestored.line.voltage] := rfl

theorem highExpired_eq (p : Part) : p.highExpired = p.highTimerDone.raise p.highRaise := rfl

theorem highTimerDone_moves (p : Part) : p.Moves [.line] p.highTimerDone := moves_lineOwn p _

/-- A fresh class is a supplied state (R49). -/
theorem freshClass_supplied (l : LineLimits) (v : Nat) : (freshClass l v).supplied = true := by
  unfold freshClass
  repeat' split
  all_goals rfl

/-- Settles O51, which holds: the restored line, and the raise of LINE_HIGH. -/
theorem restoreAndHighPersist : Obligations.RestoreAndHighPersist := by
  intro s e
  obtain ⟨t, ht⟩ := clockTo_eq s.part e
  refine ⟨fun hrun hstate => ?_, fun hrun => ?_⟩
  · have hexec := exec_of_expiry_ordered (exec_restoreTimerExpiry s) hrun
    rw [ht] at hexec ⊢
    have hsupplied : (s.part.atTime t).restoredState.supplied = true := freshClass_supplied _ _
    have hne : (s.part.atTime t).restoreTimerDone.line.state ≠ (s.part.atTime t).restoredState := by
      intro he
      have hsame : s.part.line.state = (s.part.atTime t).restoredState := he
      rw [← hsame] at hsupplied
      simp only [List.mem_cons, List.not_mem_nil, or_false] at hstate
      obtain hlost | hunknown := hstate
      · simp [hlost, LineState.supplied] at hsupplied
      · simp [hunknown, LineState.supplied] at hsupplied
    have hmoves := (restoreExpired_moves (s.part.atTime t)).drifts.only
    have hown := lineMove_own hne none
    have hbalanced := lineMove_balanced (s.part.atTime t).restoreTimerDone (s.part.atTime t).restoredState none
    have hline : ((s.part.atTime t).restoreExpired.orderEntries s.part).line = (s.part.atTime t).lineRestored.line :=
      (orderEntries_line _ _).trans rfl
    have hlineState : (s.part.atTime t).lineRestored.line.state = (s.part.atTime t).restoredState := lineMove_state _ _ _
    have hvoltage : (s.part.atTime t).lineRestored.line.voltage = s.part.line.voltage :=
      field_of_own hown Line.voltage fun _ => rfl
    have horder := orderEntries_moves (s.part.atTime t).restoreExpired s.part
    have htables : ((s.part.atTime t).restoreExpired.orderEntries s.part).tables = (s.part.atTime t).lineRestored.tables :=
      (show _ = _ from horder.drifts.only .tables (by decide)).trans rfl
    have hbudget : ((s.part.atTime t).restoreExpired.orderEntries s.part).line.budgeted
        ((s.part.atTime t).restoreExpired.orderEntries s.part).tables := by
      rw [hline, htables]
      exact budgeted_of_balanced hbalanced
    refine ⟨_, hexec, ?_, ?_, ?_, hbudget, fun hlost => ?_, fun hhigh => ?_, ?_, orderEntries_of_lineFrame hmoves⟩
    · rw [hline, hlineState]
      rfl
    · rw [hline]
      exact field_of_own hown Line.restoreTimer fun _ => rfl
    · refine (hbudget.2.2.1 ?_).1
      rw [hline, hlineState, hsupplied]
    · have hnew : (s.part.atTime t).restoredState ≠ .lost := by
        intro he
        rw [he] at hsupplied
        exact absurd hsupplied (by decide)
      have hended := lineMove_endsLost (p := (s.part.atTime t).restoreTimerDone) hlost hnew none
      have hkept : ((s.part.atTime t).restoreExpired.orderEntries s.part).faults.get .lineLost
          = (s.part.atTime t).lineRestored.faults.get .lineLost :=
        (get_of_same (horder.drifts.only .records (by decide)) _).trans rfl
      unfold Part.endedFault
      rw [hkept]
      exact hended
    · rw [hline] at hhigh ⊢
      rw [hlineState] at hhigh
      rw [show (s.part.atTime t).lineRestored.line.highTimer = _ from field_of_own hown Line.highTimer fun _ => rfl, Line.enter]
      exact if_pos (by simp [hhigh])
    · rw [hline, hlineState, restoreExpired_eq, hvoltage]
      have hnewest := report_newest (s.part.atTime t).lineRestored .lineRestored .info .lineSupervisor 0 0
        [.small (lineStateCode (s.part.atTime t).line.state), .small (lineStateCode (s.part.atTime t).restoredState),
          bigNat s.part.line.voltage]
      exact newest_of_same ((orderEntries_moves _ s.part).drifts.only .reports (by decide)) hnewest
  · have hmoves : (s.part.clockTo e).Moves (raisePieces ++ [.line]) (s.part.clockTo e).highExpired :=
      ((highTimerDone_moves _).mono (ys := raisePieces ++ [.line])).andThen (raise_moves _ _)
    have hexec := exec_of_expiry (exec_highPersistExpiry s) hrun hmoves
    refine ⟨_, hexec, ?_, ?_, ?_, hmoves.drifts.only⟩
    · rw [ht, highExpired_eq, raise_line]
      rfl
    · rw [ht]
      exact activated_congr (activated_of_raise (s.part.atTime t).highTimerDone (s.part.atTime t).highRaise
        (show FaultKind.lineHigh ≠ .alarmOutput by decide)) rfl rfl rfl rfl
    · rw [ht]
      exact oneRaise_of_raise (s.part.atTime t).highTimerDone (s.part.atTime t).highRaise

end Sys2Proof.Machine

/-! ## The timers of the auxiliaries (R147 to R154) -/

namespace Sys2Proof.Machine

/-- No auxiliary has a new entry order: none has entered the queue (R146). -/
theorem orderEntries_idle {q p : Part} (h : ∀ a, (q.auxRec a).entryOrder = (p.auxRec a).entryOrder) : q.orderEntries p = q := by
  have hnone : p.entered q = [] := by
    rw [List.eq_nil_iff_forall_not_mem]
    intro a ha
    simp [Part.entered, h a] at ha
  rw [Part.orderEntries, if_pos (by simp [hnone])]

/-! ### The head of the queue (R147) -/

theorem enterQueue_stagger (p : Part) (a : AuxNo) : (p.enterQueue a).aux.stagger = p.aux.stagger := by
  rw [enterQueue_eq]
  repeat' split
  all_goals rfl

theorem offExpired_stagger (p : Part) (a : AuxNo) : (p.offExpired a).aux.stagger = p.aux.stagger := by
  unfold Part.offExpired
  dsimp only
  split
  · split
    · exact enterQueue_stagger _ a
    · rfl
  · rfl

theorem startOff_stagger (p : Part) (a : AuxNo) : (p.startOff a).aux.stagger = p.aux.stagger := by
  rw [startOff_eq]
  split
  · exact offExpired_stagger p a
  · rfl

theorem shed_stagger (p : Part) (a : AuxNo) (c : ShedCause) : (p.shed a c).aux.stagger = p.aux.stagger := by
  have hmarked : (p.shedReported a c).aux.stagger = (p.switchOff a).aux.stagger := rfl
  rw [shed_eq, startOff_stagger, hmarked, switchOff_aux]

theorem shedLoop_stagger (n : Nat) (p : Part) : (shedLoop n p).aux.stagger = p.aux.stagger := by
  induction n generalizing p with
  | zero => rfl
  | succ n ih =>
    unfold shedLoop
    split
    · rfl
    · split
      · rfl
      · rw [ih, shed_stagger]

theorem grantClaim_stagger (p : Part) (a : AuxNo) : (p.grantClaim a).aux.stagger = p.aux.stagger := by
  unfold Part.grantClaim Part.recompute
  split
  · rfl
  · split
    · exact shedLoop_stagger 12 _
    · rfl

/-- The claim of a WAITING auxiliary is recorded, and its record left (R63). -/
theorem grantClaim_waiting {p : Part} {a : AuxNo} (h : (p.auxRec a).state = .waiting) :
    ((p.grantClaim a).line.grants.get a).isSome = true := by
  unfold Part.grantClaim
  split
  next hsome => rw [hsome]; rfl
  next =>
    generalize hq : ({ p with line := { p.line with grants := p.line.grants.set a (some (p.auxEntry a).claim) } } : Part) = q
    have hgrant : q.rebudget.line.grants.get a = some (p.auxEntry a).claim := by
      rw [← hq]
      exact grants_set_same _ _ _
    have hstate : (q.rebudget.auxRec a).state = .waiting := by
      rw [← hq]
      exact h
    unfold Part.recompute
    split
    · have hleaves := (shedLoop_each 12 q.rebudget a).resolve_right fun hs => absurd hs.1.1 (by rw [hstate]; decide)
      rw [Part.shedDemand, hleaves.grant, hgrant]
      rfl
    · rw [hgrant]
      rfl

/-- A head that starts, before its output is commanded. -/
def Part.startsHead (p : Part) (a : AuxNo) : Part :=
  { (p.grantClaim a).leaveQueue a with aux := { ((p.grantClaim a).leaveQueue a).aux with
      startCount := (p.grantClaim a).aux.startCount + 1 } }.setAux a
    { (p.grantClaim a).auxRec a with
      state := .starting, startOrder := (p.grantClaim a).aux.startCount + 1
      startTimer := (p.grantClaim a).startTimer ((p.grantClaim a).auxEntry a).startLimit }

theorem startAux_eq (p : Part) (a : AuxNo) : p.startAux a =
    if ((p.startsHead a).drive (.auxRun a) true).confirmedAtGrant a then ((p.startsHead a).drive (.auxRun a) true).auxRuns a
    else (p.startsHead a).drive (.auxRun a) true := rfl

theorem startsHead_moves (p : Part) (a : AuxNo) : p.Moves shedPieces (p.startsHead a) :=
  (((grantClaim_moves p a).andThen (leaveQueue_moves _ a)).andThen (moves_aux _ _)).andThen (setAux_moves _ a _)

theorem confirmedAtGrant_congr {p q : Part} (htables : q.tables = p.tables) (hcontacts : q.contacts = p.contacts) (a : AuxNo) :
    q.confirmedAtGrant a = p.confirmedAtGrant a := by
  simp only [Part.confirmedAtGrant, Part.feedbackLevel, Part.auxEntry, Part.input, htables, hcontacts]

/-- The head of the queue has started (R147, R148). -/
theorem startAux_starts {p : Part} {a : AuxNo} (h : (p.auxRec a).state = .waiting) :
    ((p.startAux a).auxRec a).state = (if p.confirmedAtGrant a then .running else .starting) ∧ a ∉ (p.startAux a).aux.queue
      ∧ ((p.startAux a).line.grants.get a).isSome = true := by
  have hdrive := (drive_moves (p.startsHead a) (.auxRun a) true).drifts.only
  have hstarts := (startsHead_moves p a).drifts.only
  have hconfirmed : ((p.startsHead a).drive (.auxRun a) true).confirmedAtGrant a = p.confirmedAtGrant a :=
    confirmedAtGrant_congr ((show _ = _ from hdrive .tables (by decide)).trans (hstarts .tables (by decide)))
      ((show _ = _ from hdrive .contacts (by decide)).trans (hstarts .contacts (by decide))) a
  have haux : ((p.startsHead a).drive (.auxRun a) true).aux = (p.startsHead a).aux := hdrive .aux (by decide)
  have hline : ((p.startsHead a).drive (.auxRun a) true).line = (p.startsHead a).line := line_of_moves hdrive
  have hgrant : ((p.startsHead a).line.grants.get a).isSome = true := grantClaim_waiting h
  have hqueue : a ∉ (p.startsHead a).aux.queue := leaveQueue_not_mem (p.grantClaim a) a
  rw [startAux_eq, hconfirmed]
  split
  · refine ⟨by rw [Part.auxRuns, Part.auxRec_set_same], ?_, ?_⟩
    · show a ∉ ((p.startsHead a).drive (.auxRun a) true).aux.queue
      rwa [haux]
    · show (((p.startsHead a).drive (.auxRun a) true).line.grants.get a).isSome = true
      rwa [hline]
  · refine ⟨?_, by rwa [haux], by rwa [hline]⟩
    rw [Part.auxRec, haux]
    exact congrArg AuxRec.state (Part.auxRec_set_same _ _ _)

theorem startAux_stagger (p : Part) (a : AuxNo) : (p.startAux a).aux.stagger = p.aux.stagger := by
  have haux : ((p.startsHead a).drive (.auxRun a) true).aux = (p.startsHead a).aux :=
    (drive_moves (p.startsHead a) (.auxRun a) true).drifts.only .aux (by decide)
  have hstagger : (p.startsHead a).aux.stagger = p.aux.stagger := grantClaim_stagger p a
  have hdriven : ((p.startsHead a).drive (.auxRun a) true).aux.stagger = p.aux.stagger := by rw [haux, hstagger]
  rw [startAux_eq]
  split <;> exact hdriven

theorem tryHead_stagger (p : Part) : p.tryHead.aux.stagger = p.aux.stagger := by
  unfold Part.tryHead
  repeat' split
  · rfl
  · rfl
  · exact startAux_stagger p _
  · rfl

/-- What holds the head of the queue (R147). -/
def Part.headHeld (p : Part) (a : AuxNo) : Prop := p.zones.effective.auxHold = true ∧ (p.auxEntry a).cls ≠ .essential

theorem tryHead_waits {p : Part} {a : AuxNo} {rest : List AuxNo} (hqueue : p.aux.queue = a :: rest)
    (h : p.headHeld a ∨ p.claimGranted a = false) : p.tryHead = p := by
  unfold Part.tryHead
  rw [hqueue]
  dsimp only
  split
  · rfl
  next hheld =>
    refine if_neg ?_
    obtain ⟨hold, hne⟩ | hdenied := h
    · exact absurd (by simp [hold, hne]) hheld
    · simp [hdenied]

theorem tryHead_starts {p : Part} {a : AuxNo} {rest : List AuxNo} (hqueue : p.aux.queue = a :: rest) (hfree : ¬ p.headHeld a)
    (hgranted : p.claimGranted a = true) : p.tryHead = p.startAux a := by
  unfold Part.tryHead
  rw [hqueue]
  dsimp only
  rw [if_neg (fun hc => hfree (by simpa [Part.headHeld] using hc)), if_pos hgranted]

theorem tryHead_empty {p : Part} (hqueue : p.aux.queue = []) : p.tryHead = p := by
  unfold Part.tryHead
  rw [hqueue]

/-! ### A start that fails (R149) -/

/-- The number of a failed start. -/
def Part.failCount (p : Part) (a : AuxNo) : Nat := countUp (p.auxRec a).startFails 2

/-- The auxiliary LOCKED or FAULTED after a failed start. -/
def Part.failMarked (p : Part) (a : AuxNo) : Part :=
  (p.switchOff a).setAux a { p.auxRec a with
    state := if p.failCount a = 1 then .locked else .faulted, startTimer := .stopped, startFails := p.failCount a }

/-- The raise of a failed start. -/
def Part.failRaise (p : Part) (a : AuxNo) : Raise :=
  if p.failCount a = 1 then { kind := .auxStartFail, source := auxSource a, items := (p.failMarked a).startFailItems a }
  else { kind := .auxFaulted, source := auxSource a, items := .small AuxFault.start.ctorIdx :: (p.failMarked a).startFailItems a }

/-- The part after a failed start, before the off time begins. -/
def Part.failRaised (p : Part) (a : AuxNo) : Part := (p.failMarked a).raise (p.failRaise a)

theorem startFailed_eq (p : Part) (a : AuxNo) : p.startFailed a = (p.failRaised a).startOff a := by
  unfold Part.startFailed Part.failRaised Part.failRaise Part.failMarked Part.failCount
  dsimp only
  rw [switchOff_auxRec]
  split <;> rfl

theorem failMarked_auxRec (p : Part) (a : AuxNo) : (p.failMarked a).auxRec a = { p.auxRec a with
    state := if p.failCount a = 1 then .locked else .faulted, startTimer := .stopped, startFails := p.failCount a } :=
  Part.auxRec_set_same _ _ _

theorem failRaise_kind (p : Part) (a : AuxNo) :
    (p.failRaise a).kind = if p.failCount a = 1 then .auxStartFail else .auxFaulted := by
  unfold Part.failRaise
  split <;> rfl

theorem raise_aux (p : Part) (x : Raise) : (p.raise x).aux = p.aux := (raise_moves p x).drifts.only .aux (by decide)

theorem raise_staysOff (p : Part) (x : Raise) (a : AuxNo) : p.StaysOff a (p.raise x) := by
  have hspares := raise_spares (os := []) p x
  have ho := (raise_moves p x).drifts.only
  have hline := raise_line p x
  exact ⟨by rw [hline], fun o ho => hspares.commanded ho (by simp), hspares.tables, ho .now (by decide), ho .mode (by decide), by rw [hline]⟩

theorem failRaised_staysOff (p : Part) (a : AuxNo) : (p.switchOff a).StaysOff a (p.failRaised a) :=
  (staysOff_of_aux (setAux_moves _ a _).drifts.only a).andThen (raise_staysOff _ _ a)

theorem failRaised_auxRec (p : Part) (a : AuxNo) : (p.failRaised a).auxRec a = { p.auxRec a with
    state := if p.failCount a = 1 then .locked else .faulted, startTimer := .stopped, startFails := p.failCount a } := by
  rw [Part.auxRec, Part.failRaised, raise_aux]
  exact failMarked_auxRec p a

theorem failRaised_activated {p : Part} {a : AuxNo} (h : (p.failRaise a).kind ≠ .alarmOutput) :
    (p.failMarked a).activated (p.failRaised a) (p.failRaise a).kind (p.failRaise a).source (p.failRaise a).items :=
  activated_of_raise (p.failMarked a) (p.failRaise a) h

theorem failMarked_spares (p : Part) (a : AuxNo) : p.Spares [.outputMismatch] [] [.auxRun a] (p.failMarked a) := by
  have hdrive : p.Spares [.outputMismatch] [] [.auxRun a] (p.drive (.auxRun a) false) := drive_spares _ _ _
  have hrelease : (p.drive (.auxRun a) false).Spares [] [] [] (p.switchOff a) := (release_moves _ a).spares
  have hset : (p.switchOff a).Spares [] [] [] (p.failMarked a) := (setAux_moves _ a _).spares
  exact (hdrive.andThen hrelease).andThen hset

/-- The activation of a failed start stands at the end of its event. -/
theorem startFailed_activated {p : Part} {a : AuxNo} (ha : (p.failRaise a).kind ≠ .alarmOutput)
    (hm : (p.failRaise a).kind ∉ [FaultKind.outputMismatch]) :
    p.activated (p.startFailed a) (p.failRaise a).kind (p.failRaise a).source (p.failRaise a).items := by
  have hafter : (p.failRaised a).Spares [] [] [] ((p.failRaised a).startOff a) := (startOff_moves _ a).spares
  have hlast : ((p.failRaised a).startOff a).now = (p.failRaised a).now := (startOff_moves _ a).drifts.only .now (by decide)
  rw [startFailed_eq]
  exact activated_congr (failRaised_activated ha) ((failMarked_spares p a).faults _ hm ha).symm
    (hafter.faults _ List.not_mem_nil ha) hlast hafter.tables

theorem countUp_one {n : Nat} : countUp n 2 = 1 ↔ n = 0 := by
  unfold countUp
  split <;> omega

/-! ### O59 -/

theorem lockedState_congr {p q : Part} {a : AuxNo} (htables : q.tables = p.tables) (hmode : q.mode = p.mode)
    (hline : q.line.state = p.line.state) (hkept : (q.auxRec a).keptInLayover = (p.auxRec a).keptInLayover) (r : Bool) :
    q.lockedState a r = p.lockedState a r := by
  have hentry : q.auxEntry a = p.auxEntry a := by rw [Part.auxEntry, Part.auxEntry, htables]
  simp only [Part.lockedState, entryState_congr htables hmode hline hkept, hentry]

/-- What a failed start brings (R149, R154). -/
theorem startFailed_fails (p : Part) (a : AuxNo) :
    ((p.startFailed a).auxRec a).startTimer = .stopped ∧ p.auxStops (p.startFailed a) a
      ∧ ((p.auxRec a).startFails = 0 → ((p.startFailed a).auxRec a).state = p.lockedState a (p.auxRec a).requested
          ∧ ((p.startFailed a).auxRec a).startFails = 1
          ∧ ∃ items, p.activated (p.startFailed a) .auxStartFail (auxSource a) items)
      ∧ ((p.auxRec a).startFails ≠ 0 → ((p.startFailed a).auxRec a).state = .faulted
          ∧ ∃ items, p.activated (p.startFailed a) .auxFaulted (auxSource a) (.small AuxFault.start.ctorIdx :: items)) := by
  have hmarked := failRaised_staysOff p a
  obtain ⟨htables, hnow, hmode, hline⟩ := switchOff_settings p a
  have hraised := failRaised_auxRec p a
  obtain ⟨s, d, n, hrec⟩ := startOff_auxRec (p.failRaised a) a
  have hoff : (p.failRaised a).StaysOff a ((p.failRaised a).startOff a) := staysOff_of_aux (startOff_moves _ a).drifts.only a
  have hentry : (p.failRaised a).auxEntry a = p.auxEntry a := by rw [Part.auxEntry, Part.auxEntry, hmarked.tables, htables]
  have hact := startFailed_activated (p := p) (a := a)
  have htimer : (p.failRaised a).offTimerOf a = p.offTimerOf a :=
    offTimerOf_congr (hmarked.tables.trans htables) (hmarked.now.trans hnow) a
  rw [startFailed_eq] at hact ⊢
  refine ⟨by rw [hrec, hraised],
    auxStops_of (hmarked.andThen hoff) ?_, fun hzero => ?_, fun hpos => ?_⟩
  · rw [hrec, htimer]
  · have hone : p.failCount a = 1 := countUp_one.mpr hzero
    rw [hone] at hraised
    have hstate := startOff_state (p := p.failRaised a) (a := a) (.inr (by rw [hraised]; rfl))
    refine ⟨?_, ?_, (p.failMarked a).startFailItems a, ?_⟩
    · rw [hstate, hentry, Part.lockedState,
        entryState_congr (hmarked.tables.trans htables) (hmarked.mode.trans hmode) (hmarked.line.trans hline) (by rw [hraised]), hraised]
      rfl
    · rw [hrec, hraised]
    · simp only [Part.failRaise, hone, if_true] at hact
      exact hact (by decide) (by decide)
  · have hmore : p.failCount a ≠ 1 := fun h => hpos (countUp_one.mp h)
    rw [if_neg hmore] at hraised
    have hstate := startOff_state_other (p := p.failRaised a) (a := a) (by simp [hraised]) (by simp [hraised])
    refine ⟨?_, (p.failMarked a).startFailItems a, ?_⟩
    · rw [hstate, hraised]
    · simp only [Part.failRaise, hmore, if_false] at hact
      exact hact (by decide) (by decide)

theorem restartStagger_auxRec (p : Part) (a : AuxNo) : p.restartStagger.auxRec a = p.auxRec a := rfl

/-- The stagger timer's expiry (R147). -/
theorem staggerExpiry_tries (s : State) {t : Word} :
    ((s.part.atTime t).staggerExpired.orderEntries s.part).aux.stagger = (s.part.atTime t).startTimer s.part.tables.timers.stagger
      ∧ (s.part.aux.queue = [] → (s.part.atTime t).onlyChanges [.aux] ((s.part.atTime t).staggerExpired.orderEntries s.part)
          ∧ ((s.part.atTime t).staggerExpired.orderEntries s.part).aux.recs = s.part.aux.recs)
      ∧ ∀ a rest, s.part.aux.queue = a :: rest → (s.part.auxRec a).state = .waiting →
          (s.part.headHeld a ∨ s.part.claimGranted a = false →
            (s.part.atTime t).onlyChanges [.aux] ((s.part.atTime t).staggerExpired.orderEntries s.part)
            ∧ ((s.part.atTime t).staggerExpired.orderEntries s.part).aux.recs = s.part.aux.recs
            ∧ ((s.part.atTime t).staggerExpired.orderEntries s.part).aux.queue = s.part.aux.queue)
          ∧ (¬ s.part.headHeld a → s.part.claimGranted a = true →
            (((s.part.atTime t).staggerExpired.orderEntries s.part).auxRec a).state
                = (if s.part.confirmedAtGrant a then .running else .starting)
              ∧ a ∉ ((s.part.atTime t).staggerExpired.orderEntries s.part).aux.queue
              ∧ (((s.part.atTime t).staggerExpired.orderEntries s.part).line.grants.get a).isSome = true) := by
  have hidle : (s.part.atTime t).restartStagger.orderEntries s.part = (s.part.atTime t).restartStagger := orderEntries_idle fun _ => rfl
  have hwaits : (s.part.atTime t).staggerExpired = (s.part.atTime t).restartStagger →
      (s.part.atTime t).onlyChanges [.aux] ((s.part.atTime t).staggerExpired.orderEntries s.part)
        ∧ ((s.part.atTime t).staggerExpired.orderEntries s.part).aux.recs = s.part.aux.recs
        ∧ ((s.part.atTime t).staggerExpired.orderEntries s.part).aux.queue = s.part.aux.queue := by
    intro h
    rw [h, hidle]
    exact ⟨(restartStagger_moves _).drifts.only, rfl, rfl⟩
  refine ⟨?_, fun hempty => ?_, fun a rest hqueue hstate => ⟨fun hheld => ?_, fun hfree hgranted => ?_⟩⟩
  · rw [(orderEntries_rest _ _).1, Part.staggerExpired, tryHead_stagger]
    rfl
  · obtain ⟨honly, hrecs, -⟩ := hwaits (tryHead_empty (p := (s.part.atTime t).restartStagger) hempty)
    exact ⟨honly, hrecs⟩
  · exact hwaits (tryHead_waits (p := (s.part.atTime t).restartStagger) hqueue hheld)
  · have hstarts : (s.part.atTime t).staggerExpired = (s.part.atTime t).restartStagger.startAux a :=
      tryHead_starts (p := (s.part.atTime t).restartStagger) hqueue hfree hgranted
    obtain ⟨hrun, hleft, hgrant⟩ := startAux_starts (p := (s.part.atTime t).restartStagger) (a := a) hstate
    obtain ⟨n, hrec⟩ := orderEntries_auxRec ((s.part.atTime t).restartStagger.startAux a) s.part a
    rw [hstarts, hrec, orderEntries_queue, orderEntries_line]
    exact ⟨hrun, hleft, hgrant⟩

theorem orderEntries_state (q o : Part) (a : AuxNo) : ((q.orderEntries o).auxRec a).state = (q.auxRec a).state := by
  obtain ⟨n, hrec⟩ := orderEntries_auxRec q o a
  rw [hrec]

theorem orderEntries_startTimer (q o : Part) (a : AuxNo) : ((q.orderEntries o).auxRec a).startTimer = (q.auxRec a).startTimer := by
  obtain ⟨n, hrec⟩ := orderEntries_auxRec q o a
  rw [hrec]

theorem orderEntries_startFails (q o : Part) (a : AuxNo) : ((q.orderEntries o).auxRec a).startFails = (q.auxRec a).startFails := by
  obtain ⟨n, hrec⟩ := orderEntries_auxRec q o a
  rw [hrec]

theorem Part.auxStops.ordered {p q : Part} {a : AuxNo} (h : p.auxStops q a) (o : Part) (htables : q.tables = p.tables) :
    p.auxStops (q.orderEntries o) a := by
  obtain ⟨n, hrec⟩ := orderEntries_auxRec q o a
  exact (staysOff_of_aux (orderEntries_moves q o).drifts.only a).auxStops h htables (by rw [hrec])

theorem activated_ordered {p q : Part} (o : Part) {k : FaultKind} {x : Source} {items : List Item} (h : p.activated q k x items) :
    p.activated (q.orderEntries o) k x items := by
  have ho := (orderEntries_moves q o).drifts.only
  exact activated_congr h rfl (get_of_same (ho .records (by decide)) k) (ho .now (by decide)) (ho .tables (by decide))

theorem startExpired_failed {p : Part} {a : AuxNo} (h : (p.auxRec a).state = .starting) : p.startExpired a = p.startFailed a := by
  rw [Part.startExpired, if_pos h]

theorem startExpired_other {p : Part} {a : AuxNo} (h : (p.auxRec a).state ≠ .starting) :
    p.startExpired a = p.setAux a { p.auxRec a with startTimer := .stopped } := by
  rw [Part.startExpired, if_neg h]

/-- Settles O59, which holds: the stagger, the failed start and the end of the off time. -/
theorem auxiliaryTimers : Obligations.AuxiliaryTimers := by
  intro s e
  obtain ⟨t, ht⟩ := clockTo_eq s.part e
  rw [ht]
  refine ⟨fun hrun => ?_, fun a hrun => ?_, fun a hrun => ?_⟩
  · have hexec := exec_of_expiry_ordered (exec_staggerTimerExpiry s) hrun
    rw [ht] at hexec
    obtain ⟨hstagger, hempty, hhead⟩ := staggerExpiry_tries s (t := t)
    exact ⟨_, hexec, hstagger, hempty, hhead, orderEntries_of_lineFrame (staggerExpired_moves _).drifts.only⟩
  · have hexec := exec_of_expiry_ordered (exec_startTimerExpiry a s) hrun
    rw [ht] at hexec
    have hmoves := (startExpired_moves (s.part.atTime t) a).drifts.only
    refine ⟨_, hexec, ?_, fun hstate => ?_, orderEntries_of_lineFrame hmoves⟩
    · rw [orderEntries_startTimer]
      by_cases hstate : (s.part.auxRec a).state = .starting
      · rw [startExpired_failed (by exact hstate), (startFailed_fails (s.part.atTime t) a).1]
      · rw [startExpired_other (by exact hstate), Part.auxRec_set_same]
    · rw [startExpired_failed (by exact hstate)] at hmoves ⊢
      obtain ⟨-, hstops, hfirst, hagain⟩ := startFailed_fails (s.part.atTime t) a
      refine ⟨hstops.ordered s.part (hmoves .tables (by decide)), fun hzero => ?_, fun hpos => ?_⟩
      · obtain ⟨hlocked, hfails, items, hact⟩ := hfirst hzero
        refine ⟨?_, ?_, items, activated_ordered s.part hact⟩
        · rw [orderEntries_state, hlocked]
          rfl
        · rw [orderEntries_startFails, hfails]
      · obtain ⟨hfaulted, items, hact⟩ := hagain hpos
        exact ⟨by rw [orderEntries_state, hfaulted], items, activated_ordered s.part hact⟩
  · have hexec := exec_of_expiry_ordered (exec_offTimerExpiry a s) hrun
    rw [ht] at hexec
    have hmoves := (offExpired_moves (s.part.atTime t) a).drifts.only
    obtain ⟨n, hrec⟩ := orderEntries_auxRec ((s.part.atTime t).offExpired a) s.part a
    obtain ⟨s', d, m, hoff⟩ := offExpired_auxRec (s.part.atTime t) a
    refine ⟨_, hexec, by rw [hrec, hoff], fun hidle hno => ?_, fun hidle hyes => ?_, fun hshed hlocked => ?_,
      orderEntries_of_lineFrame hmoves⟩
    · have hstate := offExpired_state (p := s.part.atTime t) (a := a) hidle
      rw [if_neg (by rw [show ((s.part.atTime t).auxRec a).requested = false from hno]; decide)] at hstate
      rw [orderEntries_state, hstate]
    · have hstate := offExpired_state (p := s.part.atTime t) (a := a) hidle
      rw [if_pos (by exact hyes)] at hstate
      rw [orderEntries_state, hstate]
      rfl
    · have hquiet := offExpired_other (p := s.part.atTime t) (a := a) hshed hlocked
      rw [hquiet]
      refine orderEntries_idle fun b => ?_
      by_cases hb : b = a
      · subst hb
        rw [Part.auxRec_set_same]
        rfl
      · rw [Part.auxRec_set_other _ _ _ _ hb]
        rfl

end Sys2Proof.Machine

/-! ## Pole state notices at the line (R53 to R57, R76, R90) -/

namespace Sys2Proof.Machine

/-! ### Poles that a gap notice may reach (R76) -/

/-- A pole without what a gap notice writes. -/
def Pole.gapless (q : Pole) : Pole := { q with indicators := {}, gapSpent := false, seen := {} }

/-- From `p` to `q` the poles change at most by gap notices: those off the line not at all. -/
structure Part.GapNotes (p q : Part) : Prop where
  gapless : ∀ j, (q.poles.get j).gapless = (p.poles.get j).gapless
  offLine : ∀ j, (p.poles.get j).onLine = false → q.poles.get j = p.poles.get j

theorem Part.GapNotes.of_poles {p q : Part} (h : q.poles = p.poles) : p.GapNotes q := ⟨fun j => by rw [h], fun j _ => by rw [h]⟩

theorem Part.GapNotes.refl (p : Part) : p.GapNotes p := .of_poles rfl

/-- A field of a pole that no gap notice writes. -/
theorem Part.GapNotes.field {α : Type} {p q : Part} (h : p.GapNotes q) (j : PoleId) (f : Pole → α)
    (hf : ∀ x : Pole, f x.gapless = f x := by intros; rfl) : f (q.poles.get j) = f (p.poles.get j) := by
  rw [← hf (q.poles.get j), ← hf (p.poles.get j), h.gapless]

theorem Part.GapNotes.state {p q : Part} (h : p.GapNotes q) (j : PoleId) : (q.poles.get j).state = (p.poles.get j).state :=
  h.field j Pole.state

theorem Part.GapNotes.andThen {p q r : Part} (h : p.GapNotes q) (k : q.GapNotes r) : p.GapNotes r := by
  refine ⟨fun j => (k.gapless j).trans (h.gapless j), fun j hj => (k.offLine j ?_).trans (h.offLine j hj)⟩
  rw [h.offLine j hj, hj]

theorem noteGap_gapless (q : Pole) (b : Bool) : (q.noteGap b).gapless = q.gapless := by
  unfold Pole.noteGap
  split <;> rfl

theorem noteGap_offLine {q : Pole} (h : q.onLine = false) (b : Bool) : q.noteGap b = q := by
  rw [Pole.noteGap, if_neg (by simp [h])]

theorem notePolesGap_gapNotes {p q : Part} {a b : LineState} {e : Bool} (h : q.poles = notePolesGap p.poles a b e) : p.GapNotes q := by
  have hboth : ∀ c, p.poles.p.noteGap c = q.poles.p → p.poles.n.noteGap c = q.poles.n → p.GapNotes q := by
    intro c hp hn
    refine ⟨fun j => ?_, fun j hj => ?_⟩
    · cases j
      · exact (congrArg Pole.gapless hp.symm).trans (noteGap_gapless _ c)
      · exact (congrArg Pole.gapless hn.symm).trans (noteGap_gapless _ c)
    · cases j
      · exact hp.symm.trans (noteGap_offLine hj c)
      · exact hn.symm.trans (noteGap_offLine hj c)
  unfold notePolesGap at h
  split at h
  · split at h
    · exact .of_poles h
    · exact hboth true (by rw [h]) (by rw [h])
  · split at h
    · exact hboth false (by rw [h]) (by rw [h])
    · exact .of_poles h

theorem lineMove_gapNotes (p : Part) (new : LineState) (g : Option GapEnd) : p.GapNotes (p.lineMove new g) := by
  by_cases h : p.line.state = new
  · exact .of_poles (lineMove_poles_same h g)
  · exact notePolesGap_gapNotes (lineMove_poles h g)

/-- Between states other than GAP the poles take no notice (R76). -/
theorem lineMove_poles_apart {p : Part} {new : LineState} (h : p.line.state ≠ .gap) (hnew : new ≠ .gap) (g : Option GapEnd) :
    (p.lineMove new g).poles = p.poles := by
  by_cases hs : p.line.state = new
  · exact lineMove_poles_same hs g
  · rw [lineMove_poles hs, notePolesGap, if_neg (by simpa using hnew), if_neg (by simpa using h)]

/-! ### The restore timer (R56) -/

theorem restoreTest_timer (p : Part) : p.restoreTest.line.restoreTimer = p.restoring p p.line.restoreTimer := by
  unfold Part.restoreTest Part.restoring Part.restorable
  simp only [Bool.and_eq_true, decide_eq_true_eq, beq_iff_eq, and_assoc]

theorem restoreTest_eq (p : Part) :
    p.restoreTest = { p with line := { p.line with restoreTimer := p.restoring p p.line.restoreTimer } } := by
  rw [← restoreTest_timer]
  rfl

theorem restoring_congr {p p' q q' : Part} (hnow : p'.now = p.now) (htables : p'.tables = p.tables) (hq : q'.tables = q.tables)
    (hvoltage : q'.line.voltage = q.line.voltage) (hcopy : q'.line.poleCopy = q.line.poleCopy) (t : Timer) :
    p'.restoring q' t = p.restoring q t := by
  simp only [Part.restoring, Part.startTimer, hnow, htables, hq, hvoltage, hcopy]

theorem restoreTest_balanced {p : Part} (h : p.line.balanced p.tables) : p.restoreTest.line.balanced p.restoreTest.tables := h

/-! ### A notice at the Line Supervisor (R54 to R56) -/

/-- The copy of a pole's state set. -/
def Part.copies (p : Part) (i : PoleId) (s : PoleState) : Part :=
  { p with line := { p.line with poleCopy := p.line.poleCopy.set i s } }

theorem copies_moves (p : Part) (i : PoleId) (s : PoleState) : p.onlyChanges [.line] (p.copies i s) :=
  (drifts_lineOwn p _).only

/-- The answer to a pole state notice of a line in state `l` that holds the copies already (R54 to R56). -/
def Part.answersNotice (p : Part) (l : LineState) (s : PoleState) : Part :=
  match l with
  | .gap => if p.bothDownBound then p.lineMove .offWire (some (p.gapEndNow .offWire)) else p
  | .live | .sag | .high => if p.bothHoused then p.lineMove .offWire none else p
  | .lost => if p.bothHoused then p.lineMove .offWire none else p.restoreTest
  | .offWire => if s == .onWire || s == .suspect then (p.lineMove .lost none).restoreTest else p
  | .unknown => p.restoreTest

section
variable {p : Part} (i : PoleId) (s : PoleState)

theorem linePoleNotice_eq : p.linePoleNotice i s = (p.copies i s).answersNotice p.line.state s := rfl

theorem linePoleNotice_gap (h : p.line.state = .gap) : p.linePoleNotice i s =
    if (p.copies i s).bothDownBound then (p.copies i s).lineMove .offWire (some ((p.copies i s).gapEndNow .offWire)) else p.copies i s := by
  rw [linePoleNotice_eq, h, Part.answersNotice]

theorem linePoleNotice_supplied (h : p.line.state.supplied = true) : p.linePoleNotice i s =
    if (p.copies i s).bothHoused then (p.copies i s).lineMove .offWire none else p.copies i s := by
  rw [linePoleNotice_eq]
  cases hs : p.line.state <;> simp_all [Part.answersNotice, LineState.supplied]

theorem linePoleNotice_lost (h : p.line.state = .lost) : p.linePoleNotice i s =
    if (p.copies i s).bothHoused then (p.copies i s).lineMove .offWire none else (p.copies i s).restoreTest := by
  rw [linePoleNotice_eq, h, Part.answersNotice]

theorem linePoleNotice_offWire (h : p.line.state = .offWire) : p.linePoleNotice i s =
    if s = .onWire ∨ s = .suspect then ((p.copies i s).lineMove .lost none).restoreTest else p.copies i s := by
  rw [linePoleNotice_eq, h, Part.answersNotice]
  simp only [Bool.or_eq_true, beq_iff_eq]

theorem linePoleNotice_unknown (h : p.line.state = .unknown) : p.linePoleNotice i s = (p.copies i s).restoreTest := by
  rw [linePoleNotice_eq, h, Part.answersNotice]

end

/-- The line states that a notice finds. -/
theorem lineState_cases (s : LineState) : s = .gap ∨ s.supplied = true ∨ s = .lost ∨ s = .offWire ∨ s = .unknown := by
  cases s <;> decide

theorem restoreTest_spares {ks : List FaultKind} {rs : List ReportKind} {os : List DriveRole} (p : Part) :
    p.Spares ks rs os p.restoreTest := (restoreTest_moves p).spares

/-- A notice at the Line Supervisor is answered by at most one change of line state, and a test of the restore timer. -/
theorem linePoleNotice_answers (p : Part) (i : PoleId) (s : PoleState) :
    p.linePoleNotice i s = p.copies i s ∨ p.linePoleNotice i s = (p.copies i s).restoreTest
      ∨ (∃ g, p.linePoleNotice i s = (p.copies i s).lineMove .offWire g)
      ∨ (p.line.state = .offWire ∧ p.linePoleNotice i s = ((p.copies i s).lineMove .lost none).restoreTest) := by
  obtain h | h | h | h | h := lineState_cases p.line.state
  · rw [linePoleNotice_gap i s h]
    split
    · exact .inr (.inr (.inl ⟨_, rfl⟩))
    · exact .inl rfl
  · rw [linePoleNotice_supplied i s h]
    split
    · exact .inr (.inr (.inl ⟨_, rfl⟩))
    · exact .inl rfl
  · rw [linePoleNotice_lost i s h]
    split
    · exact .inr (.inr (.inl ⟨_, rfl⟩))
    · exact .inr (.inl rfl)
  · rw [linePoleNotice_offWire i s h]
    split
    · exact .inr (.inr (.inr ⟨h, rfl⟩))
    · exact .inl rfl
  · rw [linePoleNotice_unknown i s h]
    exact .inr (.inl rfl)

theorem linePoleNotice_spares (p : Part) (i : PoleId) (s : PoleState) :
    p.Spares lineKinds [.auxShed] auxRoles (p.linePoleNotice i s) := by
  have hcopies : p.Spares lineKinds [.auxShed] auxRoles (p.copies i s) := (copies_moves p i s).spares
  obtain h | h | ⟨g, h⟩ | ⟨-, h⟩ := linePoleNotice_answers p i s
  · rw [h]
    exact hcopies
  · rw [h]
    exact hcopies.andThen (restoreTest_spares (ks := []) (rs := []) (os := []) _)
  · rw [h]
    exact hcopies.andThen (lineMove_spares_any _ _ g) (by simp [lineKinds])
  · rw [h]
    exact (hcopies.andThen (lineMove_spares_any _ _ none) (by simp [lineKinds])).andThen
      (restoreTest_spares (ks := []) (rs := []) (os := []) _)

theorem linePoleNotice_gapNotes (p : Part) (i : PoleId) (s : PoleState) : p.GapNotes (p.linePoleNotice i s) := by
  have hcopies : p.GapNotes (p.copies i s) := .of_poles rfl
  obtain h | h | ⟨g, h⟩ | ⟨-, h⟩ := linePoleNotice_answers p i s
  · rw [h]
    exact .of_poles rfl
  · rw [h]
    exact .of_poles rfl
  · rw [h]
    exact hcopies.andThen (lineMove_gapNotes (p.copies i s) .offWire g)
  · rw [h]
    exact (hcopies.andThen (lineMove_gapNotes (p.copies i s) .lost none)).andThen (.of_poles rfl)

/-- A notice of a pole that is not down-bound reaches no pole (R54, R76). -/
theorem linePoleNotice_poles {s : PoleState} (h : s.downBound = false) (p : Part) (i : PoleId) :
    (p.linePoleNotice i s).poles = p.poles := by
  obtain hs | hs | hs | hs | hs := lineState_cases p.line.state
  · have hnot : (p.copies i s).bothDownBound = false := by
      cases i <;> simp [Part.bothDownBound, Part.copies, PerPole.set, h]
    rw [linePoleNotice_gap i s hs, hnot]
    rfl
  · rw [linePoleNotice_supplied i s hs]
    split
    · refine lineMove_poles_apart (p := p.copies i s) (fun hg => ?_) (by decide) none
      have hgap : p.line.state = .gap := hg
      rw [hgap] at hs
      exact absurd hs (by decide)
    · rfl
  · rw [linePoleNotice_lost i s hs]
    split
    · refine lineMove_poles_apart (p := p.copies i s) (fun hg => ?_) (by decide) none
      exact absurd (hs.symm.trans hg) (by decide)
    · rfl
  · rw [linePoleNotice_offWire i s hs]
    split
    · refine lineMove_poles_apart (p := p.copies i s) (new := .lost) (fun hg => ?_) (by decide) none
      exact absurd (hs.symm.trans hg) (by decide)
    · rfl
  · rw [linePoleNotice_unknown i s hs]
    rfl

/-! ### The line follows the notices (R54, R55) -/

/-- What `lineFollows` reads of the line. -/
def Part.lineView (p : Part) : LineState × PerPole PoleState := (p.line.state, p.line.poleCopy)

theorem lineView_of_same {p q : Part} (h : p.same q .line) : q.lineView = p.lineView := by
  have hown : q.line.own = p.line.own := h
  have hstate : q.line.own.state = p.line.own.state := congrArg Line.state hown
  have hcopy : q.line.own.poleCopy = p.line.own.poleCopy := congrArg Line.poleCopy hown
  exact Prod.ext hstate hcopy

theorem lineMove_copy (p : Part) (new : LineState) (g : Option GapEnd) : (p.lineMove new g).line.poleCopy = p.line.poleCopy :=
  (lineMove_quiet p new g).copy

theorem lineMove_view (p : Part) (new : LineState) (g : Option GapEnd) : (p.lineMove new g).lineView = (new, p.line.poleCopy) :=
  Prod.ext (lineMove_state p new g) (lineMove_copy p new g)

theorem downBound_iff (s : PoleState) : s.downBound = true ↔ s ∈ [PoleState.lowering, .housed] := by cases s <;> decide

theorem linePoleNotice_view (p : Part) (i : PoleId) (s : PoleState) : (p.linePoleNotice i s).lineView
    = (lineAfterNotice p.line.state (p.line.poleCopy.set i s) s, p.line.poleCopy.set i s) := by
  have hdown : (p.copies i s).bothDownBound = true ↔ (p.line.poleCopy.set i s).p ∈ [PoleState.lowering, .housed]
      ∧ (p.line.poleCopy.set i s).n ∈ [PoleState.lowering, .housed] := by
    rw [← downBound_iff, ← downBound_iff, Part.bothDownBound, Bool.and_eq_true]
    rfl
  have hhoused : (p.copies i s).bothHoused = true ↔ (p.line.poleCopy.set i s).p = .housed ∧ (p.line.poleCopy.set i s).n = .housed := by
    rw [Part.bothHoused, Bool.and_eq_true, beq_iff_eq, beq_iff_eq]
    rfl
  have hcopied : (p.copies i s).lineView = (p.line.state, p.line.poleCopy.set i s) := rfl
  have htest : ∀ q : Part, q.restoreTest.lineView = q.lineView := fun _ => rfl
  obtain h | h | h | h | h := lineState_cases p.line.state
  · rw [linePoleNotice_gap i s h, lineAfterNotice]
    by_cases hb : (p.copies i s).bothDownBound = true
    · rw [if_pos hb, if_pos ⟨h, hdown.mp hb⟩, lineMove_view]
      rfl
    · rw [if_neg hb, if_neg fun hc => hb (hdown.mpr hc.2), if_neg (by simp [h]), if_neg (by simp [h]), hcopied]
  · have hin : p.line.state ∈ [LineState.live, .sag, .high, .lost] := by
      cases hs : p.line.state <;> simp_all [LineState.supplied]
    have hne : p.line.state ≠ .gap ∧ p.line.state ≠ .offWire := by
      cases hs : p.line.state <;> simp_all [LineState.supplied]
    rw [linePoleNotice_supplied i s h, lineAfterNotice]
    by_cases hb : (p.copies i s).bothHoused = true
    · rw [if_pos hb, if_neg fun hc => hne.1 hc.1, if_pos ⟨hin, hhoused.mp hb⟩, lineMove_view]
      rfl
    · rw [if_neg hb, if_neg fun hc => hne.1 hc.1, if_neg fun hc => hb (hhoused.mpr hc.2), if_neg fun hc => hne.2 hc.1, hcopied]
  · rw [linePoleNotice_lost i s h, lineAfterNotice]
    by_cases hb : (p.copies i s).bothHoused = true
    · rw [if_pos hb, if_neg (by simp [h]), if_pos ⟨by simp [h], hhoused.mp hb⟩, lineMove_view]
      rfl
    · rw [if_neg hb, if_neg (by simp [h]), if_neg fun hc => hb (hhoused.mpr hc.2), if_neg (by simp [h]), htest, hcopied]
  · rw [linePoleNotice_offWire i s h, lineAfterNotice]
    by_cases hb : s = .onWire ∨ s = .suspect
    · rw [if_pos hb, if_neg (by simp [h]), if_neg (by simp [h]), if_pos ⟨h, hb⟩, htest, lineMove_view]
      rfl
    · rw [if_neg hb, if_neg (by simp [h]), if_neg (by simp [h]), if_neg fun hc => hb hc.2, hcopied]
  · rw [linePoleNotice_unknown i s h, lineAfterNotice, if_neg (by simp [h]), if_neg (by simp [h]), if_neg (by simp [h]), htest, hcopied]

/-! ### Notices (R90) -/

/-- What a notice brings after the Line Supervisor's answer. -/
theorem sendNotice_only (p : Part) (n : PoleNotice) :
    (p.linePoleNotice n.pole n.entered).onlyChanges [.zones, .keptPoles] (p.sendNotice n) := by
  have hzones := (moves_zones (p.linePoleNotice n.pole n.entered) ((p.linePoleNotice n.pole n.entered).zones.notePole n.pole n.entered)).drifts.only
  exact (Part.onlyChanges_mono hzones (by decide) : Part.onlyChanges [.zones, .keptPoles] _ _).andThen (drifts_kept _ _).only

theorem sendNotice_spares (p : Part) (n : PoleNotice) : p.Spares lineKinds [.auxShed] auxRoles (p.sendNotice n) :=
  (linePoleNotice_spares p n.pole n.entered).andThen ((sendNotice_only p n).spares (ks := []) (rs := []) (os := []))

theorem sendNotices_spares (p : Part) (ns : List PoleNotice) : p.Spares lineKinds [.auxShed] auxRoles (p.sendNotices ns) :=
  forEach_spares Part.sendNotice sendNotice_spares ns p

theorem sendNotice_gapNotes (p : Part) (n : PoleNotice) : p.GapNotes (p.sendNotice n) :=
  (linePoleNotice_gapNotes p n.pole n.entered).andThen (.of_poles (sendNotice_only p n .poles (by decide)))

theorem sendNotices_gapNotes (p : Part) (ns : List PoleNotice) : p.GapNotes (p.sendNotices ns) := by
  induction ns generalizing p with
  | nil => exact .refl p
  | cons n ns ih => exact (sendNotice_gapNotes p n).andThen (ih (p.sendNotice n))

theorem sendNotice_view (p : Part) (n : PoleNotice) :
    (p.sendNotice n).lineView = afterNotices p.lineView [(n.pole, n.entered)] :=
  (lineView_of_same (sendNotice_only p n .line (by decide))).trans (linePoleNotice_view p n.pole n.entered)

/-- The line follows the notices, one by one (R54, R55, R90). -/
theorem sendNotices_view (p : Part) (ns : List PoleNotice) :
    (p.sendNotices ns).lineView = afterNotices p.lineView (ns.map fun n => (n.pole, n.entered)) := by
  induction ns generalizing p with
  | nil => rfl
  | cons n ns ih =>
    have hrest := ih (p.sendNotice n)
    rw [sendNotice_view] at hrest
    exact hrest

theorem lineFollows_of_view {p q r : Part} {ns : List (PoleId × PoleState)} (h : r.lineView = afterNotices q.lineView ns)
    (hq : q.lineView = p.lineView) : p.lineFollows r ns := by
  rw [hq] at h
  exact h

end Sys2Proof.Machine

/-! ## Operations on one pole (R83 to R105)

The operations of the Pole Monitor work on one pole before the notices of their event go out. `Part.Sets i r` says that pole `i` then has the
record `r`, that the other pole is left alone, and which kinds, reports and roles are spared; each operation is described by the record it leaves. -/

namespace Sys2Proof.Machine

/-! ### The relation -/

/-- What an operation on a pole may write before its notices. -/
def settingPieces : List Piece := raisePieces ++ [.poles, .free, .links]

/-- The reports that name a pole. -/
def poleReports : List ReportKind := [.lowerComplete, .raiseAbandoned, .raiseComplete, .poleResolved, .suspectCleared]

/-- A report that names no pole but `i`. -/
def aboutNoOther (i : PoleId) (r : ReportRec) : Prop := r.kind ∈ poleReports → r.inst = poleNumber i

/-- From `p` to `q` pole `i` gets the record `r` and the other pole keeps its own; what is not named is spared. -/
structure Part.Sets (i : PoleId) (r : Pole) (ks : List FaultKind) (rs : List ReportKind) (os : List DriveRole) (p q : Part) : Prop where
  record : q.poles.get i = r
  other : ∀ j, j ≠ i → q.poles.get j = p.poles.get j
  spares : p.Spares ks rs os q
  about : p.Logs (aboutNoOther i) q
  frame : p.onlyChanges settingPieces q

theorem housedClosed_congr {p q : Part} (hc : q.contacts = p.contacts) (ht : q.tables = p.tables) (i : PoleId) :
    q.housedClosed i = p.housedClosed i := by
  simp only [Part.housedClosed, Part.roleLevel, hc, ht, Part.input]

section
variable {i : PoleId} {r : Pole} {ks : List FaultKind} {rs : List ReportKind} {os : List DriveRole} {p q z : Part}

theorem Part.Sets.refl (ks : List FaultKind) (rs : List ReportKind) (os : List DriveRole) (p : Part) (i : PoleId) :
    Part.Sets i (p.poles.get i) ks rs os p p :=
  ⟨rfl, fun _ _ => rfl, .refl _ _ _ p, .refl _ p, Part.onlyChanges_refl _ p⟩

theorem Part.Sets.andThen {r' : Pole} {ks' : List FaultKind} {rs' : List ReportKind} {os' : List DriveRole} (h : Part.Sets i r ks rs os p q)
    (k : Part.Sets i r' ks' rs' os' q z) (hk : ∀ k ∈ ks', k ∈ ks := by decide) (hr : ∀ r ∈ rs', r ∈ rs := by decide)
    (ho : ∀ o ∈ os', o ∈ os := by grind [poleRoles]) : Part.Sets i r' ks rs os p z :=
  ⟨k.record, fun j hj => (k.other j hj).trans (h.other j hj), h.spares.andThen k.spares hk hr ho,
    h.about.andThen k.about, Part.onlyChanges_trans h.frame k.frame⟩

theorem Part.Sets.mono {ks' : List FaultKind} {rs' : List ReportKind} {os' : List DriveRole} (h : Part.Sets i r ks rs os p q)
    (hk : ∀ k ∈ ks, k ∈ ks' := by decide) (hr : ∀ r ∈ rs, r ∈ rs' := by decide) (ho : ∀ o ∈ os, o ∈ os' := by grind [poleRoles]) :
    Part.Sets i r ks' rs' os' p q :=
  ⟨h.record, h.other, h.spares.mono hk hr ho, h.about, h.frame⟩

/-- An operation that leaves the poles alone. -/
theorem Part.Spares.sets {xs : List Piece} (h : p.Spares ks rs os q) (ho : p.onlyChanges xs q) (i : PoleId)
    (hr : ∀ k ∈ rs, k ∉ poleReports := by simp [poleReports]) (hx : within xs settingPieces = true := by decide)
    (hp : xs.contains .poles = false := by decide) : Part.Sets i (p.poles.get i) ks rs os p q := by
  have hpoles : q.poles = p.poles := ho .poles (by simpa using hp)
  exact ⟨by rw [hpoles], fun j _ => by rw [hpoles], h, h.logs.mono fun x hm hk => absurd hk (hr _ hm), Part.onlyChanges_mono ho hx⟩

theorem Part.Sets.now (h : Part.Sets i r ks rs os p q) : q.now = p.now := h.frame .now (by decide)

theorem Part.Sets.tables (h : Part.Sets i r ks rs os p q) : q.tables = p.tables := h.spares.tables

theorem Part.Sets.startTimer (h : Part.Sets i r ks rs os p q) (n : Nat) : q.startTimer n = p.startTimer n := by
  simp only [Part.startTimer, h.now]

theorem Part.Sets.since (h : Part.Sets i r ks rs os p q) (w : Word) : q.since w = p.since w := by
  simp only [Part.since, h.now]

theorem Part.Sets.housedClosed (h : Part.Sets i r ks rs os p q) (j : PoleId) : q.housedClosed j = p.housedClosed j :=
  housedClosed_congr (h.frame .contacts (by decide)) h.tables j

theorem Part.Sets.lineView (h : Part.Sets i r ks rs os p q) : q.lineView = p.lineView := lineView_of_same (h.frame .line (by decide))

end

/-! ### The shared steps -/

theorem setPole_sets (p : Part) (i : PoleId) (r : Pole) : Part.Sets i r [] [] [] p (p.setPole i r) := by
  have hframe : p.onlyChanges [.poles] (p.setPole i r) := fun x hx => by cases x <;> simp_all [Part.same, Part.setPole]
  exact ⟨PerPole.get_set_same _ _ _, fun j hj => PerPole.get_set_other _ _ _ _ hj, hframe.spares,
    .of_mbx rfl, Part.onlyChanges_mono hframe (by decide)⟩

theorem drivePole_sets (p : Part) (i j : PoleId) (a b : Bool) :
    Part.Sets j (p.poles.get j) [.outputMismatch] [] (poleRoles i) p (p.drivePole i a b) :=
  (drivePole_spares p i a b).sets (drivePole_moves p i a b).drifts.only j

theorem drive_sets (p : Part) (o : DriveRole) (j : PoleId) (on : Bool) :
    Part.Sets j (p.poles.get j) [.outputMismatch] [] [o] p (p.drive o on) :=
  (drive_spares p o on).sets (drive_moves p o on).drifts.only j

theorem poleReport_sets (p : Part) (kind : ReportKind) (sev : Severity) (i : PoleId) (tag : Word) (items : List Item) :
    Part.Sets i (p.poles.get i) [] [kind] [] p (p.poleReport kind sev i tag items) :=
  ⟨rfl, fun _ _ => rfl, report_spares p kind sev _ _ tag items, report_logs _ _ _ _ _ _ _ fun _ => rfl,
    Part.onlyChanges_mono (poleReport_moves p kind sev i tag items).drifts.only (by decide)⟩

theorem poleRaise_sets (p : Part) (kind : FaultKind) (i j : PoleId) (c : SourceCause) (tag : Word) (items : List Item) :
    Part.Sets j (p.poles.get j) [kind] [.fault kind, .collectorChanged] [] p (p.poleRaise kind i c tag items) :=
  (raise_spares p { kind := kind, source := poleSource i c, items := items, tag := tag }).sets (poleRaise_moves p kind i c tag items).drifts.only j

theorem endFault_sets (p : Part) (k : FaultKind) (s : Source) (j : PoleId) : Part.Sets j (p.poles.get j) [k] [] [] p (p.endFault k s) :=
  (endFault_spares p k s).sets (endFault_moves p k s).drifts.only j

theorem endFaultIf_sets (p : Part) (b : Bool) (k : FaultKind) (s : Source) (j : PoleId) :
    Part.Sets j (p.poles.get j) [k] [] [] p (if b then p.endFault k s else p) := by
  split
  · exact endFault_sets p k s j
  · exact .refl _ _ _ p j

/-! ### The same steps, after others -/

section
variable {i : PoleId} {r : Pole} {ks : List FaultKind} {rs : List ReportKind} {os : List DriveRole} {p q : Part}

theorem Part.Sets.setPole (h : Part.Sets i r ks rs os p q) (x : Pole) : Part.Sets i x ks rs os p (q.setPole i x) :=
  h.andThen (setPole_sets q i x) (by simp) (by simp) (by simp)

theorem Part.Sets.modPole (h : Part.Sets i r ks rs os p q) (f : Pole → Pole) : Part.Sets i (f r) ks rs os p (q.modPole i f) := by
  rw [Part.modPole, h.record]
  exact h.setPole (f r)

theorem Part.Sets.drivePole (h : Part.Sets i r ks rs os p q) (j : PoleId) (a b : Bool) (hk : .outputMismatch ∈ ks := by decide)
    (ho : ∀ o ∈ poleRoles j, o ∈ os := by simp) : Part.Sets i r ks rs os p (q.drivePole j a b) := by
  have := drivePole_sets q j i a b
  rw [h.record] at this
  exact h.andThen this (by simpa using hk) (by simp) ho

theorem Part.Sets.report (h : Part.Sets i r ks rs os p q) (kind : ReportKind) (sev : Severity) (tag : Word) (items : List Item)
    (hr : kind ∈ rs := by decide) : Part.Sets i r ks rs os p (q.poleReport kind sev i tag items) := by
  have := poleReport_sets q kind sev i tag items
  rw [h.record] at this
  exact h.andThen this (by simp) (by simpa using hr) (by simp)

theorem Part.Sets.raise (h : Part.Sets i r ks rs os p q) (kind : FaultKind) (j : PoleId) (c : SourceCause) (tag : Word) (items : List Item)
    (hk : kind ∈ ks := by decide) (hr : ∀ x ∈ [ReportKind.fault kind, .collectorChanged], x ∈ rs := by decide) :
    Part.Sets i r ks rs os p (q.poleRaise kind j c tag items) := by
  have := poleRaise_sets q kind j i c tag items
  rw [h.record] at this
  exact h.andThen this (by simpa using hk) hr (by simp)

theorem Part.Sets.endFaultIf (h : Part.Sets i r ks rs os p q) (b : Bool) (k : FaultKind) (s : Source) (hk : k ∈ ks := by decide) :
    Part.Sets i r ks rs os p (if b then q.endFault k s else q) := by
  have := endFaultIf_sets q b k s i
  rw [h.record] at this
  exact h.andThen this (by simpa using hk) (by simp) (by simp)

end

/-! ### Lowering (R101, R104, R105) -/

/-- A pole that begins lowering (R104). -/
def Pole.beginsLowering (q : Pole) (p : Part) (cause : LoweringCause) (tag : Word) (zone : Option TagId) : Pole :=
  { q with
    state := .lowering, lowering := cause, indicators := {}, seen := {}, gapSpent := false, blind := false,
    confirmTimer := .stopped, raiseTimer := .stopped, settleTimer := .stopped, holdTimer := .stopped,
    retryPending := false, lowerTimer := p.startTimer p.tables.timers.lowerTime, lowerStart := p.now,
    requestTag := tag, zoneId := zone }

/-- A raise given up (R101). -/
def Pole.givesUp (q : Pole) : Pole := { q with origin := .none, retryCount := 0, retryPending := false }

/-- The retry decision (R101). -/
def Pole.decidesRetry (q : Pole) (t : Timers) : Pole :=
  if q.abandon = .timeout ∨ q.abandon = .aboveBand then
    if q.retryCount < t.raiseRetries then { q with retryPending := true } else q.givesUp
  else { q with origin := .none, retryCount := 0 }

/-- A LOWERING pole that is HOUSED (R105). -/
def Pole.housedWith (q : Pole) (p : Part) : Pole :=
  { q with state := .housed, blind := false, lowerTimer := .stopped, holdTimer := p.startTimer 500 }

/-- The cause of a lowering is dealt with (R85, R105). -/
def Pole.endsLowering (q : Pole) : Pole := { q with lowering := .none }.checkLatch

/-- A HOUSED pole once the cause of its lowering is dealt with (R85, R101, R105). -/
def Pole.afterHousing (q : Pole) (p : Part) : Pole :=
  Pole.endsLowering (if q.lowering = .abandonedRaise then (q.housedWith p).decidesRetry p.tables.timers else q.housedWith p)

/-- A pole that lowers, and is HOUSED at once where its housed contact is CLOSED (R104). -/
def Pole.lowered (q : Pole) (p : Part) (i : PoleId) (cause : LoweringCause) (tag : Word) (zone : Option TagId) : Pole :=
  if p.housedClosed i then (q.beginsLowering p cause tag zone).afterHousing p else q.beginsLowering p cause tag zone

theorem startLowering_sets (p : Part) (i : PoleId) (cause : LoweringCause) (tag : Word) (zone : Option TagId) :
    Part.Sets i ((p.poles.get i).beginsLowering p cause tag zone) [.poleSensor] [] [] (p.drivePole i false true)
      (p.startLowering i cause tag zone).1 := by
  have hdrive := drivePole_sets p i i false true
  have hset := ((Part.Sets.refl [.poleSensor] [] [] (p.drivePole i false true) i).setPole
    ((p.poles.get i).beginsLowering (p.drivePole i false true) cause tag zone)).endFaultIf (p.poles.get i).blind .poleSensor (poleSource i .blind)
  have hrec : (p.poles.get i).beginsLowering (p.drivePole i false true) cause tag zone = (p.poles.get i).beginsLowering p cause tag zone := by
    simp only [Pole.beginsLowering, hdrive.startTimer, hdrive.tables, hdrive.now]
  rw [← hrec]
  exact hset

theorem raiseFailed_sets (p : Part) (i : PoleId) (pre : Option Nat) :
    Part.Sets i (p.poles.get i).givesUp [.raiseFailed]
      [.fault .raiseFailed, .collectorChanged] [] p (p.raiseFailed i pre) :=
  ((Part.Sets.refl [.raiseFailed] [.fault .raiseFailed, .collectorChanged] [] p i).raise .raiseFailed i .none _ _).modPole Pole.givesUp

theorem decideRetry_sets (p : Part) (i : PoleId) :
    Part.Sets i ((p.poles.get i).decidesRetry p.tables.timers) [.raiseFailed] [.fault .raiseFailed, .collectorChanged] [] p (p.decideRetry i) := by
  unfold Part.decideRetry Pole.decidesRetry
  simp only [Bool.or_eq_true, beq_iff_eq]
  split
  · split
    · exact (Part.Sets.refl _ _ _ p i).setPole _
    · exact raiseFailed_sets p i none
  · exact (Part.Sets.refl _ _ _ p i).setPole _

/-- The reports of a housing (R101, R105). -/
def housingReports : List ReportKind := [.lowerComplete, .fault .raiseFailed, .collectorChanged]

theorem lowerDone_sets (p : Part) (i : PoleId) :
    Part.Sets i ((p.poles.get i).afterHousing p) [.raiseFailed] housingReports [] p (p.lowerDone i).1 := by
  unfold Part.lowerDone Pole.afterHousing
  simp only [beq_iff_eq]
  have hset : Part.Sets i ((p.poles.get i).housedWith p) [.raiseFailed] housingReports [] p (p.setPole i ((p.poles.get i).housedWith p)) :=
    (setPole_sets p i _).mono
  split
  · have hdecide := decideRetry_sets (p.setPole i ((p.poles.get i).housedWith p)) i
    rw [hset.record] at hdecide
    exact (hset.andThen hdecide).modPole Pole.endsLowering
  · exact (hset.report .lowerComplete .info _ _).modPole Pole.endsLowering

theorem houseIfClosed_sets (p : Part) (i : PoleId) :
    Part.Sets i (if p.housedClosed i then (p.poles.get i).afterHousing p else p.poles.get i) [.raiseFailed] housingReports [] p
      (p.houseIfClosed i).1 := by
  unfold Part.houseIfClosed
  split
  · exact lowerDone_sets p i
  · exact .refl _ _ _ p i

theorem houseIfClosed_notices (p : Part) (i : PoleId) :
    (p.houseIfClosed i).2.map (fun n => (n.pole, n.entered)) = if p.housedClosed i then [(i, .housed)] else [] := by
  unfold Part.houseIfClosed
  split <;> rfl

theorem afterHousing_congr {p p' : Part} (ht : p'.tables = p.tables) (hn : p'.now = p.now) (q : Pole) : q.afterHousing p' = q.afterHousing p := by
  simp only [Pole.afterHousing, Pole.housedWith, Part.startTimer, ht, hn]

/-- After the retriever is commanded a lowering writes no output. -/
theorem lower_sets_driven (p : Part) (i : PoleId) (cause : LoweringCause) (tag : Word) (zone : Option TagId) :
    Part.Sets i ((p.poles.get i).lowered p i cause tag zone) [.poleSensor, .raiseFailed] housingReports [] (p.drivePole i false true)
      (p.lower i cause tag zone).1 := by
  have hdrive := drivePole_sets p i i false true
  have hstart := startLowering_sets p i cause tag zone
  have hhouse := houseIfClosed_sets (p.startLowering i cause tag zone).1 i
  rw [hstart.record, hstart.housedClosed, hdrive.housedClosed,
    afterHousing_congr (hstart.tables.trans hdrive.tables) (hstart.now.trans hdrive.now)] at hhouse
  exact (hstart.mono (ks' := [.poleSensor, .raiseFailed]) (rs' := housingReports) (os' := [])).andThen hhouse

/-- The kinds whose records a lowering may write. -/
def loweringKinds : List FaultKind := [.outputMismatch, .poleSensor, .raiseFailed]

theorem lower_sets (p : Part) (i : PoleId) (cause : LoweringCause) (tag : Word) (zone : Option TagId) :
    Part.Sets i ((p.poles.get i).lowered p i cause tag zone) loweringKinds housingReports (poleRoles i) p (p.lower i cause tag zone).1 :=
  ((drivePole_sets p i i false true).mono (ks' := loweringKinds) (rs' := housingReports) (os' := poleRoles i)).andThen (lower_sets_driven p i cause tag zone)

theorem lower_driven (p : Part) (i : PoleId) (cause : LoweringCause) (tag : Word) (zone : Option TagId) :
    p.driven (p.lower i cause tag zone).1 i false true :=
  (lower_sets_driven p i cause tag zone).spares.driven (drivePole_driven p i false true) (drivePole_sets p i i false true).tables (by simp)

theorem lower_notices (p : Part) (i : PoleId) (cause : LoweringCause) (tag : Word) (zone : Option TagId) :
    (p.lower i cause tag zone).2.map (fun n => (n.pole, n.entered)) = p.loweringNotices i := by
  have hclosed : (p.startLowering i cause tag zone).1.housedClosed i = p.housedClosed i :=
    ((startLowering_sets p i cause tag zone).housedClosed i).trans ((drivePole_sets p i i false true).housedClosed i)
  have hhouse := houseIfClosed_notices (p.startLowering i cause tag zone).1 i
  rw [hclosed] at hhouse
  exact congrArg ((i, PoleState.lowering) :: ·) hhouse

end Sys2Proof.Machine

/-! ## Raises, abandonments and dewirements of one pole (R83, R84, R97 to R101) -/

namespace Sys2Proof.Machine

theorem beginsLowering_congr {p p' : Part} (ht : p'.tables = p.tables) (hn : p'.now = p.now) (q : Pole) (cause : LoweringCause) (tag : Word)
    (zone : Option TagId) : q.beginsLowering p' cause tag zone = q.beginsLowering p cause tag zone := by
  simp only [Pole.beginsLowering, Part.startTimer, ht, hn]

theorem lowered_congr {p p' : Part} (ht : p'.tables = p.tables) (hn : p'.now = p.now) (hc : p'.contacts = p.contacts) (q : Pole) (i : PoleId)
    (cause : LoweringCause) (tag : Word) (zone : Option TagId) : q.lowered p' i cause tag zone = q.lowered p i cause tag zone := by
  simp only [Pole.lowered, housedClosed_congr hc ht, beginsLowering_congr ht hn, afterHousing_congr ht hn]

/-! ### Abandonment (R100) -/

/-- The pole of an abandoned raise with its cause (R100). -/
def Pole.abandons (q : Pole) (cause : AbandonCause) : Pole := { q with abandon := cause }

/-- A raise abandoned, up to its report (R100). -/
def Part.reportsAbandon (p : Part) (i : PoleId) (cause : AbandonCause) (lowerTag : Option Word) : Part :=
  ((p.setPole i ((p.poles.get i).abandons cause)).startLowering i .abandonedRaise (lowerTag.getD (p.poles.get i).requestTag)
      (p.poles.get i).zoneId).1.poleReport .raiseAbandoned .warning i (p.poles.get i).requestTag
    (((p.poles.get i).abandons cause).abandonItems cause (retryFollows p.tables.timers ((p.poles.get i).abandons cause)))

theorem abandonRaise_eq (p : Part) (i : PoleId) (cause : AbandonCause) (lowerTag : Option Word) :
    p.abandonRaise i cause lowerTag = (((p.reportsAbandon i cause lowerTag).houseIfClosed i).1,
      { pole := i, entered := .lowering } :: ((p.reportsAbandon i cause lowerTag).houseIfClosed i).2) := by
  have htables : ((p.setPole i ((p.poles.get i).abandons cause)).startLowering i .abandonedRaise (lowerTag.getD (p.poles.get i).requestTag)
      (p.poles.get i).zoneId).1.tables = p.tables :=
    ((startLowering_sets _ _ _ _ _).tables).trans (drivePole_sets _ i i false true).tables
  unfold Part.abandonRaise Part.reportsAbandon
  dsimp only
  rw [← htables]
  rfl

/-- The reports of an abandoned raise. -/
def abandonReports : List ReportKind := .raiseAbandoned :: housingReports

section
variable (p : Part) (i : PoleId) (cause : AbandonCause) (lowerTag : Option Word)

/-- The pole of an abandoned raise (R100, R101, R104). -/
def Part.abandoned : Pole :=
  ((p.poles.get i).abandons cause).lowered p i .abandonedRaise (lowerTag.getD (p.poles.get i).requestTag) (p.poles.get i).zoneId

theorem reportsAbandon_sets : Part.Sets i
    (((p.poles.get i).abandons cause).beginsLowering p .abandonedRaise (lowerTag.getD (p.poles.get i).requestTag) (p.poles.get i).zoneId)
    loweringKinds abandonReports [] ((p.setPole i ((p.poles.get i).abandons cause)).drivePole i false true) (p.reportsAbandon i cause lowerTag) := by
  have hset := setPole_sets p i ((p.poles.get i).abandons cause)
  have hstart := startLowering_sets (p.setPole i ((p.poles.get i).abandons cause)) i .abandonedRaise (lowerTag.getD (p.poles.get i).requestTag)
    (p.poles.get i).zoneId
  rw [hset.record, beginsLowering_congr hset.tables hset.now] at hstart
  exact (hstart.mono (ks' := loweringKinds) (rs' := abandonReports) (os' := [])).report .raiseAbandoned .warning _ _

theorem abandonRaise_sets_driven : Part.Sets i (p.abandoned i cause lowerTag) loweringKinds abandonReports []
    ((p.setPole i ((p.poles.get i).abandons cause)).drivePole i false true) (p.abandonRaise i cause lowerTag).1 := by
  have hset := setPole_sets p i ((p.poles.get i).abandons cause)
  have hdrive := drivePole_sets (p.setPole i ((p.poles.get i).abandons cause)) i i false true
  have hreport := reportsAbandon_sets p i cause lowerTag
  have hhouse := houseIfClosed_sets (p.reportsAbandon i cause lowerTag) i
  rw [hreport.record, hreport.housedClosed, hdrive.housedClosed, hset.housedClosed,
    afterHousing_congr (hreport.tables.trans (hdrive.tables.trans hset.tables)) (hreport.now.trans (hdrive.now.trans hset.now))] at hhouse
  rw [abandonRaise_eq]
  exact hreport.andThen hhouse

theorem abandonRaise_sets : Part.Sets i (p.abandoned i cause lowerTag) loweringKinds abandonReports (poleRoles i) p (p.abandonRaise i cause lowerTag).1 := by
  have hset := (setPole_sets p i ((p.poles.get i).abandons cause)).mono (ks' := loweringKinds) (rs' := abandonReports) (os' := poleRoles i)
  exact (hset.drivePole i false true).andThen (abandonRaise_sets_driven p i cause lowerTag)

theorem abandonRaise_driven : p.driven (p.abandonRaise i cause lowerTag).1 i false true := by
  have hset := setPole_sets p i ((p.poles.get i).abandons cause)
  have hdriven := (abandonRaise_sets_driven p i cause lowerTag).spares.driven
    (drivePole_driven (p.setPole i ((p.poles.get i).abandons cause)) i false true) (drivePole_sets _ i i false true).tables (by simp)
  exact ⟨fun o ho => hdriven.1 o ((hset.spares.outputFor _).trans ho), fun o ho => hdriven.2 o ((hset.spares.outputFor _).trans ho)⟩

theorem abandonRaise_notices : (p.abandonRaise i cause lowerTag).2.map (fun n => (n.pole, n.entered)) = p.loweringNotices i := by
  have hclosed : (p.reportsAbandon i cause lowerTag).housedClosed i = p.housedClosed i :=
    ((reportsAbandon_sets p i cause lowerTag).housedClosed i).trans (((drivePole_sets _ i i false true).housedClosed i).trans
      ((setPole_sets p i _).housedClosed i))
  have hhouse := houseIfClosed_notices (p.reportsAbandon i cause lowerTag) i
  rw [hclosed] at hhouse
  rw [abandonRaise_eq]
  exact congrArg ((i, PoleState.lowering) :: ·) hhouse

/-- RAISE_ABANDONED is told, and a housing in the same event leaves it (R100). -/
theorem abandonRaise_tells : (p.abandonRaise i cause lowerTag).1.mbx.tells .raiseAbandoned .poleMonitor (poleNumber i) (p.poles.get i).requestTag
    (((p.poles.get i).abandons cause).abandonItems cause (retryFollows p.tables.timers ((p.poles.get i).abandons cause))) := by
  rw [abandonRaise_eq]
  exact (houseIfClosed_sets (p.reportsAbandon i cause lowerTag) i).spares.tells (by decide) (report_tells _ _ _ _ _ _ _)

end

/-! ### Beginning to raise (R97) -/

/-- A pole that begins raising (R97). -/
def Pole.beginsRaising (q : Pole) (p : Part) (origin : RaiseOrigin) (tag : Word) (zone : Option TagId) (retry : Nat) (start : Word) : Pole :=
  { q with
    state := .raising, blind := false, holdTimer := .stopped, retryPending := false, abandon := .none,
    raiseTimer := p.startTimer p.tables.timers.raiseTime, settleTimer := .stopped,
    origin := origin, requestTag := tag, zoneId := zone, retryCount := retry, startTime := start }

/-- The outputs of a raise commanded (R97). -/
def Part.drivesRaise (p : Part) (i : PoleId) : Part := (p.drive (.retriever i) false).drive (.raise i) true

theorem drivesRaise_sets (p : Part) (i : PoleId) :
    Part.Sets i (p.poles.get i) [.outputMismatch] [] (poleRoles i) p (p.drivesRaise i) := by
  have hfirst := (drive_sets p (.retriever i) i false).mono (ks' := [.outputMismatch]) (rs' := []) (os' := poleRoles i)
  have hsecond := (drive_sets (p.drive (.retriever i) false) (.raise i) i true).mono (ks' := [.outputMismatch]) (rs' := []) (os' := poleRoles i)
  rw [hfirst.record] at hsecond
  exact hfirst.andThen hsecond (by simp) (by simp) (by simp)

theorem drivesRaise_driven (p : Part) (i : PoleId) : p.driven (p.drivesRaise i) i true false := by
  have hfirst := drive_spares (rs := []) p (.retriever i) false
  have hsecond := drive_spares (rs := []) (p.drive (.retriever i) false) (.raise i) true
  refine ⟨fun o ho => drive_commanded true ((hfirst.outputFor _).trans ho) (by simp) (by simp), fun o ho => ?_⟩
  rw [Part.drivesRaise, hsecond.commanded ((hfirst.outputFor _).trans ho) (by simp), drive_commanded false ho (by simp) (by simp)]

section
variable (p : Part) (i : PoleId) (origin : RaiseOrigin) (tag : Word) (zone : Option TagId) (retry : Nat) (start : Word)

/-- The pole begun raising (R97). -/
def Part.raisingPole : Part := (p.drivesRaise i).setPole i ((p.poles.get i).beginsRaising p origin tag zone retry start)

theorem raisingPole_sets : Part.Sets i ((p.poles.get i).beginsRaising p origin tag zone retry start) [.outputMismatch] [] (poleRoles i) p
    (p.raisingPole i origin tag zone retry start) := (drivesRaise_sets p i).setPole _

theorem beginRaise_eq : p.beginRaise i origin tag zone retry start =
    if (p.poles.get i).sensorAvailable then (p.raisingPole i origin tag zone retry start, [{ pole := i, entered := .raising }])
    else (((p.raisingPole i origin tag zone retry start).abandonRaise i .sensorLost none).1,
      { pole := i, entered := .raising } :: ((p.raisingPole i origin tag zone retry start).abandonRaise i .sensorLost none).2) := by
  have hsets := drivesRaise_sets p i
  have hrec : (p.poles.get i).beginsRaising (p.drivesRaise i) origin tag zone retry start
      = (p.poles.get i).beginsRaising p origin tag zone retry start := by
    simp only [Pole.beginsRaising, hsets.startTimer, hsets.tables]
  rw [Part.raisingPole, ← hrec]
  rfl

theorem beginRaise_sensed (h : (p.poles.get i).sensorAvailable = true) : p.beginRaise i origin tag zone retry start
    = (p.raisingPole i origin tag zone retry start, [{ pole := i, entered := .raising }]) := by rw [beginRaise_eq, if_pos h]

theorem beginRaise_unsensed (h : (p.poles.get i).sensorAvailable = false) : p.beginRaise i origin tag zone retry start
    = (((p.raisingPole i origin tag zone retry start).abandonRaise i .sensorLost none).1,
      { pole := i, entered := .raising } :: ((p.raisingPole i origin tag zone retry start).abandonRaise i .sensorLost none).2) := by
  rw [beginRaise_eq, if_neg (by simp [h])]

/-- A raise that is abandoned at its start (R97). -/
theorem beginRaise_unsensed_sets (h : (p.poles.get i).sensorAvailable = false) : Part.Sets i
    (((p.poles.get i).beginsRaising p origin tag zone retry start |>.abandons .sensorLost).lowered p i .abandonedRaise tag zone)
    loweringKinds abandonReports (poleRoles i) p (p.beginRaise i origin tag zone retry start).1 := by
  have hraise := raisingPole_sets p i origin tag zone retry start
  have habandon := abandonRaise_sets (p.raisingPole i origin tag zone retry start) i .sensorLost none
  rw [Part.abandoned, hraise.record, lowered_congr hraise.tables hraise.now (hraise.frame .contacts (by decide))] at habandon
  rw [beginRaise_unsensed _ _ _ _ _ _ _ h]
  exact (hraise.mono (ks' := loweringKinds) (rs' := abandonReports) (os' := poleRoles i)).andThen habandon

end

end Sys2Proof.Machine

/-! ## The end of a pole event (R53 to R55, R90, R91) -/

namespace Sys2Proof.Machine

/-! ### What follows the operations on the poles -/

/-- What the notices, a dewire notice, the claims and the entry orders may write. -/
def tailPieces : List Piece := linePieces ++ [.keptPoles, .inhibit, .setpoint, .send]

/-- From `p` to `q` the poles' part of an event is over: the line, the zones and the auxiliaries take its notices. -/
structure Part.Tail (p q : Part) : Prop where
  notes : p.GapNotes q
  spares : p.Spares lineKinds [.auxShed] auxRoles q
  frame : p.onlyChanges tailPieces q

theorem Part.Tail.refl (p : Part) : p.Tail p := ⟨.refl p, .refl _ _ _ p, Part.onlyChanges_refl _ p⟩

theorem Part.Tail.andThen {p q r : Part} (h : p.Tail q) (k : q.Tail r) : p.Tail r :=
  ⟨h.notes.andThen k.notes, h.spares.andThen k.spares (fun _ => id) (fun _ => id) (fun _ => id), Part.onlyChanges_trans h.frame k.frame⟩

theorem Part.Tail.now {p q : Part} (h : p.Tail q) : q.now = p.now := h.frame .now (by decide)

theorem Part.Tail.tables {p q : Part} (h : p.Tail q) : q.tables = p.tables := h.spares.tables

/-- A pole off the line keeps its record to the end of the event. -/
theorem Part.Tail.record {p q : Part} (h : p.Tail q) {i : PoleId} {r : Pole} (hr : p.poles.get i = r) (hoff : r.onLine = false) :
    q.poles.get i = r := (h.notes.offLine i (hr ▸ hoff)).trans hr

theorem sendNotices_tail (p : Part) (ns : List PoleNotice) : p.Tail (p.sendNotices ns) :=
  ⟨sendNotices_gapNotes p ns, sendNotices_spares p ns, Part.onlyChanges_mono (sendNotices_pay ns p).1.only (by decide)⟩

theorem updateClaims_tail (p : Part) : p.Tail p.updateClaims :=
  ⟨.of_poles ((updateClaims_drifts p).only .poles (by decide)), (updateClaims_drifts p).only.spares,
    Part.onlyChanges_mono (updateClaims_drifts p).only (by decide)⟩

theorem orderEntries_tail (p o : Part) : p.Tail (p.orderEntries o) :=
  ⟨.of_poles ((orderEntries_moves p o).drifts.only .poles (by decide)), (orderEntries_moves p o).spares,
    Part.onlyChanges_mono (orderEntries_moves p o).drifts.only (by decide)⟩

theorem closePoles_tail (p : Part) (ns : List PoleNotice) : p.Tail (p.closePoles ns) := (sendNotices_tail p ns).andThen (updateClaims_tail _)

/-- The end of an event with its claims and entry orders (R91, R146). -/
def Part.endsEvent (p o : Part) : Part := p.updateClaims.orderEntries o

theorem endsEvent_tail (p o : Part) : p.Tail (p.endsEvent o) := (updateClaims_tail p).andThen (orderEntries_tail _ o)

theorem endsEvent_claims (p o : Part) : (p.endsEvent o).poleClaims := (orderEntries_moves _ o).claims (updateClaims_claims p)

theorem endsEvent_view (p o : Part) : (p.endsEvent o).lineView = p.lineView :=
  (lineView_of_same ((orderEntries_moves _ o).drifts.only .line (by decide))).trans
    (lineView_of_same ((updateClaims_drifts p).only .line (by decide)))

/-! ### Claims at the end of an event (R91) -/

theorem anyPole_of {p : Part} {f : Pole → Bool} (i : PoleId) (h : f (p.poles.get i) = true) : p.anyPole f = true := by
  cases i
  · exact Bool.or_eq_true_iff.mpr (.inl h)
  · exact Bool.or_eq_true_iff.mpr (.inr h)

theorem claims_moving {p : Part} (h : p.poleClaims) (i : PoleId) (hm : (p.poles.get i).movingClaim = true) : p.gov.inhibit.polesMoving = true :=
  h.2.2.mpr (anyPole_of i hm)

theorem claims_dewired {p : Part} (h : p.poleClaims) (i : PoleId) (hd : (p.poles.get i).dewiredClaim = true) : p.gov.inhibit.poleDewired = true :=
  h.2.1.mpr (anyPole_of i hd)

theorem claims_suspect {p : Part} (h : p.poleClaims) (i : PoleId) (hs : (p.poles.get i).suspectClaim = true) : p.gov.inhibit.poleSuspect = true :=
  h.1.mpr (anyPole_of i hs)

/-! ### A pole that has lowered, at the end of its event (R104, R105) -/

theorem housedWith_eq (q : Pole) (p : Part) : q.housedWith p =
    { q with state := .housed, blind := false, lowerTimer := .stopped, holdTimer := p.startTimer 500 } := rfl

/-- What the record of a HOUSED pole has after its housing, whatever the cause of its lowering. -/
theorem afterHousing_fields (q : Pole) (p : Part) :
    (q.afterHousing p).state = .housed ∧ (q.afterHousing p).indicators = q.indicators ∧ (q.afterHousing p).blind = false
      ∧ (q.afterHousing p).confirmTimer = q.confirmTimer ∧ (q.afterHousing p).lowerTimer = .stopped
      ∧ (q.afterHousing p).holdTimer = p.startTimer 500 ∧ (q.afterHousing p).lowering = .none
      ∧ (q.afterHousing p).raiseTimer = q.raiseTimer ∧ (q.afterHousing p).settleTimer = q.settleTimer
      ∧ (q.afterHousing p).elevation = q.elevation ∧ (q.afterHousing p).lateral = q.lateral
      ∧ (q.afterHousing p).abandon = q.abandon ∧ (q.afterHousing p).latch = (q.latch && !q.latchAck) := by
  unfold Pole.afterHousing Pole.endsLowering Pole.checkLatch Pole.decidesRetry Pole.givesUp Pole.housedWith
  split <;> [split; skip] <;> [split; skip; skip] <;> split <;> simp_all

theorem lowered_onLine (q : Pole) (p : Part) (i : PoleId) (cause : LoweringCause) (tag : Word) (zone : Option TagId) :
    (q.lowered p i cause tag zone).onLine = false := by
  unfold Pole.lowered
  split
  · rw [Pole.onLine, (afterHousing_fields _ p).1]
    rfl
  · rfl

section
variable {p q : Part} {i : PoleId}

/-- The words of a lowering, from the record that it leaves (R104, R105). -/
theorem lowers_of {cause : LoweringCause} {tag : Word} {zone : Option TagId} {r : Pole} (hrec : q.poles.get i = r.lowered p i cause tag zone)
    (hdriven : p.driven q i false true) (hclaims : q.poleClaims)
    (htells : p.housedClosed i = true → q.mbx.tells .lowerComplete .poleMonitor (poleNumber i) tag
      (.small (loweringCode cause) :: bigNat 0 :: (if cause = .zone then zoneItem zone else []))) : p.lowers q i cause tag zone := by
  by_cases h : p.housedClosed i = true
  · rw [Pole.lowered, if_pos h] at hrec
    obtain ⟨hstate, hind, hblind, hconfirm, hlower, hhold, hlowering, -⟩ := afterHousing_fields (r.beginsLowering p cause tag zone) p
    rw [← hrec] at hstate hind hblind hconfirm hlower hhold hlowering
    exact ⟨by rw [hstate, if_pos h], hind, hblind, hconfirm, hdriven, fun hn => absurd h (by simp [hn]), fun _ => ⟨hlower, hhold, hlowering, htells h⟩⟩
  · rw [Pole.lowered, if_neg h] at hrec
    have hmoving : q.gov.inhibit.polesMoving = true := claims_moving hclaims i (by rw [hrec]; rfl)
    refine ⟨?_, ?_, ?_, ?_, hdriven, fun _ => ⟨?_, ?_, ?_, ?_, ?_, hmoving⟩, fun hc => absurd hc h⟩ <;> rw [hrec]
    · rw [if_neg h]
      rfl
    all_goals rfl

/-- A retry is pending after the housing of an abandoned raise where R101 says so. -/
theorem afterHousing_retries {q : Pole} (p : Part) (hcause : q.lowering = .abandonedRaise) (hnone : q.retryPending = false) :
    (q.afterHousing p).retryPending = decide ((q.abandon = .timeout ∨ q.abandon = .aboveBand) ∧ q.retryCount < p.tables.timers.raiseRetries) := by
  unfold Pole.afterHousing Pole.endsLowering Pole.checkLatch Pole.decidesRetry Pole.givesUp Pole.housedWith
  rw [if_pos hcause]
  split <;> [split; skip] <;> split <;> simp_all

/-- The words of an abandoned raise, from the record that it leaves (R100). -/
theorem abandons_of {cause : AbandonCause} {lowerTag : Option Word} (hrec : q.poles.get i = p.abandoned i cause lowerTag)
    (hdriven : p.driven q i false true) (hclaims : q.poleClaims)
    (htells : q.mbx.tells .raiseAbandoned .poleMonitor (poleNumber i) (p.poles.get i).requestTag
      (((p.poles.get i).abandons cause).abandonItems cause (retryFollows p.tables.timers ((p.poles.get i).abandons cause)))) :
    p.abandons q i cause := by
  have hretry : retryFollows p.tables.timers ((p.poles.get i).abandons cause) = p.retries i cause := by
    simp only [retryFollows, Part.retries, Pole.abandons, Bool.decide_or, Bool.decide_and, beq_eq_decide]
    congr 1
  have hitems : ((p.poles.get i).abandons cause).abandonItems cause (p.retries i cause)
      = [.small (abandonCode cause), .small ((p.poles.get i).retryCount + 1), bigNat (p.poles.get i).elevation,
          bigInt (p.poles.get i).lateral, .small (flagCode (p.retries i cause))]
        ++ if (p.poles.get i).origin = .zone then zoneItem (p.poles.get i).zoneId else [] := by
    simp only [Pole.abandonItems, beq_iff_eq]
    rfl
  rw [hretry, hitems] at htells
  by_cases h : p.housedClosed i = true
  · rw [Part.abandoned, Pole.lowered, if_pos h] at hrec
    obtain ⟨hstate, -, -, -, -, hhold, -, hraise, hsettle, helevation, hlateral, habandon, -⟩ := afterHousing_fields
      (((p.poles.get i).abandons cause).beginsLowering p .abandonedRaise (lowerTag.getD (p.poles.get i).requestTag) (p.poles.get i).zoneId) p
    have hpending := afterHousing_retries
      (q := ((p.poles.get i).abandons cause).beginsLowering p .abandonedRaise (lowerTag.getD (p.poles.get i).requestTag) (p.poles.get i).zoneId)
      p rfl rfl
    rw [← hrec] at hstate hhold hraise hsettle helevation hlateral habandon hpending
    refine ⟨by rw [hstate, if_pos h], habandon, hraise, hsettle, hdriven, fun hn => absurd h (by simp [hn]), fun _ => ⟨hpending, hhold⟩, ?_⟩
    rw [helevation, hlateral]
    exact htells
  · rw [Part.abandoned, Pole.lowered, if_neg h] at hrec
    have hmoving : q.gov.inhibit.polesMoving = true := claims_moving hclaims i (by rw [hrec]; rfl)
    refine ⟨?_, ?_, ?_, ?_, hdriven, fun _ => ⟨?_, ?_, hmoving⟩, fun hc => absurd hc h, ?_⟩
    · rw [hrec, if_neg h]
      rfl
    case refine_7 =>
      rw [hrec]
      exact htells
    all_goals
      rw [hrec]
      rfl

end

/-! ### LOWER_COMPLETE (R105) -/

/-- The items of LOWER_COMPLETE. -/
def Pole.completeItems (q : Pole) (p : Part) : List Item :=
  .small (loweringCode q.lowering) :: bigNat (p.since q.lowerStart) :: (if q.lowering = .zone then zoneItem q.zoneId else [])

theorem lowerDone_eq {p : Part} {i : PoleId} (h : (p.poles.get i).lowering ≠ .abandonedRaise) : (p.lowerDone i).1 =
    ((p.setPole i ((p.poles.get i).housedWith p)).poleReport .lowerComplete .info i (p.poles.get i).requestTag
      ((p.poles.get i).completeItems p)).modPole i Pole.endsLowering := by
  unfold Part.lowerDone Pole.completeItems
  simp only [beq_iff_eq, if_neg h]
  rfl

theorem lowerDone_tells {p : Part} {i : PoleId} (h : (p.poles.get i).lowering ≠ .abandonedRaise) :
    (p.lowerDone i).1.mbx.tells .lowerComplete .poleMonitor (poleNumber i) (p.poles.get i).requestTag ((p.poles.get i).completeItems p) := by
  rw [lowerDone_eq h]
  exact report_tells (p.setPole i ((p.poles.get i).housedWith p)) _ _ _ _ _ _

/-- LOWER_COMPLETE is told when the lowering ends at once (R105). -/
theorem lower_tells (p : Part) (i : PoleId) {cause : LoweringCause} (hcause : cause ≠ .abandonedRaise) (tag : Word) (zone : Option TagId)
    (h : p.housedClosed i = true) : (p.lower i cause tag zone).1.mbx.tells .lowerComplete .poleMonitor (poleNumber i) tag
      (.small (loweringCode cause) :: bigNat 0 :: (if cause = .zone then zoneItem zone else [])) := by
  have hdrive := drivePole_sets p i i false true
  have hstart := startLowering_sets p i cause tag zone
  have hnow : (p.startLowering i cause tag zone).1.now = p.now := hstart.now.trans hdrive.now
  have hdone := lowerDone_tells (p := (p.startLowering i cause tag zone).1) (i := i) (by rw [hstart.record]; exact hcause)
  have hitems : ((p.poles.get i).beginsLowering p cause tag zone).completeItems (p.startLowering i cause tag zone).1
      = .small (loweringCode cause) :: bigNat 0 :: (if cause = .zone then zoneItem zone else []) := by
    have hsince : (p.startLowering i cause tag zone).1.since p.now = 0 := by simp [Part.since, hnow]
    rw [← hsince]
    rfl
  rw [hstart.record, hitems] at hdone
  have hhoused : (p.lower i cause tag zone).1 = ((p.startLowering i cause tag zone).1.lowerDone i).1 := by
    show ((p.startLowering i cause tag zone).1.houseIfClosed i).1 = _
    rw [Part.houseIfClosed, if_pos ((hstart.housedClosed i).trans ((hdrive.housedClosed i).trans h))]
  rw [hhoused]
  exact hdone

end Sys2Proof.Machine

/-! ## Dewirement and suspicion (R78 to R84) -/

namespace Sys2Proof.Machine

/-! ### Dewirement (R53, R83, R84) -/

/-- A pole confirmed DEWIRED (R83). -/
def Pole.dewired (q : Pole) (p : Part) : Pole :=
  { q with
    state := .dewired, confirmTimer := .stopped, indicators := {}, seen := {}, gapSpent := false, blind := false,
    lowerTimer := p.startTimer p.tables.timers.lowerTime, latch := true, latchAck := false }

/-- The items of POLE_DEWIRED (R83). -/
def Pole.dewiredItems (q : Pole) (basis : DewireBasis) (expected : Bool) : List Item :=
  [.small (indicatorsCode q.indicators), .small basis.ctorIdx, bigNat q.elevation, bigInt q.lateral, .small (flagCode q.blind),
    .small (flagCode expected)]

/-- The raise of POLE_DEWIRED (R83). -/
def Part.dewiredRaise (p : Part) (i : PoleId) (basis : DewireBasis) (tag : Word) : Raise :=
  { kind := .poleDewired, source := poleSource i .none, items := (p.poles.get i).dewiredItems basis p.zones.effective.gapExpected, tag := tag }

section
variable (p : Part) (i : PoleId) (basis : DewireBasis) (tag : Word)

/-- A dewirement up to its outputs. -/
def Part.drivesDewired : Part := (p.setPole i ((p.poles.get i).dewired p)).drivePole i false true

/-- A dewirement up to the end notice of a blind pole (R82, R83). -/
def Part.reportsDewired : Part :=
  if (p.poles.get i).blind then ((p.drivesDewired i).raise (p.dewiredRaise i basis tag)).endFault .poleSensor (poleSource i .blind)
  else (p.drivesDewired i).raise (p.dewiredRaise i basis tag)

theorem drivesDewired_sets : Part.Sets i ((p.poles.get i).dewired p) [.outputMismatch] [] (poleRoles i) p (p.drivesDewired i) :=
  ((setPole_sets p i _).mono (ks' := [.outputMismatch]) (rs' := []) (os' := poleRoles i)).drivePole i false true

theorem confirmDewired_eq : p.confirmDewired i basis tag = (((p.reportsDewired i basis tag).dewireNotice.mateLower i).1).sendNotices
    ({ pole := i, entered := .dewired } :: ((p.reportsDewired i basis tag).dewireNotice.mateLower i).2) := by
  have hzones : (p.drivesDewired i).zones = p.zones := (drivesDewired_sets p i).frame .zones (by decide)
  have hraise : (p.drivesDewired i).raise (p.dewiredRaise i basis tag) = (p.drivesDewired i).poleRaise .poleDewired i .none tag
      ((p.poles.get i).dewiredItems basis (p.drivesDewired i).zones.effective.gapExpected) := by
    rw [hzones]
    rfl
  unfold Part.reportsDewired
  rw [hraise]
  rfl

end

/-! ### The line of a confirmed dewirement (R53) -/

theorem dewireNotice_tail (p : Part) : p.Tail p.dewireNotice := by
  have hstops := drifts_lineOwn p { p.line with gapTimer := .stopped, restoreTimer := .stopped, highTimer := .stopped }
  refine ⟨?_, ?_, Part.onlyChanges_mono (dewireNotice_turns p).drifts.only (by decide)⟩
  · exact (Part.GapNotes.of_poles (p := p) (hstops.only .poles (by decide))).andThen (lineMove_gapNotes _ .lost _)
  · exact (hstops.only.spares (ks := lineKinds) (rs := [.auxShed]) (os := auxRoles)).andThen (lineMove_spares_any _ .lost _) (by simp [lineKinds])

theorem dewireNotice_lost (p : Part) : p.dewireNotice.line.state = .lost := lineMove_state _ .lost _

/-- The line stays LOST while a pole's copy is DEWIRED and its mate lowers (R53, R54). -/
theorem afterNotices_dewired (c : PerPole PoleState) (i : PoleId) (ns : List (PoleId × PoleState))
    (h : ns ∈ [[], [(mateOf i, .lowering)], [(mateOf i, .lowering), (mateOf i, .housed)]]) :
    (afterNotices (.lost, c) ((i, .dewired) :: ns)).1 = .lost := by
  simp only [List.mem_cons, List.not_mem_nil, or_false] at h
  obtain rfl | rfl | rfl := h <;> cases i <;> simp [afterNotices, lineAfterNotice, PerPole.set, mateOf]

/-! ### Mate lowering (R84) -/

theorem mateOf_ne (i : PoleId) : mateOf i ≠ i := by cases i <;> decide

theorem ne_mateOf (i : PoleId) : i ≠ mateOf i := (mateOf_ne i).symm

theorem mateLower_lowers {p : Part} {i : PoleId} (h : (p.tables.poleLimits.get i).mateLowering = true)
    (hon : (p.poles.get (mateOf i)).onLine = true) : p.mateLower i = p.lower (mateOf i) .mateDewired 0 none := by
  rw [Part.mateLower, h, hon]
  rfl

theorem mateLower_idle {p : Part} {i : PoleId} (h : ¬ ((p.tables.poleLimits.get i).mateLowering = true ∧ (p.poles.get (mateOf i)).onLine = true)) :
    p.mateLower i = (p, []) := by
  rw [Part.mateLower]
  exact if_neg (by simpa using h)

/-- A mate's lowering writes nothing of the dewired pole. -/
theorem mateLower_sets (p : Part) (i : PoleId) :
    ∃ r, Part.Sets (mateOf i) r loweringKinds housingReports (poleRoles (mateOf i)) p (p.mateLower i).1 := by
  by_cases h : (p.tables.poleLimits.get i).mateLowering = true ∧ (p.poles.get (mateOf i)).onLine = true
  · rw [mateLower_lowers h.1 h.2]
    exact ⟨_, lower_sets p (mateOf i) .mateDewired 0 none⟩
  · rw [mateLower_idle h]
    exact ⟨_, .refl _ _ _ p _⟩

theorem mateLower_notices (p : Part) (i : PoleId) : (p.mateLower i).2.map (fun n => (n.pole, n.entered))
    ∈ [[], [(mateOf i, .lowering)], [(mateOf i, .lowering), (mateOf i, .housed)]] := by
  by_cases h : (p.tables.poleLimits.get i).mateLowering = true ∧ (p.poles.get (mateOf i)).onLine = true
  · rw [mateLower_lowers h.1 h.2, lower_notices, Part.loweringNotices]
    split <;> simp
  · rw [mateLower_idle h]
    simp

/-! ### A confirmed dewirement at the end of its event (R83, R84) -/

section
variable (p : Part) (i : PoleId) (basis : DewireBasis) (tag : Word)

/-- The kinds whose records a dewirement may write. -/
def dewireKinds : List FaultKind := [.outputMismatch] ++ [.poleDewired, .poleSensor]

theorem reportsDewired_sets_driven : Part.Sets i ((p.poles.get i).dewired p) [.poleDewired, .poleSensor]
    [.fault .poleDewired, .collectorChanged] [] (p.drivesDewired i) (p.reportsDewired i basis tag) := by
  have hraise := poleRaise_sets (p.drivesDewired i) .poleDewired i i .none tag ((p.poles.get i).dewiredItems basis p.zones.effective.gapExpected)
  rw [(drivesDewired_sets p i).record] at hraise
  exact (hraise.mono (ks' := [.poleDewired, .poleSensor]) (rs' := [.fault .poleDewired, .collectorChanged]) (os' := [])).endFaultIf
    (p.poles.get i).blind .poleSensor (poleSource i .blind)

theorem reportsDewired_sets : Part.Sets i ((p.poles.get i).dewired p) dewireKinds [.fault .poleDewired, .collectorChanged] (poleRoles i) p
    (p.reportsDewired i basis tag) :=
  ((drivesDewired_sets p i).mono (ks' := dewireKinds) (rs' := [.fault .poleDewired, .collectorChanged]) (os' := poleRoles i)).andThen
    (reportsDewired_sets_driven p i basis tag)

theorem reportsDewired_driven : p.driven (p.reportsDewired i basis tag) i false true := by
  have hset := setPole_sets p i ((p.poles.get i).dewired p)
  have hdriven := (reportsDewired_sets_driven p i basis tag).spares.driven
    (drivePole_driven (p.setPole i ((p.poles.get i).dewired p)) i false true) (drivePole_sets _ i i false true).tables (by simp)
  exact ⟨fun o ho => hdriven.1 o ((hset.spares.outputFor _).trans ho), fun o ho => hdriven.2 o ((hset.spares.outputFor _).trans ho)⟩

theorem reportsDewired_activated : p.activated (p.reportsDewired i basis tag) .poleDewired (aboutPole i .none)
    ((p.poles.get i).dewiredItems basis p.zones.effective.gapExpected) := by
  have hraised : (p.drivesDewired i).activated ((p.drivesDewired i).raise (p.dewiredRaise i basis tag)) .poleDewired (aboutPole i .none)
      ((p.poles.get i).dewiredItems basis p.zones.effective.gapExpected) :=
    activated_of_raise (p.drivesDewired i) (p.dewiredRaise i basis tag) (show FaultKind.poleDewired ≠ .alarmOutput by decide)
  have hend := endFaultIf_sets ((p.drivesDewired i).raise (p.dewiredRaise i basis tag)) (p.poles.get i).blind .poleSensor (poleSource i .blind) i
  exact Part.Spares.activated hraised (drivesDewired_sets p i).spares hend.spares hend.now

theorem confirmDewired_poles : (p.confirmDewired i basis tag).poles.get i = (p.poles.get i).dewired p := by
  obtain ⟨r, hmate⟩ := mateLower_sets (p.reportsDewired i basis tag).dewireNotice i
  have hreport := (reportsDewired_sets p i basis tag).record
  have hdewire := (dewireNotice_tail (p.reportsDewired i basis tag)).record hreport rfl
  rw [confirmDewired_eq]
  exact (sendNotices_tail _ _).record ((hmate.other i (ne_mateOf i)).trans hdewire) rfl

/-- What follows the reports of a dewirement. -/
theorem confirmDewired_after : (p.reportsDewired i basis tag).Spares (lineKinds ++ loweringKinds) (.auxShed :: housingReports)
    (auxRoles ++ poleRoles (mateOf i)) (p.confirmDewired i basis tag) := by
  obtain ⟨r, hmate⟩ := mateLower_sets (p.reportsDewired i basis tag).dewireNotice i
  have hdewire := (dewireNotice_tail (p.reportsDewired i basis tag)).spares
  rw [confirmDewired_eq]
  refine ((hdewire.mono (ks' := lineKinds ++ loweringKinds) (rs' := .auxShed :: housingReports) (os' := auxRoles ++ poleRoles (mateOf i))
    (fun _ h => List.mem_append_left _ h) (by decide) fun _ h => List.mem_append_left _ h).andThen hmate.spares
    (fun _ h => List.mem_append_right _ h) (by decide) fun _ h => List.mem_append_right _ h).andThen (sendNotices_tail _ _).spares
    (fun _ h => List.mem_append_left _ h) (by decide) fun _ h => List.mem_append_left _ h

theorem confirmDewired_frame : p.onlyChanges (settingPieces ++ tailPieces) (p.confirmDewired i basis tag) := by
  obtain ⟨r, hmate⟩ := mateLower_sets (p.reportsDewired i basis tag).dewireNotice i
  rw [confirmDewired_eq]
  exact (((Part.onlyChanges_mono (reportsDewired_sets p i basis tag).frame (by decide)).andThen
    (dewireNotice_tail (p.reportsDewired i basis tag)).frame).andThen hmate.frame).andThen (sendNotices_tail _ _).frame

theorem confirmDewired_driven : p.driven (p.confirmDewired i basis tag) i false true :=
  (confirmDewired_after p i basis tag).driven (reportsDewired_driven p i basis tag) (reportsDewired_sets p i basis tag).tables
    (by cases i <;> decide)

theorem confirmDewired_lost : (p.confirmDewired i basis tag).line.state = .lost := by
  obtain ⟨r, hmate⟩ := mateLower_sets (p.reportsDewired i basis tag).dewireNotice i
  have hlost : ((p.reportsDewired i basis tag).dewireNotice.mateLower i).1.line.state = .lost :=
    (congrArg Prod.fst hmate.lineView).trans (dewireNotice_lost _)
  have hview := sendNotices_view ((p.reportsDewired i basis tag).dewireNotice.mateLower i).1
    ({ pole := i, entered := .dewired } :: ((p.reportsDewired i basis tag).dewireNotice.mateLower i).2)
  rw [← confirmDewired_eq, List.map_cons, Part.lineView, Part.lineView, hlost] at hview
  exact (congrArg Prod.fst hview).trans (afterNotices_dewired _ i _ (mateLower_notices _ i))

theorem confirmDewired_activated : p.activated (p.confirmDewired i basis tag) .poleDewired (aboutPole i .none)
    ((p.poles.get i).dewiredItems basis p.zones.effective.gapExpected) := by
  have hafter := confirmDewired_after p i basis tag
  have hnow : (p.confirmDewired i basis tag).now = (p.reportsDewired i basis tag).now :=
    (confirmDewired_frame p i basis tag .now (by decide)).trans (reportsDewired_sets p i basis tag).now.symm
  exact Part.Spares.activated (reportsDewired_activated p i basis tag) (Part.Spares.refl [] [] [] p) hafter hnow

/-- The part at the mate's lowering (R84). -/
theorem reportsDewired_notice_now : (p.reportsDewired i basis tag).dewireNotice.now = p.now :=
  (dewireNotice_tail _).now.trans (reportsDewired_sets p i basis tag).now

theorem reportsDewired_notice_tables : (p.reportsDewired i basis tag).dewireNotice.tables = p.tables :=
  (dewireNotice_tail _).tables.trans (reportsDewired_sets p i basis tag).tables

theorem reportsDewired_notice_contacts : (p.reportsDewired i basis tag).dewireNotice.contacts = p.contacts :=
  (show _ = _ from (dewireNotice_tail _).frame .contacts (by decide)).trans ((reportsDewired_sets p i basis tag).frame .contacts (by decide))

end

section
variable {p q : Part} {i : PoleId} {basis : DewireBasis} {tag : Word}

/-- The mate lowers where POLE_LIMITS says so (R84). -/
theorem confirmDewired_mate (h : (p.confirmDewired i basis tag).Tail q) (hclaims : q.poleClaims)
    (hmate : (p.tables.poleLimits.get i).mateLowering = true) (hon : (p.poles.get (mateOf i)).onLine = true) :
    p.lowers q (mateOf i) .mateDewired 0 none := by
  have hnow := reportsDewired_notice_now p i basis tag
  have htables := reportsDewired_notice_tables p i basis tag
  have hcontacts := reportsDewired_notice_contacts p i basis tag
  have hstate : ((p.reportsDewired i basis tag).dewireNotice.poles.get (mateOf i)).state = (p.poles.get (mateOf i)).state :=
    ((dewireNotice_tail _).notes.state _).trans (congrArg Pole.state ((reportsDewired_sets p i basis tag).other _ (mateOf_ne i)))
  have hlower := mateLower_lowers (p := (p.reportsDewired i basis tag).dewireNotice) (i := i) (by rw [htables]; exact hmate)
    (by rw [Pole.onLine, hstate]; exact hon)
  have hconfirm := confirmDewired_eq p i basis tag
  rw [hlower] at hconfirm
  have hend : (((p.reportsDewired i basis tag).dewireNotice).lower (mateOf i) .mateDewired 0 none).1.Tail q := by
    rw [hconfirm] at h
    exact (sendNotices_tail _ _).andThen h
  generalize (p.reportsDewired i basis tag).dewireNotice = m at hnow htables hcontacts hend
  have hclosed : m.housedClosed (mateOf i) = p.housedClosed (mateOf i) := housedClosed_congr hcontacts htables _
  refine lowers_of (r := m.poles.get (mateOf i)) ?_ ?_ hclaims fun hc => ?_
  · rw [← lowered_congr htables hnow hcontacts]
    exact hend.record (lower_sets m (mateOf i) .mateDewired 0 none).record (lowered_onLine _ _ _ _ _ _)
  · have hmd := hend.spares.driven (lower_driven m (mateOf i) .mateDewired 0 none) (lower_sets m (mateOf i) .mateDewired 0 none).tables
      (by cases i <;> decide)
    exact ⟨fun o ho => hmd.1 o ((outputFor_congr htables _).trans ho), fun o ho => hmd.2 o ((outputFor_congr htables _).trans ho)⟩
  · exact hend.spares.tells (by decide) (lower_tells m (mateOf i) (by decide) 0 none (hclosed.trans hc))

/-- The end of an event with a dewirement, or another end that keeps what the dewirement did. -/
theorem dewires_of_tail (h : (p.confirmDewired i basis tag).Tail q) (hlost : q.line.state = .lost) (hclaims : q.poleClaims) :
    p.dewires q i basis (p.poles.get i).indicators (p.poles.get i).blind := by
  have hrec : q.poles.get i = (p.poles.get i).dewired p := h.record (confirmDewired_poles p i basis tag) rfl
  have hdriven : p.driven q i false true := h.spares.driven (confirmDewired_driven p i basis tag)
    ((confirmDewired_frame p i basis tag) .tables (by decide)) (by cases i <;> decide)
  have hactivated : p.activated q .poleDewired (aboutPole i .none) ((p.poles.get i).dewiredItems basis p.zones.effective.gapExpected) :=
    Part.Spares.activated (confirmDewired_activated p i basis tag) (Part.Spares.refl [] [] [] p) h.spares h.now
  have hclaimed : q.gov.inhibit.poleDewired = true := claims_dewired hclaims i (by rw [hrec]; rfl)
  refine ⟨?_, ?_, ?_, ?_, ?_, ?_, ?_, hdriven, hlost, hclaimed, ?_, fun hmate hon => ?_⟩
  case refine_8 =>
    rw [hrec]
    exact hactivated
  case refine_9 => exact confirmDewired_mate h hclaims hmate hon
  all_goals
    rw [hrec]
    rfl

/-- A confirmed dewirement at the end of its event (R83, R84, R91). -/
theorem confirmDewired_dewires (p : Part) (i : PoleId) (basis : DewireBasis) (tag : Word) (o : Part) :
    p.dewires ((p.confirmDewired i basis tag).endsEvent o) i basis (p.poles.get i).indicators (p.poles.get i).blind :=
  dewires_of_tail (endsEvent_tail _ o) ((congrArg Prod.fst (endsEvent_view _ o)).trans (confirmDewired_lost p i basis tag)) (endsEvent_claims _ o)

end

/-! ### Notices of poles that are not down-bound (R54, R76) -/

theorem sendNotice_poles {n : PoleNotice} (h : n.entered.downBound = false) (p : Part) : (p.sendNotice n).poles = p.poles :=
  (show _ = _ from sendNotice_only p n .poles (by decide)).trans (linePoleNotice_poles h p n.pole)

theorem endsEvent_poles (p o : Part) : (p.endsEvent o).poles = p.poles :=
  (show _ = _ from (orderEntries_moves _ o).drifts.only .poles (by decide)).trans ((updateClaims_drifts p).only .poles (by decide))

/-- The event's one notice and its end (R90, R91). -/
theorem closePoles_ordered (p o : Part) (ns : List PoleNotice) : (p.closePoles ns).orderEntries o = (p.sendNotices ns).endsEvent o := rfl

/-- An event with one notice of a pole that is not down-bound keeps the poles' records. -/
theorem closeOne_poles {n : PoleNotice} (h : n.entered.downBound = false) (p o : Part) :
    ((p.closePoles [n]).orderEntries o).poles = p.poles := by
  rw [closePoles_ordered, endsEvent_poles]
  exact sendNotice_poles h p

theorem close_view (p o : Part) (ns : List PoleNotice) : ((p.closePoles ns).orderEntries o).lineView
    = afterNotices p.lineView (ns.map fun n => (n.pole, n.entered)) := by
  rw [closePoles_ordered, endsEvent_view, sendNotices_view]

theorem close_tail (p o : Part) (ns : List PoleNotice) : p.Tail ((p.closePoles ns).orderEntries o) :=
  (sendNotices_tail p ns).andThen (endsEvent_tail _ o)

theorem close_claims (p o : Part) (ns : List PoleNotice) : ((p.closePoles ns).orderEntries o).poleClaims := endsEvent_claims _ o

end Sys2Proof.Machine

/-! ## The confirm window (R80, R83) -/

namespace Sys2Proof.Machine

/-- A pole whose confirm timer is stopped. -/
def Part.stopsConfirm (p : Part) (i : PoleId) : Part := p.modPole i (fun q => { q with confirmTimer := .stopped })

/-- A pole that is no more SUSPECT (R80). -/
def Pole.cleared (q : Pole) : Pole :=
  { q with state := .onWire, confirmTimer := .stopped, seen := {}, gapSpent := q.indicators.lineGap || q.gapSpent }

/-- A cleared suspicion up to its report. -/
def Part.reportsCleared (p : Part) (i : PoleId) : Part :=
  (p.setPole i (p.poles.get i).cleared).poleReport .suspectCleared .info i 0
    [.small (indicatorsCode (p.poles.get i).seen), .small (flagCode (p.poles.get i).blind)]

theorem clearSuspicion_eq (p : Part) (i : PoleId) :
    p.clearSuspicion i = (p.reportsCleared i).closePoles [{ pole := i, entered := .onWire }] := rfl

theorem reportsCleared_sets (p : Part) (i : PoleId) : Part.Sets i (p.poles.get i).cleared [] [.suspectCleared] [] p (p.reportsCleared i) :=
  ((setPole_sets p i _).mono (ks' := []) (rs' := [.suspectCleared]) (os' := [])).report .suspectCleared .info _ _

theorem confirmExpired_angle {p : Part} {i : PoleId} (hs : (p.poles.get i).state = .suspect) (ha : (p.poles.get i).indicators.angle = true) :
    p.confirmExpired i = ((p.stopsConfirm i).confirmDewired i .confirmExpiry 0).updateClaims := by
  unfold Part.confirmExpired
  exact (if_pos (by simp [Part.modPole, hs])).trans (if_pos (by simp [Part.modPole, ha]))

theorem confirmExpired_clear {p : Part} {i : PoleId} (hs : (p.poles.get i).state = .suspect) (ha : (p.poles.get i).indicators.angle = false) :
    p.confirmExpired i = (p.stopsConfirm i).clearSuspicion i := by
  unfold Part.confirmExpired
  exact (if_pos (by simp [Part.modPole, hs])).trans (if_neg (by simp [Part.modPole, ha]))

theorem confirmExpired_other {p : Part} {i : PoleId} (hs : (p.poles.get i).state ≠ .suspect) : p.confirmExpired i = p.stopsConfirm i := by
  unfold Part.confirmExpired
  exact if_neg (by simp [Part.modPole, hs])

/-- Setting a pole enters no auxiliary in the restart queue. -/
theorem setPole_ordered (p : Part) (i : PoleId) (r : Pole) (o : Part) (h : o.aux = p.aux) : (p.setPole i r).orderEntries o = p.setPole i r :=
  orderEntries_idle fun a => by rw [show o.auxRec a = p.auxRec a from congrArg (·.recs.get a) h]; rfl

/-- Settles O52, which holds: a dewirement is `confirmDewired_dewires` read from the stopped confirm timer; a cleared suspicion sets one
record, and its one notice reaches no pole. -/
theorem confirmWindowDecides : Obligations.ConfirmWindowDecides := by
  unfold Obligations.ConfirmWindowDecides
  intro s i e r hr hrun
  have hexec := exec_of_expiry_ordered (exec_confirmTimerExpiry i s) (hr ▸ hrun)
  have hframe : (s.part.clockTo e).onlyChanges polePieces (((s.part.clockTo e).confirmExpired i).orderEntries s.part) :=
    orderEntries_of_lineFrame (confirmExpired_moves _ i).drifts.only
  obtain ⟨t, ht⟩ := clockTo_eq s.part e
  rw [ht] at hexec hframe ⊢
  have hstart : (s.part.atTime t).poles.get i = r := hr
  have hstop : Part.Sets i { r with confirmTimer := .stopped } [] [] [] (s.part.atTime t) ((s.part.atTime t).stopsConfirm i) := by
    rw [← hstart]
    exact setPole_sets (s.part.atTime t) i _
  by_cases hs : r.state = .suspect
  · by_cases ha : r.indicators.angle = true
    · have hend : ((s.part.atTime t).confirmExpired i).orderEntries s.part
          = (((s.part.atTime t).stopsConfirm i).confirmDewired i .confirmExpiry 0).endsEvent s.part :=
        congrArg (·.orderEntries s.part) (confirmExpired_angle (hstart ▸ hs) (hstart ▸ ha))
      have hdewires := confirmDewired_dewires ((s.part.atTime t).stopsConfirm i) i .confirmExpiry 0 s.part
      rw [hend] at hexec hframe
      rw [hstop.record] at hdewires
      obtain ⟨hstate, hconfirm, -, -, hlower, hlatch, hack, -, hlost, hclaim, hactivated, -⟩ := hdewires
      refine ⟨_, hexec, hconfirm, fun _ _ => ⟨hstate, hlatch, hack, ?_, hclaim, hlost, _, hactivated⟩,
        fun _ hn => absurd ha (by simp [hn]), fun hn => absurd hs hn, hframe⟩
      exact hlower
    · have hangle : r.indicators.angle = false := by simpa using ha
      have hend : ((s.part.atTime t).confirmExpired i).orderEntries s.part
          = (((s.part.atTime t).stopsConfirm i).reportsCleared i |>.closePoles [{ pole := i, entered := .onWire }]).orderEntries s.part :=
        congrArg (·.orderEntries s.part) ((confirmExpired_clear (hstart ▸ hs) (hstart ▸ hangle)).trans (clearSuspicion_eq _ i))
      have hcleared := reportsCleared_sets ((s.part.atTime t).stopsConfirm i) i
      have hpoles := closeOne_poles (n := { pole := i, entered := .onWire }) rfl (((s.part.atTime t).stopsConfirm i).reportsCleared i) s.part
      have hview := close_view (((s.part.atTime t).stopsConfirm i).reportsCleared i) s.part [{ pole := i, entered := .onWire }]
      have hclaims := close_claims (((s.part.atTime t).stopsConfirm i).reportsCleared i) s.part [{ pole := i, entered := .onWire }]
      have hrec := hcleared.record
      rw [hstop.record] at hrec
      rw [← hpoles, ← hend] at hrec
      rw [← hend] at hview hclaims
      rw [hcleared.lineView, hstop.lineView] at hview
      exact ⟨_, hexec, by rw [hrec]; rfl, fun _ h => absurd h ha,
        fun _ _ => ⟨by rw [hrec]; rfl, by rw [hrec]; rfl, by rw [hrec]; rfl, hview, hclaims.1⟩, fun hn => absurd hs hn, hframe⟩
  · have hend : ((s.part.atTime t).confirmExpired i).orderEntries s.part = (s.part.atTime t).setPole i { r with confirmTimer := .stopped } := by
      rw [confirmExpired_other (hstart ▸ hs), Part.stopsConfirm, Part.modPole, hstart]
      exact setPole_ordered _ _ _ _ rfl
    rw [hend] at hexec hframe
    exact ⟨_, hexec, congrArg Pole.confirmTimer (setPole_sets (s.part.atTime t) i _).record, fun h => absurd h hs, fun h => absurd h hs, fun _ => rfl, hframe⟩

end Sys2Proof.Machine

/-! ## Resolution (R71 to R73, R77) -/

namespace Sys2Proof.Machine

/-! ### What a set calls for (R78, R79) -/

theorem finding_off {q : Pole} (h : q.onLine = false) : q.finding = .nothing := by rw [Pole.finding, if_neg (by simp [h])]

theorem actOnSet_nothing {p : Part} {i : PoleId} (h : (p.poles.get i).finding = .nothing) (tag : Word) : p.actOnSet i tag = p := by
  rw [Part.actOnSet, h]

/-- The set of a pole off the line calls for nothing. -/
theorem actOnSet_off {p : Part} {i : PoleId} (h : (p.poles.get i).onLine = false) (tag : Word) : p.actOnSet i tag = p :=
  actOnSet_nothing (finding_off h) tag

/-! ### A resolution (R72) -/

/-- The record that a resolution gives a pole (R72, R77). -/
def Pole.resolvedAs (q : Pole) (s : PoleState) (trip : Bool) : Pole :=
  if s = .onWire then { q with resolving := false, resolutionTimer := .stopped }.enterWire trip
  else { q with resolving := false, resolutionTimer := .stopped, state := s, indicators := {}, seen := {}, gapSpent := false, blind := false }.checkLatch

/-- The tag of a resolution is used (R72). -/
def Pole.untagged (q : Pole) : Pole := { q with resolveTag := 0 }

/-- A resolution up to its report. -/
def Part.reportsResolved (p : Part) (i : PoleId) (s : PoleState) (basis : Nat) : Part :=
  ((p.setPole i ((p.poles.get i).resolvedAs s (p.tripClosed i))).poleReport .poleResolved .info i (p.poles.get i).resolveTag
    [.small (poleStateCode s), .small basis]).modPole i Pole.untagged

theorem resolvedAs_tag (q : Pole) (s : PoleState) (trip : Bool) : (q.resolvedAs s trip).resolveTag = q.resolveTag := by
  unfold Pole.resolvedAs Pole.checkLatch
  split <;> [skip; split] <;> rfl

section
variable (p : Part) (i : PoleId) (s : PoleState) (basis : Nat) (tag : Word)

theorem resolved_eq : p.resolved i s basis tag
    = (((p.reportsResolved i s basis).sendNotices [{ pole := i, entered := s }]).actOnSet i tag).updateClaims := by
  have htag : ((p.setPole i ((p.poles.get i).resolvedAs s (p.tripClosed i))).poles.get i).resolveTag = (p.poles.get i).resolveTag := by
    rw [(setPole_sets p i _).record, resolvedAs_tag]
  have hrec : ∀ q : Pole, (if s == .onWire then { q with resolving := false, resolutionTimer := .stopped }.enterWire (p.tripClosed i)
      else { q with resolving := false, resolutionTimer := .stopped, state := s, indicators := {}, seen := {}, gapSpent := false,
                    blind := false }.checkLatch) = q.resolvedAs s (p.tripClosed i) := fun q => by
    simp only [Pole.resolvedAs, beq_iff_eq]
  unfold Part.resolved Part.reportsResolved
  rw [← htag, ← hrec]
  rfl

theorem reportsResolved_sets : Part.Sets i ((p.poles.get i).resolvedAs s (p.tripClosed i)).untagged [] [.poleResolved] [] p
    (p.reportsResolved i s basis) :=
  (((setPole_sets p i _).mono (ks' := []) (rs' := [.poleResolved]) (os' := [])).report .poleResolved .info _ _).modPole Pole.untagged

theorem reportsResolved_tells : (p.reportsResolved i s basis).mbx.tells .poleResolved .poleMonitor (poleNumber i) (p.poles.get i).resolveTag
    [.small (poleStateCode s), .small basis] :=
  report_tells (p.setPole i ((p.poles.get i).resolvedAs s (p.tripClosed i))) _ _ _ _ _ _

end

/-- The fields of a pole that resolves off the wire. -/
theorem resolvedAs_off {s : PoleState} (h : s ≠ .onWire) (q : Pole) (trip : Bool) :
    (q.resolvedAs s trip).untagged.state = s ∧ (q.resolvedAs s trip).untagged.resolving = false
      ∧ (q.resolvedAs s trip).untagged.resolutionTimer = .stopped ∧ (q.resolvedAs s trip).untagged.fault = q.fault := by
  unfold Pole.resolvedAs Pole.untagged Pole.checkLatch
  rw [if_neg h]
  split <;> simp

theorem resolvedAs_onLine {s : PoleState} (h : s ≠ .onWire) (hs : s ≠ .suspect) (q : Pole) (trip : Bool) :
    (q.resolvedAs s trip).untagged.onLine = false := by
  rw [Pole.onLine, (resolvedAs_off h q trip).1]
  simp [h, hs]

/-- A resolution off the wire has one notice, and the set calls for nothing. -/
theorem resolved_off {s : PoleState} (h : s ≠ .onWire) (hs : s ≠ .suspect) (p : Part) (i : PoleId) (basis : Nat) (tag : Word) :
    p.resolved i s basis tag = (p.reportsResolved i s basis).closePoles [{ pole := i, entered := s }] := by
  have hrec := (sendNotices_tail (p.reportsResolved i s basis) [{ pole := i, entered := s }]).record
    (reportsResolved_sets p i s basis).record (resolvedAs_onLine h hs _ _)
  rw [resolved_eq, actOnSet_off (by rw [hrec]; exact resolvedAs_onLine h hs _ _)]
  rfl

/-! ### The resolution window (R72) -/

/-- A pole whose resolution timer is stopped. -/
def Part.stopsResolution (p : Part) (i : PoleId) : Part := p.modPole i (fun q => { q with resolutionTimer := .stopped })

theorem stopsResolution_sets (p : Part) (i : PoleId) :
    Part.Sets i { p.poles.get i with resolutionTimer := .stopped } [] [] [] p (p.stopsResolution i) := setPole_sets p i _

/-- A pole FAULTED for want of a resolution. -/
def Pole.unresolved (q : Pole) : Pole := { q with fault := some .unresolved }

/-- A free value drawn (assumption log 6). -/
def Part.drawsFree (p : Part) : Part := { p with freeUses := p.freeUses + 1 }

/-- The outputs of an unresolved pole. -/
def Part.drivesUnresolved (p : Part) (i : PoleId) : Part := (p.drawsFree.setPole i (p.poles.get i).unresolved).drivePole i false false

/-- The raise of an unresolved pole (R72). -/
def Part.unresolvedRaise (p : Part) (i : PoleId) : Raise :=
  { kind := .poleSensor, source := poleSource i .unresolved, tag := 0
    items := [.small (sourceCauseCode .unresolved), .small (levelCode ((p.drivesUnresolved i).roleLevel (housedRole i))),
      .small (flagCode (p.poles.get i).sensorAvailable), bigNat (p.poles.get i).elevation, bigInt (p.poles.get i).lateral] }

/-- A pole unresolved up to its raise. -/
def Part.failsResolution (p : Part) (i : PoleId) : Part := (p.drivesUnresolved i).raise (p.unresolvedRaise i)

theorem drawsFree_sets (p : Part) (i : PoleId) : Part.Sets i (p.poles.get i) [] [] [] p p.drawsFree := by
  have hframe : p.onlyChanges [.free] p.drawsFree := fun x hx => by cases x <;> simp_all [Part.same, Part.drawsFree]
  exact (hframe.spares (ks := []) (rs := []) (os := [])).sets hframe i

theorem drivesUnresolved_sets (p : Part) (i : PoleId) :
    Part.Sets i (p.poles.get i).unresolved [.outputMismatch] [] (poleRoles i) p (p.drivesUnresolved i) :=
  (((drawsFree_sets p i).mono (ks' := [.outputMismatch]) (rs' := []) (os' := poleRoles i)).setPole _).drivePole i false false

/-- The kinds and reports of an unresolved pole's raise. -/
def sensorReports : List ReportKind := [.fault .poleSensor] ++ [.collectorChanged]

theorem failsResolution_sets (p : Part) (i : PoleId) :
    Part.Sets i (p.poles.get i).unresolved [.outputMismatch, .poleSensor] sensorReports (poleRoles i) p (p.failsResolution i) :=
  ((drivesUnresolved_sets p i).mono (ks' := [.outputMismatch, .poleSensor]) (rs' := sensorReports) (os' := poleRoles i)).raise .poleSensor i
    .unresolved 0 _

theorem failsResolution_activated (p : Part) (i : PoleId) : p.activated (p.failsResolution i) .poleSensor (poleSource i .unresolved)
    (p.unresolvedRaise i).items := by
  have hraised : (p.drivesUnresolved i).activated (p.failsResolution i) .poleSensor (poleSource i .unresolved) (p.unresolvedRaise i).items :=
    activated_of_raise (p.drivesUnresolved i) (p.unresolvedRaise i) (show FaultKind.poleSensor ≠ .alarmOutput by decide)
  exact Part.Spares.activated hraised (drivesUnresolved_sets p i).spares (Part.Spares.refl [] [] [] _) rfl

theorem resolutionExpired_idle {p : Part} {i : PoleId} (h : (p.poles.get i).resolving = false) : p.resolutionExpired i = p.stopsResolution i := by
  unfold Part.resolutionExpired
  exact if_pos (by simp [Part.modPole, h])

theorem resolutionExpired_housed {p : Part} {i : PoleId} (h : (p.poles.get i).resolving = true) (hc : p.housedClosed i = true)
    (hs : (p.poles.get i).sensorAvailable = false) : p.resolutionExpired i = (p.stopsResolution i).resolved i .housed 1 0 := by
  have hc' : (p.stopsResolution i).housedClosed i = true := ((setPole_sets p i _).housedClosed i).trans hc
  unfold Part.resolutionExpired
  refine (if_neg (by simp [Part.modPole, h])).trans (if_pos ?_)
  simp [Part.modPole, hs]
  exact hc'

theorem resolutionExpired_faulted {p : Part} {i : PoleId} (h : (p.poles.get i).resolving = true)
    (hn : p.housedClosed i = false ∨ (p.poles.get i).sensorAvailable = true) :
    ∃ b, p.resolutionExpired i = ((p.stopsResolution i).failsResolution i).resolved i .faulted b 0 := by
  have hc' : (p.stopsResolution i).housedClosed i = p.housedClosed i := (setPole_sets p i _).housedClosed i
  refine ⟨Config.freeNat (p.stopsResolution i).freeUses % 2, ?_⟩
  unfold Part.resolutionExpired
  refine (if_neg (by simp [Part.modPole, h])).trans ((if_neg ?_).trans ?_)
  · show ¬ ((p.stopsResolution i).housedClosed i && !((p.stopsResolution i).poles.get i).sensorAvailable) = true
    have hsensor : ((p.stopsResolution i).poles.get i).sensorAvailable = (p.poles.get i).sensorAvailable :=
      (congrArg Pole.sensorAvailable (stopsResolution_sets p i).record).trans rfl
    rw [hc', hsensor]
    obtain hn | hn := hn <;> simp [hn]
  · rfl

/-- The end of an event with a resolution off the wire (R72, R54, R91). -/
theorem resolved_end {s : PoleState} (h : s ≠ .onWire) (hs : s ≠ .suspect) (p : Part) (i : PoleId) (basis : Nat) (tag : Word) (o : Part) :
    (((p.resolved i s basis tag).orderEntries o).poles.get i = ((p.poles.get i).resolvedAs s (p.tripClosed i)).untagged)
      ∧ ((p.resolved i s basis tag).orderEntries o).lineView = afterNotices p.lineView [(i, s)]
      ∧ ((p.resolved i s basis tag).orderEntries o).poleClaims
      ∧ (p.reportsResolved i s basis).Tail ((p.resolved i s basis tag).orderEntries o) := by
  have hset := reportsResolved_sets p i s basis
  have htail := close_tail (p.reportsResolved i s basis) o [{ pole := i, entered := s }]
  have hview := close_view (p.reportsResolved i s basis) o [{ pole := i, entered := s }]
  rw [hset.lineView] at hview
  rw [resolved_off h hs]
  exact ⟨htail.record hset.record (resolvedAs_onLine h hs _ _), hview, close_claims _ _ _, htail⟩

/-- Settles O53, which holds: either way the pole resolves off the wire, and `resolved_end` gives its record, the line and the claims. -/
theorem resolutionWindowSettles : Obligations.ResolutionWindowSettles := by
  unfold Obligations.ResolutionWindowSettles
  intro s i e r hr hrun
  have hexec := exec_of_expiry_ordered (exec_resolutionTimerExpiry i s) (hr ▸ hrun)
  have hframe : (s.part.clockTo e).onlyChanges poleFreePieces (((s.part.clockTo e).resolutionExpired i).orderEntries s.part) :=
    orderEntries_of_lineFrame (resolutionExpired_moves _ i).drifts.only
  obtain ⟨t, ht⟩ := clockTo_eq s.part e
  rw [ht] at hexec hframe ⊢
  have hstart : (s.part.atTime t).poles.get i = r := hr
  have hstop := stopsResolution_sets (s.part.atTime t) i
  rw [hstart] at hstop
  by_cases hres : r.resolving = true
  · by_cases hsettled : s.part.housedClosed i = true ∧ r.sensorAvailable = false
    · obtain ⟨hclosed, hsensor⟩ := hsettled
      rw [resolutionExpired_housed (p := s.part.atTime t) (i := i) (by rw [hstart]; exact hres) hclosed (by rw [hstart]; exact hsensor)] at hexec hframe
      obtain ⟨hrec, hview, -, -⟩ := resolved_end (s := .housed) (by decide) (by decide) ((s.part.atTime t).stopsResolution i) i 1 0 s.part
      obtain ⟨hstate, hresolving, htimer, -⟩ := resolvedAs_off (s := .housed) (by decide)
        (((s.part.atTime t).stopsResolution i).poles.get i) (((s.part.atTime t).stopsResolution i).tripClosed i)
      rw [← hrec] at hstate hresolving htimer
      rw [hstop.lineView] at hview
      refine ⟨_, hexec, htimer, fun h => absurd hres (by simp [h]), fun _ _ _ => ⟨hstate, hresolving, hview⟩, fun _ h => ?_, hframe⟩
      obtain h | h := h
      · exact absurd hclosed (by simp [h])
      · exact absurd hsensor (by simp [h])
    · have hn : s.part.housedClosed i = false ∨ r.sensorAvailable = true := by
        by_contra hc
        exact hsettled (by simpa using hc)
      obtain ⟨b, hfault⟩ := resolutionExpired_faulted (p := s.part.atTime t) (i := i) (by rw [hstart]; exact hres)
        (by rw [hstart]; exact hn)
      rw [hfault] at hexec hframe
      obtain ⟨hrec, hview, hclaims, htail⟩ := resolved_end (s := .faulted) (by decide) (by decide)
        (((s.part.atTime t).stopsResolution i).failsResolution i) i b 0 s.part
      obtain ⟨hstate, hresolving, htimer, hcause⟩ := resolvedAs_off (s := .faulted) (by decide)
        ((((s.part.atTime t).stopsResolution i).failsResolution i).poles.get i)
        ((((s.part.atTime t).stopsResolution i).failsResolution i).tripClosed i)
      have hfails := failsResolution_sets ((s.part.atTime t).stopsResolution i) i
      have hunresolved : ((((s.part.atTime t).stopsResolution i).failsResolution i).poles.get i).fault = some .unresolved := by
        rw [hfails.record]
        rfl
      rw [hunresolved] at hcause
      rw [← hrec] at hstate hresolving htimer hcause
      rw [hfails.lineView, hstop.lineView] at hview
      have hsuspect := claims_suspect hclaims i (by rw [Pole.suspectClaim, hstate]; simp)
      have hreport := reportsResolved_sets (((s.part.atTime t).stopsResolution i).failsResolution i) i .faulted b
      have hafter := hreport.spares.mono (ks' := lineKinds) (rs' := [.auxShed, .poleResolved]) (os' := auxRoles) |>.andThen htail.spares
        (fun _ => id) (by decide) (fun _ => id)
      have hactivated := Part.Spares.activated (failsResolution_activated ((s.part.atTime t).stopsResolution i) i) hstop.spares hafter
        (htail.now.trans hreport.now)
      exact ⟨_, hexec, htimer, fun h => absurd hres (by simp [h]), fun _ hc hs => absurd ⟨hc, hs⟩ hsettled,
        fun _ _ => ⟨hstate, hresolving, hcause, hsuspect, hview, _, hactivated⟩, hframe⟩
  · have hidle : r.resolving = false := by simpa using hres
    have hend : ((s.part.atTime t).resolutionExpired i).orderEntries s.part = (s.part.atTime t).setPole i { r with resolutionTimer := .stopped } := by
      rw [resolutionExpired_idle (by rw [hstart]; exact hidle), Part.stopsResolution, Part.modPole, hstart]
      exact setPole_ordered _ _ _ _ rfl
    rw [hend] at hexec hframe
    exact ⟨_, hexec, congrArg Pole.resolutionTimer (setPole_sets (s.part.atTime t) i _).record, fun _ => rfl, fun h => absurd h hres,
      fun h => absurd h hres, hframe⟩

end Sys2Proof.Machine

/-! ## The retriever hold and the lower time (R86, R87, R101, R105) -/

namespace Sys2Proof.Machine

/-! ### The hold (R86, R101) -/

/-- A pole whose hold timer is stopped. -/
def Pole.unheld (q : Pole) : Pole := { q with holdTimer := .stopped }

/-- The end of the hold: the retriever goes OFF. -/
def Part.endsHold (p : Part) (i : PoleId) : Part := (p.modPole i Pole.unheld).drive (.retriever i) false

theorem endsHold_sets (p : Part) (i : PoleId) :
    Part.Sets i (p.poles.get i).unheld [.outputMismatch] [] [.retriever i] p (p.endsHold i) := by
  have hset : Part.Sets i (p.poles.get i).unheld [.outputMismatch] [] [.retriever i] p (p.modPole i Pole.unheld) :=
    (setPole_sets p i _).mono (by simp) (by simp) (by simp)
  have hdrive := drive_sets (p.modPole i Pole.unheld) (.retriever i) i false
  rw [hset.record] at hdrive
  exact hset.andThen hdrive

theorem endsHold_retriever (p : Part) (i : PoleId) (o : OutputNo) (h : p.outputFor (.retriever i) = some o) :
    ((p.endsHold i).output o).commanded = false :=
  drive_commanded (p := p.modPole i Pole.unheld) false h (by simp) (by simp)

theorem raiseBarred_congr {p q : Part} {i : PoleId} (hmode : q.mode = p.mode) (hzones : q.zones = p.zones) (htables : q.tables = p.tables)
    (hstate : (q.poles.get i).state = (p.poles.get i).state) (hlatch : (q.poles.get i).latch = (p.poles.get i).latch) :
    q.raiseBarred [i] = p.raiseBarred [i] := by
  have hfirst : ∀ f : Pole → Bool, f (q.poles.get i) = f (p.poles.get i) → q.firstPole [i] f = p.firstPole [i] f := fun f h => by
    simp only [Part.firstPole, List.find?_cons, List.find?_nil, h]
  rw [Part.raiseBarred, Part.raiseBarred, Part.stateOrLatch, Part.stateOrLatch, hfirst _ (by rw [hstate]), hfirst _ hlatch, Part.modePasses,
    Part.modePasses, Part.speedPasses, Part.speedPasses, hmode, hzones, htables]

theorem endsHold_barred (p : Part) (i : PoleId) : (p.endsHold i).raiseBarred [i] = p.raiseBarred [i] := by
  have hset := endsHold_sets p i
  exact raiseBarred_congr (hset.frame .mode (by decide)) (hset.frame .zones (by decide)) hset.tables (by rw [hset.record]; rfl)
    (by rw [hset.record]; rfl)

/-- What the pole monitor does when the hold is over: a raise, a failure, or nothing. -/
def Part.afterHold (p : Part) (i : PoleId) : Part :=
  if (p.poles.get i).retryPending then
    match p.raiseBarred [i] with
    | none =>
      (p.beginRaise i (p.poles.get i).origin (p.poles.get i).requestTag (p.poles.get i).zoneId ((p.poles.get i).retryCount + 1)
        (p.poles.get i).startTime).1.closePoles
        (p.beginRaise i (p.poles.get i).origin (p.poles.get i).requestTag (p.poles.get i).zoneId ((p.poles.get i).retryCount + 1)
        (p.poles.get i).startTime).2
    | some x => p.raiseFailed i (some x.code)
  else p

theorem holdExpired_eq (p : Part) (i : PoleId) : p.holdExpired i = (p.endsHold i).afterHold i := rfl


/-- A retry of a pole: its raise begins again, with the next count (R101). -/
def Part.retriesRaise (p : Part) (i : PoleId) : Part × List PoleNotice :=
  p.beginRaise i (p.poles.get i).origin (p.poles.get i).requestTag (p.poles.get i).zoneId ((p.poles.get i).retryCount + 1) (p.poles.get i).startTime

theorem afterHold_idle {p : Part} {i : PoleId} (h : (p.poles.get i).retryPending = false) : p.afterHold i = p := if_neg (by simp [h])

theorem afterHold_retries {p : Part} {i : PoleId} (h : (p.poles.get i).retryPending = true) (hb : p.raiseBarred [i] = none) :
    p.afterHold i = (p.retriesRaise i).1.closePoles (p.retriesRaise i).2 := by
  rw [Part.afterHold, if_pos h, hb]
  rfl

theorem afterHold_fails {p : Part} {i : PoleId} {x : Precondition} (h : (p.poles.get i).retryPending = true) (hb : p.raiseBarred [i] = some x) :
    p.afterHold i = p.raiseFailed i (some x.code) := by rw [Part.afterHold, if_pos h, hb]

/-- The raise that RAISE_FAILED is (R101). -/
def Part.failedRaise (p : Part) (i : PoleId) (pre : Option Nat) : Raise :=
  { kind := .raiseFailed, source := poleSource i .none, tag := (p.poles.get i).requestTag
    items := .small (abandonCode (p.poles.get i).abandon) :: .small ((p.poles.get i).retryCount + 1) :: .small (originCode (p.poles.get i).origin)
      :: zoneItem (p.poles.get i).zoneId ++ (pre.map Item.small).toList }

theorem raiseFailed_eq (p : Part) (i : PoleId) (pre : Option Nat) :
    p.raiseFailed i pre = (p.raise (p.failedRaise i pre)).modPole i Pole.givesUp := rfl

theorem raiseFailed_activated (p : Part) (i : PoleId) (pre : Option Nat) :
    p.activated (p.raiseFailed i pre) .raiseFailed (aboutPole i .none) (p.failedRaise i pre).items := by
  have hraised : p.activated (p.raise (p.failedRaise i pre)) .raiseFailed (aboutPole i .none) (p.failedRaise i pre).items :=
    activated_of_raise p (p.failedRaise i pre) (show FaultKind.raiseFailed ≠ .alarmOutput by decide)
  have hset := setPole_sets (p.raise (p.failedRaise i pre)) i (((p.raise (p.failedRaise i pre)).poles.get i).givesUp)
  exact Part.Spares.activated hraised (Part.Spares.refl [] [] [] p) hset.spares hset.now

/-! ### The lower time (R87, R105) -/

/-- A pole that is stuck (R87). -/
def Pole.stuck (q : Pole) : Pole :=
  { q with state := .faulted, blind := false, fault := some .poleStuck, lowerTimer := .stopped, retryCount := 0, lowering := .none }

/-- The raise of POLE_STUCK (R87, R105). -/
def Pole.stuckRaise (q : Pole) (i : PoleId) : Raise :=
  { kind := .poleStuck, source := poleSource i .none, tag := if q.state == .lowering then q.requestTag else 0
    items := [.small (poleStateCode q.state), bigNat q.elevation, .small (flagCode q.sensorAvailable)] }

/-- A stuck pole with its outputs OFF. -/
def Part.sticks (p : Part) (i : PoleId) : Part := (p.drivePole i false false).setPole i (p.poles.get i).stuck

/-- A stuck pole up to the end of POLE_DEWIRED (R87). -/
def Part.reportsStuck (p : Part) (i : PoleId) : Part :=
  if (p.poles.get i).state == .dewired then ((p.sticks i).raise ((p.poles.get i).stuckRaise i)).endFault .poleDewired (poleSource i .none)
  else (p.sticks i).raise ((p.poles.get i).stuckRaise i)

theorem poleStuck_eq (p : Part) (i : PoleId) : p.poleStuck i = (p.reportsStuck i).closePoles [{ pole := i, entered := .faulted }] := rfl

theorem sticks_sets (p : Part) (i : PoleId) : Part.Sets i (p.poles.get i).stuck [.outputMismatch] [] (poleRoles i) p (p.sticks i) :=
  (drivePole_sets p i i false false).setPole _

/-- The kinds whose records a stuck pole may write. -/
def stuckKinds : List FaultKind := [.poleStuck] ++ [.poleDewired]

theorem reportsStuck_sets (p : Part) (i : PoleId) : Part.Sets i (p.poles.get i).stuck stuckKinds [.fault .poleStuck, .collectorChanged] []
    (p.sticks i) (p.reportsStuck i) := by
  have hraise := poleRaise_sets (p.sticks i) .poleStuck i i .none ((p.poles.get i).stuckRaise i).tag ((p.poles.get i).stuckRaise i).items
  rw [(sticks_sets p i).record] at hraise
  exact (hraise.mono (ks' := stuckKinds) (rs' := [.fault .poleStuck, .collectorChanged]) (os' := [])).endFaultIf
    ((p.poles.get i).state == .dewired) .poleDewired (poleSource i .none)

theorem reportsStuck_driven (p : Part) (i : PoleId) : p.driven (p.reportsStuck i) i false false :=
  (((setPole_sets (p.drivePole i false false) i (p.poles.get i).stuck).spares.mono (ks' := stuckKinds) (rs' := [.fault .poleStuck, .collectorChanged])
    (os' := [])).andThen (reportsStuck_sets p i).spares).driven (drivePole_driven p i false false) (drivePole_sets p i i false false).tables (by simp)

theorem reportsStuck_activated (p : Part) (i : PoleId) : p.activated (p.reportsStuck i) .poleStuck (aboutPole i .none)
    ((p.poles.get i).stuckRaise i).items := by
  have hraised : (p.sticks i).activated ((p.sticks i).raise ((p.poles.get i).stuckRaise i)) .poleStuck (aboutPole i .none)
      ((p.poles.get i).stuckRaise i).items :=
    activated_of_raise (p.sticks i) ((p.poles.get i).stuckRaise i) (show FaultKind.poleStuck ≠ .alarmOutput by decide)
  have hend := endFaultIf_sets ((p.sticks i).raise ((p.poles.get i).stuckRaise i)) ((p.poles.get i).state == .dewired) .poleDewired
    (poleSource i .none) i
  exact Part.Spares.activated hraised (sticks_sets p i).spares hend.spares hend.now

theorem lowerExpired_stuck {p : Part} {i : PoleId} (h : (p.poles.get i).state = .dewired ∨ (p.poles.get i).state = .lowering) :
    p.lowerExpired i = p.poleStuck i := by
  rw [Part.lowerExpired]
  exact if_pos (by simpa using h)

theorem lowerExpired_other {p : Part} {i : PoleId} (hd : (p.poles.get i).state ≠ .dewired) (hl : (p.poles.get i).state ≠ .lowering) :
    p.lowerExpired i = p.setPole i { p.poles.get i with lowerTimer := .stopped } := by
  rw [Part.lowerExpired]
  exact if_neg (by simp [hd, hl])

/-! ### The ends of their events -/

theorem raisingPole_driven (p : Part) (i : PoleId) (origin : RaiseOrigin) (tag : Word) (zone : Option TagId) (retry : Nat) (start : Word) :
    p.driven (p.raisingPole i origin tag zone retry start) i true false :=
  (setPole_sets (p.drivesRaise i) i _).spares.driven (drivesRaise_driven p i) (drivesRaise_sets p i).tables (by simp)

theorem beginRaise_unsensed_notices (p : Part) (i : PoleId) (origin : RaiseOrigin) (tag : Word) (zone : Option TagId) (retry : Nat) (start : Word)
    (h : (p.poles.get i).sensorAvailable = false) : (p.beginRaise i origin tag zone retry start).2.map (fun n => (n.pole, n.entered))
      = (i, .raising) :: p.loweringNotices i := by
  have hset := raisingPole_sets p i origin tag zone retry start
  have hnotices := abandonRaise_notices (p.raisingPole i origin tag zone retry start) i .sensorLost none
  have hsame : (p.raisingPole i origin tag zone retry start).loweringNotices i = p.loweringNotices i := by
    rw [Part.loweringNotices, Part.loweringNotices, hset.housedClosed]
  rw [beginRaise_unsensed _ _ _ _ _ _ _ h, List.map_cons, hnotices, hsame]

/-- A stuck pole at the end of its event (R87, R105). -/
theorem poleStuck_end (p : Part) (i : PoleId) (o : Part) :
    (((p.poleStuck i).orderEntries o).poles.get i = (p.poles.get i).stuck) ∧ p.driven ((p.poleStuck i).orderEntries o) i false false
      ∧ p.activated ((p.poleStuck i).orderEntries o) .poleStuck (aboutPole i .none) ((p.poles.get i).stuckRaise i).items
      ∧ ((p.poleStuck i).orderEntries o).lineView = afterNotices p.lineView [(i, .faulted)] ∧ ((p.poleStuck i).orderEntries o).poleClaims := by
  have hsticks := sticks_sets p i
  have hset := reportsStuck_sets p i
  have htail := close_tail (p.reportsStuck i) o [{ pole := i, entered := .faulted }]
  have hview := close_view (p.reportsStuck i) o [{ pole := i, entered := .faulted }]
  rw [hset.lineView, hsticks.lineView] at hview
  rw [poleStuck_eq]
  refine ⟨htail.record hset.record rfl, ?_, ?_, hview, close_claims _ _ _⟩
  · exact htail.spares.driven (reportsStuck_driven p i) (hset.tables.trans hsticks.tables) (by cases i <;> decide)
  · exact Part.Spares.activated (reportsStuck_activated p i) (Part.Spares.refl [] [] [] p) htail.spares htail.now

/-- A retry whose pole gives sensor data (R101). -/
theorem retriesRaise_sensed {p : Part} {i : PoleId} (h : (p.poles.get i).sensorAvailable = true) (o : Part) :
    (((p.retriesRaise i).1.closePoles (p.retriesRaise i).2).orderEntries o).poles.get i
        = (p.poles.get i).beginsRaising p (p.poles.get i).origin (p.poles.get i).requestTag (p.poles.get i).zoneId
          ((p.poles.get i).retryCount + 1) (p.poles.get i).startTime
      ∧ p.driven (((p.retriesRaise i).1.closePoles (p.retriesRaise i).2).orderEntries o) i true false
      ∧ (((p.retriesRaise i).1.closePoles (p.retriesRaise i).2).orderEntries o).lineView = afterNotices p.lineView [(i, .raising)]
      ∧ (((p.retriesRaise i).1.closePoles (p.retriesRaise i).2).orderEntries o).poleClaims := by
  have hset := raisingPole_sets p i (p.poles.get i).origin (p.poles.get i).requestTag (p.poles.get i).zoneId ((p.poles.get i).retryCount + 1)
    (p.poles.get i).startTime
  have hdriven := raisingPole_driven p i (p.poles.get i).origin (p.poles.get i).requestTag (p.poles.get i).zoneId ((p.poles.get i).retryCount + 1)
    (p.poles.get i).startTime
  rw [Part.retriesRaise, beginRaise_sensed _ _ _ _ _ _ _ h]
  generalize p.raisingPole i (p.poles.get i).origin (p.poles.get i).requestTag (p.poles.get i).zoneId ((p.poles.get i).retryCount + 1)
    (p.poles.get i).startTime = m at hset hdriven
  have htail := close_tail m o [{ pole := i, entered := .raising }]
  have hview := close_view m o [{ pole := i, entered := .raising }]
  rw [hset.lineView] at hview
  exact ⟨htail.record hset.record rfl, htail.spares.driven hdriven hset.tables (by cases i <;> decide), hview, close_claims _ _ _⟩

/-- A retry whose pole gives no sensor data is abandoned at once (R97, R101). -/
theorem retriesRaise_unsensed {p : Part} {i : PoleId} (h : (p.poles.get i).sensorAvailable = false) (o : Part) :
    (((p.retriesRaise i).1.closePoles (p.retriesRaise i).2).orderEntries o).poles.get i
        = (((p.poles.get i).beginsRaising p (p.poles.get i).origin (p.poles.get i).requestTag (p.poles.get i).zoneId
          ((p.poles.get i).retryCount + 1) (p.poles.get i).startTime).abandons .sensorLost).lowered p i .abandonedRaise
            (p.poles.get i).requestTag (p.poles.get i).zoneId
      ∧ (((p.retriesRaise i).1.closePoles (p.retriesRaise i).2).orderEntries o).lineView
          = afterNotices p.lineView ((i, .raising) :: p.loweringNotices i) := by
  have hset := beginRaise_unsensed_sets p i (p.poles.get i).origin (p.poles.get i).requestTag (p.poles.get i).zoneId
    ((p.poles.get i).retryCount + 1) (p.poles.get i).startTime h
  have hnotices := beginRaise_unsensed_notices p i (p.poles.get i).origin (p.poles.get i).requestTag (p.poles.get i).zoneId
    ((p.poles.get i).retryCount + 1) (p.poles.get i).startTime h
  rw [← Part.retriesRaise] at hset hnotices
  generalize p.retriesRaise i = m at hset hnotices
  have hview := close_view m.1 o m.2
  rw [hset.lineView, hnotices] at hview
  exact ⟨(close_tail m.1 o m.2).record hset.record (lowered_onLine _ _ _ _ _ _), hview⟩

/-- A retry abandoned for want of sensor data is not followed by another (R100). -/
theorem lowered_abandoned {q : Pole} {p : Part} {i : PoleId} {tag : Word} {zone : Option TagId} (h : q.abandon = .sensorLost) :
    (q.lowered p i .abandonedRaise tag zone).state = (if p.housedClosed i then .housed else .lowering)
      ∧ (q.lowered p i .abandonedRaise tag zone).abandon = .sensorLost ∧ (q.lowered p i .abandonedRaise tag zone).retryPending = false := by
  unfold Pole.lowered
  split
  · obtain ⟨hstate, -, -, -, -, -, -, -, -, -, -, habandon, -⟩ := afterHousing_fields (q.beginsLowering p .abandonedRaise tag zone) p
    have hretries := afterHousing_retries (q := q.beginsLowering p .abandonedRaise tag zone) p rfl rfl
    refine ⟨hstate, habandon.trans h, hretries.trans ?_⟩
    have : (q.beginsLowering p .abandonedRaise tag zone).abandon = .sensorLost := h
    simp [this]
  · exact ⟨rfl, h, rfl⟩

/-- The end of an event that only sets a pole and commands outputs. -/
theorem Part.Sets.ordered {i : PoleId} {r : Pole} {ks : List FaultKind} {rs : List ReportKind} {os : List DriveRole} {p q : Part}
    (h : Part.Sets i r ks rs os p q) (o : Part) (ho : o.aux = p.aux) : q.orderEntries o = q :=
  orderEntries_idle fun a => congrArg AuxRec.entryOrder (congrArg (·.recs.get a) ((show q.aux = p.aux from h.frame .aux (by decide)).trans ho.symm))

/-- Settles O54, which holds. At the end of a hold there is no retry, one that begins, one that begins and is abandoned, or one whose
preconditions fail; the lower time ends with a stuck pole or stops its timer. -/
theorem holdAndLowerTimers : Obligations.HoldAndLowerTimers := by
  unfold Obligations.HoldAndLowerTimers
  intro s i e r hr
  refine ⟨fun hrun => ?_, fun hrun => ?_⟩
  · have hexec := exec_of_expiry_ordered (exec_retrieverHoldExpiry i s) (hr ▸ hrun)
    have hframe : (s.part.clockTo e).onlyChanges polePieces (((s.part.clockTo e).holdExpired i).orderEntries s.part) :=
      orderEntries_of_lineFrame (holdExpired_moves _ i).drifts.only
    obtain ⟨t, ht⟩ := clockTo_eq s.part e
    rw [ht] at hexec hframe ⊢
    have hends := endsHold_sets (s.part.atTime t) i
    have hstart : (s.part.atTime t).poles.get i = r := hr
    rw [hstart] at hends
    have hbarred : ((s.part.atTime t).endsHold i).raiseBarred [i] = s.part.raiseBarred [i] := endsHold_barred (s.part.atTime t) i
    have hretriever : ∀ o, s.part.outputFor (.retriever i) = some o → (((s.part.atTime t).endsHold i).output o).commanded = false :=
      endsHold_retriever (s.part.atTime t) i
    have hclosed : ((s.part.atTime t).endsHold i).housedClosed i = s.part.housedClosed i := hends.housedClosed i
    have hlowering : ((s.part.atTime t).endsHold i).loweringNotices i = s.part.loweringNotices i := by
      rw [Part.loweringNotices, hclosed, Part.loweringNotices]
    have hview : ((s.part.atTime t).endsHold i).lineView = s.part.lineView := hends.lineView
    have hfor : ∀ x, ((s.part.atTime t).endsHold i).outputFor x = s.part.outputFor x := outputFor_congr hends.tables
    have hstartTimer := hends.startTimer s.part.tables.timers.raiseTime
    have htables := hends.tables
    have haux : s.part.aux = ((s.part.atTime t).endsHold i).aux := (hends.frame .aux (by decide)).symm
    rw [holdExpired_eq] at hexec hframe
    generalize (s.part.atTime t).endsHold i = m at *
    have hrec := hends.record
    cases hpending : r.retryPending with
    | false =>
      have hend : (m.afterHold i).orderEntries s.part = m := by
        rw [afterHold_idle (by rw [hrec]; exact hpending)]
        exact hends.ordered s.part rfl
      rw [hend] at hexec hframe
      exact ⟨m, hexec, fun _ => ⟨by rw [hrec]; rfl, hretriever⟩, fun _ => by rw [hrec]; rfl, fun h => absurd h (by simp),
        fun h => absurd h (by simp), fun x h => absurd h (by simp), hframe⟩
    | true =>
      have hpend : (m.poles.get i).retryPending = true := by
        rw [hrec]
        exact hpending
      cases hbar : s.part.raiseBarred [i] with
      | some x =>
        have hfailed := raiseFailed_sets m i (some x.code)
        have hactivated := raiseFailed_activated m i (some x.code)
        have hend : (m.afterHold i).orderEntries s.part = m.raiseFailed i (some x.code) := by
          rw [afterHold_fails hpend (hbarred.trans hbar)]
          exact hfailed.ordered s.part haux
        rw [hend] at hexec hframe
        rw [hrec] at hfailed
        have hraised := Part.Spares.activated hactivated hends.spares (Part.Spares.refl [] [] [] _) rfl
        refine ⟨_, hexec, fun _ => ⟨by rw [hfailed.record]; rfl, fun o ho => ?_⟩, fun h => absurd h (by simp), fun _ h => absurd h (by simp),
          fun _ h => absurd h (by simp), fun y _ hy => ⟨by rw [hfailed.record]; rfl, by rw [hfailed.record]; rfl,
            by rw [hfailed.record]; rfl, _, hraised⟩, hframe⟩
        rw [hfailed.spares.commanded ((hfor _).trans ho) (by simp), hretriever o ho]
      | none =>
        rw [afterHold_retries hpend (hbarred.trans hbar)] at hexec hframe
        cases hsensor : r.sensorAvailable with
        | true =>
          obtain ⟨hraise, hdriven, hline, hclaims⟩ := retriesRaise_sensed (p := m) (i := i) (by rw [hrec]; exact hsensor) s.part
          rw [hrec] at hraise
          rw [hview] at hline
          have hmoving := claims_moving hclaims i (by rw [hraise]; rfl)
          refine ⟨_, hexec, fun _ => ⟨by rw [hraise]; rfl, fun o ho => hdriven.2 o ((hfor _).trans ho)⟩, fun h => absurd h (by simp),
            fun _ _ _ => ⟨by rw [hraise]; rfl, by rw [hraise]; rfl, by rw [hraise]; rfl, by rw [hraise]; rfl, ?_, hmoving, hline⟩,
            fun _ _ h => absurd h (by simp), fun _ _ h => absurd h (by simp), hframe⟩
          rw [hraise]
          exact (congrArg (fun x : Tables => m.startTimer x.timers.raiseTime) htables).trans hstartTimer
        | false =>
          obtain ⟨hraise, hline⟩ := retriesRaise_unsensed (p := m) (i := i) (by rw [hrec]; exact hsensor) s.part
          obtain ⟨hstate, habandon, hnone⟩ := lowered_abandoned (q := (((m.poles.get i).beginsRaising m (m.poles.get i).origin
            (m.poles.get i).requestTag (m.poles.get i).zoneId ((m.poles.get i).retryCount + 1) (m.poles.get i).startTime).abandons .sensorLost))
            (p := m) (i := i) (tag := (m.poles.get i).requestTag) (zone := (m.poles.get i).zoneId) rfl
          rw [← hraise] at hstate habandon hnone
          rw [hview, hlowering] at hline
          rw [hclosed] at hstate
          exact ⟨_, hexec, fun h => absurd h (by simp), fun h => absurd h (by simp), fun _ _ h => absurd h (by simp),
            fun _ _ _ => ⟨hstate, habandon, hnone, hline⟩, fun _ _ h => absurd h (by simp), hframe⟩
  · have hexec := exec_of_expiry_ordered (exec_lowerTimerExpiry i s) (hr ▸ hrun)
    have hframe : (s.part.clockTo e).onlyChanges polePieces (((s.part.clockTo e).lowerExpired i).orderEntries s.part) :=
      orderEntries_of_lineFrame (lowerExpired_moves _ i).drifts.only
    obtain ⟨t, ht⟩ := clockTo_eq s.part e
    rw [ht] at hexec hframe ⊢
    have hstart : (s.part.atTime t).poles.get i = r := hr
    by_cases hs : r.state = .dewired ∨ r.state = .lowering
    · rw [lowerExpired_stuck (p := s.part.atTime t) (i := i) (by rw [hstart]; exact hs)] at hexec hframe
      obtain ⟨hrec, hdriven, hactivated, hview, hclaims⟩ := poleStuck_end (s.part.atTime t) i s.part
      rw [hstart] at hrec hactivated
      have hsuspect := claims_suspect hclaims i (by simp [hrec, Pole.suspectClaim, Pole.stuck])
      exact ⟨_, hexec, by rw [hrec]; rfl, fun _ => ⟨by rw [hrec]; rfl, by rw [hrec]; rfl, by rw [hrec]; rfl, hsuspect, hview, hactivated,
        fun o ho => ho.elim (hdriven.1 o) (hdriven.2 o)⟩, fun hd hl => absurd hs (by simp [hd, hl]), hframe⟩
    · have hd : r.state ≠ .dewired := fun h => hs (.inl h)
      have hl : r.state ≠ .lowering := fun h => hs (.inr h)
      have hend : ((s.part.atTime t).lowerExpired i).orderEntries s.part = (s.part.atTime t).setPole i { r with lowerTimer := .stopped } := by
        rw [lowerExpired_other (p := s.part.atTime t) (i := i) (by rw [hstart]; exact hd) (by rw [hstart]; exact hl), hstart]
        exact setPole_ordered _ _ _ _ rfl
      rw [hend] at hexec hframe
      exact ⟨_, hexec, congrArg Pole.lowerTimer (setPole_sets (s.part.atTime t) i _).record, fun h => absurd h hs, fun _ _ => rfl, hframe⟩

end Sys2Proof.Machine

/-! ## The end of a raise (R55, R90, R99, R100) -/

namespace Sys2Proof.Machine

/-! ### What a notice brings (R54 to R56, R90, R124, R185) -/

theorem noteGapEnd_events (z : Zones) (g : GapEnd) : (z.noteGapEnd g).active.map (·.events) = z.active.map (·.events) := by
  rw [Zones.noteGapEnd, List.map_map]
  refine List.map_congr_left fun x _ => ?_
  simp only [Function.comp, Zone.noteGapEnd]
  split <;> rfl

theorem lineMove_events (p : Part) {new : LineState} (h : new ≠ .gap) (g : Option GapEnd) :
    (p.lineMove new g).zones.active.map (·.events) = p.zones.active.map (·.events) := by
  have hgap : (p.tellsGapEnd g).zones.active.map (·.events) = p.zones.active.map (·.events) := by
    cases g with
    | none => rfl
    | some g => exact noteGapEnd_events p.zones g
  by_cases hs : p.line.state = new
  · have hsame : (p.lineMove new g).zones = (p.tellsGapEnd g).zones := by
      rw [lineMove_same hs]
      exact (recompute_moves _).drifts.only .zones (by decide)
    rw [hsame, hgap]
  · rw [lineMove_zones p hs, if_neg h, hgap]

theorem linePoleNotice_events (p : Part) (i : PoleId) (s : PoleState) :
    (p.linePoleNotice i s).zones.active.map (·.events) = p.zones.active.map (·.events) := by
  obtain h | h | ⟨g, h⟩ | ⟨-, h⟩ := linePoleNotice_answers p i s <;> rw [h]
  · rfl
  · rfl
  · exact lineMove_events (p.copies i s) (by decide) g
  · exact lineMove_events (p.copies i s) (by decide) none

theorem notePole_events (z : Zones) (i : PoleId) (s : PoleState) :
    (z.notePole i s).active.map (·.events) = (z.active.map (·.events)).map fun e => e.set i ((e.get i).add s) := by
  rw [Zones.notePole, List.map_map, List.map_map]
  rfl

/-- Gap counts and last outcomes are not a pole's matter (R124). -/
theorem notePole_lastGap {z : Zones} {o : GapOutcome} (h : ∀ x ∈ z.active, x.gapCount ≠ 0 → x.lastGap = some o) (i : PoleId) (s : PoleState) :
    ∀ x ∈ (z.notePole i s).active, x.gapCount ≠ 0 → x.lastGap = some o := by
  intro x hx hseen
  obtain ⟨y, hy, rfl⟩ := List.mem_map.mp hx
  exact h y hy hseen

section
variable (p : Part) (i : PoleId) (s : PoleState)

/-- A change of line state that a notice brings recomputes the budget (R61). -/
theorem linePoleNotice_budgeted (h : (p.linePoleNotice i s).line.state ≠ p.line.state) :
    (p.linePoleNotice i s).line.budgeted (p.linePoleNotice i s).tables := by
  obtain hn | hn | ⟨g, hn⟩ | ⟨-, hn⟩ := linePoleNotice_answers p i s
  · rw [hn] at h
    exact absurd rfl h
  · rw [hn] at h
    exact absurd rfl h
  · rw [hn]
    exact budgeted_of_balanced (lineMove_balanced _ _ _)
  · rw [hn]
    exact budgeted_of_balanced (restoreTest_balanced (lineMove_balanced _ _ _))

/-- A notice that ends a gap (R54, R124). -/
theorem linePoleNotice_endsGap (h : p.line.state = .gap) (hq : (p.linePoleNotice i s).line.state = .offWire) :
    (p.linePoleNotice i s).line.gapTimer = .stopped ∧ ∀ z ∈ (p.linePoleNotice i s).zones.active, z.gapCount ≠ 0 → z.lastGap = some .offWire := by
  have hne : (p.copies i s).line.state ≠ .offWire := fun he => absurd (h.symm.trans he) (by decide)
  rw [linePoleNotice_gap i s h] at hq ⊢
  split at hq
  next hb =>
    rw [if_pos hb]
    refine ⟨?_, fun z hz hseen => ?_⟩
    · have hgap : (p.copies i s).line.state == .gap := beq_iff_eq.mpr h
      rw [field_of_own (lineMove_own hne _) Line.gapTimer fun _ => rfl, Line.enter]
      exact if_pos hgap
    · rw [lineMove_zones _ hne, if_neg (by decide)] at hz
      exact noteGapEnd_lastGap _ _ hz hseen
  next hb => exact absurd (h.symm.trans hq) (by decide)

/-- A notice that takes the line from LOST to OFF_WIRE ends LINE_LOST (R54, R59). -/
theorem linePoleNotice_endsLost (h : p.line.state = .lost) (hq : (p.linePoleNotice i s).line.state = .offWire) :
    (p.linePoleNotice i s).line.restoreTimer = .stopped ∧ (p.linePoleNotice i s).endedFault .lineLost { block := .lineSupervisor } := by
  have hne : (p.copies i s).line.state ≠ .offWire := fun he => absurd (h.symm.trans he) (by decide)
  rw [linePoleNotice_lost i s h] at hq ⊢
  split at hq
  next hb =>
    have hlost : (p.copies i s).line.state = .lost := h
    have hended : ((p.copies i s).lineMove .offWire none).endedFault .lineLost lineSource := lineMove_endsLost hlost (by decide) none
    rw [if_pos hb]
    refine ⟨?_, hended⟩
    rw [field_of_own (lineMove_own hne _) Line.restoreTimer fun _ => rfl]
    rfl
  next hb => exact absurd (h.symm.trans hq) (by decide)

theorem lineMove_timer {p : Part} {new : LineState} (h : p.line.state ≠ new) (g : Option GapEnd) :
    (p.lineMove new g).line.restoreTimer = .stopped := by
  rw [field_of_own (lineMove_own h g) Line.restoreTimer fun _ => rfl]
  rfl

theorem lineMove_voltage {p : Part} {new : LineState} (h : p.line.state ≠ new) (g : Option GapEnd) :
    (p.lineMove new g).line.voltage = p.line.voltage := by
  rw [field_of_own (lineMove_own h g) Line.voltage fun _ => rfl]
  rfl

/-- A notice of a pole on the wire takes the line from OFF_WIRE to LOST, without a raise of LINE_LOST (R55, R56). -/
theorem linePoleNotice_leavesOffWire (h : p.line.state = .offWire) (hq : (p.linePoleNotice i s).line.state = .lost) :
    (p.linePoleNotice i s).faults.get .lineLost = p.faults.get .lineLost
      ∧ (p.linePoleNotice i s).line.restoreTimer = p.restoring (p.linePoleNotice i s) .stopped := by
  have hne : (p.copies i s).line.state ≠ .lost := fun he => absurd (h.symm.trans he) (by decide)
  rw [linePoleNotice_offWire i s h] at hq ⊢
  split at hq
  next hb =>
    rw [if_pos hb]
    have hspares := lineMove_spares (ks := [.lineHigh, .outputMismatch]) (p.copies i s) .lost none (by decide) (fun _ => by decide)
      fun hl => absurd (h.symm.trans hl) (by decide)
    refine ⟨hspares.faults .lineLost (by decide) (by decide), ?_⟩
    have hnow : ((p.copies i s).lineMove .lost none).now = p.now := (lineMove_moves (p.copies i s) .lost none).drifts.only .now (by decide)
    rw [restoreTest_timer, lineMove_timer hne]
    exact restoring_congr hnow hspares.tables rfl rfl rfl .stopped
  next hb => exact absurd (h.symm.trans hq) (by decide)

/-- Where the line stays LOST or UNKNOWN the notice tests the restore timer (R56). -/
theorem linePoleNotice_restores (hq : (p.linePoleNotice i s).line.state = p.line.state)
    (hs : (p.linePoleNotice i s).line.state = .lost ∨ (p.linePoleNotice i s).line.state = .unknown) :
    (p.linePoleNotice i s).line.restoreTimer = p.restoring (p.linePoleNotice i s) p.line.restoreTimer := by
  rw [hq] at hs
  obtain h | h := hs
  · rw [linePoleNotice_lost i s h] at hq ⊢
    split at hq
    next hb => exact absurd ((lineMove_state _ _ _).symm.trans (hq.trans h)) (by decide)
    next hb =>
      rw [if_neg hb, restoreTest_timer]
      rfl
  · rw [linePoleNotice_unknown i s h, restoreTest_timer]
    rfl

end

/-- What any pole state notice does (R54 to R56, R90, R124, R185). -/
theorem sendNotice_takes (p : Part) (i : PoleId) (s : PoleState) : p.takesNotice (p.sendNotice { pole := i, entered := s }) i s := by
  have hkept : (p.sendNotice { pole := i, entered := s }).keptPoles = p.keptPoles.set i s :=
    congrArg (·.set i s) (show (p.linePoleNotice i s).keptPoles = p.keptPoles from (linePoleNotice_drifts p i s).1.only .keptPoles (by decide))
  refine ⟨sendNotice_view p { pole := i, entered := s }, hkept, fun j => (sendNotice_gapNotes p { pole := i, entered := s }).state j, ?_,
    linePoleNotice_budgeted p i s, fun h hq => ?_, linePoleNotice_endsLost p i s, linePoleNotice_leavesOffWire p i s,
    linePoleNotice_restores p i s, (sendNotice_pays p { pole := i, entered := s }).1.only⟩
  · show ((p.linePoleNotice i s).zones.notePole i s).active.map (·.events) = _
    rw [notePole_events, linePoleNotice_events, List.map_map]
    rfl
  · obtain ⟨htimer, hzones⟩ := linePoleNotice_endsGap p i s h hq
    exact ⟨htimer, notePole_lastGap hzones i s⟩

/-! ### A raise that completes (R99) -/

theorem tripClosed_congr {p q : Part} (hc : q.contacts = p.contacts) (ht : q.tables = p.tables) (i : PoleId) :
    q.tripClosed i = p.tripClosed i := by
  simp only [Part.tripClosed, Part.roleLevel, hc, ht, Part.input]

theorem Part.Sets.tripClosed {i : PoleId} {r : Pole} {ks : List FaultKind} {rs : List ReportKind} {os : List DriveRole} {p q : Part}
    (h : Part.Sets i r ks rs os p q) (j : PoleId) : q.tripClosed j = p.tripClosed j :=
  tripClosed_congr (h.frame .contacts (by decide)) h.tables j

/-- A pole that completes its raise (R99). -/
def Pole.completes (q : Pole) (trip : Bool) : Pole := { q with raiseTimer := .stopped, settleTimer := .stopped }.enterWire trip

/-- The request of a completed raise is over (R99). -/
def Pole.concluded (q : Pole) : Pole := { q with retryCount := 0, origin := .none }

/-- The items of RAISE_COMPLETE (R99). -/
def Pole.raisedItems (q : Pole) (p : Part) : List Item :=
  .small (originCode q.origin) :: .small (q.retryCount + 1) :: bigNat (p.since q.startTime) :: bigNat q.elevation :: bigInt q.lateral
    :: (if q.origin == .zone then zoneItem q.zoneId else [])

/-- A raise that completes, with its raise output OFF. -/
def Part.stopsRaise (p : Part) (i : PoleId) : Part := (p.drive (.raise i) false).setPole i ((p.poles.get i).completes (p.tripClosed i))

/-- A raise that completes, up to its report. -/
def Part.reportsRaised (p : Part) (i : PoleId) : Part :=
  ((p.stopsRaise i).poleReport .raiseComplete .info i (p.poles.get i).requestTag ((p.poles.get i).raisedItems (p.stopsRaise i))).modPole i Pole.concluded

theorem settleExpired_raising {p : Part} {i : PoleId} (h : (p.poles.get i).state = .raising) : p.settleExpired i
    = (((p.reportsRaised i).sendNotices [{ pole := i, entered := .onWire }]).actOnSet i 0).updateClaims := by
  have htrip : (p.drive (.raise i) false).tripClosed i = p.tripClosed i := (drive_sets p (.raise i) i false).tripClosed i
  rw [Part.settleExpired, Part.reportsRaised, Part.stopsRaise, ← htrip]
  exact if_pos (beq_iff_eq.mpr h)

theorem settleExpired_other {p : Part} {i : PoleId} (h : (p.poles.get i).state ≠ .raising) :
    p.settleExpired i = p.setPole i { p.poles.get i with settleTimer := .stopped } := by
  rw [Part.settleExpired]
  exact if_neg (by simp [h])

theorem stopsRaise_sets (p : Part) (i : PoleId) :
    Part.Sets i ((p.poles.get i).completes (p.tripClosed i)) [.outputMismatch] [] [.raise i] p (p.stopsRaise i) :=
  (drive_sets p (.raise i) i false).setPole _

theorem stopsRaise_output (p : Part) (i : PoleId) (o : OutputNo) (h : p.outputFor (.raise i) = some o) :
    ((p.stopsRaise i).output o).commanded = false :=
  drive_commanded (p := p) false h (by simp) (by simp)

theorem reportsRaised_sets (p : Part) (i : PoleId) : Part.Sets i ((p.poles.get i).completes (p.tripClosed i)).concluded [.outputMismatch]
    [.raiseComplete] [.raise i] p (p.reportsRaised i) :=
  (((stopsRaise_sets p i).mono (ks' := [.outputMismatch]) (rs' := [.raiseComplete]) (os' := [.raise i]) (by simp) (by simp) (by simp)).report
    .raiseComplete .info _ _).modPole Pole.concluded

theorem reportsRaised_output (p : Part) (i : PoleId) (o : OutputNo) (h : p.outputFor (.raise i) = some o) :
    ((p.reportsRaised i).output o).commanded = false := by
  have hreport := (poleReport_sets (p.stopsRaise i) .raiseComplete .info i (p.poles.get i).requestTag
    ((p.poles.get i).raisedItems (p.stopsRaise i))).modPole Pole.concluded
  have hfor := (stopsRaise_sets p i).spares.outputFor (.raise i)
  rw [Part.reportsRaised, hreport.spares.commanded (hfor.trans h) (by simp), stopsRaise_output p i o h]

/-- The set of a pole that enters ON_WIRE calls for a dewirement where its trip contact is CLOSED, and for nothing else (R77, R78). -/
theorem finding_completes (q : Pole) (trip : Bool) :
    (q.completes trip).concluded.finding = if trip then .dewired .trip else .nothing := by
  cases trip <;> rfl

/-- A raise that times out (R100). -/
theorem raiseExpired_raising {p : Part} {i : PoleId} (h : (p.poles.get i).state = .raising) : p.raiseExpired i
    = p.abandonAlone i .timeout := by
  rw [Part.raiseExpired]
  exact if_pos (beq_iff_eq.mpr h)

theorem raiseExpired_other {p : Part} {i : PoleId} (h : (p.poles.get i).state ≠ .raising) :
    p.raiseExpired i = p.setPole i { p.poles.get i with raiseTimer := .stopped } := by
  rw [Part.raiseExpired]
  exact if_neg (by simp [h])

/-- A raise abandoned in an event of its own (R100). -/
theorem abandonAlone_end (p : Part) (i : PoleId) (cause : AbandonCause) (o : Part) :
    p.abandons ((p.abandonAlone i cause).orderEntries o) i cause
      ∧ ((p.abandonAlone i cause).orderEntries o).poles.get i = p.abandoned i cause none
      ∧ ((p.abandonAlone i cause).orderEntries o).lineView = afterNotices p.lineView (p.loweringNotices i)
      ∧ p.driven ((p.abandonAlone i cause).orderEntries o) i false true
      ∧ ((p.abandonAlone i cause).orderEntries o).poleClaims := by
  have hset := abandonRaise_sets p i cause none
  have htail := close_tail (p.abandonRaise i cause none).1 o (p.abandonRaise i cause none).2
  have hview := close_view (p.abandonRaise i cause none).1 o (p.abandonRaise i cause none).2
  have hclaims := close_claims (p.abandonRaise i cause none).1 o (p.abandonRaise i cause none).2
  rw [hset.lineView, abandonRaise_notices] at hview
  have hrec := htail.record hset.record (lowered_onLine _ _ _ _ _ _)
  have hdriven := htail.spares.driven (abandonRaise_driven p i cause none) hset.tables (by cases i <;> decide)
  have htells := htail.spares.tells (by decide) (abandonRaise_tells p i cause none)
  exact ⟨abandons_of hrec hdriven hclaims htells, hrec, hview, hdriven, hclaims⟩

/-- A completed raise without a trip, at the end of its event (R99). -/
theorem settleExpired_completes {p : Part} {i : PoleId} (h : (p.poles.get i).state = .raising) (ht : p.tripClosed i = false) (o : Part) :
    (((p.settleExpired i).orderEntries o).poles.get i = ((p.poles.get i).completes false).concluded)
      ∧ ((p.settleExpired i).orderEntries o).lineView = afterNotices p.lineView [(i, .onWire)]
      ∧ ∀ x, p.outputFor (.raise i) = some x → (((p.settleExpired i).orderEntries o).output x).commanded = false := by
  have hset := reportsRaised_sets p i
  rw [ht] at hset
  have hpoles : ((p.reportsRaised i).sendNotices [{ pole := i, entered := .onWire }]).poles = (p.reportsRaised i).poles :=
    sendNotice_poles (n := { pole := i, entered := .onWire }) rfl (p.reportsRaised i)
  have hidle : ((p.reportsRaised i).sendNotices [{ pole := i, entered := .onWire }]).actOnSet i 0
      = (p.reportsRaised i).sendNotices [{ pole := i, entered := .onWire }] :=
    actOnSet_nothing (by rw [hpoles, hset.record, finding_completes]; rfl) 0
  rw [settleExpired_raising h, hidle]
  have htail := close_tail (p.reportsRaised i) o [{ pole := i, entered := .onWire }]
  have hview := close_view (p.reportsRaised i) o [{ pole := i, entered := .onWire }]
  have hclosed := closeOne_poles (n := { pole := i, entered := .onWire }) rfl (p.reportsRaised i) o
  rw [hset.lineView] at hview
  refine ⟨(congrArg (·.get i) hclosed).trans hset.record, hview, fun x hx => ?_⟩
  have hkept := htail.spares.commanded ((hset.spares.outputFor _).trans hx) (by cases i <;> decide)
  exact hkept.trans (reportsRaised_output p i x hx)

/-- A completed raise that finds its trip contact CLOSED is a dewirement (R77, R78). -/
theorem settleExpired_trips {p : Part} {i : PoleId} (h : (p.poles.get i).state = .raising) (ht : p.tripClosed i = true) (o : Part) :
    ∃ r, (((p.settleExpired i).orderEntries o).poles.get i) = r ∧ r.state = .dewired ∧ r.latch = true ∧ r.settleTimer = .stopped := by
  have hset := reportsRaised_sets p i
  rw [ht] at hset
  have hpoles : ((p.reportsRaised i).sendNotices [{ pole := i, entered := .onWire }]).poles = (p.reportsRaised i).poles :=
    sendNotice_poles (n := { pole := i, entered := .onWire }) rfl (p.reportsRaised i)
  have hact : ((p.reportsRaised i).sendNotices [{ pole := i, entered := .onWire }]).actOnSet i 0
      = ((p.reportsRaised i).sendNotices [{ pole := i, entered := .onWire }]).confirmDewired i .trip 0 := by
    rw [Part.actOnSet, hpoles, hset.record, finding_completes]
    rfl
  rw [settleExpired_raising h, hact]
  have hrec := (endsEvent_tail _ o).record
    (confirmDewired_poles ((p.reportsRaised i).sendNotices [{ pole := i, entered := .onWire }]) i .trip 0) rfl
  rw [hpoles, hset.record] at hrec
  exact ⟨_, hrec, rfl, rfl, rfl⟩

/-- Settles O55, which holds: a settled raise completes or is a dewirement, one that times out is abandoned, and every notice is
`sendNotice_takes`. -/
theorem raiseCompletesOrTimesOut : Obligations.RaiseCompletesOrTimesOut := by
  unfold Obligations.RaiseCompletesOrTimesOut
  intro s i e r hr
  refine ⟨fun hrun => ?_, fun hrun => ?_, fun j x => sendNotice_takes s.part j x⟩
  · have hexec := exec_of_expiry_ordered (exec_settleTimerExpiry i s) (hr ▸ hrun)
    have hframe : (s.part.clockTo e).onlyChanges polePieces (((s.part.clockTo e).settleExpired i).orderEntries s.part) :=
      orderEntries_of_lineFrame (settleExpired_moves _ i).drifts.only
    obtain ⟨t, ht⟩ := clockTo_eq s.part e
    rw [ht] at hexec hframe ⊢
    have hstart : (s.part.atTime t).poles.get i = r := hr
    by_cases hs : r.state = .raising
    · have hraising : ((s.part.atTime t).poles.get i).state = .raising := by rw [hstart]; exact hs
      cases htrip : s.part.tripClosed i with
      | false =>
        obtain ⟨hrec, hview, hout⟩ := settleExpired_completes (p := s.part.atTime t) hraising htrip s.part
        exact ⟨_, hexec, by rw [hrec]; rfl, fun _ _ => ⟨by rw [hrec]; rfl, by rw [hrec]; rfl, by rw [hrec]; rfl, hview, by rw [hrec]; rfl, hout⟩,
          fun _ h => absurd h (by simp), fun h => absurd hs h, hframe⟩
      | true =>
        obtain ⟨x, hrec, hstate, hlatch, htimer⟩ := settleExpired_trips (p := s.part.atTime t) hraising htrip s.part
        exact ⟨_, hexec, by rw [hrec, htimer], fun _ h => absurd h (by simp), fun _ _ => ⟨by rw [hrec, hstate], by rw [hrec, hlatch]⟩,
          fun h => absurd hs h, hframe⟩
    · have hend : ((s.part.atTime t).settleExpired i).orderEntries s.part = (s.part.atTime t).setPole i { r with settleTimer := .stopped } := by
        rw [settleExpired_other (p := s.part.atTime t) (i := i) (by rw [hstart]; exact hs), hstart]
        exact setPole_ordered _ _ _ _ rfl
      rw [hend] at hexec hframe
      exact ⟨_, hexec, congrArg Pole.settleTimer (setPole_sets (s.part.atTime t) i _).record, fun h => absurd h hs, fun h => absurd h hs,
        fun _ => rfl, hframe⟩
  · have hexec := exec_of_expiry_ordered (exec_raiseTimerExpiry i s) (hr ▸ hrun)
    have hframe : (s.part.clockTo e).onlyChanges polePieces (((s.part.clockTo e).raiseExpired i).orderEntries s.part) :=
      orderEntries_of_lineFrame (raiseExpired_moves _ i).drifts.only
    obtain ⟨t, ht⟩ := clockTo_eq s.part e
    rw [ht] at hexec hframe ⊢
    have hstart : (s.part.atTime t).poles.get i = r := hr
    by_cases hs : r.state = .raising
    · have hraising : ((s.part.atTime t).poles.get i).state = .raising := by rw [hstart]; exact hs
      rw [raiseExpired_raising hraising] at hexec hframe
      obtain ⟨habandons, hrec, hview, hdriven, hclaims⟩ := abandonAlone_end (s.part.atTime t) i .timeout s.part
      have hwords := habandons
      obtain ⟨hstate, habandon, hraise, -, -, hopen, -, -⟩ := hwords
      refine ⟨_, hexec, hraise, fun _ hc => ?_, fun _ hc => ?_, fun _ => ⟨habandons, hview⟩, fun h => absurd hs h, hframe⟩
      · obtain ⟨hlowering, hlower, hmoving⟩ := hopen hc
        refine ⟨hstate.trans (if_neg (by simp [show (s.part.atTime t).housedClosed i = false from hc])), habandon, hlowering, ?_, hlower, hmoving,
          hdriven.1⟩
        rw [hrec, Part.abandoned, Pole.lowered, if_neg (by simp [show (s.part.atTime t).housedClosed i = false from hc]), hstart]
        rfl
      · exact hstate.trans (if_pos hc)
    · have hend : ((s.part.atTime t).raiseExpired i).orderEntries s.part = (s.part.atTime t).setPole i { r with raiseTimer := .stopped } := by
        rw [raiseExpired_other (p := s.part.atTime t) (i := i) (by rw [hstart]; exact hs), hstart]
        exact setPole_ordered _ _ _ _ rfl
      rw [hend] at hexec hframe
      exact ⟨_, hexec, congrArg Pole.raiseTimer (setPole_sets (s.part.atTime t) i _).record, fun h => absurd h hs, fun h => absurd h hs,
        fun h => absurd h hs, fun _ => rfl, hframe⟩

end Sys2Proof.Machine

/-! ## Sensor data lost, and the notices of the links (R32, R57, R69, R81) -/

namespace Sys2Proof.Machine

/-! ### What a lowering leaves of a pole's sensor (R69) -/

/-- What a pole has of its sensor. -/
def Pole.sensed (q : Pole) : Bool × SensorCondition × Nat × Int × Word := (q.sensorAvailable, q.condition, q.elevation, q.lateral, q.frameTime)

theorem afterHousing_sensed (q : Pole) (p : Part) : (q.afterHousing p).sensed = q.sensed := by
  unfold Pole.afterHousing Pole.endsLowering Pole.checkLatch Pole.decidesRetry Pole.givesUp Pole.housedWith Pole.sensed
  split <;> [split; skip] <;> [split; skip; skip] <;> split <;> rfl

theorem lowered_sensed (q : Pole) (p : Part) (i : PoleId) (cause : LoweringCause) (tag : Word) (zone : Option TagId) :
    (q.lowered p i cause tag zone).sensed = q.sensed := by
  unfold Pole.lowered
  split
  · exact afterHousing_sensed _ p
  · rfl

/-! ### A sensor that stops giving data (R69, R81, R100) -/

/-- A pole without sensor data (R69). -/
def Pole.losesData (q : Pole) (c : SensorCondition) : Pole := { q with sensorAvailable := false, condition := c }.restartRate

/-- A pole that is blind on the wire (R81). -/
def Pole.goesBlind (q : Pole) (c : SensorCondition) : Pole :=
  { q.losesData c with blind := true, indicators := { q.indicators with elevHigh := false, elevRate := false, lateral := false } }

/-- The raise of a blind pole (R81). -/
def blindRaise (i : PoleId) (link : LinkState) (c : SensorCondition) : Raise :=
  { kind := .poleSensor, source := poleSource i .blind, tag := 0
    items := [.small (sourceCauseCode .blind), .small (linkStateCode link), .small (conditionCode c)] }

section
variable {p : Part} {i : PoleId} (link : LinkState) (c : SensorCondition)

theorem sensorLost_already (h : (p.poles.get i).sensorAvailable = false) :
    p.sensorLost i link c = p.setPole i { p.poles.get i with condition := c } := by
  rw [Part.sensorLost]
  exact if_pos (by simp [h])

theorem sensorLost_blind (h : (p.poles.get i).sensorAvailable = true) (hon : (p.poles.get i).onLine = true) :
    p.sensorLost i link c = (p.setPole i ((p.poles.get i).goesBlind c)).raise (blindRaise i link c) := by
  rw [Part.sensorLost]
  exact (if_neg (by simp [h])).trans (if_pos hon)

theorem sensorLost_raising (h : (p.poles.get i).sensorAvailable = true) (hs : (p.poles.get i).state = .raising) :
    p.sensorLost i link c = (p.setPole i ((p.poles.get i).losesData c)).abandonAlone i .sensorLost := by
  rw [Part.sensorLost]
  exact (if_neg (by simp [h])).trans ((if_neg (by simp [Pole.onLine, hs])).trans (if_pos (by simp [hs])))

theorem sensorLost_elsewhere (h : (p.poles.get i).sensorAvailable = true) (hon : (p.poles.get i).onLine = false)
    (hs : (p.poles.get i).state ≠ .raising) : p.sensorLost i link c = p.setPole i ((p.poles.get i).losesData c) := by
  rw [Part.sensorLost]
  exact (if_neg (by simp [h])).trans ((if_neg (by simp [hon])).trans (if_neg (by simp [hs])))

end

/-- The cases of a sensor that stops giving data. -/
theorem sensorLost_cases (q : Pole) : q.sensorAvailable = false ∨ (q.sensorAvailable = true ∧ q.onLine = true)
    ∨ (q.sensorAvailable = true ∧ q.state = .raising) ∨ (q.sensorAvailable = true ∧ q.onLine = false ∧ q.state ≠ .raising) := by
  cases q.sensorAvailable <;> cases q.onLine <;> simp [em]

/-- The kinds, reports and roles that a link state notice may touch. -/
def noticeKinds : List FaultKind := lineKinds ++ loweringKinds

def noticeReports : List ReportKind := .auxShed :: .fault .poleSensor :: abandonReports

def noticeRoles : List DriveRole := auxRoles ++ poleRoles .p ++ poleRoles .n

theorem poleRoles_notice (i : PoleId) : ∀ o ∈ poleRoles i, o ∈ noticeRoles := by cases i <;> decide

theorem abandonAlone_spares (p : Part) (i : PoleId) (cause : AbandonCause) : p.Spares noticeKinds noticeReports noticeRoles (p.abandonAlone i cause) :=
  ((abandonRaise_sets p i cause none).spares.mono (by decide) (by decide) (poleRoles_notice i)).andThen
    (closePoles_tail (p.abandonRaise i cause none).1 (p.abandonRaise i cause none).2).spares (by decide) (by decide) (by decide)

theorem sensorLost_spares (p : Part) (i : PoleId) (link : LinkState) (c : SensorCondition) :
    p.Spares noticeKinds noticeReports noticeRoles (p.sensorLost i link c) := by
  have hset : ∀ r, p.Spares noticeKinds noticeReports noticeRoles (p.setPole i r) :=
    fun r => (setPole_sets p i r).spares.mono (by simp) (by simp) (by simp)
  obtain h | ⟨h, hon⟩ | ⟨h, hs⟩ | ⟨h, hon, hs⟩ := sensorLost_cases (p.poles.get i)
  · rw [sensorLost_already link c h]
    exact hset _
  · rw [sensorLost_blind link c h hon]
    exact (hset _).andThen (raise_spares (os := []) _ (blindRaise i link c))
      (show ∀ k ∈ [FaultKind.poleSensor], k ∈ noticeKinds by decide)
      (show ∀ r ∈ [ReportKind.fault .poleSensor, .collectorChanged], r ∈ noticeReports by decide) (by simp)
  · rw [sensorLost_raising link c h hs]
    exact (hset _).andThen (abandonAlone_spares _ i .sensorLost) (fun _ => id) (fun _ => id) fun _ => id
  · rw [sensorLost_elsewhere link c h hon hs]
    exact hset _

/-- What a lost sensor leaves in a pole (R69). -/
theorem sensorLost_sensed (p : Part) (i : PoleId) (link : LinkState) (c : SensorCondition) : ((p.sensorLost i link c).poles.get i).sensed
    = (false, c, (p.poles.get i).elevation, (p.poles.get i).lateral, (p.poles.get i).frameTime) := by
  have hset : ∀ r, (p.setPole i r).poles.get i = r := fun r => (setPole_sets p i r).record
  obtain h | ⟨h, hon⟩ | ⟨h, hs⟩ | ⟨h, hon, hs⟩ := sensorLost_cases (p.poles.get i)
  · rw [sensorLost_already link c h, hset, ← h]
    rfl
  · have hpoles : ((p.setPole i ((p.poles.get i).goesBlind c)).raise (blindRaise i link c)).poles = (p.setPole i ((p.poles.get i).goesBlind c)).poles :=
      (raise_moves _ _).drifts.only .poles (by decide)
    rw [sensorLost_blind link c h hon, hpoles, hset]
    rfl
  · have habandon := (closePoles_tail ((p.setPole i ((p.poles.get i).losesData c)).abandonRaise i .sensorLost none).1
      ((p.setPole i ((p.poles.get i).losesData c)).abandonRaise i .sensorLost none).2).record
      (abandonRaise_sets (p.setPole i ((p.poles.get i).losesData c)) i .sensorLost none).record (lowered_onLine _ _ _ _ _ _)
    rw [sensorLost_raising link c h hs, Part.abandonAlone]
    refine (congrArg Pole.sensed habandon).trans ?_
    rw [Part.abandoned, lowered_sensed, hset]
    rfl
  · rw [sensorLost_elsewhere link c h hon hs, hset]
    rfl

/-! ### The line UNKNOWN (R57) -/

theorem lineUnknown_spares (p : Part) : p.Spares noticeKinds noticeReports noticeRoles p.lineUnknown := by
  have hstops := drifts_lineOwn p { p.line with gapTimer := .stopped, restoreTimer := .stopped, highTimer := .stopped, voltage := 0, current := 0 }
  exact ((hstops.only.spares (ks := noticeKinds) (rs := noticeReports) (os := noticeRoles))).andThen (lineMove_spares_any _ .unknown _)
    (by decide) (by decide) (by decide)

/-- The line as it stops for want of converter data (R57). -/
def Line.blanked (l : Line) : Line :=
  { l with gapTimer := .stopped, restoreTimer := .stopped, highTimer := .stopped, voltage := 0, current := 0 }

theorem lineUnknown_eq (p : Part) :
    p.lineUnknown = Part.lineMove { p with line := p.line.blanked } .unknown (p.gapEndIfGap .unknown) := rfl

/-- The line after it becomes UNKNOWN (R57). -/
theorem lineUnknown_line (p : Part) : p.lineUnknown.line.state = .unknown ∧ p.lineUnknown.line.voltage = 0 ∧ p.lineUnknown.line.current = 0
    ∧ p.lineUnknown.line.gapTimer = .stopped ∧ p.lineUnknown.line.restoreTimer = .stopped ∧ p.lineUnknown.line.highTimer = .stopped := by
  have hown : ∃ l : Line, p.lineUnknown.line.own = l.own ∧ l.voltage = 0 ∧ l.current = 0 ∧ l.gapTimer = .stopped ∧ l.restoreTimer = .stopped
      ∧ l.highTimer = .stopped := by
    by_cases h : p.line.state = .unknown
    · exact ⟨p.line.blanked, lineMove_own_same (p := { p with line := p.line.blanked }) h _, rfl, rfl, rfl, rfl, rfl⟩
    · refine ⟨p.line.blanked.enter { p with line := p.line.blanked } .unknown, lineMove_own (p := { p with line := p.line.blanked }) h _,
        rfl, rfl, ?_, rfl, rfl⟩
      rw [Line.enter]
      exact ite_self _
  obtain ⟨l, hl, hvoltage, hcurrent, hgap, hrestore, hhigh⟩ := hown
  refine ⟨lineMove_state _ _ _, ?_, ?_, ?_, ?_, ?_⟩
  · rw [field_of_own hl Line.voltage fun _ => rfl, hvoltage]
  · rw [field_of_own hl Line.current fun _ => rfl, hcurrent]
  · rw [field_of_own hl Line.gapTimer fun _ => rfl, hgap]
  · rw [field_of_own hl Line.restoreTimer fun _ => rfl, hrestore]
  · rw [field_of_own hl Line.highTimer fun _ => rfl, hhigh]

/-! ### Notices of link states (R32) -/

theorem linkNotice_kept {a b : LinkState} (h : a ≠ .good ∨ b = .good) (p : Part) (l : Link) : p.linkNotice l a b = p := by
  unfold Part.linkNotice
  exact if_neg fun ⟨ha, hb⟩ => h.elim (fun hn => hn ha) hb

theorem linkNotice_left {b : LinkState} (h : b ≠ .good) (p : Part) (l : Link) : p.linkNotice l .good b =
    match l with
    | .pl0 => p.sensorLost .p b p.poles.p.condition
    | .pl1 => p.sensorLost .n b p.poles.n.condition
    | .pl2 => p.lineUnknown
    | .tag => p
    | .drive => p := by
  unfold Part.linkNotice
  refine (if_pos ⟨rfl, h⟩).trans ?_
  cases l <;> rfl

/-- A notice of a serial link changes nothing. -/
theorem linkNotice_serial (p : Part) (l : SLink) (a b : LinkState) : p.linkNotice (serialLink l) a b = p := by
  unfold Part.linkNotice
  split
  · cases l <;> rfl
  · rfl

theorem linkNotice_spares (p : Part) (l : Link) (a b : LinkState) : p.Spares noticeKinds noticeReports noticeRoles (p.linkNotice l a b) := by
  unfold Part.linkNotice
  split
  · cases l
    · exact sensorLost_spares p .p b _
    · exact sensorLost_spares p .n b _
    · exact lineUnknown_spares p
    · exact .refl _ _ _ p
    · exact .refl _ _ _ p
  · exact .refl _ _ _ p

/-- A notice leaves the links, the tables and the clock. -/
theorem linkNotice_frame (p : Part) (l : Link) (a b : LinkState) : (p.linkNotice l a b).links = p.links
    ∧ (p.linkNotice l a b).tables = p.tables ∧ (p.linkNotice l a b).now = p.now := by
  have hmoves := (linkNotice_moves p l a b).drifts.only
  exact ⟨hmoves .links (by decide), hmoves .tables (by decide), hmoves .now (by decide)⟩

end Sys2Proof.Machine

/-! ## Errored frames and silence of the links (R28, R29, R32, R35) -/

namespace Sys2Proof.Machine

/-! ### An errored frame (R32) -/

/-- The kind that a link raises is not one that its notice may write. -/
theorem linkDegraded_not_noticed : FaultKind.linkDegraded ∉ noticeKinds := by decide

/-- The link's record set and its consumer told (R32). -/
def Part.countsErrored (p : Part) (l : Link) (cause : LinkCause) : Part :=
  (p.setLink l ((p.linkRec l).err (p.tables.links.get l).errorLimit cause)).linkNotice l (p.linkRec l).state
    ((p.linkRec l).err (p.tables.links.get l).errorLimit cause).state

theorem frameErrored_eq (p : Part) (l : Link) (cause : LinkCause) : p.frameErrored l cause =
    if (p.linkRec l).state = .good ∧ ((p.linkRec l).err (p.tables.links.get l).errorLimit cause).state = .degraded
    then (p.countsErrored l cause).raiseDegraded l .degraded (some cause) ((p.linkRec l).err (p.tables.links.get l).errorLimit cause).errorRun
    else p.countsErrored l cause := rfl

section
variable {p : Part} {l : Link} (cause : LinkCause)

/-- A link that is not GOOD, or not at its limit, only counts the frame (R32). -/
theorem frameErrored_counts (h : (p.linkRec l).state ≠ .good ∨ countUp (p.linkRec l).errorRun 16 < (p.tables.links.get l).errorLimit) :
    p.frameErrored l cause = p.setLink l ((p.linkRec l).err (p.tables.links.get l).errorLimit cause) := by
  have hstate : (p.linkRec l).state ≠ .good ∨ ((p.linkRec l).err (p.tables.links.get l).errorLimit cause).state = .good := by
    by_cases hg : (p.linkRec l).state = .good
    · obtain h | h := h
      · exact absurd hg h
      · right
        simp only [LinkRec.err, hg]
        rw [if_neg (by omega)]
    · exact .inl hg
  rw [frameErrored_eq, Part.countsErrored, linkNotice_kept hstate]
  refine if_neg fun ⟨hg, hd⟩ => ?_
  obtain h | h := hstate
  · exact h hg
  · rw [hd] at h
    exact absurd h (by decide)

/-- A GOOD link at its limit is DEGRADED, and LINK_DEGRADED is raised (R32). -/
theorem frameErrored_degrades (hg : (p.linkRec l).state = .good) (h : (p.tables.links.get l).errorLimit ≤ countUp (p.linkRec l).errorRun 16) :
    p.frameErrored l cause = (p.countsErrored l cause).raiseDegraded l .degraded (some cause) (countUp (p.linkRec l).errorRun 16) := by
  have herr : (p.linkRec l).err (p.tables.links.get l).errorLimit cause
      = { p.linkRec l with state := .degraded, goodRun := 0, errorRun := countUp (p.linkRec l).errorRun 16, cause := some cause } := by
    simp only [LinkRec.err, hg]
    rw [if_pos h]
  rw [frameErrored_eq, herr]
  exact if_pos ⟨hg, rfl⟩

/-- The link's own part of an errored frame, whatever its notice does. -/
theorem frameErrored_links : (p.frameErrored l cause).links
    = (p.setLink l ((p.linkRec l).err (p.tables.links.get l).errorLimit cause)).links ∧ (p.frameErrored l cause).tables = p.tables
    ∧ (p.frameErrored l cause).now = p.now := by
  obtain ⟨hlinks, htables, hnow⟩ := linkNotice_frame (p.setLink l ((p.linkRec l).err (p.tables.links.get l).errorLimit cause)) l (p.linkRec l).state
    ((p.linkRec l).err (p.tables.links.get l).errorLimit cause).state
  rw [frameErrored_eq]
  split
  · have hraise : ∀ (q : Part) (x : Raise), (q.raise x).links = q.links := fun q x => (raise_moves q x).drifts.only .links (by decide)
    exact ⟨(hraise _ _).trans hlinks, (raise_tables _ _).trans htables, (raise_now _ _).trans hnow⟩
  · exact ⟨hlinks, htables, hnow⟩

/-- LINK_DEGRADED, raised by an errored frame (R32). -/
theorem frameErrored_activated (hg : (p.linkRec l).state = .good)
    (h : (p.tables.links.get l).errorLimit ≤ countUp (p.linkRec l).errorRun 16) :
    p.activated (p.frameErrored l cause) .linkDegraded { block := .linkReceivers, inst := linkNumber l }
      [.small (linkStateCode .degraded), .small (linkCauseCode (some cause)), .small (countUp (p.linkRec l).errorRun 16)] := by
  have hset : p.Spares [] [] [] (p.setLink l ((p.linkRec l).err (p.tables.links.get l).errorLimit cause)) := (setLink_moves p l _).spares
  have hnotice := linkNotice_spares (p.setLink l ((p.linkRec l).err (p.tables.links.get l).errorLimit cause)) l (p.linkRec l).state
    ((p.linkRec l).err (p.tables.links.get l).errorLimit cause).state
  have hbefore : p.Spares noticeKinds noticeReports noticeRoles (p.countsErrored l cause) :=
    (hset.mono (ks' := noticeKinds) (rs' := noticeReports) (os' := noticeRoles) (by simp) (by simp) (by simp)).andThen hnotice
      (fun _ => id) (fun _ => id) fun _ => id
  rw [frameErrored_degrades cause hg h]
  have hraised := activated_of_raise (p.countsErrored l cause)
    { kind := .linkDegraded, source := { block := .linkReceivers, inst := linkNumber l },
      items := [.small (linkStateCode .degraded), .small (linkCauseCode (some cause)), .small (countUp (p.linkRec l).errorRun 16)] }
    (show FaultKind.linkDegraded ≠ .alarmOutput by decide)
  exact Part.Spares.activated hraised hbefore (Part.Spares.refl [] [] [] _) rfl linkDegraded_not_noticed

end

/-- A link's record after an errored frame (R32). -/
theorem err_fields {r : LinkRec} (h : r.state ≠ .silent) (limit : Nat) (cause : LinkCause) :
    (r.err limit cause).cause = some cause ∧ (r.err limit cause).errorRun = countUp r.errorRun 16 ∧ (r.err limit cause).silence = r.silence
      ∧ (r.state ≠ .good → (r.err limit cause).goodRun = 0 ∧ (r.err limit cause).state = r.state)
      ∧ (r.state = .good → countUp r.errorRun 16 < limit → (r.err limit cause).state = .good)
      ∧ (r.state = .good → limit ≤ countUp r.errorRun 16 → (r.err limit cause).state = .degraded ∧ (r.err limit cause).goodRun = 0) := by
  cases hs : r.state with
  | silent => exact absurd hs h
  | hunting => simp [LinkRec.err, hs]
  | degraded => simp [LinkRec.err, hs]
  | good =>
    by_cases hl : limit ≤ countUp r.errorRun 16
    · simp [LinkRec.err, hs, hl, Nat.not_lt.mpr hl]
    · simp [LinkRec.err, hs, hl]

/-! ### A pulse-interval frame that ends errored (R28, R29) -/

/-- The receiver's frame is over. -/
def Part.endsFrame (p : Part) (l : PLink) : Part := p.setPlRx l { p.links.pl.get l with frame := none }

theorem endsFrame_only (p : Part) (l : PLink) : p.onlyChanges [.links] (p.endsFrame l) := (setPlRx_moves p l _).drifts.only

theorem plComplete_errored {p : Part} {l : PLink} {n u : Nat} {f : PlFrame} {cause : LinkCause}
    (hstarted : (p.linkRec (plLink l)).started = true) (hstate : (p.linkRec (plLink l)).state ≠ .silent)
    (hu : (p.links.pl.get l).unit48 = some u) (hf : (p.links.pl.get l).frame = some f) (hseven : f.symbols.length = 7) (hn : 48 * n ≤ 40 * u)
    (hv : f.verdict u n = some cause) : p.plComplete l n = (p.endsFrame l).frameErrored (plLink l) cause := by
  unfold Part.plComplete
  rw [inAssembly_some hstarted hu hf]
  dsimp only
  rw [if_pos ⟨hseven, by simp [aborts]; omega⟩, hv, firstActivity_of_not (.inr hstate)]
  rfl

theorem plAbort_errored {p : Part} {l : PLink} {n u : Nat} {f : PlFrame} (hstarted : (p.linkRec (plLink l)).started = true)
    (hstate : (p.linkRec (plLink l)).state ≠ .silent) (hu : (p.links.pl.get l).unit48 = some u) (hf : (p.links.pl.get l).frame = some f)
    (hn : 40 * u < 48 * n) : p.plAbort l n = ((p.endsFrame l).frameErrored (plLink l) (f.error.getD .frameAborted)).trySync l n := by
  unfold Part.plAbort
  rw [inAssembly_some hstarted hu hf]
  dsimp only
  rw [if_pos ((aborts_iff u n).mpr hn), firstActivity_of_not (.inr hstate)]
  rfl

/-- What is read of an errored frame's event once the rest of it has touched the links alone. -/
theorem verdict_errored {f : PlFrame} {u n : Nat} {cause : LinkCause}
    (h : (∃ e, f.error = some e ∧ cause = e) ∨ (f.error = none ∧ symbolValue u n = none ∧ cause = .symbolInvalid)
      ∨ (f.error = none ∧ (∃ v, symbolValue u n = some v ∧ plCheck f.symbols ≠ v) ∧ cause = .checkError)) : f.verdict u n = some cause := by
  obtain ⟨e, he, rfl⟩ | ⟨he, hv, rfl⟩ | ⟨he, ⟨v, hv, hc⟩, rfl⟩ := h
  · simp [PlFrame.verdict, he]
  · simp [PlFrame.verdict, he, hv]
  · simp [PlFrame.verdict, he, hv, hc]

theorem orderEntries_of_aux {q o : Part} (h : q.aux = o.aux) : q.orderEntries o = q :=
  orderEntries_idle fun a => congrArg AuxRec.entryOrder (congrArg (·.recs.get a) h)

/-- An event that leaves the Auxiliary Scheduler alone gives no entry orders. -/
theorem orderEntries_of_only {xs : List Piece} {p q : Part} (h : p.onlyChanges xs q) (hx : xs.contains .aux = false := by decide) :
    q.orderEntries p = q :=
  orderEntries_of_aux (show q.aux = p.aux from h .aux (by simpa using hx))

section
variable {p q : Part} {l : PLink} {cause : LinkCause}

/-- The link's record at the end of an event with an errored frame. -/
theorem erroredFrame_rec (hq : q.links.recs = ((p.endsFrame l).frameErrored (plLink l) cause).links.recs) :
    q.linkRec (plLink l) = (p.linkRec (plLink l)).err (p.tables.links.get (plLink l)).errorLimit cause := by
  have hlinks := (frameErrored_links (p := p.endsFrame l) (l := plLink l) cause).1
  have hrecs : q.links.recs = ((p.endsFrame l).setLink (plLink l)
      (((p.endsFrame l).linkRec (plLink l)).err ((p.endsFrame l).tables.links.get (plLink l)).errorLimit cause)).links.recs := by rw [hq, hlinks]
  exact (congrArg (·.get (plLink l)) hrecs).trans (PerLink.get_set_same _ _ _)

/-- Its receiver. -/
theorem erroredFrame_rx : ((p.endsFrame l).frameErrored (plLink l) cause).links.pl.get l = { p.links.pl.get l with frame := none } := by
  rw [(frameErrored_links (p := p.endsFrame l) (l := plLink l) cause).1]
  exact setPlRx_get p l _

/-- A link that only counts the frame touches no piece but its own. -/
theorem erroredFrame_counts (h : (p.linkRec (plLink l)).state ≠ .good
      ∨ countUp (p.linkRec (plLink l)).errorRun 16 < (p.tables.links.get (plLink l)).errorLimit) :
    p.onlyChanges [.links] ((p.endsFrame l).frameErrored (plLink l) cause) := by
  rw [frameErrored_counts (p := p.endsFrame l) cause h]
  exact (endsFrame_only p l).andThen (setLink_moves _ _ _).drifts.only

/-- LINK_DEGRADED at the end of the event (R32). -/
theorem erroredFrame_activated (hg : (p.linkRec (plLink l)).state = .good)
    (h : (p.tables.links.get (plLink l)).errorLimit ≤ countUp (p.linkRec (plLink l)).errorRun 16) {xs : List Piece}
    (hq : ((p.endsFrame l).frameErrored (plLink l) cause).onlyChanges xs q) (hx : sparing xs = true) (hnow : xs.contains .now = false) :
    p.activated q .linkDegraded { block := .linkReceivers, inst := linkNumber (plLink l) }
      [.small (linkStateCode .degraded), .small (linkCauseCode (some cause)), .small (countUp (p.linkRec (plLink l)).errorRun 16)] :=
  Part.Spares.activated (frameErrored_activated (p := p.endsFrame l) cause hg h) ((endsFrame_only p l).spares (ks := []) (rs := []) (os := []))
    (hq.spares (ks := []) (rs := []) (os := []) hx) (hq .now (by simpa using hnow))

end

theorem orderEntries_links (q o : Part) : (q.orderEntries o).links = q.links := (orderEntries_moves q o).drifts.only .links (by decide)

/-- The tries and the frame of an errored frame's event: what it says of the link's record. -/
def Part.countsFrame (p q : Part) (l : PLink) (cause : LinkCause) : Prop :=
  (q.linkRec (plLink l)).cause = some cause ∧ (q.linkRec (plLink l)).errorRun = countUp (p.linkRec (plLink l)).errorRun 16
    ∧ (q.linkRec (plLink l)).silence = (p.linkRec (plLink l)).silence
    ∧ ((p.linkRec (plLink l)).state ≠ .good → (q.linkRec (plLink l)).goodRun = 0
        ∧ (q.linkRec (plLink l)).state = (p.linkRec (plLink l)).state ∧ p.onlyChanges [.links] q)
    ∧ ((p.linkRec (plLink l)).state = .good → countUp (p.linkRec (plLink l)).errorRun 16 < (p.tables.links.get (plLink l)).errorLimit →
        (q.linkRec (plLink l)).state = .good ∧ p.onlyChanges [.links] q)
    ∧ ((p.linkRec (plLink l)).state = .good → (p.tables.links.get (plLink l)).errorLimit ≤ countUp (p.linkRec (plLink l)).errorRun 16 →
        (q.linkRec (plLink l)).state = .degraded ∧ (q.linkRec (plLink l)).goodRun = 0
        ∧ p.activated q .linkDegraded { block := .linkReceivers, inst := linkNumber (plLink l) }
            [.small (linkStateCode .degraded), .small (linkCauseCode (some cause)), .small (countUp (p.linkRec (plLink l)).errorRun 16)])

/-- What follows an errored frame in its event leaves what it says of the link's record. -/
theorem erroredFrame_countsFrame {p q : Part} {l : PLink} {cause : LinkCause} (hstate : (p.linkRec (plLink l)).state ≠ .silent)
    (hafter : ((p.endsFrame l).frameErrored (plLink l) cause).onlyChanges [.links] q)
    (hrecs : q.links.recs = ((p.endsFrame l).frameErrored (plLink l) cause).links.recs) : p.countsFrame (q.orderEntries p) l cause := by
  obtain ⟨hcause, hrun, hsilence, hother, hstays, hdegrades⟩ := err_fields hstate (p.tables.links.get (plLink l)).errorLimit cause
  have hrec := erroredFrame_rec (q := q.orderEntries p) (by rw [orderEntries_links, hrecs])
  have hcounts : (p.linkRec (plLink l)).state ≠ .good ∨ countUp (p.linkRec (plLink l)).errorRun 16 < (p.tables.links.get (plLink l)).errorLimit →
      p.onlyChanges [.links] (q.orderEntries p) := fun h => by
    have honly := (erroredFrame_counts (cause := cause) h).andThen hafter
    rw [orderEntries_of_only honly]
    exact honly
  rw [Part.countsFrame, hrec]
  refine ⟨hcause, hrun, hsilence, fun h => ⟨(hother h).1, (hother h).2, hcounts (.inl h)⟩, fun hg hlt => ⟨hstays hg hlt, hcounts (.inr hlt)⟩,
    fun hg hle => ⟨(hdegrades hg hle).1, (hdegrades hg hle).2, ?_⟩⟩
  have hend : ((p.endsFrame l).frameErrored (plLink l) cause).onlyChanges [.links, .aux] (q.orderEntries p) :=
    (Part.onlyChanges_mono hafter (by decide)).thenMoves (orderEntries_moves q p)
  exact erroredFrame_activated hg hle hend (by decide) (by decide)

/-- Settles O42, which holds: the errored frame is counted before the interval is tried as a SYNC, and neither a try nor the entry orders touch what
the link's record and LINK_DEGRADED say. -/
theorem erroredFrameCountsAgainstTheLink : Obligations.ErroredFrameCountsAgainstTheLink := by
  intro s c l n u f r cause hr hstarted hstate hu hf hc
  subst hr
  obtain ⟨rfl, hseven, hn, hcause⟩ | ⟨rfl, hn, rfl⟩ := hc
  · have hcomplete := plComplete_errored hstarted hstate hu hf hseven hn (verdict_errored hcause)
    have hexec : exec (.plFrameComplete l n) s
        = .next { s with part := (((s.part.endsFrame l).frameErrored (plLink l) cause).orderEntries s.part).settle } := by
      rw [exec_plFrameComplete, event_next, hcomplete]
    obtain ⟨h1, h2, h3, h4, h5, h6⟩ := erroredFrame_countsFrame (cause := cause) hstate (Part.onlyChanges_refl [.links] _) rfl
    refine ⟨_, hexec, h1, h2, h3, h4, h5, h6, fun _ => ?_, fun h => absurd h (by simp), ?_⟩
    · rw [orderEntries_links]
      exact erroredFrame_rx
    · exact orderEntries_of_lineFrame (hcomplete ▸ (plComplete_moves s.part l n).drifts.only)
  · have habort := plAbort_errored hstarted hstate hu hf hn
    have hexec : exec (.plFrameAbort l n) s = .next { s with part :=
        ((((s.part.endsFrame l).frameErrored (plLink l) (f.error.getD .frameAborted)).trySync l n).orderEntries s.part).settle } := by
      rw [exec_plFrameAbort, event_next, habort]
    have htables : ((s.part.endsFrame l).frameErrored (plLink l) (f.error.getD .frameAborted)).tables = s.part.tables :=
      (frameErrored_links (p := s.part.endsFrame l) (l := plLink l) _).2.1
    have hrx := erroredFrame_rx (p := s.part) (l := l) (cause := f.error.getD .frameAborted)
    obtain ⟨h1, h2, h3, h4, h5, h6⟩ := erroredFrame_countsFrame (p := s.part) (l := l) (cause := f.error.getD .frameAborted) hstate
      (trySync_moves _ l n).drifts.only (trySync_recs _ l n)
    refine ⟨_, hexec, h1, h2, h3, h4, h5, h6, fun h => ?_, fun _ hlow hhigh => ?_, ?_⟩
    · rw [orderEntries_links, trySync_out (by rw [htables]; exact h.resolve_left (by simp))]
      exact hrx
    · rw [orderEntries_links, trySync_in (by rw [htables]; exact hlow) (by rw [htables]; exact hhigh), setPlRx_get, hrx]
      exact beginFrame_began _ n
    · exact orderEntries_of_lineFrame (habort ▸ (plAbort_moves s.part l n).drifts.only)

end Sys2Proof.Machine

/-! ## Silence of a link (R32) -/

namespace Sys2Proof.Machine

/-- A link's record at the end of its silence (R32). -/
def LinkRec.falls (r : LinkRec) : LinkRec := { r with state := .silent, goodRun := 0, errorRun := 0, silence := .stopped }

/-- A link that falls SILENT, before its consumer is told. -/
def Part.fallsSilent (p : Part) (l : Link) : Part := (p.setLink l (p.linkRec l).falls).clearReference l

theorem clearReference_recs (p : Part) (l : Link) : (p.clearReference l).links.recs = p.links.recs := by cases l <;> rfl

theorem clearReference_syncRef (p : Part) {l : Link} {x : PLink} (h : plLink x = l) : ((p.clearReference l).links.pl.get x).syncRef = none := by
  subst h
  cases x <;> rfl

theorem fallsSilent_only (p : Part) (l : Link) : p.onlyChanges [.links] (p.fallsSilent l) :=
  (setLink_moves p l _).drifts.only.thenMoves (clearReference_moves _ l)

theorem fallsSilent_rec (p : Part) (l : Link) : (p.fallsSilent l).linkRec l = (p.linkRec l).falls :=
  (congrArg (·.get l) (clearReference_recs _ l)).trans (linkRec_setLink_same p l _)

section
variable {p : Part} {l : Link}

theorem silenceExpired_idle (hs : (p.linkRec l).state ≠ .silent) (hg : (p.linkRec l).state ≠ .good) : p.silenceExpired l = p.fallsSilent l := by
  unfold Part.silenceExpired
  dsimp only
  rw [if_neg hs, if_neg hg, linkNotice_kept (.inl hg)]
  rfl

theorem silenceExpired_good (hg : (p.linkRec l).state = .good) : p.silenceExpired l
    = ((p.fallsSilent l).linkNotice l .good .silent).raiseDegraded l .silent none (p.linkRec l).errorRun := by
  unfold Part.silenceExpired
  dsimp only
  rw [if_neg (by rw [hg]; decide), if_pos hg, hg]
  rfl

/-- The links, the poles and the line after a GOOD link falls SILENT are those after its notice. -/
theorem silenceExpired_raise (hg : (p.linkRec l).state = .good) :
    ((p.fallsSilent l).linkNotice l .good .silent).onlyChanges raisePieces (p.silenceExpired l) := by
  rw [silenceExpired_good hg]
  exact (raise_moves _ _).drifts.only

theorem silenceExpired_links (hs : (p.linkRec l).state ≠ .silent) : (p.silenceExpired l).links = (p.fallsSilent l).links := by
  by_cases hg : (p.linkRec l).state = .good
  · exact (show _ = _ from silenceExpired_raise hg .links (by decide)).trans (linkNotice_frame _ _ _ _).1
  · rw [silenceExpired_idle hs hg]

theorem silenceExpired_activated (hg : (p.linkRec l).state = .good) : p.activated (p.silenceExpired l) .linkDegraded
    { block := .linkReceivers, inst := linkNumber l }
    [.small (linkStateCode .silent), .small (linkCauseCode none), .small (p.linkRec l).errorRun] := by
  have hbefore : p.Spares noticeKinds noticeReports noticeRoles ((p.fallsSilent l).linkNotice l .good .silent) :=
    ((fallsSilent_only p l).spares).andThen (linkNotice_spares _ l .good .silent) (fun _ => id) (fun _ => id) fun _ => id
  rw [silenceExpired_good hg]
  have hraised := activated_of_raise ((p.fallsSilent l).linkNotice l .good .silent)
    { kind := .linkDegraded, source := { block := .linkReceivers, inst := linkNumber l },
      items := [.small (linkStateCode .silent), .small (linkCauseCode none), .small (p.linkRec l).errorRun] }
    (show FaultKind.linkDegraded ≠ .alarmOutput by decide)
  exact Part.Spares.activated hraised hbefore (Part.Spares.refl [] [] [] _) rfl linkDegraded_not_noticed

end

/-- The consumers of the pulse-interval links at the end of the event (R57, R69). -/
theorem silenceExpired_sensor {p : Part} (hg : (p.linkRec .pl0).state = .good) : ((p.silenceExpired .pl0).poles.get .p).sensorAvailable = false := by
  have hpoles : (p.silenceExpired .pl0).poles = ((p.fallsSilent .pl0).linkNotice .pl0 .good .silent).poles :=
    silenceExpired_raise hg .poles (by decide)
  rw [hpoles, linkNotice_left (by decide)]
  exact congrArg Prod.fst (sensorLost_sensed (p.fallsSilent .pl0) .p .silent _)

theorem silenceExpired_sensorN {p : Part} (hg : (p.linkRec .pl1).state = .good) : ((p.silenceExpired .pl1).poles.get .n).sensorAvailable = false := by
  have hpoles : (p.silenceExpired .pl1).poles = ((p.fallsSilent .pl1).linkNotice .pl1 .good .silent).poles :=
    silenceExpired_raise hg .poles (by decide)
  rw [hpoles, linkNotice_left (by decide)]
  exact congrArg Prod.fst (sensorLost_sensed (p.fallsSilent .pl1) .n .silent _)

theorem silenceExpired_line {p : Part} (hg : (p.linkRec .pl2).state = .good) : (p.silenceExpired .pl2).line.state = .unknown
    ∧ (p.silenceExpired .pl2).line.voltage = 0 ∧ (p.silenceExpired .pl2).line.current = 0 := by
  have hline : (p.silenceExpired .pl2).line = ((p.fallsSilent .pl2).linkNotice .pl2 .good .silent).line := line_of_moves (silenceExpired_raise hg)
  obtain ⟨hstate, hvoltage, hcurrent, -⟩ := lineUnknown_line (p.fallsSilent .pl2)
  rw [hline, linkNotice_left (by decide)]
  exact ⟨hstate, hvoltage, hcurrent⟩

/-- Settles O43, which holds: a link falls SILENT, its consumer is told, and LINK_DEGRADED comes last. -/
theorem linkActivityAndSilence : Obligations.LinkActivityAndSilence := by
  intro s l r hr
  subst hr
  refine ⟨fun hstarted hsilent => ?_, fun h => ?_, fun e hrun hs => ?_⟩
  · rw [exec_of_moves (exec_linkFirstActivity l s) (firstActivity_of_silent hstarted hsilent)
      (firstActivity_of_silent hstarted hsilent ▸ firstActivity_moves s.part l)]
    rfl
  · exact exec_of_moves (exec_linkFirstActivity l s) (firstActivity_of_not h) (firstActivity_of_not h ▸ firstActivity_moves s.part l)
  · have hexec := exec_of_expiry_ordered (exec_silenceTimerExpiry l s) hrun
    have hframe : (s.part.clockTo e).onlyChanges eventPieces (((s.part.clockTo e).silenceExpired l).orderEntries s.part) :=
      orderEntries_of_lineFrame (silenceExpired_moves _ l).drifts.only
    obtain ⟨t, ht⟩ := clockTo_eq s.part e
    rw [ht] at hexec hframe ⊢
    have hs' : ((s.part.atTime t).linkRec l).state ≠ .silent := hs
    have horder := (orderEntries_moves ((s.part.atTime t).silenceExpired l) s.part).drifts.only
    have hlinks : (((s.part.atTime t).silenceExpired l).orderEntries s.part).links = ((s.part.atTime t).fallsSilent l).links :=
      (orderEntries_links _ _).trans (silenceExpired_links hs')
    have hrec : (((s.part.atTime t).silenceExpired l).orderEntries s.part).linkRec l = (s.part.linkRec l).falls :=
      (congrArg (fun x : Links => x.recs.get l) hlinks).trans (fallsSilent_rec (s.part.atTime t) l)
    have hpoles : (((s.part.atTime t).silenceExpired l).orderEntries s.part).poles = ((s.part.atTime t).silenceExpired l).poles :=
      horder .poles (by decide)
    refine ⟨_, hexec, by rw [hrec]; rfl, by rw [hrec]; rfl, by rw [hrec]; rfl, by rw [hrec]; rfl, by rw [hrec]; rfl, fun x hx => ?_, fun hg => ?_,
      fun hg => ?_, fun hg hl => ?_, fun hg hl => ?_, fun hg hl => ?_, hframe⟩
    · rw [hlinks]
      exact clearReference_syncRef _ hx
    · have honly := fallsSilent_only (s.part.atTime t) l
      rw [silenceExpired_idle (p := s.part.atTime t) hs hg]
      have hidle : ((s.part.atTime t).fallsSilent l).orderEntries s.part = (s.part.atTime t).fallsSilent l :=
        orderEntries_of_aux (o := s.part) (show _ = (s.part.atTime t).aux from honly .aux (by decide))
      rw [hidle]
      exact honly
    · have hactivated := Part.Spares.activated (silenceExpired_activated (p := s.part.atTime t) hg) (Part.Spares.refl [] [] [] (s.part.atTime t))
        (horder.spares (ks := []) (rs := []) (os := [])) (horder .now (by decide))
      exact hactivated
    · subst hl
      rw [hpoles]
      exact silenceExpired_sensor (p := s.part.atTime t) hg
    · subst hl
      rw [hpoles]
      exact silenceExpired_sensorN (p := s.part.atTime t) hg
    · subst hl
      rw [orderEntries_line]
      exact silenceExpired_line (p := s.part.atTime t) hg

end Sys2Proof.Machine

/-! ## The serial links (R35, R37) -/

namespace Sys2Proof.Machine

theorem linkRec_setSerialRx (p : Part) (l : SLink) (x : SerialRx) (k : Link) : (p.setSerialRx l x).linkRec k = p.linkRec k := rfl

theorem serial_setSerialRx (p : Part) (l : SLink) (x : SerialRx) : (p.setSerialRx l x).links.serial.get l = x := PerSerial.get_set_same _ _ _

/-- A character of an active link (R35). -/
theorem serialChar_active {p : Part} {l : SLink} (hstarted : (p.linkRec (serialLink l)).started = true)
    (hstate : (p.linkRec (serialLink l)).state ≠ .silent) (byte : Byte) (ok : Bool) : p.serialChar l byte ok = p.takeCharacter l byte ok := by
  rw [Part.serialChar, if_pos hstarted, firstActivity_of_not (.inr hstate)]

/-- A serial frame that ends errored: its receiver and its count (R35, R36). -/
theorem serialErrored_counts {p : Part} {l : SLink} {cause : LinkCause} (rx : SerialRx) :
    (p.serialErrored l cause rx).links.serial.get l = rx
      ∧ (p.serialErrored l cause rx).linkRec (serialLink l)
        = (p.linkRec (serialLink l)).err (p.tables.links.get (serialLink l)).errorLimit cause
      ∧ p.onlyChanges (raisePieces ++ [.links]) (p.serialErrored l cause rx) := by
  have hlinks := (frameErrored_links (p := p.setSerialRx l rx) (l := serialLink l) cause).1
  have hset := (setSerialRx_moves p l rx).drifts.only
  refine ⟨?_, ?_, ?_⟩
  · rw [Part.serialErrored, hlinks]
    exact serial_setSerialRx p l rx
  · exact (congrArg (fun x : Links => x.recs.get (serialLink l)) hlinks).trans (PerLink.get_set_same _ _ _)
  · have hcounts : (p.setSerialRx l rx).onlyChanges [.links] ((p.setSerialRx l rx).countsErrored (serialLink l) cause) := by
      rw [Part.countsErrored, linkNotice_serial]
      exact (setLink_moves _ _ _).drifts.only
    rw [Part.serialErrored, frameErrored_eq]
    split
    · exact ((Part.onlyChanges_mono hset (by decide)).andThen hcounts).thenMoves (raise_moves _ _)
    · exact (Part.onlyChanges_mono hset (by decide)).andThen hcounts

/-- An event that ends a serial frame errored. -/
theorem exec_of_serialErrored {c : Instr} {s : State} {f : Part → Part} {l : SLink} {cause : LinkCause} {rx : SerialRx}
    (hexec : exec c s = s.event f) (hf : f s.part = s.part.serialErrored l cause rx) :
    exec c s = .next { s with part := (s.part.serialErrored l cause rx).settle } := by
  have haux : (f s.part).aux = s.part.aux := by
    rw [hf]
    exact (serialErrored_counts rx).2.2 .aux (by decide)
  rw [hexec, event_same s f haux, hf]

section
variable {p : Part} {l : SLink} {byte : Byte}

theorem takeCharacter_waiting (h : p.links.serial.get l = .waiting) (ok : Bool) :
    p.takeCharacter l byte ok = p.setSerialRx l (.candidate byte ok) := by rw [Part.takeCharacter, h]

theorem takeCharacter_length (h : p.links.serial.get l = .length) : p.takeCharacter l byte true =
    if goodLength byte then p.setSerialRx l (.body byte.toNat []) else p.serialErrored l .length .waiting := by
  rw [Part.takeCharacter, h]
  rfl

theorem takeCharacter_body {n : Nat} {bytes : List Byte} (h : p.links.serial.get l = .body n bytes) (hn : bytes.length < n + 2) :
    p.takeCharacter l byte true = p.setSerialRx l (.body n (bytes ++ [byte])) := by
  rw [Part.takeCharacter, h]
  exact (if_neg (by omega)).trans (if_neg (by simp))

/-- A framing error of a frame in assembly (R35). -/
theorem takeCharacter_framing (h : (p.links.serial.get l).assembling = true) :
    p.takeCharacter l byte false = p.serialErrored l .framing .waiting := by
  cases hrx : p.links.serial.get l with
  | waiting => simp [hrx, SerialRx.assembling] at h
  | length =>
    rw [Part.takeCharacter, hrx]
    rfl
  | body n bytes =>
    have hn : bytes.length < n + 2 := by simpa [hrx, SerialRx.assembling] using h
    rw [Part.takeCharacter, hrx]
    exact (if_neg (by omega)).trans (if_pos rfl)

/-- What ends a frame in assembly, of an active link (R35). -/
theorem serialError_active (hstarted : (p.linkRec (serialLink l)).started = true) (hstate : (p.linkRec (serialLink l)).state ≠ .silent)
    (h : (p.links.serial.get l).assembling = true) (e : SerialError) : p.serialError l e =
    match e with
    | .framing => p.serialErrored l .framing .waiting
    | .length b => if p.links.serial.get l = .length ∧ !goodLength b then p.serialErrored l .length .waiting else p
    | .gap late ok => p.serialErrored l .gap (.candidate late ok) := by
  unfold Part.serialError
  dsimp only
  rw [firstActivity_of_not (.inr hstate)]
  refine (if_pos ⟨hstarted, h⟩).trans ?_
  cases e <;> rfl

end

/-- The five ways in which a frame in assembly ends errored (R35). -/
theorem serialErrored_of_event {s : State} {l : SLink} {byte : Byte} {c : Instr} {cause : LinkCause}
    (hstarted : (s.part.linkRec (serialLink l)).started = true) (hstate : (s.part.linkRec (serialLink l)).state ≠ .silent)
    (h : (s.part.links.serial.get l).assembling = true)
    (hc : (c = .serialCharacter l byte false ∧ cause = LinkCause.framing)
      ∨ (c = .serialCharacter l byte true ∧ s.part.links.serial.get l = .length ∧ goodLength byte = false ∧ cause = LinkCause.length)
      ∨ (c = .serialFrameError l .framing ∧ cause = LinkCause.framing)
      ∨ (c = .serialFrameError l (.length byte) ∧ s.part.links.serial.get l = .length ∧ goodLength byte = false ∧ cause = LinkCause.length)
      ∨ (c = .serialFrameError l (.gap byte false) ∧ cause = LinkCause.gap)) :
    exec c s = .next { s with part := (s.part.serialErrored l cause .waiting).settle } := by
  obtain ⟨rfl, rfl⟩ | ⟨rfl, hrx, hbad, rfl⟩ | ⟨rfl, rfl⟩ | ⟨rfl, hrx, hbad, rfl⟩ | ⟨rfl, rfl⟩ := hc
  · exact exec_of_serialErrored (exec_serialCharacter l byte false s) ((serialChar_active hstarted hstate byte false).trans (takeCharacter_framing h))
  · refine exec_of_serialErrored (exec_serialCharacter l byte true s) ((serialChar_active hstarted hstate byte true).trans ?_)
    rw [takeCharacter_length hrx]
    exact if_neg (by simp [hbad])
  · exact exec_of_serialErrored (exec_serialFrameError l .framing s) (serialError_active hstarted hstate h .framing)
  · refine exec_of_serialErrored (exec_serialFrameError l (.length byte) s) ((serialError_active hstarted hstate h (.length byte)).trans ?_)
    exact if_pos ⟨hrx, by simp [hbad]⟩
  · exact exec_of_serialErrored (exec_serialFrameError l (.gap byte false) s) (serialError_active hstarted hstate h (.gap byte false))

/-- Settles O44, which holds: `takeCharacter` by the receiver's state, every errored end through `serialErrored`, and the drive link's send queue. -/
theorem serialLinkReceivesAndSends : Obligations.SerialLinkReceivesAndSends := by
  refine ⟨fun s l byte r hr hstarted hstate => ?_, fun s => ?_⟩
  · subst hr
    have hset : ∀ ok rx, s.part.takeCharacter l byte ok = s.part.setSerialRx l rx →
        exec (.serialCharacter l byte ok) s = .next { s with part := (s.part.setSerialRx l rx).settle } := fun ok rx h =>
      exec_of_moves (exec_serialCharacter l byte ok s) ((serialChar_active hstarted hstate byte ok).trans h) (setSerialRx_moves s.part l rx)
    refine ⟨fun hrx => ⟨fun hb => ?_, fun hb => ?_, ?_⟩, fun hrx hlow hhigh => ?_, fun n bytes hrx hn => ?_, fun c cause hasm hc => ?_,
      fun hasm => ?_⟩
    · refine hset true .length ((takeCharacter_waiting hrx true).trans ?_)
      rw [SerialRx.candidate, if_pos (by simp [hb, startByte])]
    · refine hset true .waiting ((takeCharacter_waiting hrx true).trans ?_)
      rw [SerialRx.candidate, if_neg (by simpa [startByte] using hb)]
    · exact hset false .waiting ((takeCharacter_waiting hrx false).trans rfl)
    · refine hset true (.body byte.toNat []) ((takeCharacter_length hrx).trans (if_pos ?_))
      simp [goodLength, hlow, hhigh]
    · exact hset true (.body n (bytes ++ [byte])) (takeCharacter_body hrx hn)
    · obtain ⟨hrx, hrec, honly⟩ := serialErrored_counts (p := s.part) (l := l) (cause := cause) .waiting
      obtain ⟨hcause, hrun, -, hother, -, hdegrades⟩ := err_fields hstate (s.part.tables.links.get (serialLink l)).errorLimit cause
      rw [← hrec] at hcause hrun hother hdegrades
      exact ⟨_, serialErrored_of_event hstarted hstate hasm hc, hrx, hcause, hrun, fun h => (hother h).1, fun hg hle => (hdegrades hg hle).1, honly⟩
    · obtain ⟨hrx, hrec, -⟩ := serialErrored_counts (p := s.part) (l := l) (cause := .gap) .length
      obtain ⟨hcause, -⟩ := err_fields hstate (s.part.tables.links.get (serialLink l)).errorLimit .gap
      rw [← hrec] at hcause
      exact ⟨_, exec_of_serialErrored (exec_serialFrameError l (.gap 0xC3 true) s) (serialError_active hstarted hstate hasm (.gap 0xC3 true)), hrx, hcause⟩
  · have hdone : s.part.onlyChanges [.send] s.part.sendDone := fun x hx => by cases x <;> simp_all [Part.same, Part.sendDone]
    rw [exec_driveLinkSendDone, event_same s _ (hdone .aux (by decide))]
    rfl

end Sys2Proof.Machine

/-! ## A pole's set looked at (R78, R79) -/

namespace Sys2Proof.Machine

/-! ### The words of an event, read from a later part -/

/-- What the words about a pole read of the part that they start from. -/
structure Part.Reads (p m : Part) : Prop where
  now : m.now = p.now
  tables : m.tables = p.tables
  contacts : m.contacts = p.contacts

theorem Part.Sets.reads {i : PoleId} {r : Pole} {ks : List FaultKind} {rs : List ReportKind} {os : List DriveRole} {p m : Part}
    (h : Part.Sets i r ks rs os p m) : p.Reads m := ⟨h.now, h.tables, h.frame .contacts (by decide)⟩

section
variable {p m q : Part} {i : PoleId}

theorem Part.Reads.startTimer (h : p.Reads m) (n : Nat) : m.startTimer n = p.startTimer n := by simp only [Part.startTimer, h.now]

theorem Part.Reads.housedClosed (h : p.Reads m) (j : PoleId) : m.housedClosed j = p.housedClosed j := housedClosed_congr h.contacts h.tables j

theorem Part.Reads.driven (h : p.Reads m) {a b : Bool} (hd : m.driven q i a b) : p.driven q i a b :=
  ⟨fun o ho => hd.1 o ((outputFor_congr h.tables _).trans ho), fun o ho => hd.2 o ((outputFor_congr h.tables _).trans ho)⟩

theorem Part.Reads.lowers (h : p.Reads m) {cause : LoweringCause} {tag : Word} {zone : Option TagId} (hl : m.lowers q i cause tag zone) :
    p.lowers q i cause tag zone := by
  obtain ⟨hstate, hind, hblind, hconfirm, hdriven, hopen, hclosed⟩ := hl
  rw [h.housedClosed] at hstate hopen hclosed
  rw [h.now, h.tables, h.startTimer] at hopen
  rw [h.startTimer] at hclosed
  exact ⟨hstate, hind, hblind, hconfirm, h.driven hdriven, hopen, hclosed⟩

/-- An abandoned raise, read from a part with the same request (R100). -/
theorem Part.Reads.abandons (h : p.Reads m) {cause : AbandonCause} (htag : (m.poles.get i).requestTag = (p.poles.get i).requestTag)
    (hcount : (m.poles.get i).retryCount = (p.poles.get i).retryCount) (horigin : (m.poles.get i).origin = (p.poles.get i).origin)
    (hzone : (m.poles.get i).zoneId = (p.poles.get i).zoneId) (ha : m.abandons q i cause) : p.abandons q i cause := by
  obtain ⟨hstate, habandon, hraise, hsettle, hdriven, hopen, hclosed, htells⟩ := ha
  have hretries : m.retries i cause = p.retries i cause := by simp only [Part.retries, hcount, h.tables]
  rw [h.housedClosed] at hstate hopen hclosed
  rw [h.tables, h.startTimer] at hopen
  rw [h.startTimer, hretries] at hclosed
  rw [htag, hcount, horigin, hzone, hretries] at htells
  exact ⟨hstate, habandon, hraise, hsettle, h.driven hdriven, hopen, hclosed, htells⟩

/-- A dewirement, read from a part with the same record of POLE_DEWIRED, the same zones and the mate in the same state (R83). -/
theorem Part.Reads.dewires (h : p.Reads m) {basis : DewireBasis} {ind : Indicators} {blind : Bool} (hzones : m.zones = p.zones)
    (hfault : m.faults.get .poleDewired = p.faults.get .poleDewired) (hmate : m.poles.get (mateOf i) = p.poles.get (mateOf i))
    (hd : m.dewires q i basis ind blind) : p.dewires q i basis ind blind := by
  obtain ⟨hstate, hconfirm, hind, hblind, hlower, hlatch, hack, hdriven, hlost, hclaim, hactivated, hmates⟩ := hd
  rw [h.startTimer, h.tables] at hlower
  rw [hzones] at hactivated
  rw [h.tables, hmate] at hmates
  exact ⟨hstate, hconfirm, hind, hblind, hlower, hlatch, hack, h.driven hdriven, hlost, hclaim,
    activated_congr hactivated hfault.symm rfl rfl rfl, fun hm hon => h.lowers (hmates hm hon)⟩

end

/-! ### What the Pole Monitor finds (R78, R79) -/

section
variable {q : Pole}

theorem finding_trip (hon : q.onLine = true) (ht : q.indicators.trip = true) : q.finding = .dewired .trip := by
  rw [Pole.finding, if_pos hon, if_pos ht]

theorem finding_two (hon : q.onLine = true) (ht : q.indicators.trip = false) (hc : 2 ≤ q.indicators.count) : q.finding = .dewired .twoIndicators := by
  rw [Pole.finding, if_pos hon, if_neg (by simp [ht]), if_pos hc]

theorem finding_suspect (hs : q.state = .onWire) (ht : q.indicators.trip = false) (hc : q.indicators.count = 1)
    (hg : ¬ (q.indicators.lineGap = true ∧ q.gapSpent = true)) : q.finding = .suspect := by
  rw [Pole.finding, if_pos (by simp [Pole.onLine, hs]), if_neg (by simp [ht]), if_neg (by omega), if_pos]
  simpa [hs, hc, imp_iff_not_or] using hg

theorem finding_nothing (ht : q.indicators.trip = false) (hc : q.indicators.count < 2)
    (hs : q.state = .onWire → q.indicators.count = 0 ∨ (q.indicators.lineGap = true ∧ q.gapSpent = true)) : q.finding = .nothing := by
  rw [Pole.finding]
  split
  · rw [if_neg (by simp [ht]), if_neg (by omega), if_neg]
    intro h
    simp only [Bool.and_eq_true, beq_iff_eq, Bool.not_eq_true', Bool.and_eq_false_iff] at h
    obtain ⟨⟨hw, hone⟩, hn⟩ := h
    obtain hz | ⟨hl, hg⟩ := hs hw
    · omega
    · simp [hl, hg] at hn
  · rfl

end

/-! ### A suspicion (R78) -/

/-- A pole that becomes SUSPECT (R78). -/
def Pole.suspects (q : Pole) (p : Part) : Pole :=
  { q with state := .suspect, confirmTimer := p.startTimer p.tables.timers.confirmWindow, seen := q.indicators }

theorem becomeSuspect_poles (p : Part) (i : PoleId) : (p.becomeSuspect i).poles.get i = (p.poles.get i).suspects p
    ∧ ∀ j, j ≠ i → (p.becomeSuspect i).poles.get j = p.poles.get j := by
  have hset := setPole_sets p i ((p.poles.get i).suspects p)
  have hpoles : (p.becomeSuspect i).poles = (p.setPole i ((p.poles.get i).suspects p)).poles :=
    sendNotice_poles (n := { pole := i, entered := .suspect }) rfl _
  rw [hpoles]
  exact ⟨hset.record, hset.other⟩

/-! ### The set looked at -/

theorem judge_nothing {p : Part} {i : PoleId} (h : (p.poles.get i).finding = .nothing) : p.judge i = p := if_pos h

theorem judge_suspect {p : Part} {i : PoleId} (h : (p.poles.get i).finding = .suspect) : p.judge i = (p.becomeSuspect i).updateClaims := by
  rw [Part.judge, if_neg (by simp [h]), Part.actOnSet, h]

theorem judge_dewired {p : Part} {i : PoleId} {basis : DewireBasis} (h : (p.poles.get i).finding = .dewired basis) :
    p.judge i = (p.confirmDewired i basis 0).updateClaims := by
  rw [Part.judge, if_neg (by simp [h]), Part.actOnSet, h]

/-- A pole on the line whose set has changed: what the record it is looked at with keeps of the old one. -/
structure Pole.Resets (old new : Pole) (ind : Indicators) : Prop where
  state : new.state = old.state
  indicators : new.indicators = ind
  latch : new.latch = old.latch
  confirm : new.confirmTimer = old.confirmTimer
  spent : new.gapSpent = old.gapSpent
  seen : old.state = .suspect → new.seen = old.seen.union ind

/-- The words of a set looked at, at the end of its event (R78, R79). -/
theorem looks_of_judge {p m : Part} {i : PoleId} {r : Pole} {ks : List FaultKind} {rs : List ReportKind} {os : List DriveRole} {ind : Indicators}
    (h : Part.Sets i r ks rs os p m) (hk : .poleDewired ∉ ks) (hr : (p.poles.get i).Resets r ind) (hon : (p.poles.get i).onLine = true) (o : Part) :
    p.looks ((m.judge i).orderEntries o) i ind r.blind := by
  have hdewires : ∀ basis, r.finding = .dewired basis → p.dewires ((m.judge i).orderEntries o) i basis ind r.blind := fun basis hf => by
    have hd := confirmDewired_dewires m i basis 0 o
    rw [h.record, hr.indicators] at hd
    rw [judge_dewired (by rw [h.record]; exact hf)]
    exact h.reads.dewires (h.frame .zones (by decide)) (h.spares.faults .poleDewired hk (by decide)) (h.other _ (mateOf_ne i)) hd
  have honr : r.onLine = true := by
    rw [Pole.onLine, hr.state]
    exact hon
  refine ⟨fun ht => hdewires .trip (finding_trip honr (by rw [hr.indicators]; exact ht)),
    fun ht hc => hdewires .twoIndicators (finding_two honr (by rw [hr.indicators]; exact ht) (by rw [hr.indicators]; exact hc)), fun ht hc => ?_⟩
  by_cases hs : (p.poles.get i).state = .onWire ∧ ind.count = 1 ∧ ¬ (ind.lineGap = true ∧ (p.poles.get i).gapSpent = true)
  · obtain ⟨hwire, hone, hgap⟩ := hs
    have hfind : (m.poles.get i).finding = .suspect := by
      rw [h.record]
      exact finding_suspect (hr.state.trans hwire) (by rw [hr.indicators]; exact ht) (by rw [hr.indicators]; exact hone)
        (by rw [hr.indicators, hr.spent]; exact hgap)
    have hrec : (((m.becomeSuspect i).updateClaims.orderEntries o).poles.get i) = r.suspects m := by
      rw [← h.record, ← (becomeSuspect_poles m i).1]
      exact congrArg (·.get i) (endsEvent_poles _ o)
    have hclaim := claims_suspect (endsEvent_claims (m.becomeSuspect i) o) i (by
      rw [Part.endsEvent, hrec]
      simp [Pole.suspectClaim, Pole.suspects])
    rw [judge_suspect hfind]
    refine ⟨by rw [hrec]; exact hr.indicators, by rw [hrec]; exact hr.latch, fun hn => absurd (hwire.symm.trans hn) (by decide),
      fun _ _ _ => ⟨by rw [hrec]; rfl, by rw [hrec]; exact hr.indicators, ?_, hclaim⟩, fun _ hz => ?_⟩
    · rw [hrec]
      exact (h.startTimer _).trans (by rw [h.tables])
    · obtain hz | hz := hz
      · omega
      · exact absurd hz hgap
  · have hfind : (m.poles.get i).finding = .nothing := by
      rw [h.record]
      refine finding_nothing (by rw [hr.indicators]; exact ht) (by rw [hr.indicators]; exact hc) fun hw => ?_
      rw [hr.indicators, hr.spent]
      rw [hr.state] at hw
      by_contra hn
      simp only [not_or, not_and] at hn hs
      exact hs hw (by omega) hn.2
    have hrec : ((m.orderEntries o).poles.get i) = r := by
      rw [← h.record]
      exact congrArg (·.get i) (show _ = m.poles from (orderEntries_moves m o).drifts.only .poles (by decide))
    rw [judge_nothing hfind]
    refine ⟨by rw [hrec]; exact hr.indicators, by rw [hrec]; exact hr.latch, fun hsus => ⟨by rw [hrec, hr.state, hsus], by rw [hrec]; exact hr.confirm,
      by rw [hrec]; exact hr.seen hsus⟩, fun hw hone hg => absurd ⟨hw, hone, hg⟩ hs, fun hw _ => by rw [hrec, hr.state, hw]⟩

end Sys2Proof.Machine

/-! ## Sources of POLE_SENSOR that stay ended (R82, R159) -/

namespace Sys2Proof.Machine

/-- From `p` to `q` no source comes into force for a kind. -/
def Part.NoneRaised (k : FaultKind) (p q : Part) : Prop := ∀ s, p.endedFault k s → q.endedFault k s

theorem Part.NoneRaised.andThen {k : FaultKind} {p q r : Part} (h : Part.NoneRaised k p q) (g : Part.NoneRaised k q r) : Part.NoneRaised k p r :=
  fun s hs => g s (h s hs)

theorem Part.Spares.noneRaised {ks : List FaultKind} {rs : List ReportKind} {os : List DriveRole} {p q : Part} (h : p.Spares ks rs os q)
    {k : FaultKind} (hk : k ∉ ks := by decide) (ha : k ≠ .alarmOutput := by decide) : Part.NoneRaised k p q := fun s hs => by
  rw [Part.endedFault, h.faults k hk ha]
  exact hs

theorem endFault_noneRaised (p : Part) (k x : FaultKind) (s : Source) (hx : x ≠ .alarmOutput) : Part.NoneRaised x p (p.endFault k s) := by
  intro t ht
  by_cases h : x = k
  · subst h
    intro hmem
    have hdropped := evalAlarms_sources _ x hmem
    rw [Part.modFault_faults, Collector.get_set_same] at hdropped
    exact ht (List.mem_filter.mp hdropped).1
  · rw [Part.endedFault, endFault_get s h hx]
    exact ht

theorem endFaultIf_noneRaised (p : Part) (b : Bool) (k x : FaultKind) (s : Source) (hx : x ≠ .alarmOutput) :
    Part.NoneRaised x p (if b then p.endFault k s else p) := by
  split
  · exact endFault_noneRaised p k x s hx
  · exact fun _ h => h

/-- The record that a lowering begins with, its outputs commanded. -/
def Part.setsLowering (p : Part) (i : PoleId) (cause : LoweringCause) (tag : Word) (zone : Option TagId) : Part :=
  (p.drivePole i false true).setPole i ((p.poles.get i).beginsLowering (p.drivePole i false true) cause tag zone)

theorem startLowering_eq (p : Part) (i : PoleId) (cause : LoweringCause) (tag : Word) (zone : Option TagId) : (p.startLowering i cause tag zone).1
    = if (p.poles.get i).blind then (p.setsLowering i cause tag zone).endFault .poleSensor (poleSource i .blind) else p.setsLowering i cause tag zone :=
  rfl

theorem startLowering_noneRaised (p : Part) (i : PoleId) (cause : LoweringCause) (tag : Word) (zone : Option TagId) :
    Part.NoneRaised .poleSensor p (p.startLowering i cause tag zone).1 := by
  have hdrive := (drivePole_sets p i i false true).spares.noneRaised (k := .poleSensor)
  have hset := (setPole_sets (p.drivePole i false true) i
    ((p.poles.get i).beginsLowering (p.drivePole i false true) cause tag zone)).spares.noneRaised (k := .poleSensor)
  rw [startLowering_eq]
  exact (hdrive.andThen hset).andThen (endFaultIf_noneRaised (p.setsLowering i cause tag zone) _ _ _ _ (by decide))

theorem houseIfClosed_noneRaised (p : Part) (i : PoleId) : Part.NoneRaised .poleSensor p (p.houseIfClosed i).1 :=
  (houseIfClosed_sets p i).spares.noneRaised

theorem lower_noneRaised (p : Part) (i : PoleId) (cause : LoweringCause) (tag : Word) (zone : Option TagId) :
    Part.NoneRaised .poleSensor p (p.lower i cause tag zone).1 :=
  (startLowering_noneRaised p i cause tag zone).andThen (houseIfClosed_noneRaised _ i)

theorem abandonRaise_noneRaised (p : Part) (i : PoleId) (cause : AbandonCause) (lowerTag : Option Word) :
    Part.NoneRaised .poleSensor p (p.abandonRaise i cause lowerTag).1 := by
  have hset := (setPole_sets p i ((p.poles.get i).abandons cause)).spares.noneRaised (k := .poleSensor)
  have hstart := startLowering_noneRaised (p.setPole i ((p.poles.get i).abandons cause)) i .abandonedRaise
    (lowerTag.getD (p.poles.get i).requestTag) (p.poles.get i).zoneId
  have hreport := (poleReport_sets ((p.setPole i ((p.poles.get i).abandons cause)).startLowering i .abandonedRaise
    (lowerTag.getD (p.poles.get i).requestTag) (p.poles.get i).zoneId).1 .raiseAbandoned .warning i (p.poles.get i).requestTag
    (((p.poles.get i).abandons cause).abandonItems cause (retryFollows p.tables.timers ((p.poles.get i).abandons cause)))).spares.noneRaised
      (k := .poleSensor)
  rw [abandonRaise_eq]
  exact ((hset.andThen hstart).andThen hreport).andThen (houseIfClosed_noneRaised _ i)

theorem Part.Tail.noneRaised {p q : Part} (h : p.Tail q) : Part.NoneRaised .poleSensor p q := h.spares.noneRaised

theorem mateLower_noneRaised (p : Part) (i : PoleId) : Part.NoneRaised .poleSensor p (p.mateLower i).1 := by
  by_cases h : (p.tables.poleLimits.get i).mateLowering = true ∧ (p.poles.get (mateOf i)).onLine = true
  · rw [mateLower_lowers h.1 h.2]
    exact lower_noneRaised p _ _ _ _
  · rw [mateLower_idle h]
    exact fun _ hs => hs

theorem confirmDewired_noneRaised (p : Part) (i : PoleId) (basis : DewireBasis) (tag : Word) :
    Part.NoneRaised .poleSensor p (p.confirmDewired i basis tag) := by
  have hdrives := (drivesDewired_sets p i).spares.noneRaised (k := .poleSensor)
  have hraise := (poleRaise_sets (p.drivesDewired i) .poleDewired i i .none tag
    ((p.poles.get i).dewiredItems basis p.zones.effective.gapExpected)).spares.noneRaised (k := .poleSensor)
  have hreports : Part.NoneRaised .poleSensor p (p.reportsDewired i basis tag) :=
    (hdrives.andThen hraise).andThen (endFaultIf_noneRaised _ _ _ _ _ (by decide))
  rw [confirmDewired_eq]
  exact ((hreports.andThen (dewireNotice_tail _).noneRaised).andThen (mateLower_noneRaised _ i)).andThen (sendNotices_tail _ _).noneRaised

end Sys2Proof.Machine

/-! ## A pole's data frame (R69, R72, R74, R75, R82, R98) -/

namespace Sys2Proof.Machine

/-! ### What stays of a frame to the end of its event -/

/-- From `m` to `q` the pole's values stay those of its frame, it is not blind, and no source of POLE_SENSOR comes into force (R69, R82). -/
structure Part.KeepsFrame (i : PoleId) (m q : Part) : Prop where
  sensed : (q.poles.get i).sensed = (m.poles.get i).sensed
  blind : (q.poles.get i).blind = false
  sources : Part.NoneRaised .poleSensor m q

/-- The entry orders leave it. -/
theorem Part.KeepsFrame.ordered {i : PoleId} {m q : Part} (h : Part.KeepsFrame i m q) (o : Part) : Part.KeepsFrame i m (q.orderEntries o) := by
  have hpoles : (q.orderEntries o).poles = q.poles := (orderEntries_moves q o).drifts.only .poles (by decide)
  exact ⟨by rw [hpoles]; exact h.sensed, by rw [hpoles]; exact h.blind, h.sources.andThen (orderEntries_tail q o).noneRaised⟩

theorem lowered_blind (q : Pole) (p : Part) (i : PoleId) (cause : LoweringCause) (tag : Word) (zone : Option TagId) :
    (q.lowered p i cause tag zone).blind = false := by
  unfold Pole.lowered
  split
  · exact (afterHousing_fields _ p).2.2.1
  · rfl

theorem updateClaims_poles (p : Part) : p.updateClaims.poles = p.poles := (updateClaims_drifts p).only .poles (by decide)

/-- A field of a pole that neither a suspicion nor a dewirement writes. -/
theorem judge_field {α : Type} (m : Part) (i : PoleId) (f : Pole → α) (hs : ∀ (q : Pole) (p : Part), f (q.suspects p) = f q)
    (hd : ∀ (q : Pole) (p : Part), f (q.dewired p) = f q) : f ((m.judge i).poles.get i) = f (m.poles.get i) := by
  cases hf : (m.poles.get i).finding with
  | nothing => rw [judge_nothing hf]
  | suspect => rw [judge_suspect hf, updateClaims_poles, (becomeSuspect_poles m i).1, hs]
  | dewired basis => rw [judge_dewired hf, updateClaims_poles, confirmDewired_poles, hd]

theorem judge_keepsFrame {m : Part} {i : PoleId} (hb : (m.poles.get i).blind = false) : Part.KeepsFrame i m (m.judge i) := by
  refine ⟨judge_field m i Pole.sensed (fun _ _ => rfl) fun _ _ => rfl, ?_, ?_⟩
  · cases hf : (m.poles.get i).finding with
    | nothing => rw [judge_nothing hf, hb]
    | suspect =>
      rw [judge_suspect hf, updateClaims_poles, (becomeSuspect_poles m i).1]
      exact hb
    | dewired basis =>
      rw [judge_dewired hf, updateClaims_poles, confirmDewired_poles]
      rfl
  · cases hf : (m.poles.get i).finding with
    | nothing =>
      rw [judge_nothing hf]
      exact fun _ h => h
    | suspect =>
      have hset := (setPole_sets m i ((m.poles.get i).suspects m)).spares.noneRaised (k := .poleSensor)
      have htail := (sendNotices_tail (m.setPole i ((m.poles.get i).suspects m)) [{ pole := i, entered := .suspect }]).andThen (updateClaims_tail _)
      rw [judge_suspect hf]
      exact hset.andThen htail.noneRaised
    | dewired basis =>
      rw [judge_dewired hf]
      exact (confirmDewired_noneRaised m i basis 0).andThen (updateClaims_tail _).noneRaised

theorem abandonAlone_keepsFrame (m : Part) (i : PoleId) (cause : AbandonCause) : Part.KeepsFrame i m (m.abandonAlone i cause) := by
  have htail := closePoles_tail (m.abandonRaise i cause none).1 (m.abandonRaise i cause none).2
  have hrec := htail.record (abandonRaise_sets m i cause none).record (lowered_onLine _ _ _ _ _ _)
  refine ⟨?_, ?_, (abandonRaise_noneRaised m i cause none).andThen htail.noneRaised⟩
  · rw [Part.abandonAlone, hrec, Part.abandoned, lowered_sensed]
    rfl
  · rw [Part.abandonAlone, hrec, Part.abandoned, lowered_blind]

theorem setPole_keepsFrame {m : Part} {i : PoleId} {r : Pole} (hs : r.sensed = (m.poles.get i).sensed) (hb : r.blind = false) :
    Part.KeepsFrame i m (m.setPole i r) := by
  have hset := setPole_sets m i r
  exact ⟨by rw [hset.record, hs], by rw [hset.record, hb], hset.spares.noneRaised⟩

theorem refl_keepsFrame {m : Part} {i : PoleId} (hb : (m.poles.get i).blind = false) : Part.KeepsFrame i m m := ⟨rfl, hb, fun _ h => h⟩

/-! ### On the wire (R72, R98) -/

/-- What the test of the angles reads besides a pole's values. -/
theorem onWireNow_iff {p m : Part} {i : PoleId} {elevation : Nat} {lateral : Int} (htables : m.tables = p.tables)
    (hzones : m.zones.effective = p.zones.effective) (hvoltage : m.line.voltage = p.line.voltage)
    (he : (m.poles.get i).elevation = elevation) (hl : (m.poles.get i).lateral = lateral) : m.onWireNow i = true ↔ p.onWireAt i elevation lateral := by
  simp only [Part.onWireNow, Part.onWireAt, Part.lateralLimit, Bool.and_eq_true, decide_eq_true_eq, and_assoc, htables, hzones, hvoltage, he, hl]

theorem Part.Sets.voltage {i : PoleId} {r : Pole} {ks : List FaultKind} {rs : List ReportKind} {os : List DriveRole} {p q : Part}
    (h : Part.Sets i r ks rs os p q) : q.line.voltage = p.line.voltage :=
  field_of_own (show q.line.own = p.line.own from h.frame .line (by decide)) Line.voltage fun _ => rfl

theorem Part.Sets.effective {i : PoleId} {r : Pole} {ks : List FaultKind} {rs : List ReportKind} {os : List DriveRole} {p q : Part}
    (h : Part.Sets i r ks rs os p q) : q.zones.effective = p.zones.effective :=
  congrArg Zones.effective (show q.zones = p.zones from h.frame .zones (by decide))

theorem ceiling_congr {p m : Part} (htables : m.tables = p.tables) (hzones : m.zones = p.zones) (i : PoleId) : m.ceiling i = p.ceiling i := by
  simp only [Part.ceiling, htables, hzones]

/-! ### A RAISING pole's frame (R98) -/

section
variable {m : Part} {i : PoleId}

theorem raiseFrame_above (h : m.ceiling i < (m.poles.get i).elevation) : m.raiseFrame i = m.abandonAlone i .aboveBand := by
  rw [Part.raiseFrame]
  exact if_pos h

theorem raiseFrame_settled (h : ¬ m.ceiling i < (m.poles.get i).elevation) (hw : m.onWireNow i = true)
    (ht : (m.poles.get i).settleTimer.isRunning = true) : m.raiseFrame i = m := by
  rw [Part.raiseFrame]
  exact (if_neg h).trans ((if_pos hw).trans (if_pos ht))

theorem raiseFrame_settles (h : ¬ m.ceiling i < (m.poles.get i).elevation) (hw : m.onWireNow i = true)
    (ht : (m.poles.get i).settleTimer.isRunning = false) :
    m.raiseFrame i = m.setPole i { m.poles.get i with settleTimer := m.startTimer m.tables.timers.settleTime } := by
  rw [Part.raiseFrame]
  exact (if_neg h).trans ((if_pos hw).trans (if_neg (by simp [ht])))

theorem raiseFrame_off (h : ¬ m.ceiling i < (m.poles.get i).elevation) (hw : m.onWireNow i = false) :
    m.raiseFrame i = m.setPole i { m.poles.get i with settleTimer := .stopped } := by
  rw [Part.raiseFrame]
  exact (if_neg h).trans (if_neg (by simp [hw]))

end

theorem raiseFrame_keepsFrame {m : Part} {i : PoleId} (hb : (m.poles.get i).blind = false) : Part.KeepsFrame i m (m.raiseFrame i) := by
  by_cases h : m.ceiling i < (m.poles.get i).elevation
  · rw [raiseFrame_above h]
    exact abandonAlone_keepsFrame m i .aboveBand
  · cases hw : m.onWireNow i with
    | true =>
      cases ht : (m.poles.get i).settleTimer.isRunning with
      | true =>
        rw [raiseFrame_settled h hw ht]
        exact refl_keepsFrame hb
      | false =>
        rw [raiseFrame_settles h hw ht]
        exact setPole_keepsFrame rfl hb
    | false =>
      rw [raiseFrame_off h hw]
      exact setPole_keepsFrame rfl hb

theorem orderEntries_poles (q o : Part) : (q.orderEntries o).poles = q.poles := (orderEntries_moves q o).drifts.only .poles (by decide)

/-- The request of a raise: what its abandonment reports (R100). -/
def Pole.request (q : Pole) : Word × Nat × RaiseOrigin × Option TagId := (q.requestTag, q.retryCount, q.origin, q.zoneId)

/-- An abandoned raise, read from a part with the same request. -/
theorem Part.Reads.abandonsAlone {p m : Part} (h : p.Reads m) {i : PoleId} (hr : (m.poles.get i).request = (p.poles.get i).request)
    (cause : AbandonCause) (o : Part) : p.abandons ((m.abandonAlone i cause).orderEntries o) i cause := by
  simp only [Pole.request, Prod.mk.injEq] at hr
  obtain ⟨htag, hcount, horigin, hzone⟩ := hr
  exact h.abandons htag hcount horigin hzone (abandonAlone_end m i cause o).1

/-- The words of a RAISING pole's frame (R98), from the record stored. -/
theorem raiseFrame_words {p m : Part} {i : PoleId} {r : Pole} {ks : List FaultKind} {rs : List ReportKind} {os : List DriveRole} {e : Nat} {l : Int}
    (h : Part.Sets i r ks rs os p m) (he : r.elevation = e) (hl : r.lateral = l) (hs : r.state = .raising)
    (hsettle : r.settleTimer = (p.poles.get i).settleTimer) (hreq : r.request = (p.poles.get i).request) (o : Part) :
    p.raisingFrame ((m.raiseFrame i).orderEntries o) i e l := by
  have hceiling : m.ceiling i = p.ceiling i := ceiling_congr h.tables (h.frame .zones (by decide)) i
  have hwire : m.onWireNow i = true ↔ p.onWireAt i e l :=
    onWireNow_iff h.tables h.effective h.voltage (by rw [h.record]; exact he) (by rw [h.record]; exact hl)
  have hme : (m.poles.get i).elevation = e := by rw [h.record]; exact he
  have hset : ∀ x, ((m.setPole i x).orderEntries o).poles.get i = x := fun x => by
    rw [orderEntries_poles]
    exact (setPole_sets m i x).record
  refine ⟨fun habove => ?_, fun hbelow => ?_⟩
  · rw [raiseFrame_above (by rw [hceiling, hme]; exact habove)]
    exact h.reads.abandonsAlone (by rw [h.record]; exact hreq) _ o
  · have hn : ¬ m.ceiling i < (m.poles.get i).elevation := by
      rw [hceiling, hme]
      omega
    by_cases hw : p.onWireAt i e l
    · cases ht : r.settleTimer.isRunning with
      | true =>
        have hrec : (m.orderEntries o).poles.get i = r := by rw [orderEntries_poles, h.record]
        rw [raiseFrame_settled hn (hwire.mpr hw) (by rw [h.record]; exact ht), hrec]
        exact ⟨hs, fun _ => by rw [← hsettle, if_pos ht], fun hno => absurd hw hno⟩
      | false =>
        rw [raiseFrame_settles hn (hwire.mpr hw) (by rw [h.record]; exact ht), hset, h.record]
        refine ⟨hs, fun _ => ?_, fun hno => absurd hw hno⟩
        rw [← hsettle, if_neg (by simp [ht]), ← h.tables, ← h.startTimer]
    · rw [raiseFrame_off hn (by rw [← Bool.not_eq_true, hwire]; exact hw), hset, h.record]
      exact ⟨hs, fun hyes => absurd hyes hw, fun _ => rfl⟩

/-! ### A resolution on the angles (R72, R77) -/

/-- The fields of a pole that resolves ON_WIRE. -/
theorem resolvedAs_wire (q : Pole) (trip : Bool) : (q.resolvedAs .onWire trip).untagged.state = .onWire
    ∧ (q.resolvedAs .onWire trip).untagged.resolving = false ∧ (q.resolvedAs .onWire trip).untagged.resolutionTimer = .stopped
    ∧ (q.resolvedAs .onWire trip).untagged.indicators = { trip := trip } ∧ (q.resolvedAs .onWire trip).untagged.blind = q.blind
    ∧ (q.resolvedAs .onWire trip).untagged.sensed = q.sensed := ⟨rfl, rfl, rfl, rfl, rfl, rfl⟩

theorem resolvedAs_kept {s : PoleState} (h : s ≠ .onWire) (q : Pole) (trip : Bool) : (q.resolvedAs s trip).untagged.blind = false
    ∧ (q.resolvedAs s trip).untagged.sensed = q.sensed := by
  unfold Pole.resolvedAs Pole.untagged Pole.checkLatch Pole.sensed
  rw [if_neg h]
  split <;> exact ⟨rfl, rfl⟩

theorem finding_resolved (q : Pole) (trip : Bool) : (q.resolvedAs .onWire trip).untagged.finding = if trip then .dewired .trip else .nothing := by
  cases trip <;> rfl

section
variable {m : Part} {i : PoleId} (basis : Nat) (tag : Word)

/-- A notice of a pole on the wire, the poles kept. -/
theorem wireNotice_poles (q : Part) (i : PoleId) : (q.sendNotices [{ pole := i, entered := .onWire }]).poles = q.poles :=
  sendNotice_poles (n := { pole := i, entered := .onWire }) rfl q

theorem resolved_wire (h : m.tripClosed i = false) : m.resolved i .onWire basis tag
    = ((m.reportsResolved i .onWire basis).sendNotices [{ pole := i, entered := .onWire }]).updateClaims := by
  rw [resolved_eq, actOnSet_nothing]
  rw [wireNotice_poles, (reportsResolved_sets m i .onWire basis).record, finding_resolved, h]
  rfl

theorem resolved_trips (h : m.tripClosed i = true) : m.resolved i .onWire basis tag
    = (((m.reportsResolved i .onWire basis).sendNotices [{ pole := i, entered := .onWire }]).confirmDewired i .trip tag).updateClaims := by
  have hf : ((((m.reportsResolved i .onWire basis).sendNotices [{ pole := i, entered := .onWire }]).poles).get i).finding = .dewired .trip := by
    rw [wireNotice_poles, (reportsResolved_sets m i .onWire basis).record, finding_resolved, h]
    rfl
  rw [resolved_eq, Part.actOnSet, hf]

end

theorem confirmDewired_spares (p : Part) (i : PoleId) (basis : DewireBasis) (tag : Word) : p.Spares (dewireKinds ++ (lineKinds ++ loweringKinds))
    (.fault .poleDewired :: .auxShed :: .collectorChanged :: housingReports) (auxRoles ++ poleRoles .p ++ poleRoles .n)
    (p.confirmDewired i basis tag) :=
  ((reportsDewired_sets p i basis tag).spares.mono (by decide) (by decide) (by cases i <;> decide)).andThen (confirmDewired_after p i basis tag)
    (by decide) (by decide) (by cases i <;> decide)

section
variable {m : Part} {i : PoleId} {tag : Word}

theorem tryResolve_housed (hc : m.housedClosed i = true) (he : (m.poles.get i).elevation < (m.tables.poleLimits.get i).housed) :
    m.tryResolve i tag = m.resolved i .housed 0 tag := by
  rw [Part.tryResolve]
  exact if_pos (by simp [hc, he])

theorem tryResolve_wire (hn : m.housedClosed i = false ∨ (m.tables.poleLimits.get i).housed ≤ (m.poles.get i).elevation) (hw : m.onWireNow i = true) :
    m.tryResolve i tag = m.resolved i .onWire 0 tag := by
  rw [Part.tryResolve]
  refine (if_neg ?_).trans (if_pos hw)
  obtain hn | hn := hn
  · simp [hn]
  · simp [Nat.not_lt.mpr hn]

theorem tryResolve_waits (hn : m.housedClosed i = false ∨ (m.tables.poleLimits.get i).housed ≤ (m.poles.get i).elevation) (hw : m.onWireNow i = false) :
    m.tryResolve i tag = m := by
  rw [Part.tryResolve]
  refine (if_neg ?_).trans (if_neg (by simp [hw]))
  obtain hn | hn := hn
  · simp [hn]
  · simp [Nat.not_lt.mpr hn]

/-- The cases of a resolution on the angles. -/
theorem tryResolve_cases (m : Part) (i : PoleId) :
    (m.housedClosed i = true ∧ (m.poles.get i).elevation < (m.tables.poleLimits.get i).housed)
      ∨ (m.housedClosed i = false ∨ (m.tables.poleLimits.get i).housed ≤ (m.poles.get i).elevation) := by
  cases m.housedClosed i
  · exact .inr (.inl rfl)
  · exact (Nat.lt_or_ge _ _).imp (fun h => ⟨rfl, h⟩) .inr

end

/-- A pole resolved ON_WIRE without a trip, at the end of its event. -/
theorem resolved_wire_end {m : Part} {i : PoleId} (h : m.tripClosed i = false) (basis : Nat) (tag : Word) (o : Part) :
    ((m.resolved i .onWire basis tag).orderEntries o).poles.get i = ((m.poles.get i).resolvedAs .onWire false).untagged
      ∧ (m.reportsResolved i .onWire basis).Tail ((m.resolved i .onWire basis tag).orderEntries o) := by
  have hpoles := closeOne_poles (n := { pole := i, entered := .onWire }) rfl (m.reportsResolved i .onWire basis) o
  have hset := reportsResolved_sets m i .onWire basis
  rw [h] at hset
  rw [resolved_wire basis tag h]
  exact ⟨(congrArg (·.get i) hpoles).trans hset.record, close_tail _ _ _⟩

/-- A pole that resolves ON_WIRE and finds its trip contact CLOSED, at the end of its event (R77, R78). -/
theorem resolved_trips_end {m : Part} {i : PoleId} (h : m.tripClosed i = true) (basis : Nat) (tag : Word) (o : Part) :
    ((m.resolved i .onWire basis tag).orderEntries o).poles.get i = ((m.poles.get i).resolvedAs .onWire true).untagged.dewired m
      ∧ (m.reportsResolved i .onWire basis).Spares (dewireKinds ++ (lineKinds ++ loweringKinds))
          (.fault .poleDewired :: .auxShed :: .collectorChanged :: housingReports) (auxRoles ++ poleRoles .p ++ poleRoles .n)
          ((m.resolved i .onWire basis tag).orderEntries o)
      ∧ Part.NoneRaised .poleSensor (m.reportsResolved i .onWire basis) ((m.resolved i .onWire basis tag).orderEntries o) := by
  have hset := reportsResolved_sets m i .onWire basis
  have hnotice := sendNotices_tail (m.reportsResolved i .onWire basis) [{ pole := i, entered := .onWire }]
  rw [h] at hset
  rw [resolved_trips basis tag h]
  have hend := endsEvent_tail (((m.reportsResolved i .onWire basis).sendNotices [{ pole := i, entered := .onWire }]).confirmDewired i .trip tag) o
  have hrec := hend.record (confirmDewired_poles ((m.reportsResolved i .onWire basis).sendNotices [{ pole := i, entered := .onWire }]) i .trip tag) rfl
  rw [wireNotice_poles, hset.record] at hrec
  refine ⟨hrec.trans ?_, ?_, (hnotice.noneRaised.andThen (confirmDewired_noneRaised _ i .trip tag)).andThen hend.noneRaised⟩
  · simp only [Pole.dewired, Part.startTimer, hnotice.now, hnotice.tables, hset.now, hset.tables]
  · exact ((hnotice.spares.mono (by decide) (by decide) (by decide)).andThen (confirmDewired_spares _ i .trip tag) (fun _ => id) (fun _ => id)
      fun _ => id).andThen hend.spares (by decide) (by decide) (by decide)

theorem tryResolve_keepsFrame {m : Part} {i : PoleId} {tag : Word} (hb : (m.poles.get i).blind = false) (o : Part) :
    Part.KeepsFrame i m ((m.tryResolve i tag).orderEntries o) := by
  have hreport : ∀ s, Part.NoneRaised .poleSensor m (m.reportsResolved i s 0) := fun s => (reportsResolved_sets m i s 0).spares.noneRaised
  obtain ⟨hc, he⟩ | hn := tryResolve_cases m i
  · obtain ⟨hrec, -, -, htail⟩ := resolved_end (s := .housed) (by decide) (by decide) m i 0 tag o
    obtain ⟨hblind, hsensed⟩ := resolvedAs_kept (s := .housed) (by decide) (m.poles.get i) (m.tripClosed i)
    rw [tryResolve_housed hc he]
    exact ⟨by rw [hrec, hsensed], by rw [hrec, hblind], (hreport .housed).andThen htail.noneRaised⟩
  · cases hw : m.onWireNow i with
    | false =>
      rw [tryResolve_waits hn hw]
      exact (refl_keepsFrame hb).ordered o
    | true =>
      rw [tryResolve_wire hn hw]
      cases ht : m.tripClosed i with
      | false =>
        obtain ⟨hrec, htail⟩ := resolved_wire_end ht 0 tag o
        exact ⟨by rw [hrec]; rfl, by rw [hrec]; exact hb, (hreport .onWire).andThen htail.noneRaised⟩
      | true =>
        obtain ⟨hrec, -, hnone⟩ := resolved_trips_end ht 0 tag o
        exact ⟨by rw [hrec]; rfl, by rw [hrec]; rfl, (hreport .onWire).andThen hnone⟩

/-- The attempt of a pole at `m`, in the words about `p`, of which `m` has what the attempt looks at. -/
theorem triesToResolve_of {p m : Part} {i : PoleId} {e : Nat} {l : Int} (htables : m.tables = p.tables)
    (hwire : m.onWireNow i = true ↔ p.onWireAt i e l) (hclosed : m.housedClosed i = p.housedClosed i) (htrip : m.tripClosed i = p.tripClosed i)
    (hme : (m.poles.get i).elevation = e) (hs : (m.poles.get i).state = (p.poles.get i).state) (hres : (m.poles.get i).resolving = true)
    (hmtag : (m.poles.get i).resolveTag = (p.poles.get i).resolveTag) (tag : Word) (o : Part) :
    p.triesToResolve ((m.tryResolve i tag).orderEntries o) i e l := by
  have hlimits : (m.tables.poleLimits.get i).housed = (p.tables.poleLimits.get i).housed := by rw [htables]
  have hn : p.housedClosed i = false ∨ (p.tables.poleLimits.get i).housed ≤ e →
      m.housedClosed i = false ∨ (m.tables.poleLimits.get i).housed ≤ (m.poles.get i).elevation := by
    rw [hclosed, hlimits, hme]
    exact id
  refine ⟨fun hc hlow => ?_, fun hno hw => ?_, fun hno hw => ?_⟩
  · obtain ⟨hrec, -, -, htail⟩ := resolved_end (s := .housed) (by decide) (by decide) m i 0 tag o
    obtain ⟨hstate, hresolving, htimer, -⟩ := resolvedAs_off (s := .housed) (by decide) (m.poles.get i) (m.tripClosed i)
    have htells := htail.spares.tells (by decide) (reportsResolved_tells m i .housed 0)
    rw [hmtag] at htells
    rw [tryResolve_housed (by rw [hclosed, hc]) (by rw [hme, hlimits]; exact hlow)]
    exact ⟨by rw [hrec, hstate], by rw [hrec, hresolving], by rw [hrec, htimer], htells⟩
  · have hreport := reportsResolved_tells m i .onWire 0
    rw [hmtag] at hreport
    rw [tryResolve_wire (hn hno) (hwire.mpr hw)]
    cases ht : m.tripClosed i with
    | false =>
      obtain ⟨hrec, htail⟩ := resolved_wire_end ht 0 tag o
      have htells := htail.spares.tells (by decide) hreport
      exact ⟨by rw [hrec]; rfl, by rw [hrec]; rfl, htells, fun _ => ⟨by rw [hrec]; rfl, by rw [hrec]; rfl⟩,
        fun hp => absurd (htrip.trans hp) (by simp [ht])⟩
    | true =>
      obtain ⟨hrec, hspares, -⟩ := resolved_trips_end ht 0 tag o
      have htells := hspares.tells (by decide) hreport
      exact ⟨by rw [hrec]; rfl, by rw [hrec]; rfl, htells, fun hp => absurd (htrip.trans hp) (by simp [ht]),
        fun _ => ⟨by rw [hrec]; rfl, by rw [hrec]; rfl⟩⟩
  · rw [tryResolve_waits (hn hno) (by rw [← Bool.not_eq_true, hwire]; exact hw), orderEntries_poles]
    exact ⟨hs, hres⟩

/-- The words of a resolution on the angles (R72), from the record stored. -/
theorem tryResolve_words {p m : Part} {i : PoleId} {r : Pole} {ks : List FaultKind} {rs : List ReportKind} {os : List DriveRole} {e : Nat} {l : Int}
    (h : Part.Sets i r ks rs os p m) (he : r.elevation = e) (hl : r.lateral = l) (hs : r.state = (p.poles.get i).state) (hres : r.resolving = true)
    (htag : r.resolveTag = (p.poles.get i).resolveTag) (tag : Word) (o : Part) :
    p.triesToResolve ((m.tryResolve i tag).orderEntries o) i e l :=
  triesToResolve_of h.tables
    (onWireNow_iff h.tables h.effective h.voltage (by rw [h.record]; exact he) (by rw [h.record]; exact hl))
    (h.housedClosed i) (h.tripClosed i) (by rw [h.record]; exact he) (by rw [h.record]; exact hs) (by rw [h.record]; exact hres)
    (by rw [h.record]; exact htag) tag o

end Sys2Proof.Machine

/-! ## Pole sensor frames delivered (R69, R74, R75, R81, R82) -/

namespace Sys2Proof.Machine

/-- The links set. -/
def Part.withLinks (p : Part) (x : Links) : Part := { p with links := x }

theorem withLinks_only (p : Part) (x : Links) : p.onlyChanges [.links] (p.withLinks x) := (moves_links p x).drifts.only

theorem withLinks_sets (p : Part) (x : Links) (i : PoleId) : Part.Sets i (p.poles.get i) [] [] [] p (p.withLinks x) :=
  ((withLinks_only p x).spares (ks := []) (rs := []) (os := [])).sets (withLinks_only p x) i

theorem setPole_only (p : Part) (i : PoleId) (r : Pole) : p.onlyChanges [.poles] (p.setPole i r) := fun x hx => by
  cases x <;> simp_all [Part.same, Part.setPole]

/-! ### A data frame -/

/-- A frame stored (R69). -/
def Part.storesFrame (p : Part) (i : PoleId) (c : SensorCondition) (e : Nat) (l : Int) : Part :=
  { p with freeUses := if (p.poles.get i).haveFrame && p.since (p.poles.get i).frameTime == 0 then p.freeUses + 1 else p.freeUses }.setPole i
    ((p.poles.get i).store (frameRate p (p.poles.get i) e) p.now e l c)

/-- A frame stored, and the end of a blind pole's fault (R69, R82). -/
def Part.takesFrame (p : Part) (i : PoleId) (c : SensorCondition) (e : Nat) (l : Int) : Part :=
  if (p.poles.get i).blind then (p.storesFrame i c e l).endFault .poleSensor (poleSource i .blind) else p.storesFrame i c e l

/-- What a stored frame brings (R72, R74, R75, R98). -/
def Part.usesFrame (m : Part) (i : PoleId) (q : Pole) : Part :=
  if q.onLine then (m.angleIndicators i).judge i else if q.state == .raising then m.raiseFrame i
  else if q.resolving then m.tryResolve i 0 else m

theorem poleData_eq {p : Part} {i : PoleId} (h : (p.poles.get i).state ≠ .untracked ∨ p.mode ≠ .halt) (c : SensorCondition) (e : Nat) (l : Int) :
    p.poleData i c e l = (p.takesFrame i c e l).usesFrame i (p.poles.get i) := by
  rw [Part.poleData]
  refine if_neg ?_
  simp only [Bool.and_eq_true, beq_iff_eq, not_and_or]
  exact h

section
variable (p : Part) (i : PoleId) (c : SensorCondition) (e : Nat) (l : Int)

theorem storesFrame_only : p.onlyChanges [.poles, .free] (p.storesFrame i c e l) := fun x hx => by
  cases x <;> simp_all [Part.same, Part.storesFrame, Part.setPole]

theorem storesFrame_sets : Part.Sets i ((p.poles.get i).store (frameRate p (p.poles.get i) e) p.now e l c) [] [] [] p (p.storesFrame i c e l) := by
  have honly := storesFrame_only p i c e l
  exact ⟨PerPole.get_set_same _ _ _, fun j hj => PerPole.get_set_other _ _ _ _ hj, honly.spares, .of_mbx rfl, Part.onlyChanges_mono honly (by decide)⟩

theorem takesFrame_sets : Part.Sets i ((p.poles.get i).store (frameRate p (p.poles.get i) e) p.now e l c) [.poleSensor] [] [] p
    (p.takesFrame i c e l) :=
  ((storesFrame_sets p i c e l).mono (ks' := [.poleSensor]) (rs' := []) (os' := [])).endFaultIf _ .poleSensor (poleSource i .blind)

theorem takesFrame_only : p.onlyChanges [.links, .poles, .outputs, .records, .free] (p.takesFrame i c e l) := by
  have honly : p.onlyChanges [.links, .poles, .outputs, .records, .free] (p.storesFrame i c e l) :=
    Part.onlyChanges_mono (storesFrame_only p i c e l) (by decide)
  unfold Part.takesFrame
  split
  · exact honly.thenMoves (endFault_moves _ _ _)
  · exact honly

theorem takesFrame_ended (h : (p.poles.get i).blind = true) : (p.takesFrame i c e l).endedFault .poleSensor (aboutPole i .blind) := by
  rw [Part.takesFrame, if_pos h]
  exact endFault_endedFault _ _ _

end

/-! ### The angle indicators (R74, R75) -/

/-- A pole with the run and the set of its frame (R74, R75). -/
def Pole.judged (q : Pole) (run : Nat) (ind : Indicators) : Pole :=
  { q with rateRun := run, indicators := ind, seen := if q.state == .suspect then q.seen.union ind else q.seen }

theorem angleIndicators_eq {p m : Part} {i : PoleId} {e : Nat} {l : Int} {c : SensorCondition} (htables : m.tables = p.tables)
    (hzones : m.zones = p.zones) (hrec : m.poles.get i = (p.poles.get i).store (frameRate p (p.poles.get i) e) p.now e l c) :
    m.angleIndicators i = m.setPole i ((m.poles.get i).judged (p.frameRun i e) (p.frameSet i e l)) := by
  have hlateral : m.lateralLimit i = p.lateralLimit i := by simp only [Part.lateralLimit, hzones, htables]
  have hrun : (m.poles.get i).nextRun (m.tables.poleLimits.get i).rateLimit = p.frameRun i e := by
    rw [hrec, htables]
    rfl
  have hset : { (m.poles.get i).indicators with
      elevHigh := decide (m.ceiling i < (m.poles.get i).elevation), lateral := decide (m.lateralLimit i < (m.poles.get i).lateral.natAbs),
      elevRate := decide ((m.tables.poleLimits.get i).rateFrames ≤ (m.poles.get i).nextRun (m.tables.poleLimits.get i).rateLimit) }
      = p.frameSet i e l := by
    rw [hrun, ceiling_congr htables hzones, hlateral, hrec, htables]
    rfl
  unfold Part.angleIndicators
  dsimp only
  rw [hset, hrun]
  rfl

/-! ### The words of a data frame -/

/-- What a frame's uses keep of it. -/
theorem usesFrame_keepsFrame {m : Part} {i : PoleId} (hb : (m.poles.get i).blind = false) (q : Pole) (o : Part) :
    Part.KeepsFrame i m ((m.usesFrame i q).orderEntries o) := by
  unfold Part.usesFrame
  split
  · have hset : Part.KeepsFrame i m (m.angleIndicators i) := setPole_keepsFrame rfl hb
    have hjudge := judge_keepsFrame (m := m.angleIndicators i) (i := i) hset.blind
    have hboth : Part.KeepsFrame i m ((m.angleIndicators i).judge i) :=
      ⟨hjudge.sensed.trans hset.sensed, hjudge.blind, hset.sources.andThen hjudge.sources⟩
    exact hboth.ordered o
  · split
    · exact (raiseFrame_keepsFrame hb).ordered o
    · split
      · exact tryResolve_keepsFrame hb o
      · exact (refl_keepsFrame hb).ordered o

/-- R69, R72, R74, R75, R78, R79, R82, R98: a pole's data frame, in a part whose links have taken it. -/
theorem poleData_takes (p : Part) (x : Links) (i : PoleId) (c : SensorCondition) (e : Nat) (l : Int) (h : p.mode ≠ .halt) :
    p.takesPoleData (((p.withLinks x).poleData i c e l).orderEntries p) i c e l := by
  have hstored := takesFrame_sets (p.withLinks x) i c e l
  have hsets : Part.Sets i ((p.poles.get i).store (frameRate p (p.poles.get i) e) p.now e l c) [.poleSensor] [] [] p
      ((p.withLinks x).takesFrame i c e l) :=
    ((withLinks_sets p x i).mono (ks' := [.poleSensor]) (rs' := []) (os' := [])).andThen hstored
  have hrec := hsets.record
  have hblind : (((p.withLinks x).takesFrame i c e l).poles.get i).blind = false := by rw [hrec]; rfl
  have hkeeps := usesFrame_keepsFrame hblind (p.poles.get i) p
  have hsensed := hkeeps.sensed
  rw [hrec] at hsensed
  simp only [Pole.sensed, Pole.store, Prod.mk.injEq] at hsensed
  obtain ⟨havailable, hcondition, helevation, hlateral, htime⟩ := hsensed
  have huses : (p.withLinks x).poleData i c e l = ((p.withLinks x).takesFrame i c e l).usesFrame i (p.poles.get i) :=
    poleData_eq (p := p.withLinks x) (.inr h) c e l
  rw [huses]
  have hended : (p.poles.get i).blind = true → ((((p.withLinks x).takesFrame i c e l).usesFrame i (p.poles.get i)).orderEntries p).endedFault
      .poleSensor (aboutPole i .blind) := fun hb => hkeeps.sources _ (takesFrame_ended (p.withLinks x) i c e l hb)
  refine ⟨helevation, hlateral, htime, hcondition, havailable, hkeeps.blind, hended, fun hon => ?_, fun hs => ?_, fun hon hs hres => ?_,
    fun hon hs hres => ?_⟩
  · have hangle := angleIndicators_eq (p := p) (m := (p.withLinks x).takesFrame i c e l) hsets.tables (hsets.frame .zones (by decide)) hrec
    have huse : ((p.withLinks x).takesFrame i c e l).usesFrame i (p.poles.get i)
        = (((p.withLinks x).takesFrame i c e l).angleIndicators i).judge i := if_pos hon
    have hjudged := hsets.setPole ((((p.withLinks x).takesFrame i c e l).poles.get i).judged (p.frameRun i e) (p.frameSet i e l))
    rw [← hangle, hrec] at hjudged
    refine ⟨?_, ?_⟩
    · rw [huse, orderEntries_poles, judge_field _ _ Pole.rateRun (fun _ _ => rfl) fun _ _ => rfl, hjudged.record]
      rfl
    · rw [huse]
      exact looks_of_judge hjudged (by decide) ⟨rfl, rfl, rfl, rfl, rfl, fun hs => by simp [Pole.judged, Pole.store, hs]⟩ hon p
  · have huse : ((p.withLinks x).takesFrame i c e l).usesFrame i (p.poles.get i) = ((p.withLinks x).takesFrame i c e l).raiseFrame i :=
      (if_neg (by simp [Pole.onLine, hs])).trans (if_pos (by simp [hs]))
    rw [huse]
    exact raiseFrame_words hsets rfl rfl hs rfl rfl p
  · have huse : ((p.withLinks x).takesFrame i c e l).usesFrame i (p.poles.get i) = ((p.withLinks x).takesFrame i c e l).tryResolve i 0 :=
      (if_neg (by simp [hon])).trans ((if_neg (by simp [hs])).trans (if_pos hres))
    rw [huse]
    exact tryResolve_words hsets rfl rfl rfl hres rfl 0 p
  · have huse : ((p.withLinks x).takesFrame i c e l).usesFrame i (p.poles.get i) = (p.withLinks x).takesFrame i c e l :=
      (if_neg (by simp [hon])).trans ((if_neg (by simp [hs])).trans (if_neg (by simp [hres])))
    have honly : p.onlyChanges [.links, .poles, .outputs, .records, .free] ((p.withLinks x).takesFrame i c e l) :=
      (Part.onlyChanges_mono (withLinks_only p x) (by decide)).andThen (takesFrame_only (p.withLinks x) i c e l)
    have hidle : ((p.withLinks x).takesFrame i c e l).orderEntries p = (p.withLinks x).takesFrame i c e l := orderEntries_of_only honly
    rw [huse, hidle]
    exact ⟨by rw [hrec]; rfl, honly⟩

/-! ### A sensor lost -/

/-- R69, R81, R100: a sensor stops giving data, in a part whose links say so. -/
theorem sensorLost_loses (p : Part) (x : Links) (i : PoleId) (link : LinkState) (c : SensorCondition) :
    p.losesSensor (((p.withLinks x).sensorLost i link c).orderEntries p) i link c := by
  have hsensed := sensorLost_sensed (p.withLinks x) i link c
  simp only [Pole.sensed, Prod.mk.injEq] at hsensed
  obtain ⟨havailable, hcondition, helevation, hlateral, -⟩ := hsensed
  have hset : ∀ r, Part.Sets i r [] [] [] p ((p.withLinks x).setPole i r) := fun r => (withLinks_sets p x i).setPole r
  have honly : ∀ r, p.onlyChanges [.links, .poles] ((p.withLinks x).setPole i r) := fun r =>
    (Part.onlyChanges_mono (withLinks_only p x) (by decide)).andThen (setPole_only (p.withLinks x) i r)
  have hidle : ∀ r, ((p.withLinks x).setPole i r).orderEntries p = (p.withLinks x).setPole i r := fun r => orderEntries_of_only (honly r)
  refine ⟨?_, ?_, ?_, ?_, fun h => ?_, fun h hon => ?_, fun h hs => ?_⟩
  · rw [orderEntries_poles, havailable]
  · rw [orderEntries_poles, hcondition]
  · rw [orderEntries_poles, helevation]
    rfl
  · rw [orderEntries_poles, hlateral]
    rfl
  · obtain h | ⟨hon, hs⟩ := h
    · rw [sensorLost_already (p := p.withLinks x) link c h, hidle, (hset _).record]
      exact ⟨rfl, honly _⟩
    · cases hv : (p.poles.get i).sensorAvailable with
      | false =>
        rw [sensorLost_already (p := p.withLinks x) link c hv, hidle, (hset _).record]
        exact ⟨rfl, honly _⟩
      | true =>
        rw [sensorLost_elsewhere (p := p.withLinks x) link c hv hon hs, hidle, (hset _).record]
        exact ⟨rfl, honly _⟩
  · have hblind := hset ((p.poles.get i).goesBlind c)
    have hraise := raise_moves ((p.withLinks x).setPole i ((p.poles.get i).goesBlind c)) (blindRaise i link c)
    have hidle : (((p.withLinks x).setPole i ((p.poles.get i).goesBlind c)).raise (blindRaise i link c)).orderEntries p
        = ((p.withLinks x).setPole i ((p.poles.get i).goesBlind c)).raise (blindRaise i link c) :=
      orderEntries_of_only ((Part.onlyChanges_mono hblind.frame (by decide) : p.onlyChanges settingPieces _).thenMoves hraise)
    have hrec : (((p.withLinks x).setPole i ((p.poles.get i).goesBlind c)).raise (blindRaise i link c)).poles.get i = (p.poles.get i).goesBlind c :=
      (congrArg (·.get i) (show _ = ((p.withLinks x).setPole i ((p.poles.get i).goesBlind c)).poles from hraise.drifts.only .poles (by decide))).trans
        hblind.record
    have hactivated := activated_of_raise ((p.withLinks x).setPole i ((p.poles.get i).goesBlind c)) (blindRaise i link c)
      (show FaultKind.poleSensor ≠ .alarmOutput by decide)
    have hlost : (p.withLinks x).sensorLost i link c = ((p.withLinks x).setPole i ((p.poles.get i).goesBlind c)).raise (blindRaise i link c) :=
      sensorLost_blind (p := p.withLinks x) link c h hon
    rw [hlost, hidle, hrec]
    exact ⟨rfl, rfl, rfl, rfl, Part.Spares.activated hactivated hblind.spares (Part.Spares.refl [] [] [] _) rfl⟩
  · have hreads := (hset ((p.poles.get i).losesData c)).reads
    rw [sensorLost_raising (p := p.withLinks x) link c h hs]
    exact hreads.abandonsAlone (by rw [(hset _).record]; rfl) .sensorLost p

end Sys2Proof.Machine

/-! ## Converter frames delivered (R48 to R57) -/

namespace Sys2Proof.Machine

/-! ### What the events of the poles leave of the line's values -/

/-- From `p` to `q` the line's last values stay, and a budget in balance stays in balance (R48, R61). -/
structure Part.KeepsLine (p q : Part) : Prop where
  voltage : q.line.voltage = p.line.voltage
  current : q.line.current = p.line.current
  balanced : p.line.balanced p.tables → q.line.balanced q.tables

theorem Part.KeepsLine.refl (p : Part) : p.KeepsLine p := ⟨rfl, rfl, id⟩

theorem Part.KeepsLine.andThen {p q r : Part} (h : p.KeepsLine q) (k : q.KeepsLine r) : p.KeepsLine r :=
  ⟨k.voltage.trans h.voltage, k.current.trans h.current, fun hb => k.balanced (h.balanced hb)⟩

theorem Part.KeepsLine.of_line {p q : Part} (hl : q.line = p.line) (ht : q.tables = p.tables) : p.KeepsLine q :=
  ⟨by rw [hl], by rw [hl], balanced_of_same hl ht⟩

theorem Part.onlyChanges.keepsLine {p q : Part} {xs : List Piece} (h : p.onlyChanges xs q)
    (hx : [Piece.line, .budget, .tables].all (fun x => !xs.contains x) = true := by decide) : p.KeepsLine q := by
  simp only [List.all_cons, List.all_nil, Bool.and_true, Bool.and_eq_true, Bool.not_eq_true'] at hx
  obtain ⟨hline, hbudget, htables⟩ := hx
  exact .of_line (line_of_moves h (by rw [hline, hbudget]; rfl)) (h .tables (by simpa using htables))

theorem Part.Sets.keepsLine {i : PoleId} {r : Pole} {ks : List FaultKind} {rs : List ReportKind} {os : List DriveRole} {p q : Part}
    (h : Part.Sets i r ks rs os p q) : p.KeepsLine q := h.frame.keepsLine

theorem lineMove_keepsLine (p : Part) (new : LineState) (g : Option GapEnd) : p.KeepsLine (p.lineMove new g) := by
  have hown : ∃ l : Line, (p.lineMove new g).line.own = l.own ∧ l.voltage = p.line.voltage ∧ l.current = p.line.current := by
    by_cases h : p.line.state = new
    · exact ⟨p.line, lineMove_own_same h g, rfl, rfl⟩
    · exact ⟨p.line.enter p new, lineMove_own h g, rfl, rfl⟩
  obtain ⟨l, hl, hv, hi⟩ := hown
  exact ⟨by rw [field_of_own hl Line.voltage fun _ => rfl, hv], by rw [field_of_own hl Line.current fun _ => rfl, hi],
    fun _ => lineMove_balanced p new g⟩

theorem copies_keepsLine (p : Part) (i : PoleId) (s : PoleState) : p.KeepsLine (p.copies i s) := ⟨rfl, rfl, id⟩

theorem restoreTest_keepsLine (p : Part) : p.KeepsLine p.restoreTest := ⟨rfl, rfl, restoreTest_balanced⟩

theorem linePoleNotice_keepsLine (p : Part) (i : PoleId) (s : PoleState) : p.KeepsLine (p.linePoleNotice i s) := by
  obtain h | h | ⟨g, h⟩ | ⟨-, h⟩ := linePoleNotice_answers p i s <;> rw [h]
  · exact copies_keepsLine p i s
  · exact (copies_keepsLine p i s).andThen (restoreTest_keepsLine _)
  · exact (copies_keepsLine p i s).andThen (lineMove_keepsLine _ _ _)
  · exact ((copies_keepsLine p i s).andThen (lineMove_keepsLine _ _ _)).andThen (restoreTest_keepsLine _)

theorem sendNotices_keepsLine (p : Part) (ns : List PoleNotice) : p.KeepsLine (p.sendNotices ns) := by
  induction ns generalizing p with
  | nil => exact .refl p
  | cons n ns ih =>
    have hone : p.KeepsLine (p.sendNotice n) := (linePoleNotice_keepsLine p n.pole n.entered).andThen (sendNotice_only p n).keepsLine
    exact hone.andThen (ih (p.sendNotice n))

theorem dewireNotice_keepsLine (p : Part) : p.KeepsLine p.dewireNotice := by
  have hstops : p.KeepsLine { p with line := { p.line with gapTimer := .stopped, restoreTimer := .stopped, highTimer := .stopped } } := ⟨rfl, rfl, id⟩
  exact hstops.andThen (lineMove_keepsLine _ .lost _)

theorem confirmDewired_keepsLine (p : Part) (i : PoleId) (basis : DewireBasis) (tag : Word) : p.KeepsLine (p.confirmDewired i basis tag) := by
  obtain ⟨r, hmate⟩ := mateLower_sets (p.reportsDewired i basis tag).dewireNotice i
  rw [confirmDewired_eq]
  exact (((reportsDewired_sets p i basis tag).keepsLine.andThen (dewireNotice_keepsLine _)).andThen hmate.keepsLine).andThen (sendNotices_keepsLine _ _)

theorem actOnSet_keepsLine (p : Part) (i : PoleId) (tag : Word) : p.KeepsLine (p.actOnSet i tag) := by
  unfold Part.actOnSet
  split
  · exact .refl p
  · exact (setPole_sets p i _).keepsLine.andThen (sendNotices_keepsLine _ _)
  · exact confirmDewired_keepsLine p i _ tag

theorem judgeBoth_keepsLine (p : Part) : p.KeepsLine p.judgeBoth := by
  unfold Part.judgeBoth
  split
  · exact .refl p
  · exact ((actOnSet_keepsLine p .p 0).andThen (actOnSet_keepsLine _ .n 0)).andThen (updateClaims_drifts _).only.keepsLine

theorem judgeBoth_nothing {p : Part} (h : ∀ x, (p.poles.get x).finding = .nothing) : p.judgeBoth = p := if_pos ⟨h .p, h .n⟩

/-! ### A gap's end at the poles (R76, R78) -/

theorem count_ungapped (x : Indicators) : x.count = { x with lineGap := false }.count + flagCode x.lineGap := by
  simp only [Indicators.count, show flagCode false = 0 from rfl]
  omega

/-- A set that calls for nothing calls for nothing when a gap has ended. -/
theorem finding_noteGap {q : Pole} (h : q.finding = .nothing) : (q.noteGap false).finding = .nothing := by
  rw [Pole.noteGap]
  split
  next hon =>
    have hle := count_ungapped q.indicators
    rw [Pole.finding, if_pos hon] at h
    split at h
    · exact absurd h (by simp)
    next ht =>
      split at h
      · exact absurd h (by simp)
      next hc =>
        split at h
        · exact absurd h (by simp)
        next hs =>
          refine finding_nothing (by simpa using ht) (by simp only; omega) fun hw => .inl ?_
          have hwire : q.state = .onWire := hw
          by_cases hone : q.indicators.count = 1
          · have hgap : q.indicators.lineGap = true := by
              simp only [hwire, hone, beq_self_eq_true, Bool.and_self, Bool.true_and, Bool.not_eq_true', Bool.not_eq_false, Bool.and_eq_true] at hs
              exact hs.1
            rw [hgap, hone] at hle
            exact Nat.add_right_cancel hle.symm
          · simp only
            omega
  · exact h

theorem finding_congr {q r : Pole} (hs : q.state = r.state) (hi : q.indicators = r.indicators) (hg : q.gapSpent = r.gapSpent) :
    q.finding = r.finding := by
  unfold Pole.finding Pole.onLine
  rw [hs, hi, hg]

theorem noteGap_onLine {q : Pole} (h : q.onLine = true) (b : Bool) : (q.noteGap b).indicators = { q.indicators with lineGap := b }
    ∧ (q.noteGap b).gapSpent = false := by
  rw [Pole.noteGap, if_pos h]
  exact ⟨rfl, rfl⟩

/-- The same where the gap has begun in the same event. -/
theorem finding_noteGap_both {q : Pole} (h : q.finding = .nothing) : ((q.noteGap true).noteGap false).finding = .nothing := by
  cases hon : q.onLine with
  | false => rw [noteGap_offLine hon, noteGap_offLine hon, h]
  | true =>
    have hon' : (q.noteGap true).onLine = true := by rw [Pole.onLine, noteGap_state]; exact hon
    obtain ⟨hi, -⟩ := noteGap_onLine hon true
    obtain ⟨hi', hs'⟩ := noteGap_onLine hon' false
    obtain ⟨hi'', hs''⟩ := noteGap_onLine hon false
    rw [finding_congr (r := q.noteGap false) (by rw [noteGap_state, noteGap_state, noteGap_state]) (by rw [hi', hi, hi'']) (by rw [hs', hs''])]
    exact finding_noteGap h

/-- The poles of a line that leaves GAP (R76). -/
theorem lineMove_poles_leaves {p : Part} {new : LineState} (h : p.line.state = .gap) (hnew : new ≠ .gap) (g : Option GapEnd) (x : PoleId) :
    (p.lineMove new g).poles.get x = (p.poles.get x).noteGap false := by
  rw [lineMove_poles (fun he => hnew (he.symm.trans h)), notePolesGap, if_neg (by simpa using hnew), if_pos (by simp [h])]
  cases x <;> rfl

/-- The poles of a line that enters GAP (R76). -/
theorem lineMove_poles_enters {p : Part} (h : p.line.state ≠ .gap) (g : Option GapEnd) (x : PoleId) :
    (p.lineMove .gap g).poles.get x = if p.line.gap.expected then p.poles.get x else (p.poles.get x).noteGap true := by
  rw [lineMove_poles h, notePolesGap, if_pos (by simp)]
  split <;> cases x <;> rfl

/-! ### The cases of a frame (R48 to R57) -/

/-- The line's values stored (R48). -/
def Part.measured (p : Part) (x : Links) (v : Nat) (i : Int) : Part := { p.withLinks x with line := { p.line with voltage := v, current := i } }

theorem measured_only (p : Part) (x : Links) (v : Nat) (i : Int) : p.onlyChanges [.links, .line] (p.measured x v i) := fun y hy => by
  cases y <;> simp_all [Part.same, Part.measured, Part.withLinks]

theorem lineData_eq (p : Part) (x : Links) (v : Nat) (i : Int) : (p.withLinks x).lineData v i = (p.measured x v i).lineClassify := rfl

section
variable {b : Part}

/-- A frame at a supplied line, by its voltage (R49, R50, R54). -/
theorem lineClassify_supplied (h : b.line.state.supplied = true) : b.lineClassify =
    if b.line.voltage < 4 * b.tables.lineLimits.gapThreshold then (if b.bothDownBound then b.lineMove .offWire none else b.gapEntry)
    else if classify b.tables.lineLimits b.line.state b.line.voltage = b.line.state then
      (if b.line.state = .sag then b.recompute else b)
    else b.lineMove (classify b.tables.lineLimits b.line.state b.line.voltage) none := by
  unfold Part.lineClassify
  cases hs : b.line.state <;> simp_all [LineState.supplied]

theorem lineClassify_gap (h : b.line.state = .gap) : b.lineClassify =
    if b.line.voltage < 4 * b.tables.lineLimits.gapThreshold then b.gapDraw else b.gapDraw.gapBridged := by
  unfold Part.lineClassify
  simp [h]

theorem lineClassify_lost (h : b.line.state = .lost) : b.lineClassify = b.restoreTest := by
  unfold Part.lineClassify
  simp [h]

theorem lineClassify_offWire (h : b.line.state = .offWire) : b.lineClassify = b := by
  unfold Part.lineClassify
  simp [h]

theorem lineClassify_unknown (h : b.line.state = .unknown) :
    b.lineClassify = if b.bothHoused then b.lineMove .offWire none else b.restoreTest := by
  unfold Part.lineClassify
  simp [h]

end

end Sys2Proof.Machine

/-! ## The line's gaps (R50 to R52, R76, R78) -/

namespace Sys2Proof.Machine

/-! ### The draw test (R51) -/

/-- The gap with its peak current, and whether GAP_DRAW has been raised (R51). -/
def Part.peaks (b : Part) : Part :=
  { b with line := { b.line with gap := { b.line.gap with
      peak := max b.line.gap.peak b.line.current.natAbs
      drawRaised := b.line.gap.drawRaised
        || (decide (2 * b.tables.lineLimits.gapDraw < b.line.current.natAbs) && !b.line.gap.drawRaised) } } }

/-- The raise of GAP_DRAW (R51). -/
def Part.drawRaise (b : Part) : Raise :=
  { kind := .gapDraw, source := lineSource
    items := [bigInt b.line.current, bigNat (b.since b.line.gap.entry), .small (lineStateCode b.line.gap.before)] }

section
variable (b : Part)

theorem gapDraw_eq : b.gapDraw = if decide (2 * b.tables.lineLimits.gapDraw < b.line.current.natAbs) && !b.line.gap.drawRaised
    then b.peaks.raise b.drawRaise else b.peaks := rfl

theorem gapDraw_line : b.gapDraw.line = b.peaks.line := by
  rw [gapDraw_eq]
  split
  · exact line_of_moves (raise_moves b.peaks b.drawRaise).drifts.only
  · rfl

theorem peaks_only : b.onlyChanges [.line] b.peaks := (drifts_lineOwn b _).only

theorem gapDraw_only : b.onlyChanges (raisePieces ++ [.line]) b.gapDraw := by
  have hpeaks : b.onlyChanges (raisePieces ++ [.line]) b.peaks := Part.onlyChanges_mono (peaks_only b) (by decide)
  rw [gapDraw_eq]
  split
  · exact hpeaks.thenMoves (raise_moves _ _)
  · exact hpeaks

theorem gapDraw_spares {os : List DriveRole} : b.Spares [.gapDraw] [.fault .gapDraw, .collectorChanged] os b.gapDraw := by
  have hpeaks : b.Spares [.gapDraw] [.fault .gapDraw, .collectorChanged] os b.peaks := (peaks_only b).spares
  rw [gapDraw_eq]
  split
  · exact hpeaks.andThen (raise_spares b.peaks b.drawRaise) (fun _ => id) (fun _ => id) fun _ => id
  · exact hpeaks

theorem gapDraw_activated (h : 2 * b.tables.lineLimits.gapDraw < b.line.current.natAbs) (hn : b.line.gap.drawRaised = false) :
    b.activated b.gapDraw .gapDraw lineSource b.drawRaise.items := by
  have hraised := activated_of_raise b.peaks b.drawRaise (show FaultKind.gapDraw ≠ .alarmOutput by decide)
  have hpeaks : b.Spares [] [] [] b.peaks := (peaks_only b).spares
  rw [gapDraw_eq, if_pos (by simp [h, hn])]
  exact Part.Spares.activated hraised hpeaks (Part.Spares.refl [] [] [] _) rfl

theorem gapDraw_poles : b.gapDraw.poles = b.poles := gapDraw_only b .poles (by decide)

theorem gapDraw_zones : b.gapDraw.zones = b.zones := gapDraw_only b .zones (by decide)

theorem gapDraw_tables : b.gapDraw.tables = b.tables := gapDraw_only b .tables (by decide)

theorem gapDraw_now : b.gapDraw.now = b.now := gapDraw_only b .now (by decide)

theorem gapDraw_keepsLine : b.KeepsLine b.gapDraw :=
  ⟨by rw [gapDraw_line]; rfl, by rw [gapDraw_line]; rfl, fun hb => by
    rw [gapDraw_line, gapDraw_tables]
    exact hb⟩

end

/-! ### Entering a gap (R50) -/

/-- The gap that begins now (R50). -/
def Part.newGap (b : Part) : GapRec :=
  { entry := b.now, before := b.line.state, tolerance := b.tolerated, expected := b.zones.effective.gapExpected,
    peak := b.line.current.natAbs, drawRaised := false, duration := 0 }

/-- The gap's record and its timer. -/
def Part.recordsGap (b : Part) : Part := { b with line := { b.line with gap := b.newGap, gapTimer := b.startTimer b.tolerated } }

/-- The line in GAP (R50). -/
def Part.gapEntered (b : Part) : Part := b.recordsGap.lineMove .gap none

theorem gapEntry_eq (b : Part) : b.gapEntry = if b.tolerated = 0 then b.gapEntered.gapDraw.gapExpired else b.gapEntered.gapDraw := rfl

theorem recordsGap_only (b : Part) : b.onlyChanges [.line] b.recordsGap := (drifts_lineOwn b _).only

theorem gapEntered_state (b : Part) : b.gapEntered.line.state = .gap := lineMove_state _ _ _

theorem gapEntered_current (b : Part) : b.gapEntered.line.current = b.line.current := (lineMove_keepsLine b.recordsGap .gap none).current

section
variable {b : Part} (h : b.line.state ≠ .gap)
include h

theorem gapEntered_own : b.gapEntered.line.own = (b.recordsGap.line.enter b.recordsGap .gap).own := lineMove_own (p := b.recordsGap) h none

theorem gapEntered_gap : b.gapEntered.line.gap = b.newGap := by
  rw [field_of_own (gapEntered_own h) Line.gap fun _ => rfl]
  rfl

theorem gapEntered_timer : b.gapEntered.line.gapTimer = b.startTimer b.tolerated := by
  rw [field_of_own (gapEntered_own h) Line.gapTimer fun _ => rfl, Line.enter]
  have hne : ¬ (b.recordsGap.line.state == .gap) = true := by
    rw [beq_iff_eq]
    exact h
  exact if_neg hne

theorem gapEntered_zones : b.gapEntered.zones = b.zones.noteGap := by
  rw [Part.gapEntered, lineMove_zones (p := b.recordsGap) h, if_pos rfl]
  rfl

theorem gapEntered_poles (x : PoleId) : b.gapEntered.poles.get x =
    if b.zones.effective.gapExpected then b.poles.get x else (b.poles.get x).noteGap true :=
  lineMove_poles_enters (p := b.recordsGap) h none x

end

theorem gapEntered_now (b : Part) : b.gapEntered.now = b.now := (lineMove_moves b.recordsGap .gap none).drifts.only .now (by decide)

theorem gapEntered_tables (b : Part) : b.gapEntered.tables = b.tables := (lineMove_moves b.recordsGap .gap none).drifts.only .tables (by decide)

theorem gapEntered_balanced (b : Part) : b.gapEntered.gapDraw.line.balanced b.gapEntered.gapDraw.tables :=
  (gapDraw_keepsLine b.gapEntered).balanced (lineMove_balanced _ _ _)

/-! ### Poles that a gap makes SUSPECT (R76, R78) -/

theorem becomeSuspect_line {b : Part} {i : PoleId} (h : b.line.state = .gap) :
    (b.becomeSuspect i).line = { b.line with poleCopy := b.line.poleCopy.set i .suspect } ∧ (b.becomeSuspect i).zones = b.zones.notePole i .suspect
      ∧ (b.becomeSuspect i).now = b.now ∧ (b.becomeSuspect i).tables = b.tables := by
  have hnot : ((b.setPole i ((b.poles.get i).suspects b)).copies i .suspect).bothDownBound = false := by
    cases i <;> simp [Part.bothDownBound, Part.copies, PerPole.set, PoleState.downBound]
  have hnotice : (b.setPole i ((b.poles.get i).suspects b)).linePoleNotice i .suspect = (b.setPole i ((b.poles.get i).suspects b)).copies i .suspect := by
    have hstate : (b.setPole i ((b.poles.get i).suspects b)).line.state = .gap := h
    rw [linePoleNotice_gap i .suspect hstate, hnot]
    rfl
  have hsend : b.becomeSuspect i = (b.setPole i ((b.poles.get i).suspects b)).sendNotice { pole := i, entered := .suspect } := rfl
  rw [hsend, Part.sendNotice, hnotice]
  exact ⟨rfl, rfl, rfl, rfl⟩

/-- From `p` to `q` a line in GAP stays in its gap, its zones count no other gap, and the clock and the tables stay (R78). -/
structure Part.StaysInGap (p q : Part) : Prop where
  state : q.line.state = .gap
  timer : q.line.gapTimer = p.line.gapTimer
  gap : q.line.gap = p.line.gap
  counts : q.zones.active.map (·.gapCount) = p.zones.active.map (·.gapCount)
  now : q.now = p.now
  tables : q.tables = p.tables

theorem Part.StaysInGap.andThen {p q r : Part} (h : p.StaysInGap q) (k : q.StaysInGap r) : p.StaysInGap r :=
  ⟨k.state, k.timer.trans h.timer, k.gap.trans h.gap, k.counts.trans h.counts, k.now.trans h.now, k.tables.trans h.tables⟩

theorem notePole_gapCount (z : Zones) (i : PoleId) (s : PoleState) :
    (z.notePole i s).active.map (·.gapCount) = z.active.map (·.gapCount) := by
  rw [Zones.notePole, List.map_map]
  rfl

theorem becomeSuspect_staysInGap {p : Part} (h : p.line.state = .gap) (i : PoleId) : p.StaysInGap (p.becomeSuspect i) := by
  obtain ⟨hline, hzones, hnow, htables⟩ := becomeSuspect_line (b := p) (i := i) h
  exact ⟨by rw [hline]; exact h, by rw [hline], by rw [hline], by rw [hzones, notePole_gapCount], hnow, htables⟩

theorem staysInGap_of_only {p q : Part} {xs : List Piece} (h : p.line.state = .gap) (ho : p.onlyChanges xs q)
    (hx : [Piece.line, .zones, .now, .tables].all (fun x => !xs.contains x) = true := by decide) : p.StaysInGap q := by
  simp only [List.all_cons, List.all_nil, Bool.and_true, Bool.and_eq_true, Bool.not_eq_true'] at hx
  obtain ⟨hline, hzones, hnow, htables⟩ := hx
  have hown : q.line.own = p.line.own := ho .line (by simpa using hline)
  have hz : q.zones = p.zones := ho .zones (by simpa using hzones)
  exact ⟨(field_of_own hown Line.state fun _ => rfl).trans h, field_of_own hown Line.gapTimer fun _ => rfl, field_of_own hown Line.gap fun _ => rfl,
    by rw [hz], ho .now (by simpa using hnow), ho .tables (by simpa using htables)⟩

/-- A pole on the wire becomes SUSPECT by LINE_GAP alone; another one is left (R78). -/
def Part.suspectsWire (p : Part) (i : PoleId) : Part := if (p.poles.get i).state = .onWire then p.becomeSuspect i else p

theorem suspectsWire_staysInGap {p : Part} (h : p.line.state = .gap) (i : PoleId) : p.StaysInGap (p.suspectsWire i) := by
  unfold Part.suspectsWire
  split
  · exact becomeSuspect_staysInGap h i
  · exact ⟨h, rfl, rfl, rfl, rfl, rfl⟩

theorem suspectsWire_poles (p : Part) (i : PoleId) :
    (p.suspectsWire i).poles.get i = (if (p.poles.get i).state = .onWire then (p.poles.get i).suspects p else p.poles.get i)
      ∧ ∀ j, j ≠ i → (p.suspectsWire i).poles.get j = p.poles.get j := by
  unfold Part.suspectsWire
  split
  · exact becomeSuspect_poles p i
  · exact ⟨rfl, fun _ _ => rfl⟩

/-- A set of LINE_GAP alone, not spent: what the Pole Monitor finds in it (R78). -/
theorem finding_lineGap {q : Pole} (h : q.onLine = true → q.indicators = { lineGap := true } ∧ q.gapSpent = false) :
    q.finding = if q.state = .onWire then .suspect else .nothing := by
  by_cases hw : q.state = .onWire
  · obtain ⟨hi, hs⟩ := h (by simp [Pole.onLine, hw])
    rw [if_pos hw]
    exact finding_suspect hw (by rw [hi]) (by rw [hi]; rfl) (by simp [hs])
  · rw [if_neg hw]
    cases hon : q.onLine with
    | false => exact finding_off hon
    | true =>
      obtain ⟨hi, -⟩ := h hon
      exact finding_nothing (by rw [hi]) (by rw [hi]; decide) fun hn => absurd hn hw

theorem actOnSet_lineGap {p : Part} {i : PoleId} (h : (p.poles.get i).finding = if (p.poles.get i).state = .onWire then .suspect else .nothing)
    (tag : Word) : p.actOnSet i tag = p.suspectsWire i := by
  rw [Part.actOnSet, h, Part.suspectsWire]
  by_cases hw : (p.poles.get i).state = .onWire
  · rw [if_pos hw, if_pos hw]
  · rw [if_neg hw, if_neg hw]

theorem startTimer_congr {p q : Part} (h : q.now = p.now) (n : Nat) : q.startTimer n = p.startTimer n := by
  unfold Part.startTimer
  rw [h]

/-- What a gap makes of a pole on the line (R78). -/
def Pole.gapSuspect (p : Part) (before after : Pole) : Prop :=
  before.onLine = true → after.state = .suspect ∧ after.indicators = before.indicators
    ∧ (before.state = .onWire → after.confirmTimer = p.startTimer p.tables.timers.confirmWindow)

theorem suspectsWire_gapSuspect (p : Part) (i : PoleId) : Pole.gapSuspect p (p.poles.get i) ((p.suspectsWire i).poles.get i) := by
  intro hon
  rw [(suspectsWire_poles p i).1]
  by_cases hw : (p.poles.get i).state = .onWire
  · rw [if_pos hw]
    exact ⟨rfl, rfl, fun _ => rfl⟩
  · rw [if_neg hw]
    have hsuspect : (p.poles.get i).state = .suspect := by
      simpa [Pole.onLine, hw] using hon
    exact ⟨hsuspect, rfl, fun h => absurd h hw⟩

theorem Pole.gapSuspect_congr {p q : Part} (hnow : q.now = p.now) (htables : q.tables = p.tables) {a b : Pole} :
    Pole.gapSuspect q a b ↔ Pole.gapSuspect p a b := by
  unfold Pole.gapSuspect
  rw [startTimer_congr hnow, htables]

/-- Both poles looked at when a gap has begun that no zone expected (R76, R78). -/
theorem judgeBoth_lineGap {p : Part} (hgap : p.line.state = .gap)
    (h : ∀ x, (p.poles.get x).onLine = true → (p.poles.get x).indicators = { lineGap := true } ∧ (p.poles.get x).gapSpent = false) :
    p.StaysInGap p.judgeBoth ∧ (∀ x, Pole.gapSuspect p (p.poles.get x) (p.judgeBoth.poles.get x))
      ∧ ∀ x, (p.poles.get x).state = .onWire → p.judgeBoth.poleClaims := by
  have hfind : ∀ x, (p.poles.get x).finding = if (p.poles.get x).state = .onWire then .suspect else .nothing := fun x => finding_lineGap (h x)
  unfold Part.judgeBoth
  split
  next hnone =>
    have hoff : ∀ x, (p.poles.get x).state ≠ .onWire := by
      intro x hw
      have hx := hfind x
      rw [if_pos hw] at hx
      cases x
      · exact absurd (hnone.1.symm.trans hx) (by decide)
      · exact absurd (hnone.2.symm.trans hx) (by decide)
    refine ⟨⟨hgap, rfl, rfl, rfl, rfl, rfl⟩, fun x => ?_, fun x hw => absurd hw (hoff x)⟩
    have hx := suspectsWire_gapSuspect p x
    rwa [(suspectsWire_poles p x).1, if_neg (hoff x)] at hx
  next =>
    obtain ⟨hp, hpn⟩ := suspectsWire_poles p .p
    have hother : (p.suspectsWire .p).poles.get .n = p.poles.get .n := hpn .n (by decide)
    obtain ⟨-, hnp⟩ := suspectsWire_poles (p.suspectsWire .p) .n
    have hfirst := suspectsWire_staysInGap hgap .p
    have hsecond := suspectsWire_staysInGap hfirst.state .n
    have hacts : (p.actOnSet .p 0).actOnSet .n 0 = (p.suspectsWire .p).suspectsWire .n := by
      rw [actOnSet_lineGap (hfind .p), actOnSet_lineGap (by rw [hother]; exact hfind .n)]
    rw [hacts]
    have hlast := staysInGap_of_only hsecond.state (updateClaims_drifts ((p.suspectsWire .p).suspectsWire .n)).only
    refine ⟨(hfirst.andThen hsecond).andThen hlast, fun x => ?_, fun _ _ => updateClaims_claims _⟩
    rw [updateClaims_poles]
    cases x with
    | p =>
      rw [hnp .p (by decide)]
      exact suspectsWire_gapSuspect p .p
    | n =>
      have hx := suspectsWire_gapSuspect (p.suspectsWire .p) .n
      rw [hother] at hx
      exact (Pole.gapSuspect_congr hfirst.now hfirst.tables).mp hx

end Sys2Proof.Machine

/-! ## A converter frame whose poles' sets call for nothing (R48 to R57) -/

namespace Sys2Proof.Machine

/-- What a converter frame of values `v` and `i` makes of the part, with its entry orders (R48). -/
def Part.converted (p : Part) (x : Links) (v : Nat) (i : Int) : Part := (((p.withLinks x).lineData v i).judgeBoth).orderEntries p

theorem gapExpired_balanced (b : Part) : b.gapExpired.line.balanced b.gapExpired.tables := by
  rw [gapExpired_eq]
  exact lineMove_balanced _ _ _

theorem gapExpired_keepsLine (b : Part) : b.KeepsLine b.gapExpired := by
  have htimer : b.KeepsLine b.gapTimerDone := ⟨rfl, rfl, id⟩
  have hraise : b.gapTimerDone.KeepsLine b.lostRaised := (raise_moves _ _).drifts.only.keepsLine
  rw [gapExpired_eq]
  exact (htimer.andThen hraise).andThen (lineMove_keepsLine _ .lost _)

theorem gapEntry_balanced (b : Part) : b.gapEntry.line.balanced b.gapEntry.tables := by
  by_cases h : b.tolerated = 0
  · rw [(gapEntry_eq b).trans (if_pos h)]
    exact gapExpired_balanced _
  · rw [(gapEntry_eq b).trans (if_neg h)]
    exact gapEntered_balanced b

theorem gapEntry_keepsLine (b : Part) : b.KeepsLine b.gapEntry := by
  have hrecords : b.KeepsLine b.recordsGap := ⟨rfl, rfl, id⟩
  have henters : b.recordsGap.KeepsLine b.gapEntered := lineMove_keepsLine b.recordsGap .gap none
  have hdraws := (hrecords.andThen henters).andThen (gapDraw_keepsLine b.gapEntered)
  by_cases h : b.tolerated = 0
  · rw [(gapEntry_eq b).trans (if_pos h)]
    exact hdraws.andThen (gapExpired_keepsLine _)
  · rw [(gapEntry_eq b).trans (if_neg h)]
    exact hdraws

theorem recompute_keepsLine (b : Part) : b.KeepsLine b.recompute := by
  have hown : b.recompute.line.own = b.line.own := (recompute_moves b).drifts.only .line (by decide)
  exact ⟨field_of_own hown Line.voltage fun _ => rfl, field_of_own hown Line.current fun _ => rfl, fun _ => recompute_balanced b⟩

/-- The gap with its duration. -/
def Part.gapEnds (b : Part) : Part := { b with line := { b.line with gap := { b.line.gap with duration := b.since b.line.gap.entry } } }

theorem gapBridged_eq (b : Part) : b.gapBridged = b.gapEnds.lineMove (classify b.tables.lineLimits b.line.gap.before b.line.voltage)
    (some { outcome := .bridged, duration := b.since b.line.gap.entry, peak := b.line.gap.peak }) := rfl

theorem gapBridged_balanced (b : Part) : b.gapBridged.line.balanced b.gapBridged.tables := by
  rw [gapBridged_eq]
  exact lineMove_balanced _ _ _

theorem gapBridged_keepsLine (b : Part) : b.KeepsLine b.gapBridged := by
  have hends : b.KeepsLine b.gapEnds := ⟨rfl, rfl, id⟩
  rw [gapBridged_eq]
  exact hends.andThen (lineMove_keepsLine _ _ _)

section
variable {b : Part} (hs : b.line.state.supplied = true)
include hs

theorem supplied_keepsLine : b.KeepsLine b.lineClassify := by
  rw [lineClassify_supplied hs]
  split
  · split
    · exact lineMove_keepsLine _ _ _
    · exact gapEntry_keepsLine b
  · split
    · split
      · exact recompute_keepsLine b
      · exact .refl b
    · exact lineMove_keepsLine _ _ _

theorem supplied_recomputes : b.lineClassify.line.balanced b.lineClassify.tables
    ∨ (b.lineClassify.line.state = b.line.state ∧ b.line.state ≠ .sag ∧ b.lineClassify.poles = b.poles) := by
  rw [lineClassify_supplied hs]
  split
  · split
    · exact .inl (lineMove_balanced _ _ _)
    · exact .inl (gapEntry_balanced b)
  · split
    · split
      · exact .inl (recompute_balanced b)
      next hsag => exact .inr ⟨rfl, hsag, rfl⟩
    · exact .inl (lineMove_balanced _ _ _)

end

theorem lineClassify_keepsLine (b : Part) : b.KeepsLine b.lineClassify := by
  cases hs : b.line.state with
  | live | sag | high => exact supplied_keepsLine (by rw [hs]; rfl)
  | gap =>
    rw [lineClassify_gap hs]
    split
    · exact gapDraw_keepsLine b
    · exact (gapDraw_keepsLine b).andThen (gapBridged_keepsLine _)
  | lost =>
    rw [lineClassify_lost hs]
    exact restoreTest_keepsLine b
  | offWire =>
    rw [lineClassify_offWire hs]
    exact .refl b
  | unknown =>
    rw [lineClassify_unknown hs]
    split
    · exact lineMove_keepsLine _ _ _
    · exact restoreTest_keepsLine b

/-- Either a frame recomputes the budget, or it leaves the state, which is not SAG, and the poles (R61). -/
theorem lineClassify_recomputes (b : Part) : b.lineClassify.line.balanced b.lineClassify.tables
    ∨ (b.lineClassify.line.state = b.line.state ∧ b.line.state ≠ .sag ∧ b.lineClassify.poles = b.poles) := by
  cases hs : b.line.state with
  | live | sag | high =>
    have hsupplied := supplied_recomputes (b := b) (by rw [hs]; rfl)
    rwa [hs] at hsupplied
  | gap =>
    rw [lineClassify_gap hs]
    split
    · exact .inr ⟨by rw [gapDraw_line]; exact hs, by decide, gapDraw_poles b⟩
    · exact .inl (gapBridged_balanced _)
  | lost =>
    rw [lineClassify_lost hs]
    exact .inr ⟨hs, by decide, rfl⟩
  | offWire =>
    rw [lineClassify_offWire hs]
    exact .inr ⟨hs, by decide, rfl⟩
  | unknown =>
    rw [lineClassify_unknown hs]
    split
    · exact .inl (lineMove_balanced _ _ _)
    · exact .inr ⟨hs, by decide, rfl⟩

section
variable (p : Part) (x : Links) (v : Nat) (i : Int)

theorem converted_line : (p.converted x v i).line = (p.measured x v i).lineClassify.judgeBoth.line := orderEntries_line _ _

theorem converted_poles : (p.converted x v i).poles = (p.measured x v i).lineClassify.judgeBoth.poles := orderEntries_poles _ _

theorem converted_tables : (p.converted x v i).tables = (p.measured x v i).lineClassify.judgeBoth.tables :=
  (orderEntries_moves (p.measured x v i).lineClassify.judgeBoth p).drifts.only .tables (by decide)

theorem converted_zones : (p.converted x v i).zones = (p.measured x v i).lineClassify.judgeBoth.zones :=
  (orderEntries_moves (p.measured x v i).lineClassify.judgeBoth p).drifts.only .zones (by decide)

theorem converted_inhibit : (p.converted x v i).gov.inhibit = (p.measured x v i).lineClassify.judgeBoth.gov.inhibit :=
  ((orderEntries_moves (p.measured x v i).lineClassify.judgeBoth p).drifts.only .inhibit (by decide)).1

/-- A frame's values become the line's (R48). -/
theorem converted_values : (p.converted x v i).line.voltage = v ∧ (p.converted x v i).line.current = i := by
  have hkeeps := (lineClassify_keepsLine (p.measured x v i)).andThen (judgeBoth_keepsLine _)
  rw [converted_line]
  exact ⟨hkeeps.voltage, hkeeps.current⟩

end

section
variable {p : Part} {x : Links} {v : Nat} {i : Int}

/-- A frame whose poles call for nothing once the line has taken it. -/
theorem converted_quiet (h : ∀ y, ((p.measured x v i).lineClassify.poles.get y).finding = .nothing) :
    p.converted x v i = (p.measured x v i).lineClassify.orderEntries p := by
  have hjudge : (p.measured x v i).lineClassify.judgeBoth = (p.measured x v i).lineClassify := judgeBoth_nothing h
  exact congrArg (·.orderEntries p) hjudge

theorem quiet_line (h : ∀ y, ((p.measured x v i).lineClassify.poles.get y).finding = .nothing) :
    (p.converted x v i).line = (p.measured x v i).lineClassify.line := by
  rw [converted_quiet h, orderEntries_line]

theorem quiet_poles (h : ∀ y, ((p.measured x v i).lineClassify.poles.get y).finding = .nothing) :
    (p.converted x v i).poles = (p.measured x v i).lineClassify.poles := by
  rw [converted_quiet h, orderEntries_poles]

theorem quiet_zones (h : ∀ y, ((p.measured x v i).lineClassify.poles.get y).finding = .nothing) :
    (p.converted x v i).zones = (p.measured x v i).lineClassify.zones := by
  rw [converted_quiet h]
  exact (orderEntries_moves (p.measured x v i).lineClassify p).drifts.only .zones (by decide)

/-- A raise in an event whose poles call for nothing. -/
theorem quiet_activated {k : FaultKind} {src : Source} {items : List Item}
    (h : ∀ y, ((p.measured x v i).lineClassify.poles.get y).finding = .nothing)
    (ha : (p.measured x v i).activated (p.measured x v i).lineClassify k src items) (hk : k ≠ .alarmOutput) : p.activated (p.converted x v i) k src items := by
  have hbefore : p.Spares [] [] [] (p.measured x v i) := (measured_only p x v i).spares
  have horder := orderEntries_moves (p.measured x v i).lineClassify p
  have hafter : (p.measured x v i).lineClassify.Spares [] [] [] ((p.measured x v i).lineClassify.orderEntries p) := horder.spares
  rw [converted_quiet h]
  exact Part.Spares.activated ha hbefore hafter (horder.drifts.only .now (by decide)) List.not_mem_nil List.not_mem_nil hk

/-- Poles left by the line's move call for what they called for. -/
theorem quiet_of_poles (hn : ∀ y, (p.poles.get y).finding = .nothing) (h : (p.measured x v i).lineClassify.poles = p.poles) :
    ∀ y, ((p.measured x v i).lineClassify.poles.get y).finding = .nothing := by
  intro y
  rw [h]
  exact hn y

/-! ### The budget (R61) -/

theorem converted_budgeted (hn : ∀ y, (p.poles.get y).finding = .nothing)
    (h : (p.converted x v i).line.state ≠ p.line.state ∨ (p.converted x v i).line.state = .sag) :
    (p.converted x v i).line.budgeted (p.converted x v i).tables := by
  obtain hbalanced | ⟨hstate, hsag, hpoles⟩ := lineClassify_recomputes (p.measured x v i)
  · have hjudged := (judgeBoth_keepsLine (p.measured x v i).lineClassify).balanced hbalanced
    rw [converted_line, converted_tables]
    exact budgeted_of_balanced hjudged
  · have hline := quiet_line (quiet_of_poles hn hpoles)
    rw [hline, hstate] at h
    exact absurd h (fun ho => ho.elim (fun hne => hne rfl) hsag)

end

/-! ### A supplied line (R49, R54) -/

theorem classify_ne_gap {l : LineLimits} {v : Nat} (s : LineState) (h : 4 * l.gapThreshold ≤ v) : classify l s v ≠ .gap := by
  unfold classify
  rw [if_neg (Nat.not_lt.mpr h)]
  repeat' split
  all_goals decide

theorem supplied_ne_gap {s : LineState} (h : s.supplied = true) : s ≠ .gap := by
  cases s <;> simp_all [LineState.supplied]

section
variable {b : Part} (hs : b.line.state.supplied = true)
include hs

theorem supplied_above_poles (hv : 4 * b.tables.lineLimits.gapThreshold ≤ b.line.voltage) : b.lineClassify.poles = b.poles := by
  rw [lineClassify_supplied hs, if_neg (Nat.not_lt.mpr hv)]
  split
  · split
    · exact (recompute_moves b).drifts.only .poles (by decide)
    · rfl
  · exact lineMove_poles_apart (supplied_ne_gap hs) (classify_ne_gap b.line.state hv) none

theorem supplied_above_line (hv : 4 * b.tables.lineLimits.gapThreshold ≤ b.line.voltage) :
    b.lineClassify.line.state = classify b.tables.lineLimits b.line.state b.line.voltage
      ∧ (b.lineClassify.line.state = .high → b.line.state ≠ .high →
        b.lineClassify.line.highTimer = b.startTimer b.tables.timers.highPersist ∧ b.lineClassify.line.highEntry = b.now) := by
  rw [lineClassify_supplied hs, if_neg (Nat.not_lt.mpr hv)]
  by_cases hsame : classify b.tables.lineLimits b.line.state b.line.voltage = b.line.state
  · have hstate : (if b.line.state = .sag then b.recompute else b).line.state = b.line.state := by
      split
      · exact field_of_own (show b.recompute.line.own = b.line.own from (recompute_moves b).drifts.only .line (by decide)) Line.state fun _ => rfl
      · rfl
    rw [if_pos hsame, hstate]
    exact ⟨hsame.symm, fun hh hne => absurd hh hne⟩
  · have hown := lineMove_own (fun he => hsame he.symm) none
    rw [if_neg hsame, lineMove_state]
    refine ⟨rfl, fun hh _ => ⟨?_, ?_⟩⟩
    · rw [field_of_own hown Line.highTimer fun _ => rfl, Line.enter, hh]
      rfl
    · rw [field_of_own hown Line.highEntry fun _ => rfl, Line.enter, hh]
      rfl

theorem supplied_offWire (hv : b.line.voltage < 4 * b.tables.lineLimits.gapThreshold) (hd : b.bothDownBound = true) :
    b.lineClassify.line.state = .offWire ∧ b.lineClassify.poles = b.poles := by
  rw [lineClassify_supplied hs, if_pos hv, if_pos hd]
  exact ⟨lineMove_state _ _ _, lineMove_poles_apart (supplied_ne_gap hs) (by decide) none⟩

/-- A gap that begins (R50). -/
theorem supplied_gap (hv : b.line.voltage < 4 * b.tables.lineLimits.gapThreshold) (hd : b.bothDownBound = false) :
    b.lineClassify = b.gapEntry := by
  rw [lineClassify_supplied hs, if_pos hv, if_neg (by simp [hd])]

/-- The gap's record and timer, and what its zones count (R50, R124). -/
theorem gapBegun_line : b.gapEntered.gapDraw.line.state = .gap ∧ b.gapEntered.gapDraw.line.gapTimer = b.startTimer b.tolerated
    ∧ b.gapEntered.gapDraw.line.gap.entry = b.now ∧ b.gapEntered.gapDraw.line.gap.before = b.line.state
    ∧ b.gapEntered.gapDraw.line.gap.tolerance = b.tolerated ∧ b.gapEntered.gapDraw.line.gap.expected = b.zones.effective.gapExpected
    ∧ b.gapEntered.gapDraw.line.gap.peak = b.line.current.natAbs
    ∧ b.gapEntered.gapDraw.zones.active.map (·.gapCount) = b.zones.active.map (fun z => countUp z.gapCount 255) := by
  have hne := supplied_ne_gap hs
  have hgap := gapEntered_gap hne
  have hzones : b.gapEntered.gapDraw.zones = b.zones.noteGap := (gapDraw_zones _).trans (gapEntered_zones hne)
  have hpeak : b.gapEntered.peaks.line.gap.peak = max b.gapEntered.line.gap.peak b.gapEntered.line.current.natAbs := rfl
  rw [gapDraw_line, hzones, hpeak, gapEntered_current, hgap]
  refine ⟨gapEntered_state b, gapEntered_timer hne, ?_, ?_, ?_, ?_, Nat.max_self _, ?_⟩
  · exact congrArg GapRec.entry hgap
  · exact congrArg GapRec.before hgap
  · exact congrArg GapRec.tolerance hgap
  · exact congrArg GapRec.expected hgap
  · rw [Zones.noteGap, List.map_map]
    rfl

theorem gapBegun_poles (x : PoleId) : b.gapEntered.gapDraw.poles.get x =
    if b.zones.effective.gapExpected then b.poles.get x else (b.poles.get x).noteGap true := by
  rw [gapDraw_poles, gapEntered_poles (supplied_ne_gap hs)]

end

/-! ### A line in GAP, LOST or UNKNOWN (R51, R56, R57) -/

theorem gapBridged_own {b : Part} (hgap : b.line.state = .gap) (hv : 4 * b.tables.lineLimits.gapThreshold ≤ b.line.voltage) :
    b.gapBridged.line.own = (b.gapEnds.line.enter b.gapEnds (classify b.tables.lineLimits b.line.gap.before b.line.voltage)).own := by
  rw [gapBridged_eq]
  exact lineMove_own (p := b.gapEnds) (fun he => classify_ne_gap _ hv (he.symm.trans hgap)) _

theorem gapBridged_line {b : Part} (hgap : b.line.state = .gap) (hv : 4 * b.tables.lineLimits.gapThreshold ≤ b.line.voltage) :
    b.gapBridged.line.state = classify b.tables.lineLimits b.line.gap.before b.line.voltage ∧ b.gapBridged.line.gapTimer = .stopped
      ∧ b.gapBridged.line.gap.duration = b.since b.line.gap.entry ∧ b.gapBridged.line.gap.peak = b.line.gap.peak := by
  have hown := gapBridged_own hgap hv
  refine ⟨field_of_own hown Line.state fun _ => rfl, ?_, ?_, ?_⟩
  · rw [field_of_own hown Line.gapTimer fun _ => rfl, Line.enter]
    exact if_pos (beq_iff_eq.mpr hgap)
  · exact (field_of_own hown (fun l => l.gap.duration) fun _ => rfl).trans rfl
  · exact (field_of_own hown (fun l => l.gap.peak) fun _ => rfl).trans rfl

theorem gapBridged_zones {b : Part} (hgap : b.line.state = .gap) (hv : 4 * b.tables.lineLimits.gapThreshold ≤ b.line.voltage) {z : Zone}
    (hz : z ∈ b.gapBridged.zones.active) (hseen : z.gapCount ≠ 0) : z.lastGap = some .bridged := by
  have hne := classify_ne_gap b.line.gap.before hv
  rw [gapBridged_eq, lineMove_zones b.gapEnds (fun he => hne (he.symm.trans hgap)), if_neg hne] at hz
  exact noteGapEnd_lastGap b.zones _ hz hseen

theorem gapBridged_poles {b : Part} (hgap : b.line.state = .gap) (hv : 4 * b.tables.lineLimits.gapThreshold ≤ b.line.voltage) (x : PoleId) :
    b.gapBridged.poles.get x = (b.poles.get x).noteGap false := by
  rw [gapBridged_eq]
  exact lineMove_poles_leaves (p := b.gapEnds) hgap (classify_ne_gap _ hv) _ x

theorem gapExpired_poles {b : Part} (hgap : b.line.state = .gap) (x : PoleId) : b.gapExpired.poles.get x = (b.poles.get x).noteGap false := by
  have hraised : b.lostRaised.poles = b.poles := (raise_moves b.gapTimerDone b.lostRaise).drifts.only .poles (by decide)
  rw [gapExpired_eq, lineMove_poles_leaves (lostRaised_state hgap) (by decide), hraised]

end Sys2Proof.Machine

/-! ## Converter frames (R48 to R57) -/

namespace Sys2Proof.Machine

theorem PerPole.eq_of_get {α : Type} {a b : PerPole α} (h : ∀ y, a.get y = b.get y) : a = b := by
  cases a
  cases b
  exact congrArg₂ PerPole.mk (h .p) (h .n)

section
variable {p : Part} {x : Links} {v : Nat} {i : Int}

/-! ### A supplied line whose voltage stays above the threshold (R49) -/

theorem converted_above (hn : ∀ y, (p.poles.get y).finding = .nothing) (hs : p.line.state.supplied = true)
    (hv : 4 * p.tables.lineLimits.gapThreshold ≤ v) : (p.converted x v i).line.state = classify p.tables.lineLimits p.line.state v
      ∧ (p.converted x v i).poles = p.poles
      ∧ ((p.converted x v i).line.state = .high → p.line.state ≠ .high →
        (p.converted x v i).line.highTimer = p.startTimer p.tables.timers.highPersist ∧ (p.converted x v i).line.highEntry = p.now) := by
  have hpoles : (p.measured x v i).lineClassify.poles = p.poles := supplied_above_poles (b := p.measured x v i) hs hv
  have hquiet := quiet_of_poles hn hpoles
  obtain ⟨hstate, hhigh⟩ := supplied_above_line (b := p.measured x v i) hs hv
  rw [quiet_line hquiet, quiet_poles hquiet]
  exact ⟨hstate, hpoles, hhigh⟩

/-- Both poles down: the wire is off (R54). -/
theorem converted_down (hn : ∀ y, (p.poles.get y).finding = .nothing) (hs : p.line.state.supplied = true)
    (hv : v < 4 * p.tables.lineLimits.gapThreshold) (hd : p.bothDownBound = true) :
    (p.converted x v i).line.state = .offWire ∧ (p.converted x v i).poles = p.poles := by
  obtain ⟨hstate, hpoles⟩ := supplied_offWire (b := p.measured x v i) hs hv hd
  have hquiet := quiet_of_poles (x := x) (v := v) (i := i) hn hpoles
  rw [quiet_line hquiet, quiet_poles hquiet]
  exact ⟨hstate, hpoles⟩

/-! ### A gap that begins (R50, R52) -/

/-- A gap of tolerance 0 loses the line in the event that begins it (R52, assumption log 30). -/
theorem converted_lost (hn : ∀ y, (p.poles.get y).finding = .nothing) (hs : p.line.state.supplied = true)
    (hv : v < 4 * p.tables.lineLimits.gapThreshold) (hd : p.bothDownBound = false) (h0 : p.tolerated = 0) :
    (p.converted x v i).line.state = .lost ∧ p.activated (p.converted x v i) .lineLost { block := .lineSupervisor }
      [bigNat 0, .small (lineStateCode p.line.state), .small (flagCode p.zones.effective.gapExpected), bigNat i.natAbs] := by
  have hentry : (p.measured x v i).lineClassify = (p.measured x v i).gapEntered.gapDraw.gapExpired :=
    (supplied_gap (b := p.measured x v i) hs hv hd).trans ((gapEntry_eq _).trans (if_pos h0))
  obtain ⟨hgap, -, -, hbefore, htolerance, hexpected, hpeak, -⟩ := gapBegun_line (b := p.measured x v i) hs
  have hquiet : ∀ y, ((p.measured x v i).lineClassify.poles.get y).finding = .nothing := by
    intro y
    rw [hentry, gapExpired_poles hgap, gapBegun_poles (b := p.measured x v i) hs]
    split
    · exact finding_noteGap (hn y)
    · exact finding_noteGap_both (hn y)
  have hlost : (p.measured x v i).activated (p.measured x v i).lineClassify .lineLost lineSource (p.measured x v i).gapEntered.gapDraw.lostRaise.items := by
    have hrecords : (p.measured x v i).Spares [] [] [] (p.measured x v i).recordsGap := (recordsGap_only _).spares
    have henters := lineMove_spares (ks := [.lineHigh, .outputMismatch]) (p.measured x v i).recordsGap .gap none (by decide) (fun _ => by decide)
      fun hl => absurd (hl ▸ hs : LineState.supplied .lost = true) (by decide)
    have hbegun := (hrecords.mono (ks' := [.lineHigh, .outputMismatch, .gapDraw]) (rs' := [.auxShed, .fault .gapDraw, .collectorChanged]) (os' := auxRoles)).andThen
      henters |>.andThen (gapDraw_spares (os := auxRoles) _)
    rw [hentry]
    exact Part.Spares.activated (gapExpired_activated hgap) hbegun (Part.Spares.refl [] [] [] _) rfl
  refine ⟨?_, ?_⟩
  · rw [quiet_line hquiet, hentry, gapExpired_eq, lineMove_state]
  · have hactivated := quiet_activated hquiet hlost (by decide)
    rw [Part.lostRaise, hbefore, htolerance, hexpected, hpeak] at hactivated
    have hzero : (p.measured x v i).tolerated = 0 := h0
    rw [hzero] at hactivated
    exact hactivated

/-- A gap with a tolerance (R50, R76, R78, R124). -/
theorem converted_gap (hn : ∀ y, (p.poles.get y).finding = .nothing) (hs : p.line.state.supplied = true)
    (hv : v < 4 * p.tables.lineLimits.gapThreshold) (hd : p.bothDownBound = false) (h0 : p.tolerated ≠ 0)
    (hexp : p.zones.effective.gapExpected = true ∨ ∀ y, (p.poles.get y).indicators = {}) :
    (p.converted x v i).line.state = .gap ∧ (p.converted x v i).line.gapTimer = p.startTimer p.tolerated
      ∧ (p.converted x v i).line.gap.entry = p.now ∧ (p.converted x v i).line.gap.before = p.line.state
      ∧ (p.converted x v i).line.gap.tolerance = p.tolerated ∧ (p.converted x v i).line.gap.expected = p.zones.effective.gapExpected
      ∧ (p.converted x v i).line.gap.peak = i.natAbs
      ∧ (p.converted x v i).zones.active.map (·.gapCount) = p.zones.active.map (fun z => countUp z.gapCount 255)
      ∧ (p.zones.effective.gapExpected = true → (p.converted x v i).poles = p.poles)
      ∧ (p.zones.effective.gapExpected = false → ∀ y, (p.poles.get y).onLine = true →
          ((p.converted x v i).poles.get y).state = .suspect ∧ ((p.converted x v i).poles.get y).indicators = { lineGap := true }
          ∧ ((p.poles.get y).state = .onWire → (p.converted x v i).gov.inhibit.poleSuspect = true
              ∧ ((p.converted x v i).poles.get y).confirmTimer = p.startTimer p.tables.timers.confirmWindow)) := by
  have hentry : (p.measured x v i).lineClassify = (p.measured x v i).gapEntered.gapDraw :=
    (supplied_gap (b := p.measured x v i) hs hv hd).trans ((gapEntry_eq _).trans (if_neg h0))
  obtain ⟨hgap, htimer, hat, hbefore, htolerance, hexpected, hpeak, hcounts⟩ := gapBegun_line (b := p.measured x v i) hs
  have hpoles : ∀ y, (p.measured x v i).gapEntered.gapDraw.poles.get y
      = if p.zones.effective.gapExpected then p.poles.get y else (p.poles.get y).noteGap true := gapBegun_poles (b := p.measured x v i) hs
  have hnow : (p.measured x v i).gapEntered.gapDraw.now = p.now := (gapDraw_now _).trans (gapEntered_now _)
  have htables : (p.measured x v i).gapEntered.gapDraw.tables = p.tables := (gapDraw_tables _).trans (gapEntered_tables _)
  generalize (p.measured x v i).gapEntered.gapDraw = g at *
  by_cases he : p.zones.effective.gapExpected = true
  · have hkept : (p.measured x v i).lineClassify.poles = p.poles := by
      rw [hentry]
      refine PerPole.eq_of_get fun y => ?_
      rw [hpoles, if_pos he]
    have hquiet := quiet_of_poles hn hkept
    rw [quiet_line hquiet, quiet_zones hquiet, quiet_poles hquiet, hkept, hentry]
    exact ⟨hgap, htimer, hat, hbefore, htolerance, hexpected, hpeak, hcounts, fun _ => rfl, fun hf => absurd he (by simp [hf])⟩
  · have hempty := hexp.resolve_left he
    have hnoted : ∀ y, g.poles.get y = (p.poles.get y).noteGap true := fun y => (hpoles y).trans (if_neg he)
    have honline : ∀ y, (g.poles.get y).onLine = (p.poles.get y).onLine := fun y => by rw [hnoted, Pole.onLine, noteGap_state]; rfl
    have hset : ∀ y, (g.poles.get y).onLine = true → (g.poles.get y).indicators = { lineGap := true } ∧ (g.poles.get y).gapSpent = false := by
      intro y hon
      rw [honline] at hon
      obtain ⟨hind, hspent⟩ := noteGap_onLine hon true
      rw [hnoted, hind, hempty]
      exact ⟨rfl, hspent⟩
    obtain ⟨hstays, hsuspects, hclaims⟩ := judgeBoth_lineGap hgap hset
    rw [converted_line, converted_zones, converted_poles, converted_inhibit, hentry, hstays.state, hstays.timer, hstays.gap, hstays.counts]
    refine ⟨rfl, htimer, hat, hbefore, htolerance, hexpected, hpeak, hcounts, fun h => absurd h he, fun _ y hon => ?_⟩
    obtain ⟨hstate, hind, hconfirm⟩ := hsuspects y ((honline y).trans hon)
    refine ⟨hstate, hind.trans (hset y ((honline y).trans hon)).1, fun hwire => ?_⟩
    have hwire' : (g.poles.get y).state = .onWire := by rw [hnoted, noteGap_state]; exact hwire
    obtain ⟨hclaimed, -, -⟩ := hclaims y hwire'
    refine ⟨hclaimed.mpr ?_, ?_⟩
    · cases y <;> simp_all [Part.anyPole, Pole.suspectClaim, PerPole.get]
    · rw [hconfirm hwire', htables, startTimer_congr hnow]

/-! ### A line in GAP (R51) -/

theorem gap_quiet (hn : ∀ y, (p.poles.get y).finding = .nothing) (hgap : p.line.state = .gap) :
    ∀ y, ((p.measured x v i).lineClassify.poles.get y).finding = .nothing := by
  intro y
  rw [lineClassify_gap (b := p.measured x v i) hgap]
  split
  · rw [gapDraw_poles]
    exact hn y
  next hv =>
    have hstate : (p.measured x v i).gapDraw.line.state = .gap := by rw [gapDraw_line]; exact hgap
    have hvolt : 4 * (p.measured x v i).gapDraw.tables.lineLimits.gapThreshold ≤ (p.measured x v i).gapDraw.line.voltage := by
      rw [gapDraw_tables, gapDraw_line]
      exact Nat.not_lt.mp hv
    rw [gapBridged_poles hstate hvolt, gapDraw_poles]
    exact finding_noteGap (hn y)

theorem gapBridged_spares (b : Part) : b.Spares lineKinds [.auxShed] auxRoles b.gapBridged ∧ b.gapBridged.now = b.now := by
  have hends : b.Spares lineKinds [.auxShed] auxRoles b.gapEnds := (drifts_lineOwn b _).only.spares
  have hmove : ∀ new g, b.gapEnds.Spares lineKinds [.auxShed] auxRoles (b.gapEnds.lineMove new g) := fun new g => lineMove_spares_any _ new g
  rw [gapBridged_eq]
  exact ⟨hends.andThen (hmove _ _) (fun _ => id) (fun _ => id) fun _ => id, (lineMove_moves b.gapEnds _ _).drifts.only .now (by decide)⟩

/-- GAP_DRAW in a gap (R51). -/
theorem converted_draws (hn : ∀ y, (p.poles.get y).finding = .nothing) (hgap : p.line.state = .gap)
    (hdraw : 2 * p.tables.lineLimits.gapDraw < i.natAbs) (hfirst : p.line.gap.drawRaised = false) :
    p.activated (p.converted x v i) .gapDraw { block := .lineSupervisor }
      [bigInt i, bigNat (p.since p.line.gap.entry), .small (lineStateCode p.line.gap.before)] := by
  have hraised := gapDraw_activated (b := p.measured x v i) hdraw hfirst
  have hact : (p.measured x v i).activated (p.measured x v i).lineClassify .gapDraw lineSource (p.measured x v i).drawRaise.items := by
    rw [lineClassify_gap (b := p.measured x v i) hgap]
    split
    · exact hraised
    · obtain ⟨hspares, hnow⟩ := gapBridged_spares (p.measured x v i).gapDraw
      exact Part.Spares.activated hraised (Part.Spares.refl [] [] [] _) hspares hnow
  exact quiet_activated (gap_quiet hn hgap) hact (by decide)

/-- A frame below the threshold in GAP, and one that bridges it (R51). -/
theorem converted_inGap (hn : ∀ y, (p.poles.get y).finding = .nothing) (hgap : p.line.state = .gap) :
    (p.converted x v i).line.gap.peak = max p.line.gap.peak i.natAbs
      ∧ (v < 4 * p.tables.lineLimits.gapThreshold →
        (p.converted x v i).line.state = .gap ∧ (p.converted x v i).line.gapTimer = p.line.gapTimer)
      ∧ (4 * p.tables.lineLimits.gapThreshold ≤ v →
        (p.converted x v i).line.state = classify p.tables.lineLimits p.line.gap.before v ∧ (p.converted x v i).line.gapTimer = .stopped
        ∧ (p.converted x v i).line.gap.duration = p.since p.line.gap.entry
        ∧ (∀ z ∈ (p.converted x v i).zones.active, z.gapCount ≠ 0 → z.lastGap = some .bridged)
        ∧ ∀ y, (p.poles.get y).onLine = true → ((p.converted x v i).poles.get y).indicators.lineGap = false) := by
  have hquiet := gap_quiet (x := x) (v := v) (i := i) hn hgap
  have hclass := lineClassify_gap (b := p.measured x v i) hgap
  have hline := gapDraw_line (p.measured x v i)
  have hstate : (p.measured x v i).gapDraw.line.state = .gap := by rw [hline]; exact hgap
  rw [quiet_line hquiet, quiet_zones hquiet, quiet_poles hquiet, hclass]
  by_cases hv : v < 4 * p.tables.lineLimits.gapThreshold
  · have hbelow : (p.measured x v i).line.voltage < 4 * (p.measured x v i).tables.lineLimits.gapThreshold := hv
    rw [if_pos hbelow, hline]
    exact ⟨rfl, fun _ => ⟨hgap, rfl⟩, fun hle => absurd hv (Nat.not_lt.mpr hle)⟩
  · have habove : ¬ (p.measured x v i).line.voltage < 4 * (p.measured x v i).tables.lineLimits.gapThreshold := hv
    have hvolt : 4 * (p.measured x v i).gapDraw.tables.lineLimits.gapThreshold ≤ (p.measured x v i).gapDraw.line.voltage := by
      rw [gapDraw_tables, hline]
      exact Nat.not_lt.mp hv
    obtain ⟨hnew, htimer, hduration, hpeak⟩ := gapBridged_line hstate hvolt
    have hsince : (p.measured x v i).gapDraw.since (p.measured x v i).gapDraw.line.gap.entry = p.since p.line.gap.entry := by
      rw [Part.since, gapDraw_now, hline]
      rfl
    rw [if_neg habove, hnew, htimer, hduration, hpeak, hsince, gapDraw_tables, hline]
    refine ⟨rfl, fun hlt => absurd hlt hv, fun _ => ⟨rfl, rfl, rfl, fun z hz => gapBridged_zones hstate hvolt hz, fun y hon => ?_⟩⟩
    obtain ⟨hind, -⟩ := noteGap_onLine hon false
    rw [gapBridged_poles hstate hvolt, gapDraw_poles]
    exact congrArg Indicators.lineGap hind

/-! ### A line LOST, UNKNOWN or OFF_WIRE (R55 to R57) -/

theorem converted_waits (hn : ∀ y, (p.poles.get y).finding = .nothing)
    (h : p.line.state = .lost ∨ (p.line.state = .unknown ∧ p.bothHoused = false)) :
    (p.converted x v i).line = (p.measured x v i).restoreTest.line := by
  have hclass : (p.measured x v i).lineClassify = (p.measured x v i).restoreTest := by
    obtain hlost | ⟨hunknown, hnot⟩ := h
    · exact lineClassify_lost (b := p.measured x v i) hlost
    · have hhoused : ¬ (p.measured x v i).bothHoused = true := by
        have hsame : (p.measured x v i).bothHoused = p.bothHoused := rfl
        rw [hsame, hnot]
        decide
      exact (lineClassify_unknown (b := p.measured x v i) hunknown).trans (if_neg hhoused)
  have hpoles : (p.measured x v i).lineClassify.poles = p.poles := by rw [hclass]; rfl
  rw [quiet_line (quiet_of_poles hn hpoles), hclass]

theorem converted_restore (hn : ∀ y, (p.poles.get y).finding = .nothing)
    (h : p.line.state = .lost ∨ (p.line.state = .unknown ∧ p.bothHoused = false)) :
    (p.converted x v i).line.state = p.line.state
      ∧ (4 * p.tables.lineLimits.gapThreshold ≤ v → p.line.poleCopy.p = .onWire → p.line.poleCopy.n = .onWire →
        (p.converted x v i).line.restoreTimer = if p.line.restoreTimer.isRunning then p.line.restoreTimer
          else p.startTimer p.tables.timers.restoreTime)
      ∧ (v < 4 * p.tables.lineLimits.gapThreshold ∨ p.line.poleCopy.p ≠ .onWire ∨ p.line.poleCopy.n ≠ .onWire →
        (p.converted x v i).line.restoreTimer = .stopped) := by
  have htimer : (p.measured x v i).restoreTest.line.restoreTimer =
      if 4 * p.tables.lineLimits.gapThreshold ≤ v ∧ p.line.poleCopy.p = .onWire ∧ p.line.poleCopy.n = .onWire then
        (if p.line.restoreTimer.isRunning then p.line.restoreTimer else p.startTimer p.tables.timers.restoreTime)
      else .stopped := restoreTest_timer (p.measured x v i)
  rw [converted_waits hn h, htimer]
  refine ⟨rfl, fun hv hp hw => if_pos ⟨hv, hp, hw⟩, fun hnot => if_neg fun hall => ?_⟩
  obtain ⟨hv, hp, hw⟩ := hall
  exact hnot.elim (fun hlt => absurd hlt (Nat.not_lt.mpr hv)) fun hne => hne.elim (fun hne => hne hp) fun hne => hne hw

theorem converted_housed (hn : ∀ y, (p.poles.get y).finding = .nothing) (h : p.line.state = .unknown) (hh : p.bothHoused = true) :
    (p.converted x v i).line.state = .offWire := by
  have hhoused : (p.measured x v i).bothHoused = true := hh
  have hclass := (lineClassify_unknown (b := p.measured x v i) h).trans (if_pos hhoused)
  have hpoles : (p.measured x v i).lineClassify.poles = p.poles := by
    have hne : (p.measured x v i).line.state ≠ .gap := fun hg => absurd (h.symm.trans hg) (by decide)
    rw [hclass]
    exact lineMove_poles_apart hne (by decide) none
  rw [quiet_line (quiet_of_poles hn hpoles), hclass, lineMove_state]

theorem converted_off (hn : ∀ y, (p.poles.get y).finding = .nothing) (h : p.line.state = .offWire) :
    (p.converted x v i).line = { p.line with voltage := v, current := i } := by
  have hclass := lineClassify_offWire (b := p.measured x v i) h
  have hpoles : (p.measured x v i).lineClassify.poles = p.poles := by rw [hclass]; rfl
  rw [quiet_line (quiet_of_poles hn hpoles), hclass]
  rfl

/-- A converter frame whose poles' sets call for nothing (R48 to R57). -/
theorem converted_takes (hn : ∀ y, (p.poles.get y).finding = .nothing) : p.takesConverterData (p.converted x v i) v i := by
  obtain ⟨hvoltage, hcurrent⟩ := converted_values p x v i
  refine ⟨hvoltage, hcurrent, converted_budgeted hn, converted_above hn, converted_down hn,
    fun hs hv hd => ⟨converted_gap hn hs hv hd, converted_lost hn hs hv hd⟩, fun hgap => ⟨converted_draws hn hgap, converted_inGap hn hgap⟩,
    converted_restore hn, converted_housed hn, converted_off hn⟩

end

end Sys2Proof.Machine

/-! ## Accepted pulse-interval frames (R29 to R32) -/

namespace Sys2Proof.Machine

/-! ### The link of an accepted frame (R30, R32) -/

theorem accept_fields {r : LinkRec} (h : r.state ≠ .silent) (t : Timer) :
    (r.accept t).errorRun = 0 ∧ (r.accept t).silence = t
      ∧ (r.accept t).state = (if r.state = .good ∨ countUp r.goodRun 4 = 4 then .good else r.state)
      ∧ (r.state ≠ .good → (r.accept t).goodRun = countUp r.goodRun 4) := by
  cases hs : r.state with
  | silent => exact absurd hs h
  | hunting => simp [LinkRec.accept, hs]
  | degraded => simp [LinkRec.accept, hs]
  | good => simp [LinkRec.accept, hs]

/-- An accepted frame never takes a link out of GOOD. -/
theorem accept_keepsGood (r : LinkRec) (t : Timer) : r.state ≠ .good ∨ (r.accept t).state = .good := by
  cases hs : r.state with
  | silent | hunting | degraded => exact .inl (by decide)
  | good => exact .inr (by simp [LinkRec.accept, hs])

/-- The links after an accepted frame: its receiver waits, its record has counted it. -/
def Part.acceptedLinks (p : Part) (l : PLink) : Links :=
  ((p.endsFrame l).setLink (plLink l) ((p.linkRec (plLink l)).accept (p.silenceTimer (plLink l)))).links

/-- An accepted frame of an active link, delivered (R29, R30). -/
theorem plComplete_accepted {p : Part} {l : PLink} {n u : Nat} {f : PlFrame}
    (hstarted : (p.linkRec (plLink l)).started = true) (hstate : (p.linkRec (plLink l)).state ≠ .silent)
    (hu : (p.links.pl.get l).unit48 = some u) (hf : (p.links.pl.get l).frame = some f) (hseven : f.symbols.length = 7) (hn : 48 * n ≤ 40 * u)
    (hv : f.verdict u n = none) : p.plComplete l n = (p.withLinks (p.acceptedLinks l)).deliverPl l f.symbols := by
  have haccepted : (p.endsFrame l).frameAccepted (plLink l) = p.withLinks (p.acceptedLinks l) := linkNotice_kept (accept_keepsGood _ _) _ _
  have hcomplete : p.plComplete l n = ((p.endsFrame l).frameAccepted (plLink l)).deliverPl l f.symbols := by
    unfold Part.plComplete
    rw [inAssembly_some hstarted hu hf]
    dsimp only
    rw [if_pos ⟨hseven, by simp [aborts]; omega⟩, hv, firstActivity_of_not (.inr hstate)]
    rfl
  rw [hcomplete, haccepted]

section
variable {p : Part} (l : PLink)

theorem accepted_rec : (p.withLinks (p.acceptedLinks l)).linkRec (plLink l) = (p.linkRec (plLink l)).accept (p.silenceTimer (plLink l)) :=
  PerLink.get_set_same _ _ _

theorem accepted_rx : (p.withLinks (p.acceptedLinks l)).links.pl.get l = { p.links.pl.get l with frame := none } := setPlRx_get p l _

end

/-! ### What a delivery leaves -/

theorem poleFrame_links (p : Part) (i : PoleId) (s : List Nat) : (p.poleFrame i s).links = p.links := by
  unfold Part.poleFrame
  dsimp only
  split
  · exact (sensorLost_moves p i _ _).drifts.only .links (by decide)
  · exact (poleData_moves p i _ _ _).drifts.only .links (by decide)

theorem converterFrame_links (p : Part) (s : List Nat) : (p.converterFrame s).links = p.links := by
  unfold Part.converterFrame
  split
  · exact (lineUnknown_moves p).drifts.only .links (by decide)
  · have hjudge : ∀ q : Part, q.judgeBoth.links = q.links := fun q => (judgeBoth_moves q).drifts.only .links (by decide)
    rw [hjudge]
    exact (lineData_moves p _ _).drifts.only .links (by decide)

theorem deliverPl_links (p : Part) (l : PLink) (s : List Nat) : (p.deliverPl l s).links = p.links := by
  unfold Part.deliverPl
  split
  · cases l with
    | pl0 => exact poleFrame_links p .p s
    | pl1 => exact poleFrame_links p .n s
    | pl2 => exact converterFrame_links p s
  · rfl

/-! ### A frame delivered in GOOD (R30) -/

theorem conditionOf_le {n : Nat} (h : n ≤ 1) : conditionOf n ≠ .sensorFault := by
  obtain rfl | rfl := Nat.le_one_iff_eq_zero_or_eq_one.mp h <;> decide

theorem conditionOf_ge {n : Nat} (h : 2 ≤ n) : conditionOf n = .sensorFault :=
  (if_neg (by omega)).trans (if_neg (by omega))

section
variable {p : Part} {s : List Nat}

theorem poleFrame_data (h : symbolAt s 0 ≤ 1) (i : PoleId) :
    p.poleFrame i s = p.poleData i (conditionOf (symbolAt s 0)) (firstQuantity s) (secondQuantity s) := if_neg (conditionOf_le h)

theorem poleFrame_fault (h : 2 ≤ symbolAt s 0) (i : PoleId) : p.poleFrame i s = p.sensorLost i .good .sensorFault := by
  have hc := conditionOf_ge h
  unfold Part.poleFrame
  rw [hc]
  exact if_pos rfl

theorem converterFrame_data (h : symbolAt s 0 ≤ 1) : p.converterFrame s = (p.lineData (firstQuantity s) (secondQuantity s)).judgeBoth :=
  if_neg (conditionOf_le h)

theorem converterFrame_fault (h : 2 ≤ symbolAt s 0) : p.converterFrame s = p.lineUnknown := if_pos (conditionOf_ge h)

theorem deliverPl_pole {l : PLink} {i : PoleId} (hl : l = if i = .p then .pl0 else .pl1) (hg : (p.linkRec (plLink l)).state = .good) :
    p.deliverPl l s = p.poleFrame i s := by
  cases i with
  | p =>
    subst hl
    exact if_pos hg
  | n =>
    subst hl
    exact if_pos hg

end

/-- Settles O41, which holds: what follows the acceptance is an operation on the part whose links alone have changed, so it is the
delivery of a pole's frame (`poleData_takes`, `sensorLost_loses`) or of a converter's (`converted_takes`, `lineUnknown_line`). -/
theorem acceptedFrameIsDelivered : Obligations.AcceptedFrameIsDelivered := by
  intro s l n u v f r hr hstarted hstate hu hf hseven hok hn hv hcheck
  subst hr
  have hverdict : f.verdict u n = none := by simp [PlFrame.verdict, hok, hv, hcheck]
  have hcomplete := plComplete_accepted hstarted hstate hu hf hseven hn hverdict
  obtain ⟨herrors, hsilence, hnew, hruns⟩ := accept_fields hstate (s.part.silenceTimer (plLink l))
  have hrec := accepted_rec (p := s.part) l
  have hrx := accepted_rx (p := s.part) l
  generalize s.part.acceptedLinks l = x at *
  have hlinks : (((s.part.withLinks x).deliverPl l f.symbols).orderEntries s.part).links = (s.part.withLinks x).links :=
    (orderEntries_links _ _).trans (deliverPl_links _ _ _)
  have hmine : (((s.part.withLinks x).deliverPl l f.symbols).orderEntries s.part).linkRec (plLink l)
      = (s.part.linkRec (plLink l)).accept (s.part.silenceTimer (plLink l)) := (congrArg (·.recs.get (plLink l)) hlinks).trans hrec
  have hpole : ∀ i : PoleId, l = (if i = .p then .pl0 else .pl1) →
      ((s.part.linkRec (plLink l)).accept (s.part.silenceTimer (plLink l))).state = .good →
      (s.part.withLinks x).deliverPl l f.symbols = (s.part.withLinks x).poleFrame i f.symbols :=
    fun i hl hg => deliverPl_pole hl (hrec ▸ hg)
  have htakes : ∀ i : PoleId, l = (if i = .p then .pl0 else .pl1) →
      ((s.part.linkRec (plLink l)).accept (s.part.silenceTimer (plLink l))).state = .good → symbolAt f.symbols 0 ≤ 1 → s.part.mode ≠ .halt →
      s.part.takesPoleData (((s.part.withLinks x).deliverPl l f.symbols).orderEntries s.part) i (conditionOf (symbolAt f.symbols 0))
        (firstQuantity f.symbols) (secondQuantity f.symbols) := by
    intro i hl hg hstatus hmode
    rw [hpole i hl hg, poleFrame_data hstatus]
    exact poleData_takes s.part x i _ _ _ hmode
  have hline : l = .pl2 → ((s.part.linkRec (plLink l)).accept (s.part.silenceTimer (plLink l))).state = .good →
      (s.part.withLinks x).deliverPl l f.symbols = (s.part.withLinks x).converterFrame f.symbols := by
    intro hl hg
    subst hl
    exact if_pos (hrec ▸ hg)
  have hdata : l = .pl2 → ((s.part.linkRec (plLink l)).accept (s.part.silenceTimer (plLink l))).state = .good → symbolAt f.symbols 0 ≤ 1 →
      ((s.part.withLinks x).deliverPl l f.symbols).orderEntries s.part
        = s.part.converted x (firstQuantity f.symbols) (secondQuantity f.symbols) := by
    intro hl hg hstatus
    rw [hline hl hg, converterFrame_data hstatus, Part.converted]
  refine ⟨((s.part.withLinks x).deliverPl l f.symbols).orderEntries s.part, ?_, (congrArg (fun y : Links => y.pl.get l) hlinks).trans hrx, ?_⟩
  · rw [exec_plFrameComplete, event_next, hcomplete]
  rw [hmine]
  refine ⟨herrors, hsilence, hnew, hruns, fun hne => ?_, fun i hl hg hstatus hmode => ?_, fun hl hg hstatus => ?_,
    fun i hl hg => ⟨htakes i hl hg, fun hstatus => ?_⟩, fun hl hg => ⟨fun hstatus hn => ?_, fun hstatus => ?_⟩, ?_⟩
  · have hkept : (s.part.withLinks x).deliverPl l f.symbols = s.part.withLinks x := if_neg (hrec ▸ hne)
    rw [hkept, orderEntries_of_only (withLinks_only s.part x)]
    exact withLinks_only s.part x
  · obtain ⟨helevation, hlateral, htime, hcondition, -⟩ := htakes i hl hg hstatus hmode
    exact ⟨helevation, hlateral, htime, hcondition⟩
  · rw [hdata hl hg hstatus]
    exact converted_values s.part x _ _
  · rw [hpole i hl hg, poleFrame_fault hstatus]
    exact sensorLost_loses s.part x i .good .sensorFault
  · rw [hdata hl hg hstatus]
    exact converted_takes hn
  · rw [hline hl hg, converterFrame_fault hstatus, orderEntries_line]
    exact lineUnknown_line _
  · rw [← hcomplete]
    exact orderEntries_of_lineFrame (plComplete_moves s.part l n).drifts.only

end Sys2Proof.Machine

/-! ## Feedback contacts (R148, R153) -/

namespace Sys2Proof.Machine

/-- An auxiliary that trips, its output and claim given back. -/
def Part.tripMarked (p : Part) (a : AuxNo) (r : AuxRec) : Part := (p.switchOff a).setAux a r

/-- The record of a trip that is not the third (R153). -/
def AuxRec.trips1 (r : AuxRec) (times : List Word) : AuxRec := { r with state := .locked, trips := times, offDone := false }

/-- The record of the third trip (R153). -/
def AuxRec.trips3 (r : AuxRec) : AuxRec := { r with state := .faulted, trips := [] }

/-- The trips within 60 s with the one of now. -/
def Part.tripTimes (p : Part) (a : AuxNo) : List Word := p.recentTrips a ++ [p.now]

/-- The raise of the third trip. -/
def Part.tripRaise (p : Part) (a : AuxNo) : Raise :=
  { kind := .auxFaulted, source := auxSource a
    items := .small AuxFault.trips.ctorIdx :: .small (auxClassCode (p.auxEntry a).cls) :: (p.tripTimes a).map Item.large }

/-- The part after the third trip, before the off time begins. -/
def Part.tripRaised (p : Part) (a : AuxNo) : Part := (p.tripMarked a (p.auxRec a).trips3).raise (p.tripRaise a)

/-- The part after another trip, before the off time begins. -/
def Part.tripReported (p : Part) (a : AuxNo) : Part :=
  (p.tripMarked a ((p.auxRec a).trips1 (p.tripTimes a))).report .auxTripped .warning .auxiliaryScheduler a.val 0 [.small (p.tripTimes a).length]

section
variable (p : Part) (a : AuxNo)

theorem switchOff_tripTimes : (p.switchOff a).tripTimes a = p.tripTimes a := by
  obtain ⟨-, hnow, -⟩ := switchOff_settings p a
  unfold Part.tripTimes Part.recentTrips Part.since
  rw [switchOff_auxRec, hnow]

theorem trip_eq : p.trip a = if 3 ≤ (p.tripTimes a).length then (p.tripRaised a).startOff a else (p.tripReported a).startOff a := by
  have htimes : (p.switchOff a).recentTrips a ++ [(p.switchOff a).now] = p.tripTimes a := switchOff_tripTimes p a
  have hentry : (p.switchOff a).auxEntry a = p.auxEntry a := by
    obtain ⟨htables, -⟩ := switchOff_settings p a
    rw [Part.auxEntry, Part.auxEntry, htables]
  have hmarked : (p.tripMarked a (p.auxRec a).trips3).auxEntry a = p.auxEntry a := hentry
  unfold Part.trip
  dsimp only
  rw [htimes]
  unfold Part.thirdTrip Part.earlyTrip
  rw [switchOff_auxRec]
  dsimp only
  have hraise : (Raise.mk .auxFaulted (auxSource a) (.small AuxFault.trips.ctorIdx :: .small (auxClassCode ((p.tripMarked a (p.auxRec a).trips3).auxEntry a).cls)
      :: (p.tripTimes a).map Item.large) 0) = p.tripRaise a := by rw [hmarked]; rfl
  rw [Part.tripRaised, ← hraise]
  rfl

theorem tripMarked_staysOff (r : AuxRec) : (p.switchOff a).StaysOff a (p.tripMarked a r) := staysOff_of_aux (setAux_moves _ a _).drifts.only a

theorem tripRaised_staysOff : (p.switchOff a).StaysOff a (p.tripRaised a) :=
  (tripMarked_staysOff p a _).andThen (raise_staysOff _ _ a)

theorem tripReported_staysOff : (p.switchOff a).StaysOff a (p.tripReported a) :=
  (tripMarked_staysOff p a _).andThen (report_staysOff _ _ _ _ _ _ _ a)

theorem tripRaised_auxRec : (p.tripRaised a).auxRec a = (p.auxRec a).trips3 := by
  rw [Part.auxRec, Part.tripRaised, raise_aux]
  exact Part.auxRec_set_same _ _ _

theorem tripReported_auxRec : (p.tripReported a).auxRec a = (p.auxRec a).trips1 (p.tripTimes a) := Part.auxRec_set_same _ _ _

/-- An auxiliary that trips stops with its off timer, by whichever branch (R153, R154). -/
theorem tripEnds_stops {m : Part} {r : AuxRec} (hm : (p.switchOff a).StaysOff a m) (hrec : m.auxRec a = r)
    (hreq : r.requested = (p.auxRec a).requested) :
    p.auxStops (m.startOff a) a ∧ ((m.startOff a).auxRec a).requested = (p.auxRec a).requested
      ∧ ((m.startOff a).auxRec a).trips = r.trips := by
  obtain ⟨htables, hnow, -⟩ := switchOff_settings p a
  obtain ⟨s, d, n, hoff⟩ := startOff_auxRec m a
  have htimer : m.offTimerOf a = p.offTimerOf a := offTimerOf_congr (hm.tables.trans htables) (hm.now.trans hnow) a
  have hends : m.StaysOff a (m.startOff a) := staysOff_of_aux (startOff_moves m a).drifts.only a
  rw [hrec] at hoff
  exact ⟨auxStops_of (hm.andThen hends) (by rw [hoff, htimer]), by rw [hoff, ← hreq], by rw [hoff]⟩

theorem tripMarked_spares (r : AuxRec) : p.Spares [.outputMismatch] [] [.auxRun a] (p.tripMarked a r) := by
  have hdrive : p.Spares [.outputMismatch] [] [.auxRun a] (p.drive (.auxRun a) false) := drive_spares _ _ _
  have hrelease : (p.drive (.auxRun a) false).Spares [] [] [] (p.switchOff a) := (release_moves _ a).spares
  have hset : (p.switchOff a).Spares [] [] [] (p.tripMarked a r) := (setAux_moves _ a _).spares
  exact (hdrive.andThen hrelease (by simp) (by simp) (by simp)).andThen hset (by simp) (by simp) (by simp)

end

section
variable {p : Part} {a : AuxNo}

/-- The third trip within 60 s (R153). -/
theorem trip_third (h : 2 ≤ (p.recentTrips a).length) : p.auxStops (p.trip a) a ∧ ((p.trip a).auxRec a).requested = (p.auxRec a).requested
    ∧ ((p.trip a).auxRec a).state = .faulted ∧ ((p.trip a).auxRec a).trips = []
    ∧ p.activated (p.trip a) .auxFaulted (auxSource a) (p.tripRaise a).items := by
  have hthird : p.trip a = (p.tripRaised a).startOff a := (trip_eq p a).trans (if_pos (by simp [Part.tripTimes]; omega))
  have hrec := tripRaised_auxRec p a
  obtain ⟨hstops, hreq, htrips⟩ := tripEnds_stops p a (tripRaised_staysOff p a) hrec rfl
  have hstate := startOff_state_other (p := p.tripRaised a) (a := a) (by rw [hrec]; exact show AuxState.faulted ≠ .shed by decide)
    (by rw [hrec]; exact show AuxState.faulted ≠ .locked by decide)
  have hraised : (p.tripMarked a (p.auxRec a).trips3).activated (p.tripRaised a) .auxFaulted (auxSource a) (p.tripRaise a).items :=
    activated_of_raise _ (p.tripRaise a) (show FaultKind.auxFaulted ≠ .alarmOutput by decide)
  have hafter : (p.tripRaised a).Spares [] [] [] ((p.tripRaised a).startOff a) := (startOff_moves _ a).spares
  have hnow : ((p.tripRaised a).startOff a).now = (p.tripRaised a).now := (startOff_moves _ a).drifts.only .now (by decide)
  have hact := Part.Spares.activated hraised (tripMarked_spares p a _) hafter hnow (by decide) (by decide) (by decide)
  rw [hthird]
  exact ⟨hstops, hreq, by rw [hstate, hrec]; rfl, htrips, hact⟩

/-- A trip that is not the third (R153, R154). -/
theorem trip_early (h : (p.recentTrips a).length < 2) : p.auxStops (p.trip a) a ∧ ((p.trip a).auxRec a).requested = (p.auxRec a).requested
    ∧ ((p.trip a).auxRec a).state = p.lockedState a (p.auxRec a).requested ∧ ((p.trip a).auxRec a).trips = p.tripTimes a
    ∧ (p.trip a).mbx.newest .auxTripped .auxiliaryScheduler a.val 0 [.small (p.tripTimes a).length] := by
  have hearly : p.trip a = (p.tripReported a).startOff a := (trip_eq p a).trans (if_neg (by simp [Part.tripTimes]; omega))
  have hrec := tripReported_auxRec p a
  have hstays := tripReported_staysOff p a
  obtain ⟨hstops, hreq, htrips⟩ := tripEnds_stops p a hstays hrec rfl
  obtain ⟨htables, -, hmode, hline⟩ := switchOff_settings p a
  have hstate := startOff_state (p := p.tripReported a) (a := a) (.inr (by rw [hrec]; rfl))
  have hentry : (p.tripReported a).auxEntry a = p.auxEntry a := by rw [Part.auxEntry, Part.auxEntry, hstays.tables, htables]
  have hnew := report_newest (p.tripMarked a ((p.auxRec a).trips1 (p.tripTimes a))) .auxTripped .warning .auxiliaryScheduler a.val 0
    [.small (p.tripTimes a).length]
  rw [hearly]
  refine ⟨hstops, hreq, ?_, htrips, newest_of_same ((startOff_moves (p.tripReported a) a).drifts.only .reports (by decide)) hnew⟩
  rw [hstate, hentry, Part.lockedState,
    entryState_congr (hstays.tables.trans htables) (hstays.mode.trans hmode) (hstays.line.trans hline) (by rw [hrec]; rfl), hrec]
  rfl

theorem feedbackChange_runs (hf : (p.auxEntry a).feedback ≠ noFeedback) (h : (p.auxRec a).state = .starting) :
    p.feedbackChange a .closed = p.auxRuns a := by
  unfold Part.feedbackChange
  rw [if_neg hf, h]

theorem feedbackChange_trips (hf : (p.auxEntry a).feedback ≠ noFeedback) (h : (p.auxRec a).state = .running) :
    p.feedbackChange a .opened = p.trip a := by
  unfold Part.feedbackChange
  rw [if_neg hf, h]

theorem feedbackChange_other {l : Level} (hc : l = .closed → (p.auxRec a).state ≠ .starting) (ho : l = .opened → (p.auxRec a).state ≠ .running) :
    p.feedbackChange a l = p := by
  unfold Part.feedbackChange
  split
  · rfl
  · cases l <;> cases hs : (p.auxRec a).state <;> simp_all

/-- A confirmed change of a feedback contact, with the entry orders of its event (R148, R153). -/
theorem feedbackChange_changes (hf : (p.auxEntry a).feedback ≠ noFeedback) (l : Level) (o : Part) (ho : p.aux = o.aux) :
    p.feedbackChanges ((p.feedbackChange a l).orderEntries o) a l := by
  refine ⟨fun hl hs => ?_, fun hl hs => ?_, fun hc hop => ?_⟩
  · subst hl
    rw [feedbackChange_runs hf hs, Part.auxRuns]
    refine orderEntries_idle fun b => ?_
    have horder : (o.auxRec b).entryOrder = (p.auxRec b).entryOrder := congrArg (fun x : Auxiliaries => (x.recs.get b).entryOrder) ho.symm
    rw [horder]
    by_cases hb : b = a
    · subst hb
      rw [Part.auxRec_set_same]
    · rw [Part.auxRec_set_other _ _ _ _ hb]
  · subst hl
    have htables : (p.trip a).tables = p.tables := (trip_moves p a).drifts.only .tables (by decide)
    obtain ⟨n, hrec⟩ := orderEntries_auxRec (p.trip a) o a
    have hreports := (orderEntries_moves (p.trip a) o).drifts.only .reports (by decide)
    have hstate' := orderEntries_state (p.trip a) o a
    have hreq' : (((p.trip a).orderEntries o).auxRec a).requested = ((p.trip a).auxRec a).requested := by rw [hrec]
    have htrips' : (((p.trip a).orderEntries o).auxRec a).trips = ((p.trip a).auxRec a).trips := by rw [hrec]
    rw [feedbackChange_trips hf hs]
    by_cases h : (p.recentTrips a).length < 2
    · obtain ⟨hstops, hreq, hstate, htrips, hnew⟩ := trip_early h
      have hlength : (p.tripTimes a).length = (p.recentTrips a).length + 1 := by simp [Part.tripTimes]
      rw [hlength] at hnew
      exact ⟨hstops.ordered o htables, hreq'.trans hreq,
        fun _ => ⟨hstate'.trans hstate, htrips'.trans htrips, newest_of_same hreports hnew⟩, fun hlt => absurd h (Nat.not_lt.mpr hlt)⟩
    · obtain ⟨hstops, hreq, hstate, htrips, hact⟩ := trip_third (Nat.not_lt.mp h)
      have hordered := activated_ordered o hact
      have hitems : (p.tripRaise a).items = [.small 1, .small (auxClassCode (p.auxEntry a).cls)] ++ (p.recentTrips a ++ [p.now]).map Item.large := rfl
      rw [hitems] at hordered
      exact ⟨hstops.ordered o htables, hreq'.trans hreq, fun hlt => absurd hlt h,
        fun _ => ⟨hstate'.trans hstate, htrips'.trans htrips, hordered⟩⟩
  · rw [feedbackChange_other hc hop]
    exact orderEntries_of_aux ho

end

end Sys2Proof.Machine

/-! ## Housed and trip contacts (R77, R86, R88, R101, R105) -/

namespace Sys2Proof.Machine

/-! ### A dewired pole that is housed (R86) -/

/-- The record of a DEWIRED pole that is housed (R85, R86). -/
def Pole.housedDewired (q : Pole) (p : Part) : Pole :=
  { q with state := .housed, blind := false, lowerTimer := .stopped, holdTimer := p.startTimer 500 }.checkLatch

/-- The part with a dewired pole housed, its condition ended. -/
def Part.housesDewired (p : Part) (i : PoleId) : Part :=
  (p.setPole i ((p.poles.get i).housedDewired p)).endFault .poleDewired (poleSource i .none)

theorem housedDewired_fields (q : Pole) (p : Part) : (q.housedDewired p).state = .housed ∧ (q.housedDewired p).lowerTimer = .stopped
    ∧ (q.housedDewired p).holdTimer = p.startTimer 500 ∧ (q.housedDewired p).latch = (q.latch && !q.latchAck) := by
  unfold Pole.housedDewired Pole.checkLatch
  cases hack : q.latchAck <;> simp

theorem housesDewired_sets (p : Part) (i : PoleId) :
    Part.Sets i ((p.poles.get i).housedDewired p) [.poleDewired] [] [] p (p.housesDewired i) :=
  ((setPole_sets p i ((p.poles.get i).housedDewired p)).mono (ks' := [.poleDewired]) (rs' := []) (os' := []) (by simp) (by simp)
    (by simp)).endFaultIf true .poleDewired (poleSource i .none)

section
variable {p : Part} {i : PoleId}

theorem housedChange_dewired (h : (p.poles.get i).state = .dewired) :
    p.housedChange i .closed = (p.housesDewired i).closePoles [{ pole := i, entered := .housed }] := by
  unfold Part.housedChange
  rw [h]
  rfl

theorem housedChange_lowering (h : (p.poles.get i).state = .lowering) :
    p.housedChange i .closed = (p.lowerDone i).1.closePoles [{ pole := i, entered := .housed }] := by
  unfold Part.housedChange
  rw [h]
  rfl

theorem housedChange_housed (h : (p.poles.get i).state = .housed) : p.housedChange i .opened = p.unhoused i := by
  unfold Part.housedChange
  rw [h]

theorem housedChange_other {l : Level} (hc : l = .closed → (p.poles.get i).state ≠ .dewired ∧ (p.poles.get i).state ≠ .lowering)
    (ho : l = .opened → (p.poles.get i).state ≠ .housed) : p.housedChange i l = p := by
  unfold Part.housedChange
  cases l <;> cases hs : (p.poles.get i).state <;> simp_all

/-- A pole housed in an event of its own with its one notice (R54, R90). -/
theorem houses_end {r : Pole} {ks : List FaultKind} {rs : List ReportKind} {os : List DriveRole} {m : Part}
    (h : Part.Sets i r ks rs os p m) (hr : r.onLine = false) (o : Part) :
    ((m.closePoles [{ pole := i, entered := .housed }]).orderEntries o).poles.get i = r
      ∧ p.lineFollows ((m.closePoles [{ pole := i, entered := .housed }]).orderEntries o) [(i, .housed)] :=
  ⟨(close_tail m o _).record h.record hr, lineFollows_of_view (close_view m o _) h.lineView⟩

theorem dewiredHoused_end (h : (p.poles.get i).state = .dewired) (o : Part) :
    ((p.housedChange i .closed).orderEntries o).poles.get i = (p.poles.get i).housedDewired p
      ∧ p.lineFollows ((p.housedChange i .closed).orderEntries o) [(i, .housed)]
      ∧ ((p.housedChange i .closed).orderEntries o).endedFault .poleDewired (aboutPole i .none) := by
  have hstate := (housedDewired_fields (p.poles.get i) p).1
  obtain ⟨hrec, hline⟩ := houses_end (housesDewired_sets p i) (by rw [Pole.onLine, hstate]; rfl) o
  have hended : (p.housesDewired i).endedFault .poleDewired (poleSource i .none) := endFault_endedFault _ _ _
  have hkept := (close_tail (p.housesDewired i) o [{ pole := i, entered := .housed }]).spares.faults .poleDewired (by decide) (by decide)
  rw [housedChange_dewired h]
  refine ⟨hrec, hline, ?_⟩
  rw [Part.endedFault, hkept]
  exact hended

/-! ### A lowering pole that is housed (R101, R105) -/

theorem checkLatch_latch {q : Pole} (h : q.state = .housed) : q.checkLatch.latch = (q.latch && !q.latchAck) := by
  unfold Pole.checkLatch
  rw [h]
  cases hack : q.latchAck <;> simp

theorem decidesRetry_latches (q : Pole) (t : Timers) :
    (q.decidesRetry t).state = q.state ∧ (q.decidesRetry t).latch = q.latch ∧ (q.decidesRetry t).latchAck = q.latchAck := by
  unfold Pole.decidesRetry
  split
  · split <;> exact ⟨rfl, rfl, rfl⟩
  · exact ⟨rfl, rfl, rfl⟩

theorem afterHousing_latch (q : Pole) (p : Part) : (q.afterHousing p).latch = (q.latch && !q.latchAck) := by
  unfold Pole.afterHousing
  split
  · obtain ⟨hstate, hlatch, hack⟩ := decidesRetry_latches (q.housedWith p) p.tables.timers
    have hends := checkLatch_latch (q := { (q.housedWith p).decidesRetry p.tables.timers with lowering := .none }) hstate
    exact hends.trans (by rw [hlatch, hack]; rfl)
  · exact checkLatch_latch (q := { q.housedWith p with lowering := .none }) rfl

/-- The retry that follows an abandoned raise (R101). -/
theorem afterHousing_pends {q : Pole} {p : Part} (hcause : q.lowering = .abandonedRaise)
    (h : (q.abandon = .timeout ∨ q.abandon = .aboveBand) ∧ q.retryCount < p.tables.timers.raiseRetries) : (q.afterHousing p).retryPending = true := by
  unfold Pole.afterHousing Pole.endsLowering Pole.checkLatch Pole.decidesRetry Pole.housedWith
  rw [if_pos hcause, if_pos h.1, if_pos h.2]
  split <;> rfl

/-- No retry follows (R101). -/
theorem afterHousing_gives {q : Pole} {p : Part} (hcause : q.lowering = .abandonedRaise)
    (h : ¬ ((q.abandon = .timeout ∨ q.abandon = .aboveBand) ∧ q.retryCount < p.tables.timers.raiseRetries)) :
    (q.afterHousing p).origin = .none ∧ (q.afterHousing p).retryCount = 0 := by
  unfold Pole.afterHousing Pole.endsLowering Pole.checkLatch Pole.decidesRetry Pole.givesUp Pole.housedWith
  rw [if_pos hcause]
  split
  next hends =>
    rw [if_neg fun hlt => h ⟨hends, hlt⟩]
    split <;> exact ⟨rfl, rfl⟩
  next => split <;> exact ⟨rfl, rfl⟩

theorem lowerDone_decides (h : (p.poles.get i).lowering = .abandonedRaise) : (p.lowerDone i).1 =
    ((p.setPole i ((p.poles.get i).housedWith p)).decideRetry i).modPole i Pole.endsLowering := by
  unfold Part.lowerDone
  simp only [beq_iff_eq, if_pos h]
  rfl

theorem decideRetry_fails (hends : (p.poles.get i).abandon = .timeout ∨ (p.poles.get i).abandon = .aboveBand)
    (hcount : ¬ (p.poles.get i).retryCount < p.tables.timers.raiseRetries) : p.decideRetry i = p.raiseFailed i none := by
  unfold Part.decideRetry
  simp only [Bool.or_eq_true, beq_iff_eq, if_pos hends, if_neg hcount]

/-- RAISE_FAILED at the housing of a raise that is not tried again (R101). -/
theorem lowerDone_activated (h : (p.poles.get i).lowering = .abandonedRaise)
    (hends : (p.poles.get i).abandon = .timeout ∨ (p.poles.get i).abandon = .aboveBand)
    (hcount : ¬ (p.poles.get i).retryCount < p.tables.timers.raiseRetries) :
    p.activated (p.lowerDone i).1 .raiseFailed (aboutPole i .none)
      ([.small (abandonCode (p.poles.get i).abandon), .small ((p.poles.get i).retryCount + 1), .small (originCode (p.poles.get i).origin)]
        ++ zoneItem (p.poles.get i).zoneId) := by
  have hset := setPole_sets p i ((p.poles.get i).housedWith p)
  have hfails : (p.setPole i ((p.poles.get i).housedWith p)).decideRetry i = (p.setPole i ((p.poles.get i).housedWith p)).raiseFailed i none :=
    decideRetry_fails (by rw [hset.record]; exact hends) (by rw [hset.record]; exact hcount)
  have hraised := raiseFailed_activated (p.setPole i ((p.poles.get i).housedWith p)) i none
  have hitems : ((p.setPole i ((p.poles.get i).housedWith p)).failedRaise i none).items
      = [.small (abandonCode (p.poles.get i).abandon), .small ((p.poles.get i).retryCount + 1), .small (originCode (p.poles.get i).origin)]
        ++ zoneItem (p.poles.get i).zoneId := by
    rw [Part.failedRaise, hset.record]
    exact congrArg (_ :: _ :: _ :: ·) (List.append_nil _)
  rw [hitems] at hraised
  have hafter := setPole_sets ((p.setPole i ((p.poles.get i).housedWith p)).raiseFailed i none) i
    (((p.setPole i ((p.poles.get i).housedWith p)).raiseFailed i none).poles.get i).endsLowering
  rw [lowerDone_decides h, hfails]
  exact Part.Spares.activated hraised hset.spares hafter.spares hafter.now List.not_mem_nil List.not_mem_nil (by decide)

theorem loweringHoused_end (h : (p.poles.get i).state = .lowering) (o : Part) :
    ((p.housedChange i .closed).orderEntries o).poles.get i = (p.poles.get i).afterHousing p
      ∧ p.lineFollows ((p.housedChange i .closed).orderEntries o) [(i, .housed)]
      ∧ ((p.poles.get i).lowering ≠ .abandonedRaise → ((p.housedChange i .closed).orderEntries o).mbx.tells .lowerComplete .poleMonitor
          (poleNumber i) (p.poles.get i).requestTag ((p.poles.get i).completeItems p))
      ∧ ((p.poles.get i).lowering = .abandonedRaise → (p.poles.get i).abandon = .timeout ∨ (p.poles.get i).abandon = .aboveBand →
          ¬ (p.poles.get i).retryCount < p.tables.timers.raiseRetries →
          p.activated ((p.housedChange i .closed).orderEntries o) .raiseFailed (aboutPole i .none)
            ([.small (abandonCode (p.poles.get i).abandon), .small ((p.poles.get i).retryCount + 1), .small (originCode (p.poles.get i).origin)]
              ++ zoneItem (p.poles.get i).zoneId)) := by
  have hstate := (afterHousing_fields (p.poles.get i) p).1
  obtain ⟨hrec, hline⟩ := houses_end (lowerDone_sets p i) (by rw [Pole.onLine, hstate]; rfl) o
  have htail := close_tail (p.lowerDone i).1 o [{ pole := i, entered := .housed }]
  rw [housedChange_lowering h]
  exact ⟨hrec, hline, fun hcause => htail.spares.tells (by decide) (lowerDone_tells hcause), fun hcause hends hcount =>
    Part.Spares.activated (lowerDone_activated hcause hends hcount) (Part.Spares.refl [] [] [] p) htail.spares htail.now List.not_mem_nil
      (by decide) (by decide)⟩

end

/-! ### A housed pole whose contact opens (R88) -/

/-- A pole without the retry that was pending (R88). -/
def Pole.dropsRetry (q : Pole) : Pole := if q.retryPending then { q with retryPending := false, origin := .none, retryCount := 0 } else q

/-- The part with the pole's retry dropped. -/
def Part.retryDropped (p : Part) (i : PoleId) : Part :=
  if (p.poles.get i).retryPending then
    p.setPole i { p.poles.get i with retryPending := false, origin := .none, retryCount := 0 }
  else p

/-- The raise of POLE_SENSOR for a pole that is no longer housed (R88). -/
def Pole.unhousedRaise (q : Pole) (i : PoleId) : Raise :=
  { kind := .poleSensor, source := poleSource i .unhoused, items := [.small (sourceCauseCode .unhoused), bigNat q.elevation], tag := 0 }

section
variable (p : Part) (i : PoleId)

theorem retryDropped_sets : Part.Sets i (p.poles.get i).dropsRetry [] [] [] p (p.retryDropped i) := by
  unfold Pole.dropsRetry Part.retryDropped
  split
  · exact setPole_sets p i _
  · exact .refl _ _ _ p i

theorem dropsRetry_blind (q : Pole) : q.dropsRetry.blind = q.blind := by
  unfold Pole.dropsRetry
  split <;> rfl

/-- A lowering that is not an abandoned raise leaves no retry (R88, R104). -/
theorem lowered_retry (q : Pole) (p : Part) (i : PoleId) {cause : LoweringCause} (h : cause ≠ .abandonedRaise) (tag : Word) (zone : Option TagId) :
    (q.lowered p i cause tag zone).retryPending = false := by
  unfold Pole.lowered
  split
  · have hcause : (q.beginsLowering p cause tag zone).lowering ≠ .abandonedRaise := h
    unfold Pole.afterHousing Pole.endsLowering Pole.checkLatch
    rw [if_neg hcause]
    split <;> rfl
  · rfl

theorem unhoused_eq : p.unhoused i =
    (((p.retryDropped i).lower i .unhoused 0 none).1.raise ((p.poles.get i).unhousedRaise i)).closePoles
      ((p.retryDropped i).lower i .unhoused 0 none).2 := rfl

/-- A pole that is not blind lowers without an end of POLE_SENSOR (R82, R104). -/
theorem lower_spares_sighted (h : (p.poles.get i).blind = false) (cause : LoweringCause) (tag : Word) (zone : Option TagId) :
    p.Spares [.outputMismatch, .raiseFailed] housingReports (poleRoles i) (p.lower i cause tag zone).1 := by
  have hdrive := (drivePole_sets p i i false true).spares
  have hset := (setPole_sets (p.drivePole i false true) i ((p.poles.get i).beginsLowering (p.drivePole i false true) cause tag zone)).spares
  have hstart : (p.startLowering i cause tag zone).1 = p.setsLowering i cause tag zone :=
    (startLowering_eq p i cause tag zone).trans (if_neg (by simp [h]))
  have hlowers : p.Spares [.outputMismatch] [] (poleRoles i) (p.startLowering i cause tag zone).1 := by
    rw [hstart]
    exact hdrive.andThen hset (by simp) (by simp) (by simp)
  exact (hlowers.mono (by simp) (by simp) fun _ => id).andThen (houseIfClosed_sets (p.startLowering i cause tag zone).1 i).spares (by simp)
    (fun _ => id) (by simp)

theorem unhoused_end (hs : (p.poles.get i).blind = false) (o : Part) :
    p.lowers ((p.unhoused i).orderEntries o) i .unhoused 0 none ∧ (((p.unhoused i).orderEntries o).poles.get i).retryPending = false
      ∧ p.lineFollows ((p.unhoused i).orderEntries o) (p.loweringNotices i)
      ∧ p.activated ((p.unhoused i).orderEntries o) .poleSensor (aboutPole i .unhoused)
          [.small (sourceCauseCode .unhoused), bigNat (p.poles.get i).elevation] := by
  have hdrop := retryDropped_sets p i
  have hlower := lower_sets (p.retryDropped i) i .unhoused 0 none
  have hdriven := lower_driven (p.retryDropped i) i .unhoused 0 none
  have hnotices := lower_notices (p.retryDropped i) i .unhoused 0 none
  have htold := lower_tells (p.retryDropped i) i (show LoweringCause.unhoused ≠ .abandonedRaise by decide) 0 none
  have hsighted := lower_spares_sighted (p.retryDropped i) i (by rw [hdrop.record, dropsRetry_blind]; exact hs) .unhoused 0 none
  rw [unhoused_eq]
  generalize ((p.retryDropped i).lower i .unhoused 0 none).1 = m at *
  generalize ((p.retryDropped i).lower i .unhoused 0 none).2 = ns at *
  have hraise : m.Spares [.poleSensor] [.fault .poleSensor, .collectorChanged] [] (m.raise ((p.poles.get i).unhousedRaise i)) :=
    raise_spares m ((p.poles.get i).unhousedRaise i)
  have hraised := (hlower.mono (ks' := loweringKinds) (rs' := .fault .poleSensor :: housingReports) (os' := poleRoles i) (fun _ => id)
    (fun _ => List.mem_cons_of_mem _) fun _ => id).raise .poleSensor i .unhoused 0 ((p.poles.get i).unhousedRaise i).items (by decide) (by decide)
  have hend : m.poleRaise .poleSensor i .unhoused 0 ((p.poles.get i).unhousedRaise i).items = m.raise ((p.poles.get i).unhousedRaise i) := rfl
  rw [hend] at hraised
  have htail := close_tail (m.raise ((p.poles.get i).unhousedRaise i)) o ns
  have hview := close_view (m.raise ((p.poles.get i).unhousedRaise i)) o ns
  have hclaims := close_claims (m.raise ((p.poles.get i).unhousedRaise i)) o ns
  have hrec := htail.record hraised.record (lowered_onLine _ _ _ _ _ _)
  have hdone : (p.retryDropped i).driven (((m.raise ((p.poles.get i).unhousedRaise i)).closePoles ns).orderEntries o) i false true :=
    htail.spares.driven (hraise.driven hdriven hlower.tables (by simp)) hraised.tables (by cases i <;> decide)
  have hlowers := lowers_of hrec hdone hclaims fun hc => htail.spares.tells (by decide) (hraise.tells (by decide) (htold hc))
  have hactivated := activated_of_raise m ((p.poles.get i).unhousedRaise i) (show FaultKind.poleSensor ≠ .alarmOutput by decide)
  have hlowered := (hdrop.spares.mono (ks' := [.outputMismatch, .raiseFailed]) (rs' := housingReports) (os' := poleRoles i) (by simp) (by simp)
    (by simp)).andThen hsighted (fun _ => id) (fun _ => id) fun _ => id
  rw [hraised.lineView, hnotices] at hview
  refine ⟨hdrop.reads.lowers hlowers, by rw [hrec, lowered_retry _ _ _ (by decide)], ?_,
    Part.Spares.activated hactivated hlowered htail.spares htail.now (by decide) (by decide) (by decide)⟩
  have hsame : (p.retryDropped i).loweringNotices i = p.loweringNotices i := by
    rw [Part.loweringNotices, Part.loweringNotices, hdrop.reads.housedClosed]
  rw [hsame] at hview
  exact lineFollows_of_view hview hdrop.lineView

end

/-! ### The contact words (R77, R86, R88, R105) -/

section
variable {p : Part} {i : PoleId}

/-- A confirmed change of a housed contact, with the entry orders of its event (R85, R86, R88, R101, R105). -/
theorem housedChange_changes (hblind : p.blindOnWire) (l : Level) (o : Part) (ho : p.aux = o.aux) :
    p.housedChanges ((p.housedChange i l).orderEntries o) i l := by
  refine ⟨fun hl hs => ?_, fun hl hs => ?_, fun hl hs => ?_, fun hl hs => ?_, fun hc hop => ?_⟩
  · subst hl
    obtain hs | hs := hs
    · obtain ⟨hrec, hline, -⟩ := dewiredHoused_end hs o
      obtain ⟨hstate, hlower, hhold, hlatch⟩ := housedDewired_fields (p.poles.get i) p
      rw [hrec]
      exact ⟨hstate, hlower, hhold, hlatch, hline⟩
    · obtain ⟨hrec, hline, -⟩ := loweringHoused_end hs o
      obtain ⟨hstate, -, -, -, hlower, hhold, -⟩ := afterHousing_fields (p.poles.get i) p
      rw [hrec]
      exact ⟨hstate, hlower, hhold, afterHousing_latch _ _, hline⟩
  · subst hl
    exact (dewiredHoused_end hs o).2.2
  · subst hl
    obtain ⟨hrec, -, htells, hfails⟩ := loweringHoused_end hs o
    obtain ⟨-, -, -, -, -, -, hlowering, -⟩ := afterHousing_fields (p.poles.get i) p
    rw [hrec]
    refine ⟨hlowering, htells, fun hcause hretry => afterHousing_pends hcause (of_decide_eq_true hretry), fun hcause hretry => ?_⟩
    have hnot := of_decide_eq_false hretry
    obtain ⟨horigin, hcount⟩ := afterHousing_gives (p := p) hcause hnot
    exact ⟨horigin, hcount, fun hends => hfails hcause hends fun hlt => hnot ⟨hends, hlt⟩⟩
  · subst hl
    have hsighted : (p.poles.get i).blind = false := by
      rw [Bool.eq_false_iff]
      intro hb
      have hon := hblind i hb
      rw [Pole.onLine, hs] at hon
      exact absurd hon (by decide)
    rw [housedChange_housed hs]
    exact unhoused_end p i hsighted o
  · rw [housedChange_other hc hop]
    exact orderEntries_of_aux ho

/-- The record of a pole whose trip indicator is set anew (R77). -/
def Pole.tripsTo (q : Pole) (closed : Bool) : Pole :=
  { q with indicators := { q.indicators with trip := closed }
           seen := if q.state == .suspect then q.seen.union { q.indicators with trip := closed } else q.seen }

theorem tripsTo_resets (q : Pole) (closed : Bool) : q.Resets (q.tripsTo closed) { q.indicators with trip := closed } :=
  ⟨rfl, rfl, rfl, rfl, rfl, fun hs => if_pos (beq_iff_eq.mpr hs)⟩

theorem tripChange_onLine (h : (p.poles.get i).onLine = true) (l : Level) :
    p.tripChange i l = (p.setPole i ((p.poles.get i).tripsTo (l == .closed))).judge i := if_pos h

theorem tripChange_raising (h : (p.poles.get i).state = .raising) : p.tripChange i .closed = p.abandonAlone i .trip := by
  have hoff : ¬ (p.poles.get i).onLine = true := by simp [Pole.onLine, h]
  unfold Part.tripChange
  exact (if_neg hoff).trans (if_pos (by rw [h]; rfl))

theorem tripChange_other {l : Level} (hoff : (p.poles.get i).onLine = false) (h : (p.poles.get i).state ≠ .raising ∨ l = .opened) :
    p.tripChange i l = p := by
  have hon : ¬ (p.poles.get i).onLine = true := by simp [hoff]
  unfold Part.tripChange
  refine (if_neg hon).trans (if_neg ?_)
  obtain h | rfl := h
  · simp [h]
  · simp

/-- A confirmed change of a retriever's trip contact, with the entry orders of its event (R77, R78, R100). -/
theorem tripChange_changes (l : Level) (o : Part) (ho : p.aux = o.aux) : p.tripChanges ((p.tripChange i l).orderEntries o) i l := by
  refine ⟨fun hon => ?_, fun hs hl => ?_, fun hoff h => ?_⟩
  · rw [tripChange_onLine hon]
    exact looks_of_judge (setPole_sets p i ((p.poles.get i).tripsTo (l == .closed))) List.not_mem_nil (tripsTo_resets _ _) hon o
  · subst hl
    obtain ⟨habandons, -, hview, -⟩ := abandonAlone_end p i .trip o
    rw [tripChange_raising hs]
    exact ⟨habandons, lineFollows_of_view hview rfl⟩
  · rw [tripChange_other hoff h]
    exact orderEntries_of_aux ho

end

end Sys2Proof.Machine

/-! ## The contact inputs (R39 to R42) -/

namespace Sys2Proof.Machine

/-! ### Deliveries by role (R38) -/

section
variable (p : Part) (i : InputNo) (l : Level)

theorem deliverContact_contacts : (p.deliverContact i l).contacts = p.contacts := by
  unfold Part.deliverContact
  dsimp only
  split
  · exact (housedChange_moves p _ l).drifts.only .contacts (by decide)
  · exact (housedChange_moves p _ l).drifts.only .contacts (by decide)
  · exact (tripChange_moves p _ l).drifts.only .contacts (by decide)
  · exact (tripChange_moves p _ l).drifts.only .contacts (by decide)
  · exact (doorChange_moves p l).drifts.only .contacts (by decide)
  · split
    · exact (feedbackChange_moves p _ l).drifts.only .contacts (by decide)
    · rfl
  · rfl
  · rfl

end

section
variable {p : Part} {i : InputNo} (l : Level)

theorem deliverContact_housed {x : PoleId} (h : (p.tables.inputs.get i).role = housedRole x) : p.deliverContact i l = p.housedChange x l := by
  unfold Part.deliverContact
  dsimp only
  cases x <;> rw [h] <;> rfl

theorem deliverContact_trip {x : PoleId} (h : (p.tables.inputs.get i).role = tripRole x) : p.deliverContact i l = p.tripChange x l := by
  unfold Part.deliverContact
  dsimp only
  cases x <;> rw [h] <;> rfl

theorem deliverContact_door (h : (p.tables.inputs.get i).role = .doorInterlock) : p.deliverContact i l = p.doorChange l := by
  unfold Part.deliverContact
  dsimp only
  rw [h]

theorem deliverContact_feedback {a : AuxNo} (h : (p.tables.inputs.get i).role = .auxFeedback) (ha : (p.tables.inputs.get i).aux = a.val) :
    p.deliverContact i l = p.feedbackChange a l := by
  have hlt : (p.tables.inputs.get i).aux < 12 := ha ▸ a.isLt
  have hfin : (⟨(p.tables.inputs.get i).aux, hlt⟩ : AuxNo) = a := Fin.ext ha
  unfold Part.deliverContact
  dsimp only
  rw [h]
  exact (dif_pos hlt).trans (congrArg (p.feedbackChange · l) hfin)

theorem deliverContact_quiet (h : (p.tables.inputs.get i).role = .wakeRequest ∨ (p.tables.inputs.get i).role = .none) :
    p.deliverContact i l = p := by
  unfold Part.deliverContact
  dsimp only
  obtain h | h := h <;> rw [h]

end

/-! ### The door (R139) -/

theorem doorChange_run {p : Part} (h : p.mode = .run) (l : Level) :
    (p.doorChange l).gov.inhibit.doorOpen = (l == .opened) ∧ p.onlyChanges [.inhibit] (p.doorChange l) := by
  unfold Part.doorChange
  rw [if_pos h]
  cases l with
  | closed => exact ⟨rfl, withdraw_only p .doorOpen⟩
  | opened =>
    refine ⟨by rw [claim_inhibit]; rfl, ?_⟩
    cases hh : p.gov.inhibit.has .doorOpen with
    | true =>
      rw [claim_of_has hh]
      exact Part.onlyChanges_refl _ p
    | false =>
      rw [claim_of_ramp hh rfl]
      intro x hx
      cases x <;> simp_all [Part.same, Part.joined]

theorem doorChange_other {p : Part} (h : p.mode ≠ .run) (l : Level) : p.doorChange l = p := if_neg h

/-! ### Sensing (R39, R40, R42) -/

section
variable {p : Part} {i : InputNo} {l : Level}

theorem sensed_iff : p.sensed i = true ↔ (p.tables.inputs.get i).role ≠ .none ∧ p.mode ≠ .layover := by simp [Part.sensed]

theorem rawChange_unsensed (h : (p.tables.inputs.get i).role = .none ∨ p.mode = .layover) : p.rawChange i l = p := by
  have hs : p.sensed i = false := by
    rw [Bool.eq_false_iff, ne_eq, sensed_iff]
    rintro ⟨hr, hm⟩
    exact h.elim hr hm
  unfold Part.rawChange
  exact if_pos (by simp [hs])

theorem senseDrive_unsensed (h : (p.tables.inputs.get i).role = .none ∨ p.mode = .layover) : p.senseDrive i = .none := by
  have hs : p.sensed i = false := by
    rw [Bool.eq_false_iff, ne_eq, sensed_iff]
    rintro ⟨hr, hm⟩
    exact h.elim hr hm
  unfold Part.senseDrive
  exact if_pos (by simp [hs])

theorem senseDrive_sensed (hr : (p.tables.inputs.get i).role ≠ .none) (hm : p.mode ≠ .layover) :
    p.senseDrive i = if (p.input i).cleaning.isRunning then .continuous .high else (p.tables.inputs.get i).drive := by
  have hs : p.sensed i = true := sensed_iff.mpr ⟨hr, hm⟩
  unfold Part.senseDrive
  exact if_neg (by simp [hs])

theorem rawChange_first (hr : (p.tables.inputs.get i).role ≠ .none) (hm : p.mode ≠ .layover) (ha : (p.input i).awaitingFirst = true) :
    p.rawChange i l = p.setInput i { p.input i with raw := some l, confirmed := l, awaitingFirst := false } := by
  have hs : p.sensed i = true := sensed_iff.mpr ⟨hr, hm⟩
  unfold Part.rawChange
  exact (if_neg (by simp [hs])).trans (if_pos ha)

theorem rawChange_same (ha : (p.input i).awaitingFirst = false) (h : (p.input i).raw = some l) : p.rawChange i l = p := by
  unfold Part.rawChange
  cases hs : p.sensed i with
  | false => exact if_pos rfl
  | true => exact (if_neg (by decide)).trans ((if_neg (by simp [ha])).trans (if_pos h))

theorem rawChange_sees (hr : (p.tables.inputs.get i).role ≠ .none) (hm : p.mode ≠ .layover) (ha : (p.input i).awaitingFirst = false)
    (h : (p.input i).raw ≠ some l) :
    p.rawChange i l = p.setInput i ((p.input i).see l (p.startTimer (p.tables.inputs.get i).debounce)) := by
  have hs : p.sensed i = true := sensed_iff.mpr ⟨hr, hm⟩
  unfold Part.rawChange
  exact (if_neg (by simp [hs])).trans ((if_neg (by simp [ha])).trans (if_neg h))

end

/-- A change of the voltage at an input touches the contacts alone. -/
theorem exec_contactRawChange_next (s : State) (i : InputNo) (v : PinVoltage) : exec (.contactRawChange i v) s
    = .next { s with part := (s.part.rawChange i ((s.part.tables.inputs.get i).levelOf v)).settle } := by
  rw [exec_contactRawChange]
  refine event_same s _ ?_
  have hmoves : (s.part.rawChange i ((s.part.tables.inputs.get i).levelOf v)).aux = s.part.aux := by
    unfold Part.rawChange
    dsimp only
    repeat' split
    all_goals rfl
  exact hmoves

/-! ### The debounce timer (R40, R41) -/

/-- The record of an input whose raw level is confirmed at the debounce timer's expiry. -/
def Part.confirmsInput (p : Part) (i : InputNo) : InputRec :=
  (p.input i).confirm (if (p.tables.inputs.get i).cleaningOff then (p.input i).cleaning else p.startTimer 20)

/-- The part with that record, before the delivery. -/
def Part.confirmedInput (p : Part) (i : InputNo) : Part := p.setInput i (p.confirmsInput i)

theorem confirmsInput_eq {p : Part} {i : InputNo} {l : Level} (h : (p.input i).raw = some l) : p.confirmsInput i =
    { p.input i with confirmed := l, debounce := .stopped,
                     cleaning := if (p.tables.inputs.get i).cleaningOff then (p.input i).cleaning else p.startTimer 20 } := by
  have hl : (p.input i).raw.getD (p.input i).confirmed = l := by
    rw [h]
    rfl
  rw [Part.confirmsInput, InputRec.confirm, hl]

theorem debounced_eq {p : Part} {i : InputNo} {l : Level} (h : (p.input i).raw = some l) :
    p.debounced i = (p.confirmedInput i).deliverContact i l := by
  have hl : (p.confirmsInput i).confirmed = l := by
    rw [Part.confirmsInput, InputRec.confirm, h]
    rfl
  rw [← hl]
  rfl

/-- What every delivery leaves of the inputs (R38, R41). -/
theorem debounced_input {p : Part} {i : InputNo} {l : Level} (h : (p.input i).raw = some l) (o : Part) :
    ((p.debounced i).orderEntries o).input i = p.confirmsInput i ∧ (∀ j, j ≠ i → ((p.debounced i).orderEntries o).input j = p.input j)
      ∧ ((p.debounced i).orderEntries o).mode = p.mode ∧ ((p.debounced i).orderEntries o).tables = p.tables := by
  have horder := (orderEntries_moves (p.debounced i) o).drifts.only
  have hcontacts : ((p.debounced i).orderEntries o).contacts = (p.confirmedInput i).contacts :=
    (show _ = _ from horder .contacts (by decide)).trans (by rw [debounced_eq h, deliverContact_contacts])
  have hmode : ((p.debounced i).orderEntries o).mode = (p.debounced i).mode := horder .mode (by decide)
  have htables : ((p.debounced i).orderEntries o).tables = (p.debounced i).tables := horder .tables (by decide)
  refine ⟨?_, fun j hj => ?_, hmode.trans ((debounced_moves p i).drifts.only .mode (by decide)),
    htables.trans ((debounced_moves p i).drifts.only .tables (by decide))⟩
  · exact (congrArg (fun c : Contacts => c.inputs.get i) hcontacts).trans (Part.input_set_same p i _)
  · exact (congrArg (fun c : Contacts => c.inputs.get j) hcontacts).trans (Part.input_set_other p i j _ hj)

theorem confirmedInput_only (p : Part) (i : InputNo) : p.onlyChanges [.contacts] (p.confirmedInput i) := (setInput_moves p i _).drifts.only

theorem blindOnWire_of_poles {p q : Part} (h : q.poles = p.poles) (hb : p.blindOnWire) : q.blindOnWire := by
  unfold Part.blindOnWire
  rw [h]
  exact hb

/-- The words of a confirmed change, read of the part whose input is confirmed (R38, R41). -/
theorem debounced_delivers {p : Part} {i : InputNo} {l : Level} (h : (p.input i).raw = some l) (hblind : p.blindOnWire) (o : Part)
    (ho : p.aux = o.aux) :
    ((p.tables.inputs.get i).role = .wakeRequest ∨ (p.tables.inputs.get i).role = .none →
        p.onlyChanges [.contacts] ((p.debounced i).orderEntries o))
      ∧ ((p.tables.inputs.get i).role = .doorInterlock → p.mode = .run →
        ((p.debounced i).orderEntries o).gov.inhibit.doorOpen = (l == .opened)
          ∧ p.onlyChanges [.contacts, .inhibit] ((p.debounced i).orderEntries o))
      ∧ ((p.tables.inputs.get i).role = .doorInterlock → p.mode ≠ .run → p.onlyChanges [.contacts] ((p.debounced i).orderEntries o))
      ∧ (∀ x, (p.tables.inputs.get i).role = housedRole x → (p.confirmedInput i).housedChanges ((p.debounced i).orderEntries o) x l)
      ∧ (∀ x, (p.tables.inputs.get i).role = tripRole x → (p.confirmedInput i).tripChanges ((p.debounced i).orderEntries o) x l)
      ∧ (∀ a : AuxNo, (p.tables.inputs.get i).role = .auxFeedback → (p.tables.inputs.get i).aux = a.val → (p.auxEntry a).feedback ≠ noFeedback →
        (p.confirmedInput i).feedbackChanges ((p.debounced i).orderEntries o) a l) := by
  have honly := confirmedInput_only p i
  have haux : (p.confirmedInput i).aux = o.aux := ho
  rw [debounced_eq h]
  refine ⟨fun hr => ?_, fun hr hm => ?_, fun hr hm => ?_, fun x hr => ?_, fun x hr => ?_, fun a hr ha hf => ?_⟩
  · rw [deliverContact_quiet (p := p.confirmedInput i) l hr, orderEntries_of_aux haux]
    exact honly
  · obtain ⟨hopen, hdoor⟩ := doorChange_run (p := p.confirmedInput i) hm l
    have hkept : ((p.confirmedInput i).doorChange l).orderEntries o = (p.confirmedInput i).doorChange l :=
      orderEntries_of_aux ((show _ = _ from hdoor .aux (by decide)).trans haux)
    rw [deliverContact_door (p := p.confirmedInput i) l hr, hkept]
    exact ⟨hopen, (Part.onlyChanges_mono honly (by decide)).andThen hdoor⟩
  · rw [deliverContact_door (p := p.confirmedInput i) l hr, doorChange_other (p := p.confirmedInput i) hm, orderEntries_of_aux haux]
    exact honly
  · rw [deliverContact_housed (p := p.confirmedInput i) l hr]
    have hsighted : (p.confirmedInput i).blindOnWire := blindOnWire_of_poles (p := p) (q := p.confirmedInput i) rfl hblind
    exact housedChange_changes hsighted l o haux
  · rw [deliverContact_trip (p := p.confirmedInput i) l hr]
    exact tripChange_changes l o haux
  · rw [deliverContact_feedback (p := p.confirmedInput i) l hr ha]
    exact feedbackChange_changes (p := p.confirmedInput i) hf l o haux

/-- Settles O47, which holds: `rawChange_*` give the sensing, `debounced_delivers` the deliveries by role. -/
theorem contactIsDebounced : Obligations.ContactIsDebounced := by
  intro s i v level r e hr he hblind hlevel
  subst hr he
  have hraw : (s.part.tables.inputs.get i).levelOf v = level := hlevel.symm
  refine ⟨fun hnot => ⟨?_, senseDrive_unsensed hnot⟩, fun hrole hmode => senseDrive_sensed hrole hmode, fun hrole hmode hfirst => ?_,
    fun hrole hmode hfirst hne => ?_, fun hfirst hsame => ?_, fun t hrun hsame => ?_, fun t hrun => ?_⟩
  · rw [exec_contactRawChange_next, rawChange_unsensed hnot]
  · rw [exec_contactRawChange_next, hraw, rawChange_first hrole hmode hfirst]
  · rw [exec_contactRawChange_next, hraw, rawChange_sees hrole hmode hfirst hne]
    rfl
  · rw [exec_contactRawChange_next, hraw, rawChange_same hfirst hsame]
  · have hexec := exec_of_expiry_ordered (exec_debounceExpiry i s) hrun
    have hframe : (s.part.clockTo t).onlyChanges eventPieces (((s.part.clockTo t).debounced i).orderEntries s.part) :=
      orderEntries_of_lineFrame (debounced_moves _ i).drifts.only
    obtain ⟨u, hu⟩ := clockTo_eq s.part t
    rw [hu] at hexec hframe ⊢
    obtain ⟨hinput, hothers, hmode, htables⟩ := debounced_input (p := s.part.atTime u) (i := i) hsame s.part
    have hdelivers := debounced_delivers (p := s.part.atTime u) (i := i) hsame hblind s.part rfl
    refine ⟨_, hexec, ?_, fun hrole hm hoff => ?_, hothers, ?_⟩
    · rw [hinput]
      exact confirmsInput_eq (p := s.part.atTime u) hsame
    · rw [senseDrive_sensed (by rw [htables]; exact hrole) (by rw [hmode]; exact hm), hinput, confirmsInput_eq (p := s.part.atTime u) hsame]
      have hpulse : (s.part.tables.inputs.get i).cleaningOff = false := hoff
      have htimer : (if ((s.part.atTime u).tables.inputs.get i).cleaningOff then ((s.part.atTime u).input i).cleaning
          else (s.part.atTime u).startTimer 20) = (s.part.atTime u).startTimer 20 := if_neg (fun hon => Bool.false_ne_true (hpulse.symm.trans hon))
      rw [htimer]
      exact if_pos rfl
    · obtain ⟨hquiet, hrun', hidle, hhoused, htrips, hfeedback⟩ := hdelivers
      rw [hinput]
      exact ⟨hquiet, hrun', hidle, hhoused, htrips, hfeedback, hframe⟩
  · have hexec := exec_of_expiry (exec_cleaningPulseEnd i s) hrun (cleaningDone_moves _ i)
    obtain ⟨u, hu⟩ := clockTo_eq s.part t
    rw [hu] at hexec ⊢
    refine ⟨_, hexec, rfl, fun hrole hm => ?_⟩
    have hstopped : (((s.part.atTime u).cleaningDone i).input i).cleaning = .stopped := congrArg InputRec.cleaning (Part.input_set_same _ i _)
    rw [senseDrive_sensed (p := (s.part.atTime u).cleaningDone i) hrole hm, hstopped]
    rfl

end Sys2Proof.Machine

/-! ## The blocks on leaving LAYOVER (R13, R57, R71, R139, R146, R156, R184) -/

namespace Sys2Proof.Machine

/-! ### An auxiliary that a change of the line passes by (R150, R151) -/

/-- From `p` to `q` an auxiliary keeps its record, its claim, its place in the queue and the command of its output. -/
structure Part.Rests (a : AuxNo) (p q : Part) : Prop where
  record : q.auxRec a = p.auxRec a
  grant : q.line.grants.get a = p.line.grants.get a
  queued : a ∈ q.aux.queue ↔ a ∈ p.aux.queue
  output : ∀ o, p.outputFor (.auxRun a) = some o → (q.output o).commanded = (p.output o).commanded
  tables : q.tables = p.tables

theorem Part.Rests.refl (a : AuxNo) (p : Part) : p.Rests a p := ⟨rfl, rfl, .rfl, fun _ _ => rfl, rfl⟩

theorem Part.Rests.andThen {a : AuxNo} {p q r : Part} (h : p.Rests a q) (k : q.Rests a r) : p.Rests a r where
  record := k.record.trans h.record
  grant := k.grant.trans h.grant
  queued := k.queued.trans h.queued
  output o ho := (k.output o ((outputFor_congr h.tables _).trans ho)).trans (h.output o ho)
  tables := k.tables.trans h.tables

theorem Part.Leaves.rests {a : AuxNo} {p q : Part} (h : p.Leaves a q) : p.Rests a q := ⟨h.record, h.grant, h.queued, h.output, h.tables⟩

/-- An operation that leaves the Auxiliary Scheduler and the claims alone, and spares the auxiliaries' outputs. -/
theorem Part.Spares.rests {ks : List FaultKind} {rs : List ReportKind} {p q : Part} (h : p.Spares ks rs [] q) (haux : q.aux = p.aux)
    (hgrants : q.line.grants = p.line.grants) (a : AuxNo) : p.Rests a q where
  record := congrArg (·.recs.get a) haux
  grant := by rw [hgrants]
  queued := by rw [haux]
  output o ho := h.commanded ho (by simp)
  tables := h.tables

/-- An auxiliary that neither draws nor waits (R150, R151). -/
def AuxState.idle (s : AuxState) : Bool := !s.drawing && s != .waiting

theorem mayShed_of_idle {p : Part} {a : AuxNo} (h : (p.auxRec a).state.idle = true) : ¬ p.mayShed a := by
  rintro ⟨hdraws, -⟩
  rw [AuxState.idle, (drawing_iff _).mpr hdraws] at h
  exact absurd h (by simp)

theorem shedDemand_idle {p : Part} {a : AuxNo} (h : (p.auxRec a).state.idle = true) : p.Leaves a p.shedDemand :=
  (shedLoop_each 12 p a).resolve_right fun hs => mayShed_of_idle h hs.1

theorem lineSheds_idle {p : Part} {a : AuxNo} (h : (p.auxRec a).state.idle = true) (new : LineState) : p.Leaves a (p.lineSheds new) := by
  unfold Part.lineSheds
  split
  · exact .refl a p
  · refine classShed_leaves (fun hin => mayShed_of_idle h ?_) fun ⟨_, hwaits, _⟩ => ?_
    · exact (mem_sheddable p a).mp (List.mem_of_mem_filter hin)
    · rw [hwaits] at h
      exact absurd h (by decide)

theorem lineChanged_rests (p : Part) {new : LineState} (h : new.classHold = true) (g : Option GapEnd) (a : AuxNo) :
    p.Rests a (p.lineChanged new g) := by
  obtain ⟨haux, hgrants⟩ := lineChanged_aux p h g
  have hended := lineEnded_spares (ks := [.lineHigh, .lineLost]) p new g (fun _ => by decide) (fun _ => by decide)
  have hnotified : (p.lineEnded new g).Spares [] [] [] (p.lineChanged new g) := (lineNotified_only _ _ _).spares
  have hspares : p.Spares [.lineHigh, .lineLost] [] [] (p.lineChanged new g) := hended.andThen hnotified (by simp) (by simp) (by simp)
  exact hspares.rests haux hgrants a

/-- A line that enters a state of the class hold passes an idle auxiliary by (R150, R151). -/
theorem lineMove_rests {p : Part} {new : LineState} (hhold : new.classHold = true) (g : Option GapEnd) {a : AuxNo}
    (h : (p.auxRec a).state.idle = true) : p.Rests a (p.lineMove new g) := by
  by_cases hs : p.line.state = new
  · have hgap : p.Spares [] [] [] (p.tellsGapEnd g) := (tellsGapEnd_moves p g).spares
    have hgapAux : (p.tellsGapEnd g).aux = p.aux := (tellsGapEnd_moves p g).drifts.only .aux (by decide)
    have hgapLine : (p.tellsGapEnd g).line = p.line := line_of_moves (tellsGapEnd_moves p g).drifts.only
    have hbudget : (p.tellsGapEnd g).Rests a (p.tellsGapEnd g).rebudget :=
      Part.Spares.rests (ks := []) (rs := []) (rebudget_moves _).spares rfl rfl a
    have hbefore := (hgap.rests hgapAux (congrArg Line.grants hgapLine) a).andThen hbudget
    rw [lineMove_same hs, Part.recompute]
    split
    · exact hbefore.andThen (shedDemand_idle (by rw [hbefore.record]; exact h)).rests
    · exact hbefore
  · have hbefore := lineChanged_rests p hhold g a
    have hsheds := lineSheds_idle (p := p.lineChanged new g) (by rw [hbefore.record]; exact h) new
    rw [lineMove_eq hs]
    split
    · exact hbefore.andThen (hsheds.andThen (shedDemand_idle (by rw [hsheds.record, hbefore.record]; exact h))).rests
    · exact hbefore.andThen hsheds.rests

theorem lineUnknown_rests {p : Part} {a : AuxNo} (h : (p.auxRec a).state.idle = true) : p.Rests a p.lineUnknown :=
  (Part.Spares.rests (ks := []) (rs := []) (drifts_lineOwn p p.line.blanked).only.spares rfl rfl a).andThen
    (lineMove_rests (p := { p with line := p.line.blanked }) rfl _ h)

/-- A line that stays UNKNOWN with no shed demand due leaves every auxiliary (R57, R64). -/
theorem lineUnknown_aux {p : Part} (h : p.line.state = .unknown) (hdue : p.demandDue = false) : p.lineUnknown.aux = p.aux := by
  have hgap : p.gapEndIfGap .unknown = none := if_neg (by simp [h])
  have hstill : Part.demandDue { p with line := p.line.blanked } = false := by
    rw [← hdue]
    unfold Part.demandDue Line.recompute Line.supply Line.demands
    simp only [Line.blanked, h]
    rfl
  have hsame := lineMove_same (p := { p with line := p.line.blanked }) (new := .unknown) h none
  rw [lineUnknown_eq, hgap, hsame, Part.tellsGapEnd, Part.recompute, if_neg (by simp [hstill])]
  rfl

theorem lineUnknown_gapNotes (p : Part) : p.GapNotes p.lineUnknown :=
  (Part.GapNotes.of_poles (p := p) (q := { p with line := p.line.blanked }) rfl).andThen (lineMove_gapNotes _ .unknown _)

/-! ### Entries to the queue (R146, R156) -/

theorem enterQueue_queues (p : Part) (a : AuxNo) : p.queues (p.enterQueue a) a := by
  have hset : ∀ r, (p.setAux a r).auxRec a = r := fun r => Part.auxRec_set_same p a r
  rw [enterQueue_eq, Part.queues]
  split
  · exact ⟨by rw [hset], fun h => by rw [hset] at h; cases h⟩
  split
  · exact ⟨by rw [hset], fun h => by rw [hset] at h; cases h⟩
  split
  · exact ⟨by rw [hset], fun h => by rw [hset] at h; cases h⟩
  · exact ⟨by rw [joinsQueue_auxRec], fun _ => (joinsQueue_queue p a a).mpr (.inl rfl)⟩

theorem requeue_leaves (p : Part) {a b : AuxNo} (h : a ≠ b) : p.Leaves a (p.requeue b) := by
  unfold Part.requeue
  split
  · exact enterQueue_leaves p h
  · exact .refl a p

theorem requeue_of_off {p : Part} {a : AuxNo} (hreq : (p.auxRec a).requested = true) (hoff : (p.auxRec a).state = .off) :
    p.requeue a = p.enterQueue a := if_pos (by simp [hreq, hoff])

theorem requeue_other {p : Part} {a : AuxNo} (h : (p.auxRec a).requested = false ∨ (p.auxRec a).state ≠ .off) : p.requeue a = p := by
  refine if_neg fun hboth => ?_
  simp only [Bool.and_eq_true, beq_iff_eq] at hboth
  obtain hreq | hstate := h
  · simp [hreq] at hboth
  · exact hstate hboth.2

/-- Where an auxiliary stands in the queue, whoever else entered it before and after. -/
theorem queues_congr {p p' q q' : Part} {a : AuxNo} (h : p.queues q a) (hbefore : p'.Leaves a p) (hafter : q.Leaves a q') : p'.queues q' a := by
  obtain ⟨hstate, hqueued⟩ := h
  have hentry : p.auxEntry a = p'.auxEntry a := by rw [Part.auxEntry, Part.auxEntry, hbefore.tables]
  rw [hbefore.mode, hbefore.record, hentry, hbefore.line] at hstate
  refine ⟨by rw [hafter.record, hstate], fun hw => hafter.queued.mpr (hqueued ?_)⟩
  rw [← hafter.record, hw]

/-- The auxiliaries that are requested and OFF enter the queue (R156). -/
def Part.requeueAll (p : Part) : Part := p.forEach allAux Part.requeue

theorem auxLeavesLayover_eq (p : Part) : p.auxLeavesLayover = p.requeueAll.restartStagger := rfl

theorem requeueAll_queues {p : Part} {a : AuxNo} (hreq : (p.auxRec a).requested = true) (hoff : (p.auxRec a).state = .off) :
    p.queues p.requeueAll a := by
  obtain ⟨q, hbefore, hafter⟩ := forEach_around (f := Part.requeue) (fun p _ h => requeue_leaves p h) nodup_allAux (mem_allAux a) p
  rw [requeue_of_off (by rw [hbefore.record, hreq]) (by rw [hbefore.record, hoff])] at hafter
  exact queues_congr (enterQueue_queues q a) hbefore hafter

theorem requeueAll_leaves {p : Part} {a : AuxNo} (h : (p.auxRec a).requested = false ∨ (p.auxRec a).state ≠ .off) : p.Leaves a p.requeueAll := by
  obtain ⟨q, hbefore, hafter⟩ := forEach_around (f := Part.requeue) (fun p _ h => requeue_leaves p h) nodup_allAux (mem_allAux a) p
  rw [requeue_other (by rw [hbefore.record]; exact h)] at hafter
  exact hbefore.andThen hafter

/-! ### The governor and its inhibits (R128, R136, R139) -/

/-- The governor's record at RUN entry, before the door contact is read (R128). -/
def Part.governorStarts (p : Part) : Part :=
  { p with gov := { p.gov with
      armed := false, period := p.startTimer p.tables.timers.controlPeriod, lastFresh := none, held := 0, stale := 0, setpoint := 0,
      replyWait := none, misses := 0, goodRun := 0 } }

theorem governorEntersRun_eq (p : Part) :
    p.governorEntersRun = p.governorStarts.claimIf .doorOpen (p.roleLevel .doorInterlock == .opened) := rfl

theorem claim_disarmed {p : Part} (r : Reason) (h : p.gov.armed = false) : (p.claim r).gov.armed = false := by
  by_contra hne
  obtain ⟨harmed, -⟩ := claim_armed p r (by simpa using hne)
  exact absurd (harmed.symm.trans h) (by decide)

theorem governorEntersRun_gov (p : Part) : p.governorEntersRun.gov.armed = false ∧ p.governorEntersRun.gov.setpoint = 0
    ∧ p.governorEntersRun.gov.period = p.startTimer p.tables.timers.controlPeriod
    ∧ p.governorEntersRun.gov.inhibit = (if p.roleLevel .doorInterlock == .opened then p.gov.inhibit.put .doorOpen true else p.gov.inhibit) := by
  rw [governorEntersRun_eq]
  have hdemand := (claimIf_moves p.governorStarts .doorOpen (p.roleLevel .doorInterlock == .opened)).drifts.only .demand (by decide)
  refine ⟨?_, ?_, hdemand.1, claimIf_inhibit p.governorStarts _ _⟩
  · unfold Part.claimIf
    split
    · exact claim_disarmed _ rfl
    · rfl
  · unfold Part.claimIf
    split
    · exact (claim_setpoint p.governorStarts _).elim id id
    · rfl

/-! ### The chains (R8, R13) -/

/-- Reports pass a chain by, or rouse the Report chain (R8, R24). -/
theorem Part.Logs.rouses {P : ReportRec → Prop} {p q : Part} (h : p.Logs P q) (c : Chain) : p.mbx.Rouses c q.mbx := by
  by_cases hc : c = .report
  · rw [hc]
    exact h.nudges.rouses
  · exact (h.nudges.touches.passes hc).rouses

theorem rescanParked_touches (m : Mailbox) (c : Chain) : m.Touches c (m.rescanParked c) := by
  unfold Mailbox.rescanParked
  split
  · exact startRescan_touches m c
  · exact .refl c m

/-- What the rescan reads of one event make of a chain: a PARKED one reads, another is passed by (R13). -/
structure Mailbox.Rescanned (c : Chain) (m m' : Mailbox) : Prop where
  base : m'.base = m.base
  busy : (m.chains.get c).state ≠ .parked → m'.chains.get c = m.chains.get c
  parked : ∀ b, m.base = some b → (m.chains.get c).state = .parked → m'.rescans c b (m.chains.get c).cursor (m.chains.get c).wait

/-- Chains roused before and after the rescan reads have made no other. -/
theorem rescanned_of_rouses {c : Chain} {m n n' k : Mailbox} (hbefore : m.Rouses c n) (hpass : n.Passes c n')
    (hrescan : (n'.rescanParked c).Passes c k) : m.Rescanned c k := by
  have hroused := hbefore.trans hpass.rouses
  have hbase : n'.base = m.base := hroused.base
  by_cases hs : (n'.chains.get c).state = .parked
  · have hread : n'.rescanParked c = n'.startRescan c := if_pos (by simp [hs])
    rw [hread] at hrescan
    refine ⟨hrescan.base.trans ((startRescan_touches n' c).base.trans hbase), fun hne => ?_, fun b hb hp => ?_⟩
    · exact absurd (hs.symm.trans (congrArg ChainRec.state (hroused.busy hne).chain)) (Ne.symm hne)
    · obtain ⟨-, hcursor, hwait⟩ | hreads := hroused.parked hp
      · rw [← hcursor, ← hwait]
        exact rescans_of_passes hrescan (startRescan_rescans n' c b (hbase.trans hb))
      · exact absurd (hs.symm.trans (rescans_walking (hreads b hb))) (by decide)
  · have hskip : n'.rescanParked c = n' := if_neg (by simpa using hs)
    rw [hskip] at hrescan
    refine ⟨hrescan.base.trans hbase, fun hne => hrescan.chain.trans (hroused.busy hne).chain, fun b hb hp => ?_⟩
    obtain ⟨hstill, -, -⟩ | hreads := hroused.parked hp
    · exact absurd hstill hs
    · exact rescans_of_passes hrescan (hreads b hb)

theorem Mailbox.Rescanned.thenRouses {c : Chain} {m n k : Mailbox} (h : m.Rescanned c n) (hafter : n.Rouses c k) : m.Rescanned c k := by
  refine ⟨hafter.base.trans h.base, fun hs => ?_, fun b hb hs => ?_⟩
  · have hsame := h.busy hs
    exact (hafter.busy (by rw [hsame]; exact hs)).chain.trans hsame
  · have hreads := h.parked b hb hs
    exact rescans_of_passes (hafter.busy (by rw [rescans_walking hreads]; decide)) hreads

theorem place_passes {m : Mailbox} {a : Access} {c : Chain} (h : chainRequester c ≠ a.op.requester) : m.Passes c (m.place a) := by
  obtain ⟨q, hq⟩ := place_port m a
  exact ⟨by rw [hq], by rw [place_chains], place_waiting m a _ h, fun b hb => place_inFlight m a b hb⟩

theorem beginMirror_passes (p : Part) (b : Word) (c : Chain) : p.mbx.Passes c (p.beginMirror b).mbx := by
  have hstart : p.mbx.Passes c { p.mbx with mirror :=
      { p.mbx.mirror with seq := p.mbx.mirror.seq + 1, writing := some { base := b, body := p.mirrorBody }, pendingStart := false } } :=
    ⟨rfl, rfl, rfl, fun _ h => h⟩
  exact hstart.trans (place_passes (show chainRequester c ≠ .mirror by cases c <;> decide))

/-- A mirror write passes the chains by (R18, R19). -/
theorem mirrorStart_passes (p : Part) (c : Chain) : p.mbx.Passes c p.mirrorStart.mbx := by
  unfold Part.mirrorStart
  split
  · exact .refl c p.mbx
  · exact beginMirror_passes p _ c
  · exact ⟨rfl, rfl, rfl, fun _ h => h⟩

end Sys2Proof.Machine

/-! ## LAYOVER left for RUN (R43, R180, R184) -/

namespace Sys2Proof.Machine

/-! ### The blocks, one after the other -/

/-- What the Auxiliary Scheduler, the contacts, the mirror and the chains do on leaving LAYOVER change no more than this. -/
def layoverEndPieces : List Piece := [.aux, .contacts] ++ [.mirror, .chains, .port]

/-- The governor at work again (R128). -/
def Part.governorWakes (p : Part) : Part := p.polesWake.governorEntersRun.withdraw .mode

/-- What follows the governor on leaving LAYOVER. -/
def Part.endsLayover (p : Part) : Part := p.auxLeavesLayover.endLayover.rescanChains

theorem blocksLeaveLayover_eq (p : Part) : p.blocksLeaveLayover = p.startsRun.lineUnknown.governorWakes.endsLayover := rfl

theorem endsLayover_moves (p : Part) : p.Moves layoverEndPieces p.endsLayover :=
  .before (rescanChains_moves _) (.before (endLayover_moves _) ((auxLeavesLayover_moves p).mono (by decide)) (by decide)) (by decide)

theorem governorWakes_only (p : Part) : p.onlyChanges (.poles :: govPieces) p.governorWakes :=
  ((Part.onlyChanges_mono (ys := .poles :: govPieces) (polesWake_moves p).drifts.only (by decide)).andThen
    (governorEntersRun_moves _).drifts.only (by decide)).andThen (withdraw_only _ .mode) (by decide)

theorem governorWakes_gov (p : Part) : p.governorWakes.gov.armed = false ∧ p.governorWakes.gov.setpoint = 0
    ∧ p.governorWakes.gov.period = p.startTimer p.tables.timers.controlPeriod ∧ p.governorWakes.gov.inhibit.mode = false
    ∧ p.governorWakes.gov.inhibit.doorOpen = (p.gov.inhibit.doorOpen || p.roleLevel .doorInterlock == .opened) := by
  obtain ⟨harmed, hsetpoint, hperiod, hinhibit⟩ := governorEntersRun_gov p.polesWake
  refine ⟨harmed, hsetpoint, hperiod, rfl, ?_⟩
  have hdoor : p.governorWakes.gov.inhibit.doorOpen = p.polesWake.governorEntersRun.gov.inhibit.doorOpen := rfl
  rw [hdoor, hinhibit]
  show (if p.roleLevel .doorInterlock == .opened then p.gov.inhibit.put .doorOpen true else p.gov.inhibit).doorOpen = _
  split
  next h => rw [h, Bool.or_true]; rfl
  next h => rw [Bool.not_eq_true _ |>.mp h, Bool.or_false]

theorem governorWakes_poles (p : Part) : p.governorWakes.poles = p.polesWake.poles :=
  (show _ = _ from withdraw_only _ .mode .poles (by decide)).trans ((governorEntersRun_moves p.polesWake).drifts.only .poles (by decide))

theorem polesWake_pole (p : Part) (i : PoleId) : (p.polesWake.poles.get i).state = (p.poles.get i).state
    ∧ (p.polesWake.poles.get i).resolving = (p.poles.get i).resolving := by
  cases i <;> exact ⟨rfl, rfl⟩

/-- The contacts as they leave LAYOVER (R44). -/
def Contacts.pollEnded (c : Contacts) : Contacts := { c with pollTimer := .stopped, second := 0, secondTimer := .stopped }

section
variable (p : Part)

theorem endLayover_contacts : p.endLayover.contacts = p.contacts.pollEnded := rfl

theorem endLayover_timer : p.endLayover.mbx.mirror.timer = p.startTimer p.tables.timers.mirrorInterval := rfl

theorem restartStagger_timer : p.restartStagger.aux.stagger = p.startTimer p.tables.timers.stagger := rfl

theorem restartStagger_queue : p.restartStagger.aux.queue = p.aux.queue := rfl

theorem rescanChains_mbx : p.rescanChains.mbx = p.mbx.eachChain Mailbox.rescanParked := rfl

end

theorem endsLayover_contacts (p : Part) : p.endsLayover.contacts = p.contacts.pollEnded := by
  have hrescan : p.endsLayover.contacts = p.auxLeavesLayover.endLayover.contacts := (rescanChains_moves _).drifts.only .contacts (by decide)
  have haux : p.auxLeavesLayover.contacts = p.contacts := (auxLeavesLayover_moves p).drifts.only .contacts (by decide)
  rw [hrescan, endLayover_contacts, haux]

theorem endsLayover_mirror (p : Part) : p.endsLayover.mbx.mirror.timer = p.startTimer p.tables.timers.mirrorInterval := by
  have hrescan : p.endsLayover.mbx.mirror = p.auxLeavesLayover.endLayover.mbx.mirror := (rescanChains_moves _).drifts.only .mirror (by decide)
  have hnow : p.auxLeavesLayover.now = p.now := (auxLeavesLayover_moves p).drifts.only .now (by decide)
  have htables : p.auxLeavesLayover.tables = p.tables := (auxLeavesLayover_moves p).drifts.only .tables (by decide)
  rw [hrescan, endLayover_timer, htables]
  exact startTimer_congr hnow _

theorem endsLayover_aux (p : Part) : p.endsLayover.aux = p.auxLeavesLayover.aux :=
  (show _ = _ from (rescanChains_moves _).drifts.only .aux (by decide)).trans ((endLayover_moves _).drifts.only .aux (by decide))

theorem endsLayover_stagger (p : Part) : p.endsLayover.aux.stagger = p.startTimer p.tables.timers.stagger := by
  have hmoves := forEach_moves (ys := [.aux]) Part.requeue requeue_moves allAux p
  have hnow : p.requeueAll.now = p.now := hmoves.drifts.only .now (by decide)
  have htables : p.requeueAll.tables = p.tables := hmoves.drifts.only .tables (by decide)
  rw [endsLayover_aux, auxLeavesLayover_eq, restartStagger_timer, htables]
  exact startTimer_congr hnow _

theorem endsLayover_auxRec (p : Part) (a : AuxNo) : p.endsLayover.auxRec a = p.requeueAll.auxRec a := by
  rw [Part.auxRec, endsLayover_aux, auxLeavesLayover_eq, ← Part.auxRec, restartStagger_auxRec]

theorem endsLayover_queue (p : Part) : p.endsLayover.aux.queue = p.requeueAll.aux.queue := by
  rw [endsLayover_aux, auxLeavesLayover_eq, restartStagger_queue]

/-- A frame that names neither the chains nor the port passes every chain by. -/
theorem passes_of_only {xs : List Piece} {p q : Part} (h : p.onlyChanges xs q) (c : Chain)
    (hx : [Piece.base, .chains, .port].all (fun x => !xs.contains x) = true) : p.mbx.Passes c q.mbx := by
  have hsame : ∀ x ∈ [Piece.base, .chains, .port], p.same q x := fun x hm => h x (by simpa using List.all_eq_true.mp hx x hm)
  have hbase : q.mbx.base = p.mbx.base := hsame .base (by decide)
  have hchains : q.mbx.chains = p.mbx.chains := hsame .chains (by decide)
  have hport : q.mbx.port = p.mbx.port := hsame .port (by decide)
  exact ⟨hbase, by rw [hchains], by rw [hport], fun _ hf => by rw [hport]; exact hf⟩

theorem governorWakes_mbx (p : Part) : p.governorWakes.mbx = p.mbx := by
  show (p.polesWake.governorStarts.claimIf .doorOpen (p.polesWake.roleLevel .doorInterlock == .opened)).mbx = _
  unfold Part.claimIf
  split
  · exact claim_mbx _ _
  · rfl

/-- Each chain's rescan read on leaving LAYOVER (R13). -/
theorem endsLayover_rescanned {p : Part} {m : Mailbox} {c : Chain} (h : m.Rouses c p.mbx) : m.Rescanned c p.endsLayover.mbx := by
  have hpass := (passes_of_only (auxLeavesLayover_moves p).drifts.only c (by decide)).trans
    (passes_of_only (endLayover_moves p.auxLeavesLayover).drifts.only c (by decide))
  rw [Part.endsLayover, rescanChains_mbx]
  generalize p.auxLeavesLayover.endLayover.mbx = n at *
  obtain ⟨k, hfirst, hlast⟩ := eachChain_at rescanParked_touches n c
  exact rescanned_of_rouses h (hpass.trans hfirst) hlast

/-! ### The event (R184) -/

theorem orderEntries_mbx (q p : Part) : (q.orderEntries p).mbx = q.mbx := by
  unfold Part.orderEntries
  dsimp only
  split
  · rfl
  · exact forEach_view (f := Part.setOrder) Part.mbx (fun _ _ => rfl) _ q

theorem place_mirror (m : Mailbox) (a : Access) : (m.place a).mirror = m.mirror := by
  obtain ⟨q, hq⟩ := place_port m a
  rw [hq]

theorem beginMirror_timer (p : Part) (b : Word) : (p.beginMirror b).mbx.mirror.timer = p.mbx.mirror.timer :=
  (congrArg Mirror.timer (place_mirror _ _)).trans rfl

theorem mirrorStart_timer (p : Part) : p.mirrorStart.mbx.mirror.timer = p.mbx.mirror.timer := by
  unfold Part.mirrorStart
  split
  · rfl
  · exact beginMirror_timer p _
  · rfl

/-- What the end of a mode change leaves of the mailbox (R18, R179). -/
theorem endModeChange_mbx (p : Part) (kind : ReportKind) (tag : Word) (items : List Item) :
    (p.endModeChange kind tag items).mbx.attention.modeChange = true
      ∧ (p.endModeChange kind tag items).mbx.mirror.timer = p.mbx.mirror.timer := by
  have hreport := (modeReport_moves p kind tag items).drifts.only
  have hmirror : (p.modeReport kind tag items).mbx.mirror = p.mbx.mirror := hreport .mirror (by decide)
  have hattention : (p.endModeChange kind tag items).mbx.attention = (p.modeReport kind tag items).noteModeChange.mbx.attention :=
    (mirrorStart_moves _).drifts.only .attention (by decide)
  refine ⟨by rw [hattention]; rfl, (mirrorStart_timer _).trans ?_⟩
  exact congrArg Mirror.timer hmirror

theorem endModeChange_rouses (p : Part) (kind : ReportKind) (tag : Word) (items : List Item) (c : Chain) :
    p.mbx.Rouses c (p.endModeChange kind tag items).mbx :=
  ((report_logs (P := fun _ => True) p kind .info .modeLogic 0 tag items trivial).rouses c).trans
    ((passes_of_only (noteModeChange_moves _).drifts.only c (by decide)).trans (mirrorStart_passes _ c)).rouses

theorem endModeChange_newest (p : Part) (kind : ReportKind) (tag : Word) (items : List Item) :
    (p.endModeChange kind tag items).mbx.newest kind .modeLogic 0 tag items :=
  newest_of_same ((mirrorStart_moves _).drifts.only .reports (by decide))
    (newest_of_same ((noteModeChange_moves _).drifts.only .reports (by decide)) (report_newest p kind .info .modeLogic 0 tag items))

/-- What follows the blocks in the event of a wake. -/
def wakeEndPieces : List Piece := [.reports, .chains, .port] ++ [.attention, .mirror, .aux]

/-- The end of a wake, with the entry orders of its event (R146). -/
def Part.endsWake (p : Part) (items : List Item) (tag : Word) (o : Part) : Part := (p.endModeChange .wake tag items).orderEntries o

theorem leaveLayover_ordered (p : Part) (cause : WakeCause) (tag : Word) (extra : List Item) (o : Part) :
    (p.leaveLayover cause tag extra).orderEntries o = p.blocksLeaveLayover.endsWake (.small cause.ctorIdx :: extra) tag o := rfl

section
variable (p : Part) (items : List Item) (tag : Word) (o : Part)

theorem endsWake_only : p.onlyChanges wakeEndPieces (p.endsWake items tag o) :=
  (Part.onlyChanges_mono (ys := wakeEndPieces) (endModeChange_moves p .wake tag items).drifts.only (by decide)).andThen
    (orderEntries_moves _ o).drifts.only (by decide)

theorem endsWake_mbx : (p.endsWake items tag o).mbx = (p.endModeChange .wake tag items).mbx := orderEntries_mbx _ _

theorem endsWake_leaves {a : AuxNo} (h : (p.auxRec a).entryOrder = (o.auxRec a).entryOrder) :
    (p.endsWake items tag o).auxRec a = p.auxRec a := by
  have haux : (p.endModeChange .wake tag items).aux = p.aux := (endModeChange_moves p .wake tag items).drifts.only .aux (by decide)
  have hrec : (p.endModeChange .wake tag items).auxRec a = p.auxRec a := congrArg (·.recs.get a) haux
  exact (orderEntries_leaves _ o a (by rw [hrec, h])).record.trans hrec

theorem endsWake_aux (a : AuxNo) : ((p.endsWake items tag o).auxRec a).state = (p.auxRec a).state
    ∧ (a ∈ (p.endsWake items tag o).aux.queue ↔ a ∈ p.aux.queue) ∧ (p.endsWake items tag o).aux.stagger = p.aux.stagger := by
  have haux : (p.endModeChange .wake tag items).aux = p.aux := (endModeChange_moves p .wake tag items).drifts.only .aux (by decide)
  refine ⟨(orderEntries_state _ o a).trans ?_, (orderEntries_queue _ o a).trans ?_, (orderEntries_rest _ o).1.trans ?_⟩
  · exact congrArg (fun x => (x.recs.get a).state) haux
  · rw [haux]
  · rw [haux]

end

end Sys2Proof.Machine

/-! ## LAYOVER left for RUN: the obligations (R43, R180, R184) -/

namespace Sys2Proof.Machine

/-! ### What a wake leaves (R184) -/

/-- What the blocks after the governor, and the end of the event, may change. -/
def afterGovernorPieces : List Piece := layoverEndPieces ++ [.reports, .attention]

/-- The part after a wake, from the governor on. -/
def Part.wakesUp (w : Part) (items : List Item) (tag : Word) (o : Part) : Part := w.endsLayover.endsWake items tag o

theorem wakesUp_only (w : Part) (items : List Item) (tag : Word) (o : Part) : w.onlyChanges afterGovernorPieces (w.wakesUp items tag o) :=
  (Part.onlyChanges_mono (ys := afterGovernorPieces) (endsLayover_moves w).drifts.only (by decide)).andThen
    (endsWake_only w.endsLayover items tag o) (by decide)

section
variable (w : Part) (items : List Item) (tag : Word) (o : Part)

theorem wakesUp_contacts : (w.wakesUp items tag o).contacts = w.contacts.pollEnded :=
  (show _ = _ from endsWake_only w.endsLayover items tag o .contacts (by decide)).trans (endsLayover_contacts w)

theorem wakesUp_mbx : (w.wakesUp items tag o).mbx = (w.endsLayover.endModeChange .wake tag items).mbx := endsWake_mbx _ items tag o

theorem wakesUp_mirror : (w.wakesUp items tag o).mbx.attention.modeChange = true
    ∧ (w.wakesUp items tag o).mbx.mirror.timer = w.startTimer w.tables.timers.mirrorInterval := by
  obtain ⟨hattention, htimer⟩ := endModeChange_mbx w.endsLayover .wake tag items
  rw [wakesUp_mbx]
  exact ⟨hattention, htimer.trans (endsLayover_mirror w)⟩

theorem wakesUp_newest : (w.wakesUp items tag o).mbx.newest .wake .modeLogic 0 tag items := by
  rw [wakesUp_mbx]
  exact endModeChange_newest _ .wake tag items

theorem wakesUp_rescanned {m : Mailbox} {c : Chain} (h : m.Rouses c w.mbx) : m.Rescanned c (w.wakesUp items tag o).mbx := by
  rw [wakesUp_mbx]
  exact (endsLayover_rescanned h).thenRouses (endModeChange_rouses _ .wake tag items c)

theorem wakesUp_aux (a : AuxNo) : ((w.wakesUp items tag o).auxRec a).state = (w.requeueAll.auxRec a).state
    ∧ (a ∈ (w.wakesUp items tag o).aux.queue ↔ a ∈ w.requeueAll.aux.queue)
    ∧ (w.wakesUp items tag o).aux.stagger = w.startTimer w.tables.timers.stagger := by
  obtain ⟨hstate, hqueue, hstagger⟩ := endsWake_aux w.endsLayover items tag o a
  rw [Part.wakesUp]
  refine ⟨hstate.trans (congrArg AuxRec.state (endsLayover_auxRec w a)), hqueue.trans ?_, hstagger.trans (endsLayover_stagger w)⟩
  rw [endsLayover_queue]

theorem wakesUp_others {a : AuxNo} (h : (w.auxRec a).requested = false ∨ (w.auxRec a).state ≠ .off)
    (ho : (w.auxRec a).entryOrder = (o.auxRec a).entryOrder) : (w.wakesUp items tag o).auxRec a = w.auxRec a := by
  have hkept := (requeueAll_leaves h).record
  have hend := endsWake_leaves w.endsLayover items tag o (a := a)
  rw [endsLayover_auxRec, hkept] at hend
  exact hend ho

end

/-- The part after a wake, whole. -/
def Part.awake (p : Part) (items : List Item) (tag : Word) (o : Part) : Part := p.startsRun.lineUnknown.governorWakes.wakesUp items tag o

theorem awake_eq (p : Part) (items : List Item) (tag : Word) (o : Part) :
    p.awake items tag o = p.startsRun.lineUnknown.governorWakes.wakesUp items tag o := rfl

theorem leaveLayover_awake (p : Part) (cause : WakeCause) (tag : Word) (extra : List Item) (o : Part) :
    (p.leaveLayover cause tag extra).orderEntries o = p.awake (.small cause.ctorIdx :: extra) tag o := rfl

section
variable (p : Part) (items : List Item) (tag : Word) (o : Part)

/-- What a wake leaves as the start of RUN has it. -/
theorem awake_only : p.startsRun.onlyChanges (runEntryPieces ++ [.attention]) (p.awake items tag o) :=
  (Part.onlyChanges_mono (ys := runEntryPieces ++ [.attention]) (blocksLeaveLayover_onlyChanges p) (by decide)).andThen
    (endsWake_only p.blocksLeaveLayover items tag o) (by decide)

theorem awake_fields : (p.awake items tag o).mode = .run ∧ (p.awake items tag o).links = .start
    ∧ (p.awake items tag o).lastReset = p.lastReset ∧ (p.awake items tag o).tables = p.tables
    ∧ (p.awake items tag o).mbx.base = p.mbx.base ∧ (p.awake items tag o).now = p.now := by
  have ho := awake_only p items tag o
  exact ⟨ho .mode (by decide), ho .links (by decide), ho .lastReset (by decide), ho .tables (by decide), ho .base (by decide),
    ho .now (by decide)⟩

theorem awake_line : (p.awake items tag o).line.state = .unknown := by
  have hafter : (p.awake items tag o).line = p.startsRun.lineUnknown.governorWakes.line := line_of_moves (wakesUp_only _ items tag o)
  have hgov : p.startsRun.lineUnknown.governorWakes.line = p.startsRun.lineUnknown.line := line_of_moves (governorWakes_only _)
  rw [hafter, hgov]
  exact (lineUnknown_line p.startsRun).1

theorem awake_gov : (p.awake items tag o).gov.armed = false ∧ (p.awake items tag o).gov.setpoint = 0
    ∧ (p.awake items tag o).gov.period = p.startTimer p.tables.timers.controlPeriod ∧ (p.awake items tag o).gov.inhibit.mode = false
    ∧ (p.awake items tag o).gov.inhibit.doorOpen = (p.gov.inhibit.doorOpen || p.roleLevel .doorInterlock == .opened) := by
  have hline := (lineUnknown_moves p.startsRun).drifts.only
  have hinhibit : p.startsRun.lineUnknown.gov.inhibit = p.gov.inhibit := (hline .inhibit (by decide)).1
  have htables : p.startsRun.lineUnknown.tables = p.tables := hline .tables (by decide)
  have hcontacts : p.startsRun.lineUnknown.contacts = p.contacts := hline .contacts (by decide)
  have hnow : p.startsRun.lineUnknown.now = p.now := hline .now (by decide)
  have hdoor : p.startsRun.lineUnknown.roleLevel .doorInterlock = p.roleLevel .doorInterlock := by
    unfold Part.roleLevel Part.input
    rw [htables, hcontacts]
  have hafter := wakesUp_only p.startsRun.lineUnknown.governorWakes items tag o
  have hset := hafter .inhibit (by decide)
  have hpoint := hafter .setpoint (by decide)
  have hdemand := hafter .demand (by decide)
  obtain ⟨harmed, hsetpoint, hperiod, hmode, hopen⟩ := governorWakes_gov p.startsRun.lineUnknown
  rw [htables, startTimer_congr hnow] at hperiod
  rw [hinhibit, hdoor] at hopen
  rw [awake_eq]
  generalize p.startsRun.lineUnknown.governorWakes = w at *
  refine ⟨hset.2.trans harmed, hpoint.1.trans hsetpoint, hdemand.1.trans hperiod, ?_, ?_⟩
  · exact (congrArg InhibitSet.mode hset.1).trans hmode
  · exact (congrArg InhibitSet.doorOpen hset.1).trans hopen

/-- The clock and the settings as the governor leaves them. -/
theorem governorWakes_settings : p.startsRun.lineUnknown.governorWakes.now = p.now ∧ p.startsRun.lineUnknown.governorWakes.tables = p.tables
    ∧ p.startsRun.lineUnknown.governorWakes.mode = .run ∧ p.startsRun.lineUnknown.governorWakes.aux = p.startsRun.lineUnknown.aux
    ∧ p.startsRun.lineUnknown.governorWakes.line = p.startsRun.lineUnknown.line := by
  have hline := (lineUnknown_moves p.startsRun).drifts.only
  have hgov := governorWakes_only p.startsRun.lineUnknown
  exact ⟨(show _ = _ from hgov .now (by decide)).trans (hline .now (by decide)),
    (show _ = _ from hgov .tables (by decide)).trans (hline .tables (by decide)),
    (show _ = _ from hgov .mode (by decide)).trans (hline .mode (by decide)), hgov .aux (by decide), line_of_moves hgov⟩

theorem awake_contacts : (p.awake items tag o).contacts = p.contacts.pollEnded := by
  have hgov : p.startsRun.lineUnknown.governorWakes.contacts = p.startsRun.lineUnknown.contacts := governorWakes_only _ .contacts (by decide)
  have hline : p.startsRun.lineUnknown.contacts = p.contacts := (lineUnknown_moves p.startsRun).drifts.only .contacts (by decide)
  rw [awake_eq, wakesUp_contacts, hgov, hline]

theorem awake_mirror : (p.awake items tag o).mbx.attention.modeChange = true
    ∧ (p.awake items tag o).mbx.mirror.timer = p.startTimer p.tables.timers.mirrorInterval := by
  obtain ⟨hnow, htables, -⟩ := governorWakes_settings p
  have hmirror := wakesUp_mirror p.startsRun.lineUnknown.governorWakes items tag o
  rw [awake_eq]
  generalize p.startsRun.lineUnknown.governorWakes = w at *
  rwa [htables, startTimer_congr hnow] at hmirror

theorem awake_newest : (p.awake items tag o).mbx.newest .wake .modeLogic 0 tag items := wakesUp_newest _ items tag o

theorem awake_poles (i : PoleId) : ((p.awake items tag o).poles.get i).state = (p.poles.get i).state
    ∧ ((p.awake items tag o).poles.get i).resolving = (p.poles.get i).resolving := by
  have hafter : (p.awake items tag o).poles = p.startsRun.lineUnknown.governorWakes.poles := wakesUp_only _ items tag o .poles (by decide)
  have hnotes := lineUnknown_gapNotes p.startsRun
  have hstates := hnotes.field i Pole.state fun _ => rfl
  have hresolves := hnotes.field i Pole.resolving fun _ => rfl
  obtain ⟨hstate, hresolving⟩ := polesWake_pole p.startsRun.lineUnknown i
  rw [hafter, governorWakes_poles]
  exact ⟨hstate.trans hstates, hresolving.trans hresolves⟩

theorem awake_rescanned (c : Chain) : p.mbx.Rescanned c (p.awake items tag o).mbx := by
  have hline : p.mbx.Rouses c p.startsRun.lineUnknown.mbx := (lineUnknown_spares p.startsRun).logs.rouses c
  rw [← governorWakes_mbx p.startsRun.lineUnknown] at hline
  exact wakesUp_rescanned _ items tag o hline

theorem awake_stagger : (p.awake items tag o).aux.stagger = p.startTimer p.tables.timers.stagger := by
  obtain ⟨hnow, htables, -⟩ := governorWakes_settings p
  obtain ⟨-, -, hstagger⟩ := wakesUp_aux p.startsRun.lineUnknown.governorWakes items tag o 0
  rw [awake_eq]
  generalize p.startsRun.lineUnknown.governorWakes = w at *
  rwa [htables, startTimer_congr hnow] at hstagger

/-- The requested auxiliaries in OFF enter the queue of an UNKNOWN line in RUN (R146, R156). -/
theorem awake_requested {a : AuxNo} (hreq : (p.auxRec a).requested = true) (hoff : (p.auxRec a).state = .off) :
    ((p.awake items tag o).auxRec a).state = (if (p.auxEntry a).cls = .deferrable then .shed
        else if (p.auxRec a).offTimer.isRunning = true then .locked else .waiting)
      ∧ (((p.awake items tag o).auxRec a).state = .waiting → a ∈ (p.awake items tag o).aux.queue) := by
  obtain ⟨hnow, htables, hmode, haux, hline⟩ := governorWakes_settings p
  have hrests := lineUnknown_rests (p := p.startsRun) (a := a) (by rw [show p.startsRun.auxRec a = p.auxRec a from rfl, hoff]; rfl)
  have hunknown := (lineUnknown_line p.startsRun).1
  have hrecord : p.startsRun.lineUnknown.governorWakes.auxRec a = p.auxRec a := (congrArg (·.recs.get a) haux).trans hrests.record
  rw [← hline] at hunknown
  obtain ⟨hstates, hqueues, -⟩ := wakesUp_aux p.startsRun.lineUnknown.governorWakes items tag o a
  rw [awake_eq, hstates, hqueues]
  generalize p.startsRun.lineUnknown.governorWakes = w at *
  obtain ⟨hstate, hqueued⟩ := requeueAll_queues (p := w) (a := a) (by rw [hrecord, hreq]) (by rw [hrecord, hoff])
  have hentry : w.auxEntry a = p.auxEntry a := by rw [Part.auxEntry, Part.auxEntry, htables]
  refine ⟨hstate.trans ?_, hqueued⟩
  rw [hmode, hunknown, hrecord, hentry]
  simp [LineState.classHold]

/-- With the line UNKNOWN before and no shed demand due the other auxiliaries stay (R156). -/
theorem awake_others (ho : o.aux = p.aux) (hline : p.line.state = .unknown) (hdue : p.demandDue = false) {a : AuxNo}
    (h : (p.auxRec a).requested = false ∨ (p.auxRec a).state ≠ .off) : (p.awake items tag o).auxRec a = p.auxRec a := by
  obtain ⟨-, -, -, haux, -⟩ := governorWakes_settings p
  have hrecord : p.startsRun.lineUnknown.governorWakes.auxRec a = p.auxRec a :=
    congrArg (·.recs.get a) (haux.trans (lineUnknown_aux (p := p.startsRun) hline hdue))
  have ho' : o.auxRec a = p.auxRec a := congrArg (·.recs.get a) ho
  have hkept := wakesUp_others p.startsRun.lineUnknown.governorWakes items tag o (a := a) (by rw [hrecord]; exact h) (by rw [hrecord, ho'])
  exact hkept.trans hrecord

/-- LAYOVER is left for RUN (R184), once the auxiliaries that no entry concerns stay. -/
theorem awake_resumes_of (hothers : p.line.state = .unknown → p.demandDue = false →
    ∀ a, (p.auxRec a).requested = false ∨ (p.auxRec a).state ≠ .off → (p.awake items tag o).auxRec a = p.auxRec a) :
    p.resumes (p.awake items tag o) := by
  obtain ⟨hmode, hlinks, hreset, htables, hbase, hnow⟩ := awake_fields p items tag o
  obtain ⟨harmed, hsetpoint, hperiod, hinhibit, hdoor⟩ := awake_gov p items tag o
  obtain ⟨hattention, hmirror⟩ := awake_mirror p items tag o
  have hcontacts := awake_contacts p items tag o
  refine ⟨hmode, hattention, fun l => ?_, awake_line p items tag o, harmed, hperiod, hinhibit, hsetpoint, hdoor, ?_, ?_, ?_, fun i => ?_,
    hmirror, awake_poles p items tag o, fun c b hb hp => (awake_rescanned p items tag o c).parked b hb hp,
    fun c hp => (awake_rescanned p items tag o c).busy hp, awake_stagger p items tag o, fun a hreq hoff => awake_requested p items tag o hreq hoff,
    hothers, hreset, htables, hbase, hnow⟩
  · rw [Part.linkRec, hlinks]
    cases l <;> exact ⟨rfl, rfl⟩
  · rw [hcontacts]; rfl
  · rw [hcontacts]; rfl
  · rw [hcontacts]; rfl
  · rw [Part.input, hcontacts]; rfl

theorem awake_resumes (ho : o.aux = p.aux) : p.resumes (p.awake items tag o) :=
  awake_resumes_of p items tag o fun hline hdue _ h => awake_others p items tag o ho hline hdue h

end

end Sys2Proof.Machine

/-! ## LAYOVER left for RUN: the obligations (R43, R180, R184) -/

namespace Sys2Proof.Machine

/-- The wake of a part is that of a part that differs from it in the command outcome alone. -/
theorem resumes_of_outcome {p q : Part} {x : CommandOutcome} (h : (p.outcome x).resumes q) : p.resumes q := h

/-- Settles O15, which holds: the blocks leave LAYOVER one after the other, and of each piece the last block that changes it says
what it becomes. -/
theorem runLeavesLayover : Obligations.RunLeavesLayover := by
  intro s hmode
  have hexec : exec .run s = .next { s with part := (((s.part.outcome .accepted).leaveLayover .command 0 []).orderEntries s.part).settle } := by
    rw [exec_run, event_next, runCommand_of_layover hmode]
  have hcommand := awake_only (s.part.outcome .accepted) [.small WakeCause.command.ctorIdx] 0 s.part .command (by decide)
  have hresumes := awake_resumes (s.part.outcome .accepted) [.small WakeCause.command.ctorIdx] 0 s.part rfl
  have hnewest := awake_newest (s.part.outcome .accepted) [.small WakeCause.command.ctorIdx] 0 s.part
  rw [leaveLayover_awake] at hexec
  generalize (s.part.outcome .accepted).awake [.small WakeCause.command.ctorIdx] 0 s.part = q at *
  exact ⟨q, hexec, hcommand.1, hcommand.2, resumes_of_outcome hresumes, hnewest⟩

/-! ### Polling (R43) -/

theorem inputBits_getLsbD (test : InputNo → Bool) (i : InputNo) : (inputBits test).getLsbD i.val = test i := by
  rw [inputBits, BitVec.getLsbD_ofNat, setCode_testBit, decide_eq_true i.isLt, Bool.true_and]
  have hall : ∀ j : InputNo, allSixteen[j.val]? = some j := by decide
  simp only [List.getD, List.getElem?_map, hall i, Option.map_some, Option.getD_some]

/-- The contacts after a poll that found these inputs to differ (R43). -/
def Contacts.polling (c : Contacts) (poll five : Timer) (bits : BitVec 16) : Contacts :=
  { c with pollTimer := poll, second := bits, secondTimer := if bits = 0 then .stopped else five }

theorem polled_eq (p : Part) (pins : Vector PinVoltage 16) : (p.polled pins).contacts =
    p.contacts.polling (p.startTimer p.tables.timers.pollInterval) (p.startTimer 5) (inputBits (p.differs pins)) := rfl

theorem polled_contacts (p : Part) (pins : Vector PinVoltage 16) :
    (p.polled pins).contacts.pollTimer = p.startTimer p.tables.timers.pollInterval
      ∧ (p.polled pins).contacts.second = inputBits (p.differs pins)
      ∧ (p.polled pins).contacts.secondTimer = (if (p.polled pins).contacts.second = 0 then .stopped else p.startTimer 5)
      ∧ (p.polled pins).contacts.inputs = p.contacts.inputs := by
  rw [polled_eq]
  generalize inputBits (p.differs pins) = bits
  exact ⟨rfl, rfl, rfl, rfl⟩

/-- The second samples done (R43). -/
def Contacts.sampled (c : Contacts) : Contacts := { c with second := 0, secondTimer := .stopped }

/-- The part with its second samples done. -/
def Part.sampled (p : Part) : Part := { p with contacts := p.contacts.sampled }

theorem secondSampled_eq (p : Part) (pins : Vector PinVoltage 16) :
    p.secondSampled pins = p.sampled.forEach (p.wakes pins) Part.wakeEvent := rfl

theorem wakeEvent_awake {p : Part} (h : p.mode ≠ .layover) (i : InputNo) : p.wakeEvent i = p := if_neg h

theorem wakeEvents_awake {p : Part} (h : p.mode ≠ .layover) (is : List InputNo) : p.forEach is Part.wakeEvent = p := by
  induction is with
  | nil => rfl
  | cons i is ih =>
    show (p.wakeEvent i).forEach is Part.wakeEvent = p
    rw [wakeEvent_awake h, ih]

/-- The cause of an input's wake (R184). -/
def inputCause (role : InputRole) : WakeCause := if role = .polePHoused ∨ role = .poleNHoused then .unhoused else .input

theorem wakeEvent_layover {p : Part} (h : p.mode = .layover) (i : InputNo) : p.wakeEvent i =
    p.leaveLayover (inputCause (p.tables.inputs.get i).role) 0 [.small i.val, .small (inputRoleCode (p.tables.inputs.get i).role)] := if_pos h

theorem leaveLayover_mode (p : Part) (cause : WakeCause) (tag : Word) (extra : List Item) : (p.leaveLayover cause tag extra).mode = .run := by
  have hblocks : p.blocksLeaveLayover.mode = .run := blocksLeaveLayover_onlyChanges p .mode (by decide)
  exact (show _ = _ from (endModeChange_moves p.blocksLeaveLayover .wake tag _).drifts.only .mode (by decide)).trans hblocks

/-- The first input that wakes the part wakes it for all (R43, R184). -/
theorem secondSampled_wakes {p : Part} {pins : Vector PinVoltage 16} {i : InputNo} {rest : List InputNo} (hw : p.wakes pins = i :: rest)
    (hmode : p.mode = .layover) : p.secondSampled pins = p.sampled.leaveLayover (inputCause (p.tables.inputs.get i).role) 0
      [.small i.val, .small (inputRoleCode (p.tables.inputs.get i).role)] := by
  have hfirst := wakeEvent_layover (p := p.sampled) hmode i
  rw [secondSampled_eq, hw]
  show (p.sampled.wakeEvent i).forEach rest Part.wakeEvent = _
  rw [hfirst]
  exact wakeEvents_awake (by rw [leaveLayover_mode]; decide) rest

theorem resumes_of_sampled {p q : Part} (h : p.sampled.resumes q) : p.resumes q := h

theorem inputCause_code (role : InputRole) : (inputCause role).ctorIdx =
    if role = .polePHoused ∨ role = .poleNHoused then WakeCause.unhoused.ctorIdx else WakeCause.input.ctorIdx := by
  unfold inputCause
  split <;> rfl

/-- At the second samples of a part out of LAYOVER, or with no input left that differs, nothing else happens (R43, R184). -/
theorem secondSampled_quiet {p : Part} {pins : Vector PinVoltage 16} (h : p.wakes pins = [] ∨ p.mode ≠ .layover) :
    p.secondSampled pins = p.sampled := by
  rw [secondSampled_eq]
  obtain hnone | hmode := h
  · rw [hnone]
    rfl
  · exact wakeEvents_awake (p := p.sampled) hmode _

theorem sampled_only (p : Part) : p.onlyChanges [.contacts] p.sampled := (moves_contacts p _).drifts.only

/-- What the second samples of an event leave (R43, R184). -/
theorem secondSampled_end (p : Part) (pins : Vector PinVoltage 16) (o : Part) (ho : o.aux = p.aux) :
    ((p.secondSampled pins).orderEntries o).contacts.second = 0 ∧ ((p.secondSampled pins).orderEntries o).contacts.secondTimer = .stopped
      ∧ (p.wakes pins = [] ∨ p.mode ≠ .layover → p.onlyChanges [.contacts] ((p.secondSampled pins).orderEntries o))
      ∧ ∀ i rest, p.wakes pins = i :: rest → p.mode = .layover → p.resumes ((p.secondSampled pins).orderEntries o)
        ∧ ((p.secondSampled pins).orderEntries o).mbx.newest .wake .modeLogic 0 0 [.small (inputCause (p.tables.inputs.get i).role).ctorIdx,
            .small i.val, .small (inputRoleCode (p.tables.inputs.get i).role)] := by
  by_cases h : p.wakes pins = [] ∨ p.mode ≠ .layover
  · have hsame : p.sampled.orderEntries o = p.sampled := orderEntries_same _ _ ho.symm
    rw [secondSampled_quiet h, hsame]
    refine ⟨rfl, rfl, fun _ => sampled_only p, fun i rest hw hmode => ?_⟩
    exact absurd h (by simp [hw, hmode])
  · obtain ⟨hwakes, hmode⟩ := not_or.mp h
    obtain ⟨i, rest, hw⟩ := List.exists_cons_of_ne_nil hwakes
    rw [secondSampled_wakes hw (not_not.mp hmode), leaveLayover_awake]
    have hresumes := awake_resumes p.sampled [.small (inputCause (p.tables.inputs.get i).role).ctorIdx, .small i.val,
      .small (inputRoleCode (p.tables.inputs.get i).role)] 0 o ho
    have hnewest := awake_newest p.sampled [.small (inputCause (p.tables.inputs.get i).role).ctorIdx, .small i.val,
      .small (inputRoleCode (p.tables.inputs.get i).role)] 0 o
    have hcontacts := awake_contacts p.sampled [.small (inputCause (p.tables.inputs.get i).role).ctorIdx, .small i.val,
      .small (inputRoleCode (p.tables.inputs.get i).role)] 0 o
    generalize p.sampled.awake _ _ _ = q at *
    refine ⟨by rw [hcontacts]; rfl, by rw [hcontacts]; rfl, fun hq => absurd hq h, fun j rest' hj _ => ?_⟩
    obtain ⟨rfl, -⟩ := List.cons.inj (hw.symm.trans hj)
    exact ⟨resumes_of_sampled hresumes, hnewest⟩

/-- Settles O48, which holds: a poll keeps one bit for each input that differs; the first of the second samples that still does
leaves LAYOVER, and the others find the part in RUN. -/
theorem layoverPollWakesThePart : Obligations.LayoverPollWakesThePart := by
  intro s pins t
  refine ⟨fun ht => ?_, fun ht => ?_⟩
  · have hexec := exec_of_expiry (exec_pollTimerExpiry pins s) ht (polled_moves (s.part.clockTo t) pins)
    obtain ⟨hpoll, hsecond, htimer, hinputs⟩ := polled_contacts (s.part.clockTo t) pins
    have honly := (polled_moves (s.part.clockTo t) pins).drifts.only
    obtain ⟨x, hx⟩ := clockTo_eq s.part t
    rw [hx] at hexec hpoll hsecond htimer hinputs honly ⊢
    have hbits : ∀ i : InputNo, ((s.part.atTime x).polled pins).contacts.second.getLsbD i.val = (s.part.atTime x).differs pins i := by
      intro i
      rw [hsecond]
      exact inputBits_getLsbD _ i
    generalize (s.part.atTime x).polled pins = q at *
    exact ⟨q, hexec, hpoll, hbits, htimer, hinputs, honly⟩
  · have hexec := exec_of_expiry_ordered (exec_secondSample pins s) ht
    obtain ⟨x, hx⟩ := clockTo_eq s.part t
    rw [hx] at hexec ⊢
    obtain ⟨hsecond, htimer, hquiet, hwakes⟩ := secondSampled_end (s.part.atTime x) pins s.part rfl
    generalize ((s.part.atTime x).secondSampled pins).orderEntries s.part = q at *
    refine ⟨q, hexec, hsecond, htimer, hquiet, fun i rest hw hmode => ?_⟩
    rw [← inputCause_code]
    exact hwakes i rest hw hmode

end Sys2Proof.Machine

/-! ## RUN entered from HALT (R71, R157, R181) -/

namespace Sys2Proof.Machine

/-! ### The poles and the governor (R71, R91, R128) -/

/-- The Pole Monitor and the governor at RUN entry from HALT. -/
def Part.governorRuns (p : Part) : Part := p.polesEnterRun.governorEntersRun.withdraw .mode

/-- Both poles resolve, before the claims follow (R71). -/
def Part.polesResolve (p : Part) : Part :=
  { p.untrackCopies with poles :=
      ⟨p.poles.p.resolve (p.startTimer p.tables.timers.resolutionWindow), p.poles.n.resolve (p.startTimer p.tables.timers.resolutionWindow)⟩ }

theorem polesEnterRun_eq (p : Part) : p.polesEnterRun = p.polesResolve.updateClaims := rfl

theorem polesResolve_pole (p : Part) (i : PoleId) :
    p.polesResolve.poles.get i = (p.poles.get i).resolve (p.startTimer p.tables.timers.resolutionWindow) := by cases i <;> rfl


theorem governorRuns_only (p : Part) : p.onlyChanges (polePieces ++ govPieces) p.governorRuns :=
  (((polesEnterRun_moves p).mono (ys := polePieces ++ govPieces) (by decide)).drifts.only.andThen (governorEntersRun_moves _).drifts.only
    (by decide)).andThen (withdraw_only _ .mode) (by decide)

theorem withdraw_rest (p : Part) (r : Reason) : (p.withdraw r).line = p.line ∧ (p.withdraw r).poles = p.poles
    ∧ (p.withdraw r).keptPoles = p.keptPoles ∧ (p.withdraw r).aux = p.aux := ⟨rfl, rfl, rfl, rfl⟩

theorem polesResolve_rest (p : Part) : p.polesResolve.line.poleCopy = ⟨.untracked, .untracked⟩
    ∧ p.polesResolve.keptPoles = ⟨.untracked, .untracked⟩ ∧ p.polesResolve.line.state = p.line.state ∧ p.polesResolve.aux = p.aux :=
  ⟨rfl, rfl, rfl, rfl⟩

theorem polesEnterRun_rest (p : Part) : p.polesEnterRun.line = p.polesResolve.line ∧ p.polesEnterRun.poles = p.polesResolve.poles
    ∧ p.polesEnterRun.keptPoles = p.polesResolve.keptPoles ∧ p.polesEnterRun.aux = p.polesResolve.aux
    ∧ p.polesEnterRun.now = p.polesResolve.now ∧ p.polesEnterRun.tables = p.polesResolve.tables := by
  have hclaims := (updateClaims_drifts p.polesResolve).only
  rw [polesEnterRun_eq]
  exact ⟨line_of_moves hclaims, hclaims .poles (by decide), hclaims .keptPoles (by decide), hclaims .aux (by decide),
    hclaims .now (by decide), hclaims .tables (by decide)⟩

theorem governorRuns_poles (p : Part) : p.governorRuns.poles = p.polesResolve.poles
    ∧ p.governorRuns.line.poleCopy = ⟨.untracked, .untracked⟩ ∧ p.governorRuns.keptPoles = ⟨.untracked, .untracked⟩
    ∧ p.governorRuns.line.state = p.line.state ∧ p.governorRuns.aux = p.aux := by
  have hgov := (governorEntersRun_moves p.polesEnterRun).drifts.only
  have hgovLine : p.polesEnterRun.governorEntersRun.line = p.polesEnterRun.line := line_of_moves hgov
  have hpoles : p.polesEnterRun.governorEntersRun.poles = p.polesEnterRun.poles := hgov .poles (by decide)
  have hkept : p.polesEnterRun.governorEntersRun.keptPoles = p.polesEnterRun.keptPoles := hgov .keptPoles (by decide)
  have haux : p.polesEnterRun.governorEntersRun.aux = p.polesEnterRun.aux := hgov .aux (by decide)
  obtain ⟨hline', hpoles', hkept', haux'⟩ := withdraw_rest p.polesEnterRun.governorEntersRun .mode
  obtain ⟨hline'', hpoles'', hkept'', haux'', -⟩ := polesEnterRun_rest p
  obtain ⟨hcopy, hkeeps, hstate, hauxes⟩ := polesResolve_rest p
  rw [Part.governorRuns, hline', hpoles', hkept', haux', hgovLine, hpoles, hkept, haux, hline'', hpoles'', hkept'', haux'']
  exact ⟨rfl, hcopy, hkeeps, hstate, hauxes⟩

theorem polesEnterRun_suspect (p : Part) : p.polesEnterRun.gov.inhibit.poleSuspect = true := by
  obtain ⟨hclaim, -⟩ := updateClaims_claims p.polesResolve
  obtain ⟨-, hpoles, -⟩ := polesEnterRun_rest p
  rw [polesEnterRun_eq] at hpoles ⊢
  rw [hclaim, Part.anyPole, hpoles]
  rfl

theorem withdrawMode_gov (p : Part) : (p.withdraw .mode).gov.armed = p.gov.armed ∧ (p.withdraw .mode).gov.setpoint = p.gov.setpoint
    ∧ (p.withdraw .mode).gov.period = p.gov.period ∧ (p.withdraw .mode).gov.inhibit.mode = false
    ∧ (p.withdraw .mode).gov.inhibit.poleSuspect = p.gov.inhibit.poleSuspect := ⟨rfl, rfl, rfl, rfl, rfl⟩

theorem governorRuns_gov (p : Part) : p.governorRuns.gov.armed = false ∧ p.governorRuns.gov.setpoint = 0
    ∧ p.governorRuns.gov.period = p.startTimer p.tables.timers.controlPeriod ∧ p.governorRuns.gov.inhibit.mode = false
    ∧ p.governorRuns.gov.inhibit.poleSuspect = true := by
  obtain ⟨-, -, -, -, hnow, htables⟩ := polesEnterRun_rest p
  have hnow' : p.polesEnterRun.now = p.now := hnow.trans rfl
  have htables' : p.polesEnterRun.tables = p.tables := htables.trans rfl
  have hsuspect := polesEnterRun_suspect p
  obtain ⟨harmed, hsetpoint, hperiod, hinhibit⟩ := governorEntersRun_gov p.polesEnterRun
  rw [htables', startTimer_congr hnow'] at hperiod
  obtain ⟨harmed', hsetpoint', hperiod', hmode, hkept⟩ := withdrawMode_gov p.polesEnterRun.governorEntersRun
  rw [Part.governorRuns, harmed', hsetpoint', hperiod', hmode, hkept, hinhibit]
  refine ⟨harmed, hsetpoint, hperiod, rfl, ?_⟩
  split
  · exact hsuspect
  · exact hsuspect

/-! ### The standing requests (R157) -/

theorem standingRequest_leaves (p : Part) {a b : AuxNo} (h : a ≠ b) : p.Leaves a (p.standingRequest b) := by
  unfold Part.standingRequest
  dsimp only
  split
  · exact (setAux_leaves p h _).andThen (requeue_leaves _ h)
  · exact .refl a p

/-- A standing request of a valid ESSENTIAL auxiliary in OFF, its off timer stopped, joins the queue in RUN (R146, R157). -/
theorem standingRequest_waits {p : Part} {a : AuxNo} (hmode : p.mode = .run) (hvalid : (p.auxEntry a).valid = true)
    (hcls : (p.auxEntry a).cls = .essential) (hstands : (p.auxEntry a).standing = true) (hoff : (p.auxRec a).state = .off)
    (htimer : (p.auxRec a).offTimer = .stopped) :
    ((p.standingRequest a).auxRec a).requested = true ∧ ((p.standingRequest a).auxRec a).state = .waiting
      ∧ a ∈ (p.standingRequest a).aux.queue := by
  have hrequests : p.standingRequest a = (p.setAux a { p.auxRec a with requested := true }).requeue a := if_pos (by simp [hvalid, hcls, hstands])
  have hset : (p.setAux a { p.auxRec a with requested := true }).auxRec a = { p.auxRec a with requested := true } := Part.auxRec_set_same p a _
  have hentry : (p.setAux a { p.auxRec a with requested := true }).auxEntry a = p.auxEntry a := rfl
  have hrun : (p.setAux a { p.auxRec a with requested := true }).mode = .run := hmode
  rw [hrequests]
  generalize p.setAux a { p.auxRec a with requested := true } = b at *
  rw [requeue_of_off (by rw [hset]) (by rw [hset, hoff])]
  obtain ⟨hstate, hqueued⟩ := enterQueue_queues b a
  obtain ⟨_, _, _, hrec⟩ := enterQueue_auxRec b a
  have hwaits : ((b.enterQueue a).auxRec a).state = .waiting := by
    rw [hstate, hrun, hentry, hset, hcls, htimer]
    rfl
  exact ⟨by rw [hrec, hset], hwaits, hqueued hwaits⟩

/-- Every standing request is made (R157). -/
def Part.standAll (p : Part) : Part := p.forEach allAux Part.standingRequest

theorem auxEntersRun_eq (p : Part) : p.auxEntersRun = p.standAll.restartStagger := rfl

theorem standAll_waits {p : Part} {a : AuxNo} (hmode : p.mode = .run) (hvalid : (p.auxEntry a).valid = true)
    (hcls : (p.auxEntry a).cls = .essential) (hstands : (p.auxEntry a).standing = true) (hoff : (p.auxRec a).state = .off)
    (htimer : (p.auxRec a).offTimer = .stopped) :
    (p.standAll.auxRec a).requested = true ∧ (p.standAll.auxRec a).state = .waiting ∧ a ∈ p.standAll.aux.queue := by
  obtain ⟨q, hbefore, hafter⟩ := forEach_around (f := Part.standingRequest) (fun p _ h => standingRequest_leaves p h) nodup_allAux
    (mem_allAux a) p
  have hentry : q.auxEntry a = p.auxEntry a := by rw [Part.auxEntry, Part.auxEntry, hbefore.tables]
  have hwaits := standingRequest_waits (p := q) (a := a) (hbefore.mode.trans hmode) (by rw [hentry, hvalid]) (by rw [hentry, hcls])
    (by rw [hentry, hstands]) (by rw [hbefore.record, hoff]) (by rw [hbefore.record, htimer])
  rw [Part.standAll, hafter.record, hafter.queued]
  exact hwaits

/-! ### The event (R181) -/

/-- What follows the governor in the event of an entry to RUN. -/
def afterRunPieces : List Piece := [.aux, .outputs, .records] ++ [.reports, .chains, .port, .lastReset, .attention, .mirror]

/-- The part after an entry to RUN, from the governor on. -/
def Part.runs (w : Part) (items : List Item) (o : Part) : Part :=
  (w.auxEntersRun.evalAlarms.modeReport .runEntered 0 items).endsRunEntry.orderEntries o

theorem enterRun_ordered (p o : Part) : p.enterRun.orderEntries o =
    p.startsRun.lineUnknown.governorRuns.runs [.small (resetKindCode p.blocksEnterRun.lastReset)] o := rfl

section
variable (w : Part) (items : List Item) (o : Part)

theorem endsRunEntry_moves (p : Part) : p.Moves [.lastReset, .attention, .mirror, .port] p.endsRunEntry :=
  .before (mirrorStart_moves _) (.before (noteModeChange_moves _) ((moves_lastReset p .none).mono (by decide)) (by decide)) (by decide)

theorem runs_only : w.onlyChanges afterRunPieces (w.runs items o) :=
  Part.Moves.drifts (.before (orderEntries_moves _ o) (.before (endsRunEntry_moves _) (.before (modeReport_moves _ _ _ _)
    (.before (evalAlarms_moves _) ((auxEntersRun_moves w).mono (ys := afterRunPieces) (by decide)) (by decide)) (by decide)) (by decide))
    (by decide)) |>.only

theorem endsRunEntry_fields (p : Part) : p.endsRunEntry.lastReset = .none ∧ p.endsRunEntry.mbx.attention.modeChange = true := by
  have hmirror := (mirrorStart_moves ({ p with lastReset := .none } : Part).noteModeChange).drifts.only
  have hattention : p.endsRunEntry.mbx.attention = ({ p with lastReset := .none } : Part).noteModeChange.mbx.attention :=
    hmirror .attention (by decide)
  exact ⟨hmirror .lastReset (by decide), by rw [hattention]; rfl⟩

theorem runs_fields : (w.runs items o).lastReset = .none ∧ (w.runs items o).mbx.attention.modeChange = true := by
  have horder := (orderEntries_moves (w.auxEntersRun.evalAlarms.modeReport .runEntered 0 items).endsRunEntry o).drifts.only
  obtain ⟨hreset, hchange⟩ := endsRunEntry_fields (w.auxEntersRun.evalAlarms.modeReport .runEntered 0 items)
  rw [Part.runs]
  generalize (w.auxEntersRun.evalAlarms.modeReport .runEntered 0 items).endsRunEntry = e at *
  have hattention : (e.orderEntries o).mbx.attention = e.mbx.attention := horder .attention (by decide)
  have hlast : (e.orderEntries o).lastReset = e.lastReset := horder .lastReset (by decide)
  rw [hattention, hlast]
  exact ⟨hreset, hchange⟩

theorem runs_newest : (w.runs items o).mbx.newest .runEntered .modeLogic 0 0 items :=
  newest_of_same ((orderEntries_moves _ o).drifts.only .reports (by decide))
    (newest_of_same ((endsRunEntry_moves _).drifts.only .reports (by decide)) (report_newest _ .runEntered .info .modeLogic 0 0 items))

theorem runs_aux (a : AuxNo) : ((w.runs items o).auxRec a).requested = (w.standAll.auxRec a).requested
    ∧ ((w.runs items o).auxRec a).state = (w.standAll.auxRec a).state ∧ (a ∈ (w.runs items o).aux.queue ↔ a ∈ w.standAll.aux.queue)
    ∧ (w.runs items o).aux.stagger = w.startTimer w.tables.timers.stagger := by
  have hmoves := forEach_moves (ys := [.aux]) Part.standingRequest standingRequest_moves allAux w
  have hnow : w.standAll.now = w.now := hmoves.drifts.only .now (by decide)
  have htables : w.standAll.tables = w.tables := hmoves.drifts.only .tables (by decide)
  have hend : (w.auxEntersRun.evalAlarms.modeReport .runEntered 0 items).endsRunEntry.aux = w.standAll.restartStagger.aux :=
    (show _ = _ from (endsRunEntry_moves _).drifts.only .aux (by decide)).trans
      ((show _ = _ from (modeReport_moves _ _ _ _).drifts.only .aux (by decide)).trans ((evalAlarms_moves _).drifts.only .aux (by decide)))
  rw [Part.runs]
  generalize (w.auxEntersRun.evalAlarms.modeReport .runEntered 0 items).endsRunEntry = e at *
  generalize w.standAll = q at *
  have hstagger : q.restartStagger.aux.stagger = w.startTimer w.tables.timers.stagger := by
    rw [restartStagger_timer, htables]
    exact startTimer_congr hnow _
  obtain ⟨n, hrec⟩ := orderEntries_auxRec e o a
  have hrecord : e.auxRec a = q.auxRec a := congrArg (·.recs.get a) hend
  have hqueue : e.aux.queue = q.aux.queue := by rw [hend, restartStagger_queue]
  refine ⟨by rw [hrec, hrecord], by rw [hrec, hrecord], (orderEntries_queue e o a).trans (by rw [hqueue]), (orderEntries_rest e o).1.trans ?_⟩
  rw [hend, hstagger]

end

end Sys2Proof.Machine

/-! ## RUN entered from HALT: the obligation (R71, R157, R181) -/

namespace Sys2Proof.Machine

/-! ### The part from the line on -/

/-- The part after an entry to RUN, whole. -/
def Part.entersRun (p : Part) (items : List Item) (o : Part) : Part := p.startsRun.lineUnknown.governorRuns.runs items o

section
variable (p : Part) (items : List Item) (o : Part)

theorem entersRun_eq : p.entersRun items o = p.startsRun.lineUnknown.governorRuns.runs items o := rfl

/-- The clock, the settings and the mode as the governor leaves them. -/
theorem governorRuns_settings : p.startsRun.lineUnknown.governorRuns.now = p.now ∧ p.startsRun.lineUnknown.governorRuns.tables = p.tables
    ∧ p.startsRun.lineUnknown.governorRuns.mode = .run := by
  have hline := (lineUnknown_moves p.startsRun).drifts.only
  have hgov := governorRuns_only p.startsRun.lineUnknown
  exact ⟨(show _ = _ from hgov .now (by decide)).trans (hline .now (by decide)),
    (show _ = _ from hgov .tables (by decide)).trans (hline .tables (by decide)),
    (show _ = _ from hgov .mode (by decide)).trans (hline .mode (by decide))⟩

theorem entersRun_line : (p.entersRun items o).line.state = .unknown ∧ (p.entersRun items o).line.poleCopy = ⟨.untracked, .untracked⟩
    ∧ (p.entersRun items o).keptPoles = ⟨.untracked, .untracked⟩ := by
  have hafter := runs_only p.startsRun.lineUnknown.governorRuns items o
  have hline : (p.entersRun items o).line = p.startsRun.lineUnknown.governorRuns.line := line_of_moves hafter
  have hkept : (p.entersRun items o).keptPoles = p.startsRun.lineUnknown.governorRuns.keptPoles := hafter .keptPoles (by decide)
  obtain ⟨-, hcopy, hkeeps, hstate, -⟩ := governorRuns_poles p.startsRun.lineUnknown
  rw [hline, hkept]
  exact ⟨hstate.trans (lineUnknown_line p.startsRun).1, hcopy, hkeeps⟩

theorem resolve_fields (x : Pole) (t : Timer) : (x.resolve t).state = .untracked ∧ (x.resolve t).resolving = true
    ∧ (x.resolve t).resolutionTimer = t ∧ (x.resolve t).latch = x.latch := ⟨rfl, rfl, rfl, rfl⟩

theorem entersRun_pole (i : PoleId) : ((p.entersRun items o).poles.get i).state = .untracked
    ∧ ((p.entersRun items o).poles.get i).resolving = true
    ∧ ((p.entersRun items o).poles.get i).resolutionTimer = p.startTimer p.tables.timers.resolutionWindow
    ∧ ((p.entersRun items o).poles.get i).latch = (p.poles.get i).latch := by
  have hline := (lineUnknown_moves p.startsRun).drifts.only
  have hnow : p.startsRun.lineUnknown.now = p.now := hline .now (by decide)
  have htables : p.startsRun.lineUnknown.tables = p.tables := hline .tables (by decide)
  have hlatch := (lineUnknown_gapNotes p.startsRun).field i Pole.latch fun _ => rfl
  have hafter : (p.entersRun items o).poles = p.startsRun.lineUnknown.governorRuns.poles :=
    runs_only p.startsRun.lineUnknown.governorRuns items o .poles (by decide)
  obtain ⟨hpoles, -⟩ := governorRuns_poles p.startsRun.lineUnknown
  rw [hafter, hpoles, polesResolve_pole, htables, startTimer_congr hnow]
  obtain ⟨hstate, hresolving, htimer, hkept⟩ :=
    resolve_fields (p.startsRun.lineUnknown.poles.get i) (p.startTimer p.tables.timers.resolutionWindow)
  exact ⟨hstate, hresolving, htimer, hkept.trans hlatch⟩

theorem entersRun_gov : (p.entersRun items o).gov.armed = false ∧ (p.entersRun items o).gov.setpoint = 0
    ∧ (p.entersRun items o).gov.period = p.startTimer p.tables.timers.controlPeriod ∧ (p.entersRun items o).gov.inhibit.mode = false
    ∧ (p.entersRun items o).gov.inhibit.poleSuspect = true := by
  have hline := (lineUnknown_moves p.startsRun).drifts.only
  have hnow : p.startsRun.lineUnknown.now = p.now := hline .now (by decide)
  have htables : p.startsRun.lineUnknown.tables = p.tables := hline .tables (by decide)
  have hafter := runs_only p.startsRun.lineUnknown.governorRuns items o
  obtain ⟨harmed, hsetpoint, hperiod, hmode, hsuspect⟩ := governorRuns_gov p.startsRun.lineUnknown
  rw [htables, startTimer_congr hnow] at hperiod
  rw [entersRun_eq]
  generalize p.startsRun.lineUnknown.governorRuns = w at *
  have hset := hafter .inhibit (by decide)
  have hpoint := hafter .setpoint (by decide)
  have hdemand := hafter .demand (by decide)
  refine ⟨hset.2.trans harmed, hpoint.1.trans hsetpoint, hdemand.1.trans hperiod, ?_, ?_⟩
  · rw [hset.1]; exact hmode
  · rw [hset.1]; exact hsuspect

theorem entersRun_stagger : (p.entersRun items o).aux.stagger = p.startTimer p.tables.timers.stagger := by
  obtain ⟨hnow, htables, -⟩ := governorRuns_settings p
  obtain ⟨-, -, -, hstagger⟩ := runs_aux p.startsRun.lineUnknown.governorRuns items o 0
  rw [entersRun_eq]
  generalize p.startsRun.lineUnknown.governorRuns = w at *
  rwa [htables, startTimer_congr hnow] at hstagger

/-- The standing requests of the valid ESSENTIAL auxiliaries in OFF (R157). -/
theorem entersRun_waits {a : AuxNo} (hvalid : (p.auxEntry a).valid = true) (hcls : (p.auxEntry a).cls = .essential)
    (hstands : (p.auxEntry a).standing = true) (hoff : (p.auxRec a).state = .off) (htimer : (p.auxRec a).offTimer = .stopped) :
    ((p.entersRun items o).auxRec a).requested = true ∧ ((p.entersRun items o).auxRec a).state = .waiting
      ∧ a ∈ (p.entersRun items o).aux.queue := by
  obtain ⟨-, htables, hmode⟩ := governorRuns_settings p
  obtain ⟨-, -, -, -, haux⟩ := governorRuns_poles p.startsRun.lineUnknown
  have hidle : (p.startsRun.auxRec a).state.idle = true := by rw [show p.startsRun.auxRec a = p.auxRec a from rfl, hoff]; rfl
  have hrecord : p.startsRun.lineUnknown.governorRuns.auxRec a = p.auxRec a :=
    (congrArg (·.recs.get a) haux).trans (lineUnknown_rests hidle).record
  obtain ⟨hrequested, hstate, hqueue, -⟩ := runs_aux p.startsRun.lineUnknown.governorRuns items o a
  rw [entersRun_eq]
  generalize p.startsRun.lineUnknown.governorRuns = w at *
  have hentry : w.auxEntry a = p.auxEntry a := by rw [Part.auxEntry, Part.auxEntry, htables]
  rw [hrequested, hstate, hqueue]
  exact standAll_waits hmode (by rw [hentry, hvalid]) (by rw [hentry, hcls]) (by rw [hentry, hstands]) (by rw [hrecord, hoff])
    (by rw [hrecord, htimer])

end

/-! ### The command (R181) -/

/-- The pieces of an entry to RUN from HALT with its command outcome. -/
def runCommandPieces : List Piece := [.mode, .lastReset, .command, .attention, .chains, .port, .reports, .mirror, .links, .send, .outputs,
  .line, .budget, .poles, .zones, .inhibit, .setpoint, .demand, .replies, .aux, .records, .collector, .alarms] ++ [.keptPoles]

theorem outcome_only (p : Part) (x : CommandOutcome) : p.onlyChanges [.command] (p.outcome x) := (outcome_moves p x).drifts.only

theorem enterRun_entersRun (p o : Part) : p.enterRun.orderEntries o = p.entersRun [.small (resetKindCode p.lastReset)] o := by
  have hreset : p.blocksEnterRun.lastReset = p.lastReset := blocksEnterRun_onlyChanges p .lastReset (by decide)
  rw [enterRun_ordered, hreset]
  rfl

theorem entersRun_only (p o : Part) : p.onlyChanges (modePieces ++ [.lastReset]) (p.entersRun [.small (resetKindCode p.lastReset)] o) := by
  rw [← enterRun_entersRun]
  exact (enterRun_only p).andThen (orderEntries_moves _ o).drifts.only (by decide)

theorem entersRun_start (p : Part) (items : List Item) (o : Part) :
    (p.entersRun items o).mode = .run ∧ (p.entersRun items o).links = .start := by
  have hline := (lineUnknown_moves p.startsRun).drifts.only
  have hgov := governorRuns_only p.startsRun.lineUnknown
  have hafter := runs_only p.startsRun.lineUnknown.governorRuns items o
  exact ⟨(show _ = _ from hafter .mode (by decide)).trans ((show _ = _ from hgov .mode (by decide)).trans (hline .mode (by decide))),
    (show _ = _ from hafter .links (by decide)).trans ((show _ = _ from hgov .links (by decide)).trans (hline .links (by decide)))⟩

theorem linkRec_started {p : Part} (h : p.links = .start) (l : Link) : (p.linkRec l).started = true ∧ (p.linkRec l).state = .silent := by
  rw [Part.linkRec, h]
  cases l <;> exact ⟨rfl, rfl⟩

/-- Settles O14, which holds: the blocks enter RUN one after the other, and of each piece the last block that changes it says what
it becomes. -/
theorem runEntersRunFromHalt : Obligations.RunEntersRunFromHalt := by
  intro s hmode hbase hmissing
  have hexec : exec .run s = .next { s with part := ((s.part.outcome .accepted).enterRun.orderEntries s.part).settle } := by
    rw [exec_run, event_next, runCommand_of_ready hmode hbase hmissing]
  rw [enterRun_entersRun] at hexec
  have hfirst : s.part.onlyChanges runCommandPieces (s.part.outcome .accepted) := Part.onlyChanges_mono (outcome_only _ _) (by decide)
  have honly := entersRun_only (s.part.outcome .accepted) s.part
  have hcommand := honly .command (by decide)
  obtain ⟨hrun, hlinks⟩ := entersRun_start (s.part.outcome .accepted) [.small (resetKindCode s.part.lastReset)] s.part
  obtain ⟨hreset, hattention⟩ := runs_fields (s.part.outcome .accepted).startsRun.lineUnknown.governorRuns
    [.small (resetKindCode s.part.lastReset)] s.part
  obtain ⟨hline, hcopy, hkept⟩ := entersRun_line (s.part.outcome .accepted) [.small (resetKindCode s.part.lastReset)] s.part
  have hpoles := entersRun_pole (s.part.outcome .accepted) [.small (resetKindCode s.part.lastReset)] s.part
  obtain ⟨harmed, hsetpoint, hperiod, hinhibit, hsuspect⟩ :=
    entersRun_gov (s.part.outcome .accepted) [.small (resetKindCode s.part.lastReset)] s.part
  have hstagger := entersRun_stagger (s.part.outcome .accepted) [.small (resetKindCode s.part.lastReset)] s.part
  have hwaits := fun a => entersRun_waits (s.part.outcome .accepted) [.small (resetKindCode s.part.lastReset)] s.part (a := a)
  have hnewest := runs_newest (s.part.outcome .accepted).startsRun.lineUnknown.governorRuns [.small (resetKindCode s.part.lastReset)] s.part
  rw [← entersRun_eq] at hreset hattention hnewest
  have hall : s.part.onlyChanges runCommandPieces
      ((s.part.outcome .accepted).entersRun [.small (resetKindCode s.part.lastReset)] s.part) := hfirst.andThen honly (by decide)
  have hlast : (s.part.outcome .accepted).lastReset = s.part.lastReset := rfl
  rw [hlast] at hexec hcommand
  generalize (s.part.outcome .accepted).entersRun [.small (resetKindCode s.part.lastReset)] s.part = q at *
  refine ⟨q, hexec, hrun, hreset, hcommand.1, hcommand.2, hattention, linkRec_started hlinks, hline, fun i => ?_, harmed, hperiod, hinhibit,
    hsuspect, hsetpoint, hstagger, fun a hvalid hcls hstands hoff htimer => hwaits a hvalid hcls hstands hoff htimer, hnewest, hall⟩
  obtain ⟨hstate, hresolving, htimer, hlatch⟩ := hpoles i
  refine ⟨hstate, hresolving, htimer, hlatch, ?_, ?_⟩
  · rw [hcopy]; cases i <;> rfl
  · rw [hkept]; cases i <;> rfl

end Sys2Proof.Machine

/-! ## RUN or LAYOVER left for another mode: the governor and the outputs (R45, R128, R138, R165, R182, R183) -/

namespace Sys2Proof.Machine

/-! ### A governor at rest -/

/-- An operation that neither arms, nor moves a setpoint off 0, nor takes a cut frame back (R137, R138). -/
structure Part.Calms (p q : Part) : Prop where
  armed : p.gov.armed = false → q.gov.armed = false
  setpoint : p.gov.setpoint = 0 → q.gov.setpoint = 0
  cuts : p.send.cuts → q.send.cuts

theorem Part.Calms.refl (p : Part) : p.Calms p := ⟨id, id, id⟩

theorem Part.Calms.andThen {p q r : Part} (h : p.Calms q) (k : q.Calms r) : p.Calms r :=
  ⟨k.armed ∘ h.armed, k.setpoint ∘ h.setpoint, k.cuts ∘ h.cuts⟩

theorem calms_of_only {xs : List Piece} {p q : Part} (ho : p.onlyChanges xs q)
    (hx : [Piece.inhibit, .setpoint, .send].all (fun x => !xs.contains x) = true) : p.Calms q := by
  have hsame : ∀ x ∈ [Piece.inhibit, .setpoint, .send], p.same q x := fun x hm => ho x (by simpa using List.all_eq_true.mp hx x hm)
  obtain ⟨-, harmed⟩ := hsame .inhibit (by decide)
  obtain ⟨hsetpoint, -⟩ := hsame .setpoint (by decide)
  have hsend : q.send = p.send := hsame .send (by decide)
  exact ⟨harmed.trans, hsetpoint.trans, fun h => hsend ▸ h⟩

theorem cutFrame_cuts (p : Part) : p.cutFrame.send.cuts := hand_cuts _ rfl rfl

theorem claim_calms (p : Part) (r : Reason) : p.Calms (p.claim r) := by
  refine ⟨claim_disarmed r, fun h => (claim_setpoint p r).elim (fun hs => hs.trans h) id, fun h => ?_⟩
  cases hhas : p.gov.inhibit.has r
  · cases hcut : r.isCut
    · rw [claim_of_ramp hhas hcut]; exact h
    · rw [claim_of_cut hhas hcut]; exact cutFrame_cuts _
  · rw [claim_of_has hhas]; exact h

theorem withdraw_calms (p : Part) (r : Reason) : p.Calms (p.withdraw r) := ⟨id, id, id⟩

theorem claimIf_calms (p : Part) (r : Reason) (b : Bool) : p.Calms (p.claimIf r b) := by
  unfold Part.claimIf
  split
  · exact claim_calms p r
  · exact .refl p

theorem withdrawUnless_calms (p : Part) (r : Reason) (b : Bool) : p.Calms (p.withdrawUnless r b) := by
  unfold Part.withdrawUnless
  split
  · exact .refl p
  · exact withdraw_calms p r

/-- The claims of the Pole Monitor calm the governor (R91). -/
theorem updateClaims_calms (p : Part) : p.Calms p.updateClaims := by
  unfold Part.updateClaims
  exact (((((claimIf_calms _ _ _).andThen (claimIf_calms _ _ _)).andThen (claimIf_calms _ _ _)).andThen (withdrawUnless_calms _ _ _)).andThen
    (withdrawUnless_calms _ _ _)).andThen (withdrawUnless_calms _ _ _)

/-! ### The governor leaves RUN (R128) -/

/-- The pieces that the end of RUN changes before the other blocks act. -/
def leavePieces : List Piece := [.mode, .inhibit, .setpoint, .send] ++ [.outputs, .records, .demand, .replies]

/-- The governor's record outside RUN (R128). -/
def Part.disarmed (p : Part) : Part :=
  { p with gov := { p.gov with
      armed := false, period := .stopped, stale := 0, setpoint := 0, replyWait := none, misses := 0, goodRun := 0 } }

/-- The governor drops the reasons of its own (R128). -/
def Part.dropsOwn (p : Part) : Part :=
  (((p.dropOwn .demandStale .demandStale governorSource).dropOwn .driveLink .driveLinkLost driveLinkSource).dropOwn .driveFault .driveFault
    driveLinkSource).withdraw .doorOpen

theorem governorLeavesRun_eq (p : Part) : p.governorLeavesRun = p.dropsOwn.disarmed := rfl

theorem disarmed_only (p : Part) : p.onlyChanges [.inhibit, .setpoint, .demand, .replies] p.disarmed := by
  intro x hx
  cases x <;> simp_all [Part.same, Part.disarmed]

theorem dropOwn_only (p : Part) (r : Reason) (k : FaultKind) (s : Source) : p.onlyChanges [.inhibit, .outputs, .records] (p.dropOwn r k s) := by
  unfold Part.dropOwn
  split
  · exact (Part.onlyChanges_mono (ys := [.inhibit, .outputs, .records]) (withdraw_only p r) (by decide)).andThen (endFault_moves _ k s).drifts.only
      (by decide)
  · exact p.onlyChanges_refl _

theorem dropsOwn_only (p : Part) : p.onlyChanges [.inhibit, .outputs, .records] p.dropsOwn :=
  (((dropOwn_only p _ _ _).andThen (dropOwn_only _ _ _ _) (by decide)).andThen (dropOwn_only _ _ _ _) (by decide)).andThen
    (withdraw_only _ _) (by decide)

theorem leavesRun_pieces (p : Part) (m : Mode) : p.onlyChanges leavePieces (p.leavesRun m) :=
  ((((Part.onlyChanges_mono (ys := leavePieces) (moves_mode p m).drifts.only (by decide)).andThen (claim_only _ .mode) (by decide)).andThen
    (dropsOwn_only _) (by decide)).andThen (disarmed_only _) (by decide))

theorem leavesRun_mode (p : Part) (m : Mode) : (p.leavesRun m).mode = m := by
  have hclaim : (({ p with mode := m } : Part).claim .mode).mode = m := claim_only _ .mode .mode (by decide)
  exact (show _ = _ from (governorLeavesRun_moves (({ p with mode := m } : Part).claim .mode)).drifts.only .mode (by decide)).trans hclaim

/-- With MODE claimed the governor is at rest (R128). -/
theorem leavesRun_gov (p : Part) (m : Mode) : (p.leavesRun m).gov.inhibit.mode = true ∧ (p.leavesRun m).gov.armed = false
    ∧ (p.leavesRun m).gov.setpoint = 0 ∧ (p.leavesRun m).gov.period = .stopped := by
  have hclaim := claim_inhibit { p with mode := m } .mode
  have hreason := (governorLeavesRun_moves (({ p with mode := m } : Part).claim .mode)).drifts.modeReason
  refine ⟨hreason.trans ?_, rfl, rfl, rfl⟩
  rw [hclaim]
  rfl

/-- A MODE that joins the inhibit set has its cut frame (R137). -/
theorem leavesRun_cuts (p : Part) (m : Mode) (h : p.gov.inhibit.mode = false) : (p.leavesRun m).send.cuts := by
  have hclaim : (({ p with mode := m } : Part).claim .mode).send.cuts := by
    rw [claim_of_cut (p := { p with mode := m }) (r := .mode) h rfl]
    exact cutFrame_cuts _
  have hdrops : (({ p with mode := m } : Part).claim .mode).dropsOwn.send = (({ p with mode := m } : Part).claim .mode).send :=
    dropsOwn_only _ .send (by decide)
  have hsend : (p.leavesRun m).send = (({ p with mode := m } : Part).claim .mode).send :=
    (show _ = _ from disarmed_only _ .send (by decide)).trans hdrops
  rw [hsend]
  exact hclaim

/-! ### Logs of frames -/

/-- A frame that names no piece of the reports, the chains or the port raises no report. -/
theorem logs_of_only {P : ReportRec → Prop} {xs : List Piece} {p q : Part} (h : p.onlyChanges xs q)
    (hx : [Piece.reports, .chains, .port, .base].all (fun x => !xs.contains x) = true) : p.Logs P q := by
  have hsame : ∀ x ∈ [Piece.reports, .chains, .port, .base], p.same q x := fun x hm => h x (by simpa using List.all_eq_true.mp hx x hm)
  obtain ⟨hheld, -, hraised, hwritten, -⟩ : p.same q .reports := hsame .reports (by decide)
  exact .of_mailbox hheld hraised hwritten (.of_same (hsame .base (by decide)) (hsame .chains (by decide)) (hsame .port (by decide)))

/-! ### Outputs driven OFF (R45, R46, R165) -/

/-- An output is commanded OFF and has not failed. -/
def Part.outputOff (p : Part) (o : OutputNo) : Prop := (p.output o).commanded = false ∧ (p.output o).failed = false

/-- In a list of changes each member is left in its state, when no change takes another member out of it. -/
theorem forEach_each {α : Type} {Inv : Part → Prop} {R : α → Part → Prop} {f : Part → α → Part} (hinv : ∀ p x, Inv p → Inv (f p x))
    (hset : ∀ p x, Inv p → R x (f p x)) (hkeep : ∀ p x y, Inv p → R y p → R y (f p x)) {xs : List α} {x : α} (hx : x ∈ xs) {p : Part}
    (hp : Inv p) : R x (p.forEach xs f) := by
  have hrest : ∀ (ys : List α) (p : Part), Inv p → R x p → R x (p.forEach ys f) := by
    intro ys
    induction ys with
    | nil => exact fun _ _ h => h
    | cons y ys ih => exact fun p hp h => ih (f p y) (hinv p y hp) (hkeep p y x hp h)
  induction xs generalizing p with
  | nil => exact absurd hx List.not_mem_nil
  | cons y ys ih =>
    obtain rfl | hmem := List.mem_cons.mp hx
    · exact hrest ys _ (hinv p x hp) (hset p x hp)
    · exact ih hmem (hinv p y hp)

theorem outputOff_of_same {p q : Part} {o : OutputNo} (h : p.outputOff o) (ho : q.outputs = p.outputs) : q.outputOff o := by
  unfold Part.outputOff Part.output at h ⊢
  rwa [ho]

theorem driveAlarm_outputOff {p : Part} {o : OutputNo} (h : p.outputOff o) (r : DriveRole) : (p.driveAlarm r false).outputOff o := by
  have hsame : (p.driveAlarm r false).output o = p.output o := by
    rw [driveAlarm_output]
    split
    · rw [setCommanded_output, if_pos h.1]
    · rfl
  unfold Part.outputOff
  rwa [hsame]

/-- In HALT no alarm output is wanted (R165). -/
theorem evalAlarms_outputOff {p : Part} {o : OutputNo} (hmode : p.mode = .halt) (h : p.outputOff o) : p.evalAlarms.outputOff o := by
  have hlamp : p.lampWanted = false := by simp [Part.lampWanted, hmode]
  have hbuzzer : p.buzzerWanted = false := by simp [Part.buzzerWanted, hmode]
  rw [Part.evalAlarms, hlamp, hbuzzer]
  exact driveAlarm_outputOff (driveAlarm_outputOff h .lamp) .buzzer

theorem fresh_off (e : OutputEntry) (p : Part) (readback : Bool) : (e.fresh p readback).commanded = false ∧ (e.fresh p readback).failed = false := by
  unfold OutputEntry.fresh OutputRec.supervise
  dsimp only
  split
  · exact ⟨rfl, rfl⟩
  · split <;> exact ⟨rfl, rfl⟩

theorem endFault_outputOff {p : Part} {o : OutputNo} (hmode : p.mode = .halt) (h : p.outputOff o) (k : FaultKind) (s : Source) :
    (p.endFault k s).outputOff o := evalAlarms_outputOff hmode (outputOff_of_same (q := p.modFault k _) h rfl)

theorem freshOutput_off {p : Part} {r : OutputRole} {x : OutputNo} (hmode : p.mode = .halt) :
    (p.freshOutput r x).outputOff x ∧ ∀ y, p.outputOff y → (p.freshOutput r x).outputOff y := by
  have hset : (p.setOutput x ((p.tables.outputs.get x).fresh p (p.output x).readback)).outputOff x := by
    unfold Part.outputOff
    rw [Part.output_set_same]
    exact fresh_off _ _ _
  have hother : ∀ y, p.outputOff y → (p.setOutput x ((p.tables.outputs.get x).fresh p (p.output x).readback)).outputOff y := by
    intro y hy
    by_cases hxy : y = x
    · rw [hxy]; exact hset
    · unfold Part.outputOff
      rwa [Part.output_set_other _ _ _ _ hxy]
  have hhalt : (p.setOutput x ((p.tables.outputs.get x).fresh p (p.output x).readback)).mode = .halt := hmode
  unfold Part.freshOutput
  dsimp only
  generalize p.setOutput x ((p.tables.outputs.get x).fresh p (p.output x).readback) = b at *
  split
  · exact ⟨endFault_outputOff hhalt hset _ _, fun y hy => endFault_outputOff hhalt (hother y hy) _ _⟩
  · exact ⟨hset, hother⟩

/-- At the entry to HALT every output is OFF (R45, R46). -/
theorem outputsHalt_off {p : Part} (hmode : p.mode = .halt) (o : OutputNo) : p.outputsHalt.outputOff o := by
  refine forEach_each (Inv := fun p => p.mode = .halt) (R := fun o p => p.outputOff o)
    (f := fun p o => p.freshOutput (p.tables.outputs.get o).role o) ?_ ?_ ?_ (mem_allSixteen o) hmode
  · exact fun p x h => (show _ = _ from (freshOutput_moves p _ x).drifts.only .mode (by decide)).trans h
  · exact fun p x h => (freshOutput_off h).1
  · exact fun p x y h hy => (freshOutput_off h).2 y hy

end Sys2Proof.Machine

/-! ## HALT entered: the blocks (R60, R92, R107, R127, R157, R169, R182) -/

namespace Sys2Proof.Machine

/-! ### The parts of the entry -/

/-- The raises and lowerings in hand are reported (R107). -/
def Part.polesReport (p : Part) : Part := (p.abandonAtHalt .p).abandonAtHalt .n

/-- The conditions in force of the poles end (R91, R92). -/
def Part.poleFaultsEnd (p : Part) : Part := (p.endPoleFaults .p).endPoleFaults .n

/-- The poles and the copies of their states in HALT, before the claims follow (R92). -/
def Part.polesHalted (p : Part) : Part := { p.untrackCopies with poles := ⟨p.poles.p.halted, p.poles.n.halted⟩ }

theorem polesEnterHalt_eq (p : Part) : p.polesEnterHalt = p.polesReport.poleFaultsEnd.polesHalted.updateClaims := rfl

/-- The Line Supervisor's record in HALT (R60). -/
def Part.lineHalted (p : Part) : Part := { p with line := p.line.halted p.tables }

/-- The conditions of the line end (R60). -/
def Part.lineFaultsEnd (p : Part) (old : LineState) : Part :=
  let p := if old = .high then p.endFault .lineHigh lineSource else p
  if old = .lost then p.endFault .lineLost lineSource else p

theorem lineEntersHalt_eq (p : Part) : p.lineEntersHalt = p.lineHalted.lineFaultsEnd p.line.state := rfl

/-- The Fault Collector and the outputs at the entry to HALT (R45, R165, R169). -/
def Part.outputsEnterHalt (p : Part) : Part := p.faultsHalt.outputsHalt.evalAlarms

/-- What follows the line's record at the entry to HALT. -/
def Part.haltTail (p : Part) (old : LineState) : Part := (p.lineFaultsEnd old).zonesHalt.auxEntersHalt.outputsEnterHalt

/-- The part as the line's record has entered HALT. -/
def Part.haltHead (p : Part) : Part := p.polesEnterHalt.lineHalted

/-- The part whose links have stopped (R33). -/
def Part.haltStart (p : Part) : Part := (p.leavesRun .halt).linksStop

theorem blocksEnterHalt_eq (p : Part) : p.blocksEnterHalt = p.haltStart.haltHead.haltTail p.haltStart.polesEnterHalt.line.state := rfl

/-! ### Their frames -/

theorem polesReport_moves (p : Part) : p.Moves [.reports, .chains, .port] p.polesReport := (abandonAtHalt_moves p .p).andThen (abandonAtHalt_moves _ .n)
  (by decide)

theorem poleFaultsEnd_moves (p : Part) : p.Moves [.outputs, .records] p.poleFaultsEnd := (endPoleFaults_moves p .p).andThen (endPoleFaults_moves _ .n)
  (by decide)

theorem polesHalted_only (p : Part) : p.onlyChanges [.line, .poles, .keptPoles] p.polesHalted := by
  intro x hx
  cases x <;> simp_all [Part.same, Part.polesHalted, Part.untrackCopies]

theorem haltAux_only (p : Part) (a : AuxNo) : p.onlyChanges [.outputs, .records, .aux] (p.haltAux a) := by
  unfold Part.haltAux
  dsimp only
  have hend : p.onlyChanges [.outputs, .records, .aux] (if (p.auxRec a).state = .faulted then p.endFault .auxFaulted (auxSource a) else p) := by
    split
    · exact Part.onlyChanges_mono (endFault_moves _ _ _).drifts.only (by decide)
    · exact p.onlyChanges_refl _
  exact hend.andThen (setAux_moves _ a _).drifts.only (by decide)

theorem forEach_only {α : Type} {xs : List Piece} {f : Part → α → Part} (h : ∀ (p : Part) x, p.onlyChanges xs (f p x)) (l : List α) (p : Part) :
    p.onlyChanges xs (p.forEach l f) := by
  induction l generalizing p with
  | nil => exact p.onlyChanges_refl xs
  | cons x l ih => exact Part.onlyChanges_trans (h p x) (ih (f p x))

/-- Every auxiliary's record at HALT entry (R157). -/
def Part.allAuxHalt (p : Part) : Part := p.forEach allAux Part.haltAux

/-- The queue is empty and the stagger timer stopped (R157). -/
def Part.queueHalts (p : Part) : Part := { p with aux := { p.aux with queue := [], stagger := .stopped } }

theorem auxEntersHalt_eq (p : Part) : p.auxEntersHalt = p.allAuxHalt.queueHalts := rfl

theorem auxEntersHalt_only (p : Part) : p.onlyChanges [.outputs, .records, .aux] p.auxEntersHalt :=
  (forEach_only (f := Part.haltAux) haltAux_only allAux p).andThen (moves_aux p.allAuxHalt _).drifts.only (by decide)

theorem lineFaultsEnd_moves (p : Part) (old : LineState) : p.Moves [.outputs, .records] (p.lineFaultsEnd old) := by
  unfold Part.lineFaultsEnd
  dsimp only
  split
  · split
    · exact (endFault_moves _ _ _).andThen (endFault_moves _ _ _) (by decide)
    · exact endFault_moves _ _ _
  · split
    · exact endFault_moves _ _ _
    · exact .refl _ _

theorem faultsHalt_only (p : Part) : p.onlyChanges [.alarms] p.faultsHalt := (collectorHalted_moves p).drifts.only

theorem outputsEnterHalt_only (p : Part) : p.onlyChanges [.alarms, .outputs, .records] p.outputsEnterHalt :=
  ((Part.onlyChanges_mono (ys := [.alarms, .outputs, .records]) (faultsHalt_only p) (by decide)).andThen (outputsHalt_moves _).drifts.only
    (by decide)).andThen (evalAlarms_moves _).drifts.only (by decide)

/-- What the tail of the entry changes. -/
def haltTailPieces : List Piece := [.outputs, .records, .zones] ++ [.aux, .alarms]

section
variable (p : Part) (old : LineState)

theorem haltTail_only : p.onlyChanges haltTailPieces (p.haltTail old) :=
  (((Part.onlyChanges_mono (ys := haltTailPieces) (lineFaultsEnd_moves p old).drifts.only (by decide)).andThen
    (moves_zones (p.lineFaultsEnd old) _).drifts.only (by decide)).andThen (auxEntersHalt_only _) (by decide)).andThen
    (outputsEnterHalt_only _) (by decide)

/-- What the auxiliaries leave behind the zones. -/
theorem haltTail_zones : (p.haltTail old).zones = p.zones.halted := by
  have hline : (p.lineFaultsEnd old).zones = p.zones := (lineFaultsEnd_moves p old).drifts.only .zones (by decide)
  have haux : (p.lineFaultsEnd old).zonesHalt.auxEntersHalt.zones = (p.lineFaultsEnd old).zonesHalt.zones := auxEntersHalt_only _ .zones (by decide)
  have hend : (p.haltTail old).zones = (p.lineFaultsEnd old).zonesHalt.auxEntersHalt.zones :=
    outputsEnterHalt_only _ .zones (by decide)
  have hhalt : (p.lineFaultsEnd old).zonesHalt.zones = (p.lineFaultsEnd old).zones.halted := rfl
  rw [hend, haux, hhalt, hline]

theorem faultsHalt_alarms (p : Part) : p.faultsHalt.faults.lampHold = .stopped ∧ p.faultsHalt.faults.buzzerHold = .stopped := ⟨rfl, rfl⟩

theorem haltTail_alarms : (p.haltTail old).faults.lampHold = .stopped ∧ (p.haltTail old).faults.buzzerHold = .stopped := by
  rw [Part.haltTail, Part.outputsEnterHalt]
  generalize (p.lineFaultsEnd old).zonesHalt.auxEntersHalt = x
  obtain ⟨hlamp, hbuzzer⟩ := faultsHalt_alarms x
  have hoff := (outputsHalt_moves x.faultsHalt).drifts.only .alarms (by decide)
  have heval := (evalAlarms_moves x.faultsHalt.outputsHalt).drifts.only .alarms (by decide)
  exact ⟨heval.1.trans (hoff.1.trans hlamp), heval.2.1.trans (hoff.2.1.trans hbuzzer)⟩

theorem haltTail_off (hmode : p.mode = .halt) (o : OutputNo) : (p.haltTail old).outputOff o := by
  have hline : (p.lineFaultsEnd old).zonesHalt.mode = p.mode := (lineFaultsEnd_moves p old).drifts.only .mode (by decide)
  have haux : (p.lineFaultsEnd old).zonesHalt.auxEntersHalt.mode = (p.lineFaultsEnd old).zonesHalt.mode := auxEntersHalt_only _ .mode (by decide)
  have hhalt := haux.trans (hline.trans hmode)
  rw [Part.haltTail, Part.outputsEnterHalt]
  generalize (p.lineFaultsEnd old).zonesHalt.auxEntersHalt = x at *
  have hfaults : x.faultsHalt.mode = .halt := (show _ = _ from faultsHalt_only x .mode (by decide)).trans hhalt
  have hoff : x.faultsHalt.outputsHalt.mode = .halt := (show _ = _ from (outputsHalt_moves _).drifts.only .mode (by decide)).trans hfaults
  exact evalAlarms_outputOff hoff (outputsHalt_off hfaults o)

theorem haltAux_rec (p : Part) (a : AuxNo) : ((p.haltAux a).auxRec a).state = .off ∧ ((p.haltAux a).auxRec a).requested = false := by
  unfold Part.haltAux
  dsimp only
  rw [Part.auxRec_set_same]
  exact ⟨rfl, rfl⟩

theorem haltAux_other (p : Part) {a b : AuxNo} (h : a ≠ b) : (p.haltAux b).auxRec a = p.auxRec a := by
  unfold Part.haltAux
  dsimp only
  rw [Part.auxRec_set_other _ b a _ h]
  split
  · exact congrArg (·.recs.get a) ((endFault_moves p _ _).drifts.only .aux (by decide))
  · rfl

/-- Every auxiliary is OFF and its request cleared (R157). -/
theorem allAuxHalt_rec (p : Part) (a : AuxNo) : (p.allAuxHalt.auxRec a).state = .off ∧ (p.allAuxHalt.auxRec a).requested = false := by
  refine forEach_each (Inv := fun _ => True) (R := fun a p => (p.auxRec a).state = .off ∧ (p.auxRec a).requested = false)
    (f := Part.haltAux) (fun _ _ h => h) (fun p x _ => haltAux_rec p x) (fun p x y _ hy => ?_) (mem_allAux a) trivial
  by_cases hxy : y = x
  · rw [hxy]; exact haltAux_rec p x
  · rw [haltAux_other p hxy]; exact hy

theorem queueHalts_aux (p : Part) (a : AuxNo) : p.queueHalts.auxRec a = p.auxRec a ∧ p.queueHalts.aux.queue = [] := ⟨rfl, rfl⟩

theorem haltTail_aux (a : AuxNo) : ((p.haltTail old).auxRec a).state = .off ∧ ((p.haltTail old).auxRec a).requested = false
    ∧ (p.haltTail old).aux.queue = [] := by
  have hend : (p.haltTail old).aux = (p.lineFaultsEnd old).zonesHalt.auxEntersHalt.aux :=
    outputsEnterHalt_only _ .aux (by decide)
  have hrec : (p.haltTail old).auxRec a = (p.lineFaultsEnd old).zonesHalt.auxEntersHalt.auxRec a := congrArg (·.recs.get a) hend
  rw [hrec, hend, auxEntersHalt_eq]
  obtain ⟨hsame, hqueue⟩ := queueHalts_aux (p.lineFaultsEnd old).zonesHalt.allAuxHalt a
  rw [hsame, hqueue]
  obtain ⟨hoff, hcleared⟩ := allAuxHalt_rec (p.lineFaultsEnd old).zonesHalt a
  exact ⟨hoff, hcleared, rfl⟩

end

end Sys2Proof.Machine

/-! ## HALT entered: the obligation (R60, R92, R107, R182) -/

namespace Sys2Proof.Machine

/-! ### The poles and the line (R60, R91, R92) -/

/-- What the poles and the line change at the entry to HALT. -/
def haltHeadPieces : List Piece := [.reports, .chains, .port, .outputs, .records] ++ [.line, .budget, .poles, .keptPoles, .inhibit, .setpoint, .send]

section
variable (p : Part)

theorem polesReported_only : p.onlyChanges [.reports, .chains, .port, .outputs, .records] p.polesReport.poleFaultsEnd :=
  (Part.onlyChanges_mono (ys := [.reports, .chains, .port, .outputs, .records]) (polesReport_moves p).drifts.only (by decide)).andThen
    (poleFaultsEnd_moves _).drifts.only (by decide)

theorem lineHalted_only : p.onlyChanges [.line, .budget] p.lineHalted := (drifts_line p _).only

theorem polesEnterHalt_only : p.onlyChanges haltHeadPieces p.polesEnterHalt :=
  ((Part.onlyChanges_mono (ys := haltHeadPieces) (polesReported_only p) (by decide)).andThen (polesHalted_only _) (by decide)).andThen
    (updateClaims_drifts _).only (by decide)

theorem haltHead_only : p.onlyChanges haltHeadPieces p.haltHead := (polesEnterHalt_only p).andThen (lineHalted_only _) (by decide)

theorem halted_line (l : Line) (t : Tables) : (l.halted t).state = .unknown ∧ (l.halted t).battery = l.battery
    ∧ (l.halted t).poleCopy = ⟨.untracked, .untracked⟩ := ⟨rfl, rfl, rfl⟩

theorem polesHalted_rest : p.polesHalted.keptPoles = ⟨.untracked, .untracked⟩ ∧ p.polesHalted.line.battery = p.line.battery
    ∧ ∀ i, p.polesHalted.poles.get i = (p.poles.get i).halted := ⟨rfl, rfl, fun i => by cases i <;> rfl⟩

theorem lineHalted_rest : p.lineHalted.line = p.line.halted p.tables ∧ p.lineHalted.poles = p.poles ∧ p.lineHalted.keptPoles = p.keptPoles :=
  ⟨rfl, rfl, rfl⟩

theorem haltHead_line : p.haltHead.line.state = .unknown ∧ p.haltHead.line.battery = p.line.battery
    ∧ p.haltHead.line.poleCopy = ⟨.untracked, .untracked⟩ := by
  obtain ⟨hline, -, -⟩ := lineHalted_rest p.polesEnterHalt
  obtain ⟨hstate, hbattery, hcopy⟩ := halted_line p.polesEnterHalt.line p.polesEnterHalt.tables
  have hclaims : p.polesReport.poleFaultsEnd.polesHalted.updateClaims.line = p.polesReport.poleFaultsEnd.polesHalted.line :=
    line_of_moves (updateClaims_drifts _).only
  obtain ⟨-, hkept, -⟩ := polesHalted_rest p.polesReport.poleFaultsEnd
  have hreported : p.polesReport.poleFaultsEnd.line = p.line := line_of_moves (polesReported_only p)
  rw [Part.haltHead, hline]
  refine ⟨hstate, hbattery.trans ?_, hcopy⟩
  rw [polesEnterHalt_eq, hclaims, hkept, hreported]

theorem haltHead_poles : p.haltHead.keptPoles = ⟨.untracked, .untracked⟩ ∧ ∀ i, p.haltHead.poles.get i = (p.poles.get i).halted := by
  obtain ⟨-, hpoles, hkept⟩ := lineHalted_rest p.polesEnterHalt
  have hclaims := (updateClaims_drifts p.polesReport.poleFaultsEnd.polesHalted).only
  have hclaimPoles : p.polesEnterHalt.poles = p.polesReport.poleFaultsEnd.polesHalted.poles := hclaims .poles (by decide)
  have hclaimKept : p.polesEnterHalt.keptPoles = p.polesReport.poleFaultsEnd.polesHalted.keptPoles := hclaims .keptPoles (by decide)
  obtain ⟨hkeeps, -, hhalted⟩ := polesHalted_rest p.polesReport.poleFaultsEnd
  have hreported : p.polesReport.poleFaultsEnd.poles = p.poles := polesReported_only p .poles (by decide)
  rw [Part.haltHead, hpoles, hkept, hclaimPoles, hclaimKept]
  refine ⟨hkeeps, fun i => ?_⟩
  rw [hhalted, hreported]

theorem haltHead_calms : p.Calms p.haltHead :=
  (((calms_of_only (polesReported_only p) (by decide)).andThen (calms_of_only (polesHalted_only _) (by decide))).andThen
    (updateClaims_calms _)).andThen (calms_of_only (lineHalted_only _) (by decide))

theorem haltHead_reason : p.haltHead.gov.inhibit.mode = p.gov.inhibit.mode :=
  (show p.haltHead.gov.inhibit.mode = p.polesEnterHalt.gov.inhibit.mode from rfl).trans (polesEnterHalt_moves p).drifts.modeReason

/-! ### The reports of the poles (R107) -/

theorem abandonAtHalt_logs {P : ReportRec → Prop} (i : PoleId)
    (hP : ∀ r : ReportRec, r.block = .poleMonitor → r.inst = poleNumber i → P r) : p.Logs P (p.abandonAtHalt i) := by
  unfold Part.abandonAtHalt
  dsimp only
  split
  · exact report_logs _ _ _ _ _ _ _ (hP _ rfl rfl)
  · exact report_logs _ _ _ _ _ _ _ (hP _ rfl rfl)
  all_goals exact .refl _ _

/-- The items of a raise abandoned at HALT entry. -/
def Pole.haltItems (x : Pole) : List Item :=
  [.small (abandonCode .halt), .small (x.retryCount + 1), bigNat x.elevation, bigInt x.lateral, .small 0]
    ++ if x.origin = .zone then zoneItem x.zoneId else []

theorem haltItems_eq (x : Pole) : x.abandonItems .halt false = x.haltItems := by
  unfold Pole.abandonItems Pole.haltItems
  by_cases h : x.origin = .zone <;> simp [h, flagCode]

theorem abandonAtHalt_tells {i : PoleId} (h : (p.poles.get i).state = .raising) :
    (p.abandonAtHalt i).mbx.tells .raiseAbandoned .poleMonitor (poleNumber i) (p.poles.get i).requestTag (p.poles.get i).haltItems := by
  unfold Part.abandonAtHalt
  dsimp only
  rw [h, haltItems_eq]
  exact report_tells _ _ _ _ _ _ _

theorem polesReport_tells {i : PoleId} (h : (p.poles.get i).state = .raising) :
    p.polesReport.mbx.tells .raiseAbandoned .poleMonitor (poleNumber i) (p.poles.get i).requestTag (p.poles.get i).haltItems := by
  have hpoles : (p.abandonAtHalt .p).poles = p.poles := (abandonAtHalt_moves p .p).drifts.only .poles (by decide)
  cases i with
  | p =>
    have hlater := abandonAtHalt_logs (P := fun r => r.inst = poleNumber .n) (p.abandonAtHalt .p) .n fun _ _ hi => hi
    exact hlater.keepsTelling (fun r hr => .inr (.inr (by rw [hr]; decide))) (abandonAtHalt_tells p h)
  | n =>
    have htells := abandonAtHalt_tells (p.abandonAtHalt .p) (i := .n) (by rw [hpoles]; exact h)
    rwa [hpoles] at htells

theorem haltHead_logs : p.Logs (reportOf .poleMonitor) p.haltHead :=
  ((abandonAtHalt_logs p .p fun _ hb _ => hb).andThen (abandonAtHalt_logs _ .n fun _ hb _ => hb)).andThen
    (((logs_of_only (poleFaultsEnd_moves _).drifts.only (by decide)).andThen (logs_of_only (polesHalted_only _) (by decide))).andThen
      ((logs_of_only (updateClaims_drifts _).only (by decide)).andThen (logs_of_only (lineHalted_only _) (by decide))))

theorem haltHead_tells {i : PoleId} (h : (p.poles.get i).state = .raising) :
    p.haltHead.mbx.tells .raiseAbandoned .poleMonitor (poleNumber i) (p.poles.get i).requestTag (p.poles.get i).haltItems := by
  have hrest : p.polesReport.onlyChanges ([.outputs, .records] ++ [.line, .budget, .poles, .keptPoles, .inhibit, .setpoint, .send]) p.haltHead :=
    (((Part.onlyChanges_mono (poleFaultsEnd_moves _).drifts.only (by decide)).andThen (polesHalted_only _) (by decide)).andThen
      (updateClaims_drifts _).only (by decide)).andThen (lineHalted_only _) (by decide)
  exact tells_of_same (hrest .reports (by decide)) (polesReport_tells p h)

end

/-! ### The end of the event (R18, R44, R179) -/

/-- The end of an entry to HALT, sensing begun again if LAYOVER is left (R44). -/
def Part.haltSenses (p : Part) (old : Mode) : Part := if old = .layover then p.endLayover else p

theorem haltSenses_only (p : Part) (old : Mode) : p.onlyChanges [.contacts, .mirror] (p.haltSenses old) := by
  unfold Part.haltSenses
  split
  · exact (endLayover_moves p).drifts.only
  · exact p.onlyChanges_refl _

theorem enterHalt_senses (p : Part) : p.enterHalt =
    ((p.haltStart.haltHead.haltTail p.haltStart.polesEnterHalt.line.state).haltSenses p.mode).endModeChange .haltEntered 0
      [.small (modeCode p.mode)] := rfl

/-- A mode change's end passes the Control and Setup chains by (R21). -/
theorem endModeChange_chain (p : Part) (kind : ReportKind) (tag : Word) (items : List Item) {c : Chain} (h : c ≠ .report) :
    (p.endModeChange kind tag items).mbx.chains.get c = p.mbx.chains.get c := by
  have hreport := (report_logs (P := fun _ => True) p kind .info .modeLogic 0 tag items trivial).chain_of_ne h
  have hnote := (passes_of_only (noteModeChange_moves (p.modeReport kind tag items)).drifts.only c (by decide)).chain
  exact ((mirrorStart_passes _ c).chain.trans hnote).trans hreport

/-- What is told stays told at the end of a mode change whose report is another (R21). -/
theorem endModeChange_tells {p : Part} {kind : ReportKind} {block : Block} {inst : Nat} {tag tag' : Word} {items items' : List Item}
    (h : p.mbx.tells kind block inst tag items) {k : ReportKind} (hk : k ≠ kind) : (p.endModeChange k tag' items').mbx.tells kind block inst tag items := by
  have hreport := report_logs (P := fun r => r.kind = k) p k .info .modeLogic 0 tag' items' rfl
  have htold := hreport.keepsTelling (fun r hr => .inl (by rw [hr]; exact hk)) h
  exact tells_of_same ((mirrorStart_moves _).drifts.only .reports (by decide))
    (tells_of_same ((noteModeChange_moves _).drifts.only .reports (by decide)) htold)

end Sys2Proof.Machine

/-! ## HALT entered: the obligation (R182) -/

namespace Sys2Proof.Machine

/-! ### The start of the entry (R33, R128) -/

theorem haltStart_only (p : Part) : p.onlyChanges (leavePieces ++ [.links]) p.haltStart :=
  (Part.onlyChanges_mono (leavesRun_pieces p .halt) (by decide)).andThen (moves_links (p.leavesRun .halt) .stop).drifts.only (by decide)

theorem haltStart_mode (p : Part) : p.haltStart.mode = .halt ∧ p.haltStart.links = .stop := ⟨leavesRun_mode p .halt, rfl⟩

theorem linkRec_stopped {p : Part} (h : p.links = .stop) (l : Link) : (p.linkRec l).started = false ∧ (p.linkRec l).state = .silent := by
  rw [Part.linkRec, h]
  cases l <;> exact ⟨rfl, rfl⟩

/-- With every auxiliary OFF there is no entry order to give. -/
theorem orderEntries_of_off {q : Part} (h : ∀ a, (q.auxRec a).state = .off) (o : Part) : q.orderEntries o = q := by
  have hnone : o.entered q = [] := by
    rw [List.eq_nil_iff_forall_not_mem]
    intro a ha
    simp [Part.entered, h a] at ha
  rw [Part.orderEntries, if_pos (by simp [hnone])]

/-! ### The entry, whole -/

/-- The pieces of the blocks at the entry to HALT. -/
def haltBlockPieces : List Piece := haltHeadPieces ++ haltTailPieces

/-- The blocks at the entry to HALT, the links stopped. -/
def Part.haltBlocks (a : Part) : Part := a.haltHead.haltTail a.polesEnterHalt.line.state

theorem enterHalt_blocks (p : Part) : p.enterHalt =
    (p.haltStart.haltBlocks.haltSenses p.mode).endModeChange .haltEntered 0 [.small (modeCode p.mode)] := rfl

section
variable (a : Part)

theorem haltBlocks_only : a.onlyChanges haltBlockPieces a.haltBlocks :=
  (Part.onlyChanges_mono (haltHead_only a) (by decide)).andThen (haltTail_only _ _) (by decide)

theorem haltBlocks_line : a.haltBlocks.line.state = .unknown ∧ a.haltBlocks.line.battery = a.line.battery
    ∧ a.haltBlocks.line.poleCopy = ⟨.untracked, .untracked⟩ := by
  have hline : a.haltBlocks.line = a.haltHead.line := line_of_moves (haltTail_only _ _)
  rw [hline]
  exact haltHead_line a

theorem halted_fields (x : Pole) : x.halted.state = .untracked ∧ x.halted.resolving = false ∧ x.halted.latch = x.latch
    ∧ x.halted.elevation = x.elevation ∧ x.halted.lateral = x.lateral := ⟨rfl, rfl, rfl, rfl, rfl⟩

/-- The poles and the two records of their states in HALT (R92). -/
theorem haltBlocks_pole (i : PoleId) : (a.haltBlocks.poles.get i).state = .untracked ∧ (a.haltBlocks.poles.get i).resolving = false
    ∧ a.haltBlocks.line.poleCopy.get i = .untracked ∧ a.haltBlocks.keptPoles.get i = .untracked
    ∧ (a.haltBlocks.poles.get i).latch = (a.poles.get i).latch ∧ (a.haltBlocks.poles.get i).elevation = (a.poles.get i).elevation
    ∧ (a.haltBlocks.poles.get i).lateral = (a.poles.get i).lateral := by
  have hpoles : a.haltBlocks.poles = a.haltHead.poles := haltTail_only _ _ .poles (by decide)
  have hkept : a.haltBlocks.keptPoles = a.haltHead.keptPoles := haltTail_only _ _ .keptPoles (by decide)
  obtain ⟨hkeeps, hhalted⟩ := haltHead_poles a
  obtain ⟨-, -, hcopy⟩ := haltBlocks_line a
  obtain ⟨hstate, hresolving, hlatch, helevation, hlateral⟩ := halted_fields (a.poles.get i)
  rw [hpoles, hkept, hkeeps, hhalted, hcopy]
  refine ⟨hstate, hresolving, ?_, ?_, hlatch, helevation, hlateral⟩ <;> cases i <;> rfl

theorem halted_zones (z : Zones) : z.halted.pendingZones = [] ∧ z.halted.active = [] ∧ z.halted.recent = [] ∧ z.halted.effective = {}
    ∧ z.halted.odometer = z.odometer ∧ z.halted.seen = z.seen := ⟨rfl, rfl, rfl, rfl, rfl, rfl⟩

theorem haltBlocks_zones : a.haltBlocks.zones = a.zones.halted := by
  have hhead : a.haltHead.zones = a.zones := haltHead_only a .zones (by decide)
  rw [Part.haltBlocks, haltTail_zones, hhead]

/-- The governor stays at rest while the blocks enter HALT (R128, R137). -/
theorem haltBlocks_gov : a.Calms a.haltBlocks ∧ a.haltBlocks.gov.inhibit.mode = a.gov.inhibit.mode ∧ a.haltBlocks.gov.period = a.gov.period := by
  have hafter := haltTail_only a.haltHead a.polesEnterHalt.line.state
  have hinhibit := hafter .inhibit (by decide)
  have hdemand := haltBlocks_only a .demand (by decide)
  refine ⟨(haltHead_calms a).andThen (calms_of_only hafter (by decide)), ?_, hdemand.1⟩
  rw [Part.haltBlocks, hinhibit.1]
  exact haltHead_reason a

theorem haltBlocks_aux (x : AuxNo) : (a.haltBlocks.auxRec x).state = .off ∧ (a.haltBlocks.auxRec x).requested = false
    ∧ a.haltBlocks.aux.queue = [] := by
  rw [Part.haltBlocks]
  exact haltTail_aux _ _ x

theorem haltBlocks_alarms : a.haltBlocks.faults.lampHold = .stopped ∧ a.haltBlocks.faults.buzzerHold = .stopped := by
  rw [Part.haltBlocks]
  exact haltTail_alarms _ _

theorem haltBlocks_logs : a.Logs (reportOf .poleMonitor) a.haltBlocks := (haltHead_logs a).andThen (logs_of_only (haltTail_only _ _) (by decide))

theorem haltBlocks_tells {i : PoleId} (h : (a.poles.get i).state = .raising) :
    a.haltBlocks.mbx.tells .raiseAbandoned .poleMonitor (poleNumber i) (a.poles.get i).requestTag (a.poles.get i).haltItems :=
  tells_of_same (haltTail_only a.haltHead a.polesEnterHalt.line.state .reports (by decide)) (haltHead_tells a h)

end

/-- The pieces of the end of the event. -/
def haltEndPieces : List Piece := [.contacts, .mirror] ++ [.reports, .chains, .port, .attention]

/-- The end of the event of an entry to HALT. -/
def Part.haltEnds (p : Part) (old : Mode) : Part := (p.haltSenses old).endModeChange .haltEntered 0 [.small (modeCode old)]

theorem haltEnds_only (p : Part) (old : Mode) : p.onlyChanges haltEndPieces (p.haltEnds old) :=
  (Part.onlyChanges_mono (haltSenses_only p old) (by decide)).andThen (endModeChange_moves _ _ _ _).drifts.only (by decide)

/-- A HALT in HALT shows ACCEPTED and no more (R182). -/
theorem haltInHalt {s : State} (h : s.part.mode = .halt) : exec .halt s = .next { s with part := (s.part.shows .accepted 0).settle } := by
  have hsame : s.part.haltCommand = s.part.shows .accepted 0 := if_pos h
  have horder : (s.part.shows .accepted 0).orderEntries s.part = s.part.shows .accepted 0 := orderEntries_same _ _ rfl
  rw [exec_halt, event_next, hsame, horder]

/-! ### The command (R182) -/

/-- The part after a HALT command in another mode. -/
def Part.halts (p : Part) : Part := (p.outcome .accepted).haltStart.haltBlocks.haltEnds p.mode

/-- The pieces of a HALT command in another mode. -/
def haltCommandPieces : List Piece := .command :: .links :: leavePieces ++ haltBlockPieces ++ haltEndPieces

theorem exec_halt_halts {s : State} (h : s.part.mode ≠ .halt) : exec .halt s = .next { s with part := s.part.halts.settle } := by
  have hcommand : s.part.haltCommand = s.part.halts := (if_neg h).trans (enterHalt_blocks (s.part.outcome .accepted))
  have haux : s.part.halts.aux = (s.part.outcome .accepted).haltStart.haltBlocks.aux := haltEnds_only _ s.part.mode .aux (by decide)
  have hoff : ∀ a, (s.part.halts.auxRec a).state = .off := by
    intro a
    rw [Part.auxRec, haux]
    exact (haltBlocks_aux _ a).1
  rw [exec_halt, event_next, hcommand, orderEntries_of_off hoff]

section
variable (p : Part)

theorem halts_from : (p.outcome .accepted).onlyChanges (.links :: leavePieces ++ haltBlockPieces ++ haltEndPieces) p.halts :=
  ((Part.onlyChanges_mono (haltStart_only _) (by decide)).andThen (haltBlocks_only _) (by decide)).andThen (haltEnds_only _ _) (by decide)

theorem halts_only : p.onlyChanges haltCommandPieces p.halts :=
  (Part.onlyChanges_mono (outcome_only p .accepted) (by decide)).andThen (halts_from p) (by decide)

theorem halts_command : p.halts.mbx.outcome = .accepted ∧ p.halts.mbx.missing = 0 ∧ p.halts.mbx.attention.modeChange = true := by
  obtain ⟨houtcome, hmissing⟩ := halts_from p .command (by decide)
  exact ⟨houtcome, hmissing, (endModeChange_mbx _ .haltEntered 0 _).1⟩

theorem halts_mode : p.halts.mode = .halt ∧ p.halts.links = .stop := by
  obtain ⟨hmode, hlinks⟩ := haltStart_mode (p.outcome .accepted)
  have hblocks := haltBlocks_only (p.outcome .accepted).haltStart
  have hends := haltEnds_only (p.outcome .accepted).haltStart.haltBlocks p.mode
  exact ⟨(show _ = _ from hends .mode (by decide)).trans ((show _ = _ from hblocks .mode (by decide)).trans hmode),
    (show _ = _ from hends .links (by decide)).trans ((show _ = _ from hblocks .links (by decide)).trans hlinks)⟩

theorem halts_off (o : OutputNo) : (p.halts.output o).commanded = false ∧ (p.halts.output o).failed = false := by
  have hhead : (p.outcome .accepted).haltStart.haltHead.mode = .halt :=
    (show _ = _ from haltHead_only _ .mode (by decide)).trans (haltStart_mode _).1
  exact outputOff_of_same (haltTail_off _ _ hhead o) (haltEnds_only _ _ .outputs (by decide))

theorem halts_line : p.halts.line.state = .unknown ∧ p.halts.line.battery = p.line.battery := by
  obtain ⟨hstate, hbattery, -⟩ := haltBlocks_line (p.outcome .accepted).haltStart
  have hstart : (p.outcome .accepted).haltStart.line = (p.outcome .accepted).line := line_of_moves (haltStart_only _)
  have hline : p.halts.line = (p.outcome .accepted).haltStart.haltBlocks.line := line_of_moves (haltEnds_only _ _)
  rw [hline, hstate, hbattery, hstart]
  exact ⟨rfl, rfl⟩

theorem halts_pole (i : PoleId) : (p.halts.poles.get i).state = .untracked ∧ (p.halts.poles.get i).resolving = false
    ∧ p.halts.line.poleCopy.get i = .untracked ∧ p.halts.keptPoles.get i = .untracked
    ∧ (p.halts.poles.get i).latch = (p.poles.get i).latch ∧ (p.halts.poles.get i).elevation = (p.poles.get i).elevation
    ∧ (p.halts.poles.get i).lateral = (p.poles.get i).lateral := by
  have hstart : (p.outcome .accepted).haltStart.poles = p.poles := haltStart_only _ .poles (by decide)
  have hends := haltEnds_only (p.outcome .accepted).haltStart.haltBlocks p.mode
  have hpoles : p.halts.poles = (p.outcome .accepted).haltStart.haltBlocks.poles := hends .poles (by decide)
  have hkept : p.halts.keptPoles = (p.outcome .accepted).haltStart.haltBlocks.keptPoles := hends .keptPoles (by decide)
  have hline : p.halts.line = (p.outcome .accepted).haltStart.haltBlocks.line := line_of_moves hends
  rw [hpoles, hkept, hline, ← hstart]
  exact haltBlocks_pole _ i

theorem halts_zones : p.halts.zones = p.zones.halted := by
  have hstart : (p.outcome .accepted).haltStart.zones = p.zones := haltStart_only _ .zones (by decide)
  have hends : p.halts.zones = (p.outcome .accepted).haltStart.haltBlocks.zones := haltEnds_only _ _ .zones (by decide)
  rw [hends, haltBlocks_zones, hstart]

theorem halts_aux (a : AuxNo) : (p.halts.auxRec a).state = .off ∧ (p.halts.auxRec a).requested = false ∧ p.halts.aux.queue = [] := by
  have haux : p.halts.aux = (p.outcome .accepted).haltStart.haltBlocks.aux := haltEnds_only _ p.mode .aux (by decide)
  rw [Part.auxRec, haux]
  exact haltBlocks_aux _ a

theorem halts_gov : p.halts.gov.inhibit.mode = true ∧ p.halts.gov.armed = false ∧ p.halts.gov.setpoint = 0 ∧ p.halts.gov.period = .stopped
    ∧ (p.gov.inhibit.mode = false → p.halts.send.cuts) := by
  obtain ⟨hreason, harmed, hsetpoint, hperiod⟩ := leavesRun_gov (p.outcome .accepted) .halt
  obtain ⟨hcalms, hmode, hkept⟩ := haltBlocks_gov (p.outcome .accepted).haltStart
  have hends := haltEnds_only (p.outcome .accepted).haltStart.haltBlocks p.mode
  have hinhibit := hends .inhibit (by decide)
  have hdemand := hends .demand (by decide)
  have hafter := hcalms.andThen (calms_of_only hends (by decide))
  refine ⟨?_, hafter.armed harmed, hafter.setpoint hsetpoint, hdemand.1.trans (hkept.trans hperiod), fun h => hafter.cuts ?_⟩
  · exact (congrArg InhibitSet.mode hinhibit.1).trans (hmode.trans hreason)
  · exact leavesRun_cuts (p.outcome .accepted) .halt h

theorem halts_alarms : p.halts.faults.lampHold = .stopped ∧ p.halts.faults.buzzerHold = .stopped := by
  obtain ⟨hlamp, hbuzzer, -⟩ := haltEnds_only (p.outcome .accepted).haltStart.haltBlocks p.mode .alarms (by decide)
  obtain ⟨hlampOff, hbuzzerOff⟩ := haltBlocks_alarms (p.outcome .accepted).haltStart
  exact ⟨hlamp.trans hlampOff, hbuzzer.trans hbuzzerOff⟩

theorem haltSenses_logs (old : Mode) : p.Logs (reportOf .poleMonitor) (p.haltSenses old) := logs_of_only (haltSenses_only p old) (by decide)

/-- What the blocks log until the report of the entry (R107). -/
theorem halts_logs : (p.outcome .accepted).Logs (reportOf .poleMonitor) ((p.outcome .accepted).haltStart.haltBlocks.haltSenses p.mode) :=
  ((logs_of_only (haltStart_only _) (by decide)).andThen (haltBlocks_logs _)).andThen (haltSenses_logs _ p.mode)

theorem halts_chain {c : Chain} (h : c ≠ .report) : p.halts.mbx.chains.get c = p.mbx.chains.get c :=
  (endModeChange_chain _ .haltEntered 0 _ h).trans ((halts_logs p).chain_of_ne h)

theorem halts_tells {i : PoleId} (h : (p.poles.get i).state = .raising) :
    p.halts.mbx.tells .raiseAbandoned .poleMonitor (poleNumber i) (p.poles.get i).requestTag (p.poles.get i).haltItems := by
  have hstart : (p.outcome .accepted).haltStart.poles = p.poles := haltStart_only _ .poles (by decide)
  have htold := haltBlocks_tells (p.outcome .accepted).haltStart (i := i) (by rw [hstart]; exact h)
  rw [hstart] at htold
  exact endModeChange_tells (tells_of_same (haltSenses_only _ p.mode .reports (by decide)) htold) (by decide)

end

/-- Settles O16, which holds: a HALT in HALT shows its outcome; in another mode each block enters HALT in turn, the governor at rest
before the poles' claims can move it. -/
theorem haltEntersHalt : Obligations.HaltEntersHalt := by
  intro s
  refine ⟨haltInHalt, fun h => ?_⟩
  have hexec := exec_halt_halts h
  obtain ⟨houtcome, hmissing, hattention⟩ := halts_command s.part
  obtain ⟨hmode, hlinks⟩ := halts_mode s.part
  obtain ⟨hline, hbattery⟩ := halts_line s.part
  obtain ⟨hpending, hactive, hrecent, heffective, hodometer, hseen⟩ := halted_zones s.part.zones
  rw [← halts_zones] at hpending hactive hrecent heffective hodometer hseen
  obtain ⟨hreason, harmed, hsetpoint, hperiod, hcuts⟩ := halts_gov s.part
  obtain ⟨hlamp, hbuzzer⟩ := halts_alarms s.part
  have honly := halts_only s.part
  have hnewest : s.part.halts.mbx.newest .haltEntered .modeLogic 0 0 [.small (modeCode s.part.mode)] := endModeChange_newest _ _ _ _
  have hoff := halts_off s.part
  have hpole := halts_pole s.part
  have haux := halts_aux s.part
  have hchain := fun c => halts_chain s.part (c := c)
  have htells := fun i => halts_tells s.part (i := i)
  generalize s.part.halts = q at *
  exact ⟨q, hexec, hmode, houtcome, hmissing, hattention, hoff, linkRec_stopped hlinks, hline, hbattery, hpole, hpending, hactive, hrecent,
    heffective, hodometer, hseen, fun a => ⟨(haux a).1, (haux a).2.1⟩, (haux 0).2.2, hreason, harmed, hsetpoint, hperiod, hcuts, hlamp, hbuzzer,
    hnewest, honly .tables (by decide), honly .base (by decide), honly .now (by decide), honly .lastReset (by decide), hchain, htells⟩

end Sys2Proof.Machine

/-! ## The records in the window (R20, R168, R186, sections 12.4, 12.6 and 12.7) -/

namespace Sys2Proof.Machine

/-! ### Sets and padded lists -/

theorem setCode_lt (bs : List Bool) : setCode bs < 2 ^ bs.length := by
  induction bs with
  | nil => decide
  | cons b bs ih =>
    have hflag := flagCode_le b
    rw [setCode, List.length_cons, pow_succ]
    omega

/-- A set below a further field of the same word (R186). -/
theorem word_set_below (bs : List Bool) (n c i : Nat) (hn : bs.length ≤ n) (hi : i < n) (hword : i < 32) :
    (word (setCode bs + 2 ^ n * c)).getLsbD i = bs.getD i false := by
  have hlt : setCode bs < 2 ^ n := (setCode_lt bs).trans_le (Nat.pow_le_pow_right (by decide) hn)
  rw [word, BitVec.getLsbD_ofNat, decide_eq_true hword, Bool.true_and, Nat.add_comm, Nat.testBit_two_pow_mul_add c hlt, if_pos hi,
    setCode_testBit]

/-- A set above a further field of the same word. -/
theorem word_set_above (bs : List Bool) (n c i : Nat) (hc : c < 2 ^ n) (hword : n + i < 32) :
    (word (c + 2 ^ n * setCode bs)).getLsbD (n + i) = bs.getD i false := by
  rw [word, BitVec.getLsbD_ofNat, decide_eq_true hword, Bool.true_and, Nat.add_comm, Nat.testBit_two_pow_mul_add _ hc, if_neg (by omega),
    Nat.add_sub_cancel_left, setCode_testBit]

theorem padTo_getD (n : Nat) (ws : List Word) (k : Nat) : (padTo n ws).getD k 0 = ws.getD k 0 := by
  rw [padTo, List.getD_eq_getElem?_getD, List.getD_eq_getElem?_getD, List.getElem?_append]
  split
  · rfl
  next h =>
    rw [List.getElem?_eq_none (l := ws) (by omega), List.getElem?_replicate]
    split <;> rfl

theorem padTo_length {n : Nat} {ws : List Word} (h : ws.length ≤ n) : (padTo n ws).length = n := by
  rw [padTo, List.length_append, List.length_replicate]
  omega

theorem getD_append_left {xs ys : List Word} {k : Nat} (h : k < xs.length) : (xs ++ ys).getD k 0 = xs.getD k 0 := by
  rw [List.getD_eq_getElem?_getD, List.getD_eq_getElem?_getD, List.getElem?_append_left h]

theorem getD_append_right {xs ys : List Word} {n : Nat} (h : xs.length = n) (k : Nat) : (xs ++ ys).getD (n + k) 0 = ys.getD k 0 := by
  rw [List.getD_eq_getElem?_getD, List.getD_eq_getElem?_getD, List.getElem?_append_right (by omega), h, Nat.add_sub_cancel_left]

theorem flatMap_length_of {α : Type} {f : α → List Word} {m : Nat} (hf : ∀ x, (f x).length = m) (xs : List α) :
    (xs.flatMap f).length = m * xs.length := by
  induction xs with
  | nil => rfl
  | cons x xs ih => rw [List.flatMap_cons, List.length_append, ih, hf, List.length_cons, Nat.mul_succ, Nat.add_comm]

/-- Word `j` of the stretch of member `k`, in a list of stretches of one length. -/
theorem flatMap_getD {α : Type} {f : α → List Word} {m : Nat} (hf : ∀ x, (f x).length = m) (xs : List α) (k : Nat) {j : Nat} (hj : j < m) :
    (xs.flatMap f).getD (m * k + j) 0 = (xs[k]?.map fun x => (f x).getD j 0).getD 0 := by
  induction xs generalizing k with
  | nil => rfl
  | cons x xs ih =>
    rw [List.flatMap_cons]
    cases k with
    | zero => rw [Nat.mul_zero, Nat.zero_add, getD_append_left (by rw [hf]; exact hj)]; rfl
    | succ k => rw [Nat.mul_succ, Nat.add_comm (m * k), Nat.add_assoc, getD_append_right (hf x), ih, List.getElem?_cons_succ]

/-! ### Report records (section 12.6) -/

theorem severityCode_le (s : Severity) : severityCode s ≤ 2 := by cases s <;> decide

theorem reportKindCode_lt (k : ReportKind) : reportKindCode k < 256 := by
  cases k with
  | fault k => cases k <;> decide
  | _ => decide

theorem blockCode_lt (b : Block) : blockCode b < 256 := by cases b <;> decide

theorem reportWords_laidOut {r : ReportRec} (hdetails : r.details.length ≤ 5) (hrepeats : r.repeats ≤ 255) (hdropped : r.droppedAfter ≤ 255)
    (hinst : r.inst ≤ 65535) : r.laidOut (reportWords r) := by
  have hkind := reportKindCode_lt r.kind
  have hsev := severityCode_le r.severity
  have hflag := flagCode_le r.test
  have hblock := blockCode_lt r.block
  unfold ReportRec.laidOut reportWords sourceWord
  refine ⟨by simp only [List.length_cons]; omega, ?_, ?_, ?_, ?_, ?_, ?_, ?_, ?_, ?_, ?_, rfl, rfl, rfl⟩
  case refine_3 =>
    rw [List.getD_cons_zero, word, BitVec.getLsbD_ofNat, Nat.testBit_eq_decide_div_mod_eq]
    cases htest : r.test <;> simp only [flagCode] <;> norm_num <;> omega
  all_goals
    simp only [List.getD_cons_zero, List.getD_cons_succ]
    rw [field_word _ _ _ (by omega)]
    norm_num
    omega

/-! ### The fault table (R168, section 12.4) -/

theorem collectorCode_le (c : CollectorState) : collectorCode c ≤ 2 := by cases c <;> decide

/-- The flags of the collector's word. -/
def Part.collectorFlags (p : Part) : List Bool :=
  [p.faults.alertTimer.isRunning, p.faults.lampFallback, p.faults.buzzerFallback, p.roleFailed .lamp, p.roleFailed .buzzer]

theorem collectorWord_eq (p : Part) : p.collectorWord = word (collectorCode p.faults.state + 2 ^ 2 * setCode p.collectorFlags) := by
  unfold Part.collectorWord Part.collectorFlags
  refine congrArg word ?_
  simp only [setCode]
  omega

/-- The flags of a kind's first word. -/
def Part.kindFlags (p : Part) (k : FaultKind) : List Bool :=
  [(p.faults.get k).active, (p.faults.get k).test, (p.faults.get k).unack, false, (p.reactions k).lamp, (p.reactions k).buzzer,
   (p.reactions k).ackRequired, (p.reactions k).escalate]

theorem kindWords_eq (p : Part) (k : FaultKind) : p.kindWords k =
    [word (setCode (p.kindFlags k) + 2 ^ 16 * (p.faults.get k).count), (p.faults.get k).first, (p.faults.get k).last,
     if (p.faults.get k).count = 0 then 0 else sourceWord (p.faults.get k).lastSource.block (p.faults.get k).lastSource.inst,
     (p.faults.get k).lastDetail] := by
  unfold Part.kindWords Part.kindFlags reactionsCode
  refine congrArg (fun n => word n :: _) ?_
  have hfalse : flagCode false = 0 := rfl
  simp only [setCode, hfalse]
  omega

/-- The five words of a kind in the table. -/
theorem faultTable_kind (p : Part) (k : FaultKind) (j : Nat) (h : j < 5) :
    p.faultTable.getD (5 * kindNumber k - 4 + j) 0 = (p.kindWords k).getD j 0 := by
  have hall : allKinds[kindNumber k - 1]? = some k := by cases k <;> rfl
  have hpos : 1 ≤ kindNumber k := Nat.le_add_left 1 _
  rw [show 5 * kindNumber k - 4 + j = 1 + (5 * (kindNumber k - 1) + j) by omega, Part.faultTable]
  have hstretch := flatMap_getD (f := p.kindWords) (m := 5) (fun _ => rfl) allKinds (kindNumber k - 1) h
  rw [hall] at hstretch
  exact (getD_append_right (xs := [p.collectorWord]) rfl _).trans hstretch

theorem faultTable_tabulates (p : Part) : p.tabulates p.faultTable := by
  have hstate := collectorCode_le p.faults.state
  have hflags := setCode_lt p.collectorFlags
  have habove := fun i hi => word_set_above p.collectorFlags 2 (collectorCode p.faults.state) i (by omega) hi
  have hlen : p.collectorFlags.length = 5 := rfl
  rw [hlen] at hflags
  have hhead : p.faultTable.getD 0 0 = word (collectorCode p.faults.state + 2 ^ 2 * setCode p.collectorFlags) := collectorWord_eq p
  unfold Part.tabulates
  rw [hhead]
  refine ⟨rfl, ?_, habove 0 (by decide), habove 1 (by decide), habove 2 (by decide), habove 3 (by decide), habove 4 (by decide), ?_,
    fun k => ?_⟩
  · rw [field_word _ _ _ (by omega)]
    omega
  · rw [field_word _ _ _ (by omega)]
    omega
  have hkind := faultTable_kind p k
  rw [kindWords_eq] at hkind
  have hset := setCode_lt (p.kindFlags k)
  have hbelow := fun i hi => word_set_below (p.kindFlags k) 16 (p.faults.get k).count i (by simp [Part.kindFlags]) hi (by omega)
  have hklen : (p.kindFlags k).length = 8 := rfl
  rw [hklen] at hset
  have hpos : 1 ≤ kindNumber k := Nat.le_add_left 1 _
  have hsecond : 5 * kindNumber k - 3 = 5 * kindNumber k - 4 + 1 := by omega
  have hthird : 5 * kindNumber k - 2 = 5 * kindNumber k - 4 + 2 := by omega
  have hfourth : 5 * kindNumber k - 1 = 5 * kindNumber k - 4 + 3 := by omega
  have hfifth : 5 * kindNumber k = 5 * kindNumber k - 4 + 4 := by omega
  have hfirst := hkind 0 (by decide)
  rw [Nat.add_zero, List.getD_cons_zero] at hfirst
  dsimp only
  rw [hfirst]
  refine ⟨hbelow 0 (by decide), hbelow 1 (by decide), hbelow 2 (by decide), hbelow 3 (by decide), hbelow 4 (by decide), hbelow 5 (by decide),
    hbelow 6 (by decide), hbelow 7 (by decide), ?_, fun hcount => ?_, ?_, ?_, ?_, ?_⟩
  · rw [field_word _ _ _ (by omega)]
    omega
  · rw [field_word _ _ _ (by omega)]
    omega
  · rw [hsecond]
    exact hkind 1 (by decide)
  · rw [hthird]
    exact hkind 2 (by decide)
  · rw [hfourth, hkind 3 (by decide)]
    simp only [List.getD_cons_succ, List.getD_cons_zero, sourceWord, Nat.mul_comm 256]
  · rw [hfifth]
    exact hkind 4 (by decide)

/-! ### The mirror body (R20, section 12.7) -/

theorem marks_getD {β : Type} (v : Vector TableMarks 11) (f : TableMarks → β) (d : β) (i : Fin 11) : (v.toList.map f).getD i.val d = f (v.get i) := by
  simp [List.getD_eq_getElem?_getD, Vector.get_eq_getElem]

/-- The words of the body before the zone slots. -/
def Part.mirrorFront (p : Part) : List Word :=
  [word (modeCode p.mode), word (lineStateCode p.line.state), word p.line.voltage, BitVec.ofInt 32 p.line.current,
    word p.line.budget.available, word (supplyCode p.line.budget.source), word p.line.budget.claims, word p.line.budget.reserve,
    word p.line.budget.allowance, word p.line.budget.regenCap]
  ++ poleMirror p.poles.p ++ poleMirror p.poles.n
  ++ [word (inhibitCode p.gov.inhibit), word (firstOfTwo p.gov.armed), BitVec.ofInt 32 p.gov.setpoint, word (inverterCode p.gov.inverter),
    BitVec.ofInt 32 p.gov.actual, word p.zones.active.length]

/-- The four zone slots. -/
def Part.mirrorSlots (p : Part) : List Word := padTo 16 ((p.zones.precedence.take 4).flatMap zoneSlot)

/-- The words of the body after the zone slots. -/
def Part.mirrorBack (p : Part) : List Word :=
  [word p.zones.pendingZones.length, p.zones.odometer, word p.zones.speed] ++ allAux.map (fun a => word (auxStateCode (p.auxRec a).state))
  ++ [word (collectorCode p.faults.state), word p.faults.unackCode, p.tables.check, word p.tables.loadedCode, p.mbx.raised, p.mbx.written,
    p.mbx.dropped]
  ++ chainMirror p.mbx.chains.control ++ chainMirror p.mbx.chains.setup ++ chainMirror p.mbx.chains.report

theorem mirrorBody_eq (p : Part) : p.mirrorBody = padTo 190 (p.mirrorFront ++ (p.mirrorSlots ++ p.mirrorBack)) := by
  unfold Part.mirrorBody Part.mirrorFront Part.mirrorSlots Part.mirrorBack
  simp only [List.append_assoc]

theorem mirrorSlots_length (p : Part) : p.mirrorSlots.length = 16 := by
  refine padTo_length ?_
  rw [flatMap_length_of (m := 4) fun _ => rfl, List.length_take]
  omega

section
variable (p : Part)

theorem mirrorBody_length : p.mirrorBody.length = 190 := by
  rw [mirrorBody_eq]
  refine padTo_length ?_
  rw [List.length_append, List.length_append, mirrorSlots_length]
  show 22 + (16 + 28) ≤ 190
  decide

theorem mirrorBody_front {k : Nat} (h : k < 22) : p.mirrorBody.getD k 0 = p.mirrorFront.getD k 0 := by
  rw [mirrorBody_eq, padTo_getD, getD_append_left (by exact h)]

theorem mirrorBody_slot {k j : Nat} (hk : k < 4) (hj : j < 4) :
    p.mirrorBody.getD (22 + (4 * k + j)) 0 = (p.zones.precedence[k]?.map fun z => (zoneSlot z).getD j 0).getD 0 := by
  rw [mirrorBody_eq, padTo_getD, getD_append_right (by rfl), getD_append_left (by rw [mirrorSlots_length]; omega), Part.mirrorSlots, padTo_getD,
    flatMap_getD (f := zoneSlot) (fun _ => rfl) _ _ hj, List.getElem?_take_of_lt hk]

theorem mirrorBody_back (k : Nat) : p.mirrorBody.getD (38 + k) 0 = p.mirrorBack.getD k 0 := by
  rw [mirrorBody_eq, padTo_getD, show 38 + k = 22 + (16 + k) by omega, getD_append_right (by rfl), getD_append_right (mirrorSlots_length p)]

theorem mirrorBody_aux (a : AuxNo) : p.mirrorBody.getD (38 + (3 + a.val)) 0 = word (auxStateCode (p.auxRec a).state) := by
  have hall : ∀ b : AuxNo, allAux[b.val]? = some b := by decide
  rw [mirrorBody_back, Part.mirrorBack, List.append_assoc, List.append_assoc, List.append_assoc, List.append_assoc,
    getD_append_right (n := 3) (by rfl), getD_append_left (by exact a.isLt), List.getD_eq_getElem?_getD, List.getElem?_map, hall a]
  rfl

end

theorem kinds_getD {β : Type} (f : FaultKind → β) (d : β) (k : FaultKind) : (allKinds.map f).getD (kindNumber k - 1) d = f k := by
  cases k <;> rfl

theorem inhibitCode_bit (x : InhibitSet) (r : Reason) : (word (inhibitCode x)).getLsbD r.ctorIdx = x.has r := by
  cases r <;> exact word_setCode_getLsbD _ _ (by decide)

theorem field_set (bs : List Bool) {n m : Nat} (h : bs.length = n) (hm : n + m = 32) : field (word (setCode bs)) n m = 0 := by
  have hlt := setCode_lt bs
  rw [h] at hlt
  rw [field_word _ _ _ (by omega), Nat.div_eq_of_lt hlt, Nat.zero_mod]

/-- The words of a zone's slot. -/
theorem zoneSlot_words (z : Zone) : zoneSlot z = [word (z.id.line * 512 + z.id.place),
    word (z.entry + 2 ^ 8 * z.profile + 2 ^ 16 * (if z.specific then 0 else 1) + 2 ^ 24 * actionCode z.action), z.start, z.stop] := by
  have hsum : z.entry + z.profile * 256 + (if z.specific then 0 else 1) * 65536 + actionCode z.action * 16777216
      = z.entry + 2 ^ 8 * z.profile + 2 ^ 16 * (if z.specific then 0 else 1) + 2 ^ 24 * actionCode z.action := by omega
  rw [zoneSlot, identityCode, firstOfTwo, hsum]

theorem mirrorBody_zones (p : Part) {k : Nat} (hk : k < 4) :
    (∀ z, p.zones.precedence[k]? = some z →
        wordAt p.mirrorBody (0x15C + 16 * k) = word (z.id.line * 512 + z.id.place)
        ∧ wordAt p.mirrorBody (0x160 + 16 * k) = word (z.entry + 2 ^ 8 * z.profile + 2 ^ 16 * (if z.specific then 0 else 1)
            + 2 ^ 24 * actionCode z.action)
        ∧ wordAt p.mirrorBody (0x164 + 16 * k) = z.start ∧ wordAt p.mirrorBody (0x168 + 16 * k) = z.stop)
      ∧ (p.zones.active.length ≤ k → ∀ j < 4, wordAt p.mirrorBody (0x15C + 16 * k + 4 * j) = 0) := by
  have hslot : ∀ j < 4, wordAt p.mirrorBody (0x15C + 16 * k + 4 * j) = (p.zones.precedence[k]?.map fun z => (zoneSlot z).getD j 0).getD 0 := by
    intro j hj
    rw [← mirrorBody_slot p hk hj, wordAt]
    congr 1
    omega
  refine ⟨fun z hz => ?_, fun hnone j hj => ?_⟩
  · simp only [hz, Option.map_some, Option.getD_some, zoneSlot_words] at hslot
    have hfirst := hslot 0 (by decide)
    have hsecond := hslot 1 (by decide)
    have hthird := hslot 2 (by decide)
    have hfourth := hslot 3 (by decide)
    rw [show 0x15C + 16 * k + 4 * 0 = 0x15C + 16 * k by omega] at hfirst
    rw [show 0x15C + 16 * k + 4 * 1 = 0x160 + 16 * k by omega] at hsecond
    rw [show 0x15C + 16 * k + 4 * 2 = 0x164 + 16 * k by omega] at hthird
    rw [show 0x15C + 16 * k + 4 * 3 = 0x168 + 16 * k by omega] at hfourth
    exact ⟨hfirst, hsecond, hthird, hfourth⟩
  · have hlen : p.zones.precedence.length = p.zones.active.length := length_sortBy _ _
    rw [hslot j hj, List.getElem?_eq_none (by omega)]
    rfl

/-- Settles O46, which holds: the body stands in three stretches, the words before the zone slots, the slots and the words after
them; sets and sums of fields are read off bit by bit. -/
theorem windowRecordsHaveTheirLayouts : Obligations.WindowRecordsHaveTheirLayouts := by
  refine ⟨fun p => ?_, fun r hd hr hx hi => reportWords_laidOut hd hr hx hi, fun p r h => ?_, fun k => rfl, rfl, rfl, rfl, rfl⟩
  · have hfront : ∀ k, k < 22 → p.mirrorBody.getD k 0 = p.mirrorFront.getD k 0 := fun k => mirrorBody_front p
    have hback := mirrorBody_back p
    have haux := mirrorBody_aux p
    refine ⟨mirrorBody_length p, hfront 0 (by decide), hfront 1 (by decide), hfront 2 (by decide), hfront 3 (by decide), hfront 4 (by decide),
      hfront 5 (by decide), hfront 6 (by decide), hfront 7 (by decide), hfront 8 (by decide), hfront 9 (by decide), fun i => ?_, fun r => ?_, ?_,
      hfront 17 (by decide), hfront 18 (by decide), hfront 19 (by decide), hfront 20 (by decide), hfront 21 (by decide),
      fun k hk => mirrorBody_zones p hk, hback 0, hback 1, hback 2, fun a => ?_, hback 15, fun k => ?_, ?_, hback 17, fun t => ?_, ?_,
      hback 19, hback 20, hback 21, fun c => ?_, fun k hk h => ?_⟩
    · cases i
      · exact ⟨hfront 10 (by decide), hfront 11 (by decide), hfront 12 (by decide)⟩
      · exact ⟨hfront 13 (by decide), hfront 14 (by decide), hfront 15 (by decide)⟩
    · rw [show wordAt p.mirrorBody 0x144 = word (inhibitCode p.gov.inhibit) from hfront 16 (by decide)]
      exact inhibitCode_bit p.gov.inhibit r
    · rw [show wordAt p.mirrorBody 0x144 = word (inhibitCode p.gov.inhibit) from hfront 16 (by decide)]
      exact field_set _ rfl rfl
    · rw [← haux a, wordAt]
      congr 1
      omega
    · rw [show wordAt p.mirrorBody 0x1DC = word p.faults.unackCode from hback 16]
      exact (word_setCode_getLsbD _ _ (by have := (kindIndex k).isLt; unfold kindNumber; omega)).trans (kinds_getD _ _ k)
    · rw [show wordAt p.mirrorBody 0x1DC = word p.faults.unackCode from hback 16]
      exact field_set _ rfl rfl
    · rw [show wordAt p.mirrorBody 0x1E4 = word p.tables.loadedCode from hback 18, show tableNumber t = (tableIndex t).val by cases t <;> rfl]
      exact (word_setCode_getLsbD _ _ (by have := (tableIndex t).isLt; omega)).trans (marks_getD _ _ _ _)
    · rw [show wordAt p.mirrorBody 0x1E4 = word p.tables.loadedCode from hback 18]
      exact field_set _ (by simp) rfl
    · cases c
      · exact ⟨hback 22, hback 23⟩
      · exact ⟨hback 24, hback 25⟩
      · exact ⟨hback 26, hback 27⟩
    · rw [show k = 38 + (k - 38) by omega, hback]
      exact List.getD_eq_default _ _ (by show 28 ≤ k - 38; omega)
  · have hdata : (p.own .readFaultTable r).2.data = p.faultTable := by
      show (p.cardReadFaultTable r).2.data = _
      rw [Part.cardReadFaultTable, if_neg (by omega)]
    rw [hdata]
    exact faultTable_tabulates p

end Sys2Proof.Machine

/-! ## Table entries and their words (R172, R174, section 12.5) -/

namespace Sys2Proof.Machine

/-! ### Fields and their values -/

theorem fields_of_length {v : List Nat} {n : Nat} (h : v.length = n) : (List.range n).map (fieldAt v) = v := by
  subst h
  refine List.ext_getElem? fun i => ?_
  rw [List.getElem?_map]
  by_cases hi : i < v.length
  · rw [List.getElem?_range hi, Option.map_some, fieldAt, List.getD_eq_getElem?_getD, List.getElem?_eq_getElem hi]
    rfl
  · rw [List.getElem?_eq_none (by simpa using hi), List.getElem?_eq_none (by omega)]
    rfl

theorem flagCode_flagOf {n : Nat} (h : n ≤ 1) : flagCode (flagOf n) = n := by interval_cases n <;> rfl

theorem auxClassCode_auxClassOf {n : Nat} (h : n ≤ 2) : auxClassCode (auxClassOf n) = n := by interval_cases n <;> rfl

theorem poleActionOf_ctorIdx {n : Nat} (h : n ≤ 2) : (poleActionOf n).ctorIdx = n := by interval_cases n <;> rfl

theorem inputRoleCode_inputRoleOf {n : Nat} (h : n ≤ 7) : inputRoleCode (inputRoleOf n) = n := by interval_cases n <;> rfl

theorem outputRoleCode_outputRoleOf {n : Nat} (h : n ≤ 7) : outputRoleCode (outputRoleOf n) = n := by interval_cases n <;> rfl

/-- An entry made from its words, as its fields (section 12.5). -/
def storedFields : TableId → List Nat → List Nat
  | .lineLimits, v => (lineLimitsOf v).fields
  | .budget, v => (budgetOf v).fields
  | .poleLimits, v => (poleLimitsOf v).fields
  | .profiles, v => (profileOf v).fields
  | .watchTable, v => (watchOf v).fields
  | .auxTable, v => (auxOf v).fields
  | .contactRoles, v => (inputOf v).fields
  | .outputRoles, v => (outputOf v).fields
  | .faultReactions, v => [reactionsCode (reactionsOf v)]
  | .timers, v => (timersOf v).fields
  | .linkSettings, v => (linkOf v).fields

theorem reactionsCode_testBit {n : Nat} (h : n ≤ 15) : setCode [n.testBit 0, n.testBit 1, n.testBit 2, n.testBit 3] = n := by
  have hall : ∀ m : Fin 16, setCode [m.val.testBit 0, m.val.testBit 1, m.val.testBit 2, m.val.testBit 3] = m.val := by decide
  exact hall ⟨n, by omega⟩

/-- An entry whose fields stand in their ranges keeps its words (R172). -/
theorem storedFields_of_stands {t : TableId} {i : Nat} {v : List Nat} (h : entryStands t i v) : storedFields t v = v := by
  obtain ⟨hlen, hrange, -⟩ := h
  have hle : ∀ k < v.length, fieldAt v k ≤ ((fieldRanges t i).getD k (0, 0)).2 := fun k hk => (hrange k hk).2
  have hfields := fields_of_length hlen
  cases t with
  | lineLimits => exact hfields
  | budget => exact hfields
  | timers => exact hfields
  | poleLimits =>
    replace hlen : v.length = 7 := hlen
    refine Eq.trans ?_ hfields
    rw [storedFields, PoleLimits.fields, poleLimitsOf, flagCode_flagOf (hle 6 (by omega))]
    rfl
  | profiles =>
    replace hlen : v.length = 9 := hlen
    refine Eq.trans ?_ hfields
    rw [storedFields, Profile.fields, profileOf, flagCode_flagOf (hle 2 (by omega)), flagCode_flagOf (hle 6 (by omega)),
      poleActionOf_ctorIdx (hle 7 (by omega)), flagCode_flagOf (hle 8 (by omega))]
    rfl
  | watchTable =>
    replace hlen : v.length = 9 := hlen
    refine Eq.trans ?_ hfields
    rw [storedFields, WatchEntry.fields, watchOf, flagCode_flagOf (hle 0 (by omega)), flagCode_flagOf (hle 1 (by omega)),
      flagCode_flagOf (hle 3 (by omega)), flagCode_flagOf (hle 5 (by omega)), flagCode_flagOf (hle 7 (by omega))]
    rfl
  | auxTable =>
    replace hlen : v.length = 10 := hlen
    refine Eq.trans ?_ hfields
    rw [storedFields, AuxEntry.fields, auxOf, flagCode_flagOf (hle 0 (by omega)), auxClassCode_auxClassOf (hle 1 (by omega)),
      flagCode_flagOf (hle 8 (by omega)), flagCode_flagOf (hle 9 (by omega))]
    rfl
  | contactRoles =>
    replace hlen : v.length = 8 := hlen
    refine Eq.trans ?_ hfields
    rw [storedFields, InputEntry.fields, inputOf, inputRoleCode_inputRoleOf (hle 0 (by omega)), flagCode_flagOf (hle 2 (by omega)),
      flagCode_flagOf (hle 3 (by omega)), flagCode_flagOf (hle 4 (by omega)), flagCode_flagOf (hle 5 (by omega)),
      flagCode_flagOf (hle 7 (by omega))]
    rfl
  | outputRoles =>
    replace hlen : v.length = 2 := hlen
    refine Eq.trans ?_ hfields
    rw [storedFields, OutputEntry.fields, outputOf, outputRoleCode_outputRoleOf (hle 0 (by omega))]
    rfl
  | faultReactions =>
    replace hlen : v.length = 1 := hlen
    refine Eq.trans ?_ hfields
    rw [storedFields, reactionsCode, reactionsOf, reactionsCode_testBit (hle 0 (by omega))]
    rfl
  | linkSettings =>
    have hthree : (fieldRanges .linkSettings i).length = 3 := by
      by_cases hi : i < 3 <;> simp [fieldRanges, hi]
    rw [hthree] at hfields
    exact hfields

/-! ### One entry (R174) -/

theorem setAt_fields {α : Type} {n : Nat} (v : Vector α n) {i : Nat} (hi : i < n) (x : α) (f : α → List Nat) :
    (setAt v i x).toList.map f = (v.toList.map f).set i (f x) := by
  rw [setAt, dif_pos hi, Vector.toList_set, List.map_set]

/-- The reactions of POLE_DEWIRED and ALARM_OUTPUT are fixed (R160). -/
abbrev fixedEntry (t : TableId) (i : Nat) : Prop := t = .faultReactions ∧ (i = 0 ∨ i = 14)

/-- The fixed reactions are passed over (R160, R174). -/
theorem setEntry_of_fixed (t : Tables) {id : TableId} {i : Nat} (v : List Nat) (h : fixedEntry id i) : t.setEntry id i v = t := by
  obtain ⟨rfl, hi⟩ := h
  exact if_pos hi

theorem setEntry_reactions (t : Tables) {i : Nat} (v : List Nat) (h : ¬ fixedEntry .faultReactions i) :
    t.setEntry .faultReactions i v = { t with reactions := setAt t.reactions i (reactionsOf v) } := if_neg fun hi => h ⟨rfl, hi⟩

/-- An entry set takes its place in its own table (R174). -/
theorem setEntry_entries (t : Tables) {id : TableId} {i : Nat} (hi : i < entryCount id) (v : List Nat) (hfixed : ¬ fixedEntry id i) :
    (t.setEntry id i v).entries id = (t.entries id).set i (storedFields id v) := by
  cases id with
  | lineLimits | budget | timers =>
    replace hi : i < 1 := hi
    interval_cases i
    rfl
  | poleLimits =>
    replace hi : i < 2 := hi
    interval_cases i <;> rfl
  | linkSettings =>
    replace hi : i < 5 := hi
    interval_cases i <;> rfl
  | faultReactions =>
    rw [setEntry_reactions t v hfixed]
    exact setAt_fields t.reactions hi (reactionsOf v) _
  | profiles => exact setAt_fields t.profiles hi (profileOf v) _
  | watchTable => exact setAt_fields t.watch hi (watchOf v) _
  | auxTable => exact setAt_fields t.aux hi (auxOf v) _
  | contactRoles => exact setAt_fields t.inputs hi (inputOf v) _
  | outputRoles => exact setAt_fields t.outputs hi (outputOf v) _

theorem setEntry_others (t : Tables) {id y : TableId} (h : y ≠ id) (i : Nat) (v : List Nat) : (t.setEntry id i v).entries y = t.entries y := by
  by_cases hfixed : fixedEntry id i
  · rw [setEntry_of_fixed t v hfixed]
  cases id with
  | faultReactions =>
    rw [setEntry_reactions t v hfixed]
    cases y <;> simp_all [Tables.entries]
  | _ => cases y <;> simp_all [Tables.entries, Tables.setEntry]

/-! ### The entries of a load (R174) -/

theorem entries_length (t : Tables) (id : TableId) : (t.entries id).length = entryCount id := by
  cases id <;> simp [Tables.entries, entryCount]

/-- Entry `j` of a table after entries from `first` on have been set (R160, R174). -/
def loadedEntry (id : TableId) (old : List (List Nat)) (first : Nat) (vs : List (List Nat)) (j : Nat) : Option (List Nat) :=
  if first ≤ j ∧ j < first + vs.length ∧ ¬ fixedEntry id j then vs[j - first]? else old[j]?

theorem loadedEntry_cons (id : TableId) (old : List (List Nat)) (first : Nat) (v : List Nat) (vs : List (List Nat)) (j : Nat)
    (hfit : first < old.length) (hset : ¬ fixedEntry id first) :
    loadedEntry id (old.set first v) (first + 1) vs j = loadedEntry id old first (v :: vs) j := by
  rw [loadedEntry, loadedEntry, List.length_cons]
  by_cases hj : j = first
  · subst hj
    rw [if_neg (by omega), if_pos ⟨by omega, by omega, hset⟩, List.getElem?_set_self hfit, Nat.sub_self]
    rfl
  · rw [List.getElem?_set_ne (fun h => hj h.symm)]
    by_cases hin : first + 1 ≤ j ∧ j < first + 1 + vs.length ∧ ¬ fixedEntry id j
    · obtain ⟨hlow, hhigh, hfree⟩ := hin
      rw [if_pos ⟨hlow, hhigh, hfree⟩, if_pos ⟨by omega, by omega, hfree⟩, show j - first = j - (first + 1) + 1 by omega]
      rfl
    · rw [if_neg hin, if_neg fun ⟨hlow, hhigh, hfree⟩ => hin ⟨by omega, by omega, hfree⟩]

theorem loadedEntry_cons_fixed (id : TableId) (old : List (List Nat)) (first : Nat) (v : List Nat) (vs : List (List Nat)) (j : Nat)
    (hset : fixedEntry id first) : loadedEntry id old (first + 1) vs j = loadedEntry id old first (v :: vs) j := by
  rw [loadedEntry, loadedEntry, List.length_cons]
  by_cases hin : first + 1 ≤ j ∧ j < first + 1 + vs.length ∧ ¬ fixedEntry id j
  · obtain ⟨hlow, hhigh, hfree⟩ := hin
    rw [if_pos ⟨hlow, hhigh, hfree⟩, if_pos ⟨by omega, by omega, hfree⟩, show j - first = j - (first + 1) + 1 by omega]
    rfl
  · rw [if_neg hin]
    refine (if_neg fun ⟨hlow, hhigh, hfree⟩ => hin ⟨?_, by omega, hfree⟩).symm
    exact Nat.lt_of_le_of_ne hlow fun h => hfree (h ▸ hset)

/-- A load's entries set one after another (R174). -/
def Tables.setEntries (t : Tables) (id : TableId) (first : Nat) (vs : List (List Nat)) : Tables :=
  (indexed first vs).foldl (fun t e => t.setEntry id e.1 e.2) t

theorem setEntries_entries (id : TableId) (vs : List (List Nat)) (first : Nat) (t : Tables) (hfit : first + vs.length ≤ entryCount id)
    (hstored : ∀ v ∈ vs, storedFields id v = v) (j : Nat) :
    ((t.setEntries id first vs).entries id)[j]? = loadedEntry id (t.entries id) first vs j := by
  induction vs generalizing first t with
  | nil =>
    refine (if_neg fun ⟨hlow, hhigh, _⟩ => ?_).symm
    rw [List.length_nil] at hhigh
    omega
  | cons v vs ih =>
    rw [List.length_cons] at hfit
    have hstep := ih (first + 1) (t.setEntry id first v) (by omega) fun w hw => hstored w (List.mem_cons_of_mem _ hw)
    refine hstep.trans ?_
    by_cases hfixed : fixedEntry id first
    · rw [setEntry_of_fixed t v hfixed, loadedEntry_cons_fixed _ _ _ _ _ _ hfixed]
    · rw [setEntry_entries t (by omega) v hfixed, hstored v List.mem_cons_self,
        loadedEntry_cons _ _ _ _ _ _ (by rw [entries_length]; omega) hfixed]

theorem setEntries_others {id y : TableId} (h : y ≠ id) (vs : List (List Nat)) (first : Nat) (t : Tables) :
    (t.setEntries id first vs).entries y = t.entries y := by
  induction vs generalizing first t with
  | nil => rfl
  | cons v vs ih => exact (ih (first + 1) (t.setEntry id first v)).trans (setEntry_others t h first v)

/-- Tables with the entries of a load take them (R174). -/
theorem takesEntries_apply (t : Tables) (x : Load) (hlength : x.entries.length = x.count) (hfit : x.first + x.count ≤ entryCount x.table)
    (hstored : ∀ v ∈ x.entries, storedFields x.table v = v) : t.takesEntries (t.apply x) x := by
  have hentries := setEntries_entries x.table x.entries x.first t (hlength ▸ hfit) hstored
  refine ⟨fun y hy => setEntries_others hy x.entries x.first t, fun k hk hfree => (hentries _).trans ?_,
    fun k hk hout => (hentries _).trans ?_⟩
  · refine (if_pos ⟨Nat.le_add_right _ _, by omega, fun ⟨htable, hplace⟩ => ?_⟩).trans (by rw [Nat.add_sub_cancel_left])
    · obtain h | ⟨hzero, hlast⟩ := hfree
      · exact h htable
      · exact hplace.elim hzero hlast
  · exact if_neg fun ⟨hlow, hhigh, _⟩ => by omega

theorem setEntry_marks (t : Tables) (id : TableId) (i : Nat) (v : List Nat) : (t.setEntry id i v).marks = t.marks := by
  by_cases hfixed : fixedEntry id i
  · rw [setEntry_of_fixed t v hfixed]
  cases id with
  | faultReactions => rw [setEntry_reactions t v hfixed]
  | _ => rfl

theorem apply_marks (t : Tables) (x : Load) : (t.apply x).marks = t.marks := by
  suffices h : ∀ (es : List (Nat × List Nat)) (t : Tables), (es.foldl (fun t e => t.setEntry x.table e.1 e.2) t).marks = t.marks from h _ t
  intro es
  induction es with
  | nil => exact fun _ => rfl
  | cons e es ih => exact fun t => (ih _).trans (setEntry_marks t x.table e.1 e.2)

/-- Marks and the check value are no part of the entries (R175). -/
theorem store_entries (t : Tables) (x : Load) (y : TableId) : (t.store x).entries y = (t.apply x).entries y := by
  cases y <;> rfl

theorem store_marks (t : Tables) (x : Load) :
    (t.store x).marks = (t.apply x).marks.set (tableIndex x.table) (((t.apply x).marks.get (tableIndex x.table)).after x) := rfl

theorem store_marks_same (t : Tables) (x : Load) : ((t.store x).marks.get (tableIndex x.table)).loaded = true := by
  rw [store_marks]
  exact congrArg TableMarks.loaded (Vector.getElem_set_self _)

theorem allTables_tableIndex (x : TableId) : allTables[(tableIndex x).val]? = some x := by cases x <;> rfl

theorem tableIndex_injective {x y : TableId} (h : tableIndex x = tableIndex y) : x = y :=
  Option.some.inj ((allTables_tableIndex x).symm.trans (h ▸ allTables_tableIndex y))

theorem store_marks_other (t : Tables) (x : Load) {y : TableId} (h : y ≠ x.table) :
    (t.store x).marks.get (tableIndex y) = t.marks.get (tableIndex y) := by
  rw [store_marks, apply_marks]
  exact Vector.getElem_set_ne _ _ fun heq => h (tableIndex_injective (Fin.ext heq.symm))

/-- Tables that take a load's entries store the load (R174, R175). -/
theorem stores_store (t : Tables) (x : Load) (htakes : t.takesEntries (t.apply x) x) : t.stores (t.store x) x := by
  refine ⟨store_marks_same t x, rfl, fun y hy => ?_, ?_⟩
  · rw [Tables.loaded, Tables.loaded, Tables.complete, Tables.complete, store_marks_other t x hy]
    exact ⟨rfl, rfl⟩
  · simpa only [Tables.takesEntries, store_entries] using htakes

end Sys2Proof.Machine

/-! ## The checks of a LOAD_TABLE card (R170 to R173) -/

namespace Sys2Proof.Machine

/-! ### The first index at which something holds -/

/-- A search answers the first index at which something holds, and none if there is none. -/
def FindsFirst (o : Option Nat) (holds : Nat → Prop) : Prop := (∀ i, holds i → o ≠ none) ∧ ∀ i, o = some i → firstAt holds i

theorem FindsFirst.of_none {o : Option Nat} {holds : Nat → Prop} (h : FindsFirst o holds) (hnone : ∀ i, ¬ holds i) : o = none := by
  cases ho : o with
  | none => rfl
  | some i => exact absurd (h.2 i ho).1 (hnone i)

theorem FindsFirst.of_first {o : Option Nat} {holds : Nat → Prop} (h : FindsFirst o holds) {i : Nat} (hfirst : firstAt holds i) :
    o = some i := by
  obtain ⟨hi, hbefore⟩ := hfirst
  cases ho : o with
  | none => exact absurd ho (h.1 i hi)
  | some j =>
    obtain ⟨hj, hleast⟩ := h.2 j ho
    have hij : ¬ i < j := fun hlt => hleast i hlt hi
    have hji : ¬ j < i := fun hlt => hbefore j hlt hj
    exact congrArg some (by omega)

theorem FindsFirst.congr {o : Option Nat} {P Q : Nat → Prop} (h : FindsFirst o P) (hPQ : ∀ i, P i ↔ Q i) : FindsFirst o Q := by
  rwa [show Q = P from funext fun i => propext (hPQ i).symm]

theorem findsFirst_none {P : Nat → Prop} (h : ∀ i, ¬ P i) : FindsFirst none P :=
  ⟨fun i hi => absurd hi (h i), fun _ ho => nomatch ho⟩

/-- A search in a list whose indexes grow. -/
theorem findsFirst_find {α : Type} (key : α → Nat) (f : α → Bool) :
    ∀ {l : List α}, l.Pairwise (fun a b => key a < key b) → FindsFirst ((l.find? f).map key) (fun i => ∃ a ∈ l, key a = i ∧ f a = true)
  | [], _ => findsFirst_none fun _ ⟨_, ha, _⟩ => nomatch ha
  | x :: l, h => by
    obtain ⟨hx, hl⟩ := List.pairwise_cons.mp h
    obtain ⟨hsome, hfirst⟩ := findsFirst_find key f hl
    cases hf : f x with
    | true =>
      rw [List.find?_cons_of_pos hf]
      refine ⟨fun _ _ => Option.some_ne_none _, fun i hi => ?_⟩
      obtain rfl : key x = i := Option.some.inj hi
      refine ⟨⟨x, List.mem_cons_self, rfl, hf⟩, fun j hj ⟨a, ha, hkey, _⟩ => ?_⟩
      obtain rfl | ha := List.mem_cons.mp ha
      · omega
      · have := hx a ha
        omega
    | false =>
      have hrest : ∀ i, (∃ a ∈ x :: l, key a = i ∧ f a = true) ↔ ∃ a ∈ l, key a = i ∧ f a = true := by
        intro i
        refine ⟨fun ⟨a, ha, hkey, hfa⟩ => ?_, fun ⟨a, ha, hrest⟩ => ⟨a, List.mem_cons_of_mem _ ha, hrest⟩⟩
        obtain rfl | ha := List.mem_cons.mp ha
        · rw [hf] at hfa
          cases hfa
        · exact ⟨a, ha, hkey, hfa⟩
      rw [List.find?_cons_of_neg (by simp [hf])]
      exact FindsFirst.congr ⟨hsome, hfirst⟩ fun i => (hrest i).symm

theorem leastOf_eq_min? (l : List Nat) : leastOf l = l.min? := by cases l <;> rfl

theorem findsFirst_leastOf (l : List Nat) : FindsFirst (leastOf l) (· ∈ l) := by
  rw [leastOf_eq_min?]
  refine ⟨fun i hi hnone => ?_, fun i hi => ?_⟩
  · rw [List.min?_eq_none_iff.mp hnone] at hi
    cases hi
  · obtain ⟨hmem, hleast⟩ := List.min?_eq_some_iff.mp hi
    exact ⟨hmem, fun j hj hin => absurd (hleast j hin) (by omega)⟩

/-- A member clashes with an earlier one. -/
abbrev clashesAt {α : Type} (clash : α → α → Bool) (l : List α) (i : Nat) : Prop :=
  ∃ b, l[i]? = some b ∧ ∃ a ∈ l.take i, clash b a = true

theorem findsFirst_firstClash_from {α : Type} (clash : α → α → Bool) (xs before : List α) :
    FindsFirst (firstClash clash before xs before.length) (fun i => before.length ≤ i ∧ clashesAt clash (before ++ xs) i) := by
  induction xs generalizing before with
  | nil =>
    refine findsFirst_none fun i ⟨hi, b, hb, _⟩ => ?_
    rw [List.append_nil, List.getElem?_eq_none hi] at hb
    cases hb
  | cons x xs ih =>
    have hat : (before ++ x :: xs)[before.length]? = some x := by simp
    have htake : (before ++ x :: xs).take before.length = before := List.take_left
    cases hany : before.any (clash x) with
    | true =>
      obtain ⟨a, ha, hclash⟩ := List.any_eq_true.mp hany
      refine (show firstClash clash before (x :: xs) before.length = some before.length from if_pos hany) ▸
        ⟨fun _ _ => Option.some_ne_none _, fun i hi => ?_⟩
      obtain rfl : before.length = i := Option.some.inj hi
      refine ⟨⟨Nat.le_refl _, x, hat, a, ?_, hclash⟩, fun j hj hrest => absurd hrest.1 (by omega)⟩
      rwa [htake]
    | false =>
      have hrec := ih (before ++ [x])
      rw [List.length_append, List.append_assoc] at hrec
      refine (show firstClash clash before (x :: xs) before.length = firstClash clash (before ++ [x]) xs (before.length + 1) from
        if_neg (by simp [hany])) ▸ FindsFirst.congr hrec fun i => ?_
      refine ⟨fun ⟨hi, hrest⟩ => ⟨Nat.le_of_succ_le hi, hrest⟩, fun ⟨hi, b, hb, a, ha, hclash⟩ => ⟨?_, b, hb, a, ha, hclash⟩⟩
      refine Nat.lt_of_le_of_ne hi fun heq => ?_
      subst heq
      obtain rfl : x = b := Option.some.inj (hat.symm.trans hb)
      have ha : a ∈ before := htake ▸ ha
      exact absurd (List.any_eq_true.mpr ⟨a, ha, hclash⟩) (by simp [hany])

theorem findsFirst_firstClash {α : Type} (clash : α → α → Bool) (xs : List α) :
    FindsFirst (firstClash clash [] xs 0) (clashesAt clash xs) :=
  FindsFirst.congr (findsFirst_firstClash_from clash xs []) fun _ => ⟨fun h => h.2, fun h => ⟨Nat.zero_le _, h⟩⟩

/-! ### The tests of a single entry (R172) -/

theorem withinRanges_iff (rs : List (Nat × Nat)) (v : List Nat) :
    withinRanges rs v = true ↔
      v.length = rs.length ∧ ∀ k < v.length, (rs.getD k (0, 0)).1 ≤ fieldAt v k ∧ fieldAt v k ≤ (rs.getD k (0, 0)).2 := by
  induction rs generalizing v with
  | nil => cases v <;> simp [withinRanges]
  | cons r rs ih =>
    cases v with
    | nil => simp [withinRanges]
    | cons x v =>
      rw [withinRanges, Bool.and_eq_true, Bool.and_eq_true, decide_eq_true_iff, decide_eq_true_iff, ih, List.length_cons, List.length_cons,
        Nat.add_right_cancel_iff]
      constructor
      · rintro ⟨⟨hlow, hhigh⟩, hlength, hrest⟩
        refine ⟨hlength, fun k hk => ?_⟩
        cases k with
        | zero => exact ⟨hlow, hhigh⟩
        | succ k => exact hrest k (Nat.lt_of_succ_lt_succ hk)
      · rintro ⟨hlength, hall⟩
        exact ⟨hall 0 (Nat.succ_pos _), hlength, fun k hk => hall (k + 1) (Nat.succ_lt_succ hk)⟩

theorem consistent_iff (t : TableId) (v : List Nat) : consistent t v = true ↔ coherent t v := by
  cases t with
  | lineLimits => simp [consistent, coherent]; omega
  | poleLimits => simp [consistent, coherent, and_assoc]
  | profiles => simp [consistent, coherent]; omega
  | auxTable => simp [consistent, coherent]
  | _ => simp [consistent, coherent]

theorem entryPasses_iff (t : TableId) (i : Nat) (v : List Nat) : entryPasses t i v = true ↔ entryStands t i v := by
  rw [entryPasses, Bool.and_eq_true, withinRanges_iff, consistent_iff, and_assoc]

theorem mem_indexed {first i : Nat} {vs : List (List Nat)} {v : List Nat} :
    (i, v) ∈ indexed first vs ↔ first ≤ i ∧ vs[i - first]? = some v := by
  induction vs generalizing first with
  | nil => simp [indexed]
  | cons w vs ih =>
    rw [indexed, List.mem_cons, ih, Prod.mk.injEq]
    by_cases hi : i = first
    · subst hi
      simp [eq_comm]
    · by_cases hlt : first < i
      · rw [show i - first = i - (first + 1) + 1 by omega, List.getElem?_cons_succ]
        simp [hi]
        omega
      · simp [hi]
        omega

theorem indexed_increases (first : Nat) (vs : List (List Nat)) : (indexed first vs).Pairwise fun a b => a.1 < b.1 := by
  induction vs generalizing first with
  | nil => exact List.Pairwise.nil
  | cons v vs ih => exact List.pairwise_cons.mpr ⟨fun ⟨i, w⟩ h => (mem_indexed.mp h).1, ih _⟩

/-- The first entry that fails its own tests (R172). -/
theorem badEntry_finds (x : Load) (hlength : x.entries.length = x.count) : FindsFirst x.badEntry x.failsAt := by
  refine FindsFirst.congr (findsFirst_find (fun e : Nat × List Nat => e.1) (fun e => !entryPasses x.table e.1 e.2) (indexed_increases x.first x.entries)) fun i => ?_
  have hfails : ∀ v, (!entryPasses x.table i v) = true ↔ ¬ entryStands x.table i v := fun v => by
    rw [Bool.not_eq_true', ← Bool.not_eq_true, entryPasses_iff]
  constructor
  · rintro ⟨⟨k, v⟩, hmem, rfl, hf⟩
    obtain ⟨hlow, hat⟩ := mem_indexed.mp hmem
    have hin := (List.getElem?_eq_some_iff.mp hat).1
    refine ⟨hlow, by omega, ?_⟩
    rw [List.getD_eq_getElem?_getD, hat]
    exact (hfails v).mp hf
  · rintro ⟨hlow, hhigh, hf⟩
    have hin : i - x.first < x.entries.length := by omega
    rw [List.getD_eq_getElem?_getD, List.getElem?_eq_getElem hin] at hf
    exact ⟨(i, x.entries[i - x.first]), mem_indexed.mpr ⟨hlow, List.getElem?_eq_getElem hin⟩, rfl, (hfails _).mpr hf⟩

/-! ### The tests across entries and tables (R38, R45, R144) -/

/-- The entry that repeats a role, as the model finds it. -/
def Tables.firstRepeat (t : Tables) : TableId → Option Nat
  | .contactRoles => firstClash InputEntry.clashes [] t.inputs.toList 0
  | .outputRoles => firstClash OutputEntry.clashes [] t.outputs.toList 0
  | _ => none

/-- The entry that clashes with another table, as the model finds it. -/
def Tables.firstAcross (t : Tables) : TableId → Option Nat
  | .contactRoles => leastOf ((allAux.filter (fun a => !t.feedbackHeld a)).map (fun a => (t.aux.get a).feedback))
  | .outputRoles => leastOf ((allAux.filter (fun a => !t.runOutputHeld a)).map (fun a => (t.aux.get a).runOutput))
  | .auxTable => (allAux.find? (fun a => !(t.runOutputHeld a && t.feedbackHeld a))).map (·.val)
  | _ => none

theorem badAcross_eq (t : Tables) (id : TableId) : t.badAcross id = (t.firstRepeat id <|> t.firstAcross id) := by
  cases id <;> rfl

/-- Clashing members of a vector, by their places. -/
theorem clashesAt_toList {α : Type} {n : Nat} (clash : α → α → Bool) (v : Vector α n) (i : Nat) :
    clashesAt clash v.toList i ↔ ∃ a b : Fin n, b.val = i ∧ a < b ∧ clash (v.get b) (v.get a) = true := by
  constructor
  · rintro ⟨y, hy, x, hx, hclash⟩
    obtain ⟨hi, rfl⟩ := List.getElem?_eq_some_iff.mp hy
    obtain ⟨j, hj, rfl⟩ := List.mem_take_iff_getElem.mp hx
    rw [Vector.length_toList] at hi
    have hji : j < i := Nat.lt_of_lt_of_le hj (Nat.min_le_left _ _)
    exact ⟨⟨j, by omega⟩, ⟨i, hi⟩, rfl, hji, hclash⟩
  · rintro ⟨a, b, rfl, hab, hclash⟩
    have hb : b.val < v.toList.length := by simp
    have ha : a.val < v.toList.length := by simp
    exact ⟨v.toList[b.val], List.getElem?_eq_getElem hb, v.toList[a.val], List.mem_take_iff_getElem.mpr ⟨a.val, by omega, rfl⟩, hclash⟩

theorem input_clashes_iff (a b : InputEntry) :
    b.clashes a = true ↔ a.role = b.role ∧ b.role ≠ .none ∧ (b.role ≠ .auxFeedback ∨ a.aux = b.aux) := by
  rw [eq_comm (a := a.role), eq_comm (a := a.aux)]
  simp [InputEntry.clashes, and_assoc]

theorem output_clashes_iff (a b : OutputEntry) :
    b.clashes a = true ↔ a.role = b.role ∧ b.role ≠ .none ∧ (b.role ≠ .auxRun ∨ a.aux = b.aux) := by
  rw [eq_comm (a := a.role), eq_comm (a := a.aux)]
  simp [OutputEntry.clashes, and_assoc]

/-- The first entry that repeats a role (R38, R45). -/
theorem firstRepeat_finds (t : Tables) (id : TableId) : FindsFirst (t.firstRepeat id) (t.repeatsRole id) := by
  cases id with
  | contactRoles =>
    refine FindsFirst.congr (findsFirst_firstClash _ _) fun i => (clashesAt_toList _ _ i).trans ?_
    simp only [Tables.repeatsRole, true_and, reduceCtorEq, false_and, or_false, input_clashes_iff]
  | outputRoles =>
    refine FindsFirst.congr (findsFirst_firstClash _ _) fun i => (clashesAt_toList _ _ i).trans ?_
    simp only [Tables.repeatsRole, true_and, reduceCtorEq, false_and, false_or, output_clashes_iff]
  | _ => exact findsFirst_none fun i => by simp [Tables.repeatsRole]

/-- A place that lies in a vector and holds something there. -/
theorem holdsAt_iff {α : Type} {n : Nat} (v : Vector α n) (k : Nat) (f : α → Bool) (P : α → Prop) (hfP : ∀ x, f x = true ↔ P x) :
    (if h : k < n then f v[k] else false) = true ↔ ∃ o : Fin n, o.val = k ∧ P (v.get o) := by
  by_cases hk : k < n
  · rw [dif_pos hk, hfP]
    exact ⟨fun h => ⟨⟨k, hk⟩, rfl, h⟩, fun ⟨o, ho, h⟩ => by subst ho; exact h⟩
  · rw [dif_neg hk]
    exact ⟨fun h => (nomatch h), fun ⟨o, ho, _⟩ => absurd (ho ▸ o.isLt) hk⟩

theorem runOutputHeld_iff (t : Tables) (a : AuxNo) : t.runOutputHeld a = false ↔ t.runMissing a := by
  have hat := holdsAt_iff t.outputs (t.aux.get a).runOutput (·.holds (.auxRun a)) (fun o => o.role = .auxRun ∧ o.aux = a.val) fun o => by
    simp [OutputEntry.holds]
  rw [Tables.runOutputHeld, Bool.or_eq_false_iff, Bool.not_eq_false', ← Bool.not_eq_true (dite _ _ _), hat]

theorem feedbackHeld_iff (t : Tables) (a : AuxNo) : t.feedbackHeld a = false ↔ t.feedbackMissing a := by
  have hat := holdsAt_iff t.inputs (t.aux.get a).feedback (fun i => i.role == .auxFeedback && i.aux == a.val)
    (fun i => i.role = .auxFeedback ∧ i.aux = a.val) fun i => by simp
  rw [Tables.feedbackHeld, Bool.or_eq_false_iff, Bool.or_eq_false_iff, Bool.not_eq_false', ← Bool.not_eq_true (dite _ _ _), hat,
    and_assoc, beq_eq_false_iff_ne]
  rfl

theorem allAux_increases : allAux.Pairwise fun a b => a.val < b.val := by decide

/-- The first entry that clashes with another table (R144). -/
theorem firstAcross_finds (t : Tables) (id : TableId) : FindsFirst (t.firstAcross id) (t.clashesAcross id) := by
  cases id with
  | contactRoles =>
    refine FindsFirst.congr (findsFirst_leastOf _) fun i => ?_
    simp [Tables.clashesAcross, mem_allAux, feedbackHeld_iff]
  | outputRoles =>
    refine FindsFirst.congr (findsFirst_leastOf _) fun i => ?_
    simp [Tables.clashesAcross, mem_allAux, runOutputHeld_iff]
  | auxTable =>
    refine FindsFirst.congr (findsFirst_find (fun a : AuxNo => a.val) (fun a => !(t.runOutputHeld a && t.feedbackHeld a))
      allAux_increases) fun i => ?_
    simp [Tables.clashesAcross, mem_allAux, runOutputHeld_iff, feedbackHeld_iff, and_comm]
  | _ => exact findsFirst_none fun i => by simp [Tables.clashesAcross]

/-- The first entry that would change an auxiliary in use (R144, R171). -/
theorem busyEntry_finds (p : Part) (x : Load) (htable : x.table = .auxTable) (hmode : p.mode ≠ .halt) :
    FindsFirst (p.busyEntry x) (p.disturbs (p.tables.apply x)) := by
  rw [Part.busyEntry, if_pos ⟨htable, hmode⟩]
  refine FindsFirst.congr (findsFirst_find (fun a : AuxNo => a.val) (p.auxBusy (p.tables.apply x)) allAux_increases) fun i => ?_
  simp [Part.disturbs, Part.auxBusy, mem_allAux, and_assoc, or_assoc]

/-! ### The load of a payload (section 10.2) -/

theorem cut_length (len : Nat) (xs : List Nat) (n : Nat) : (cut len xs n).length = n := by
  induction n generalizing xs with
  | zero => rfl
  | succ n ih => exact congrArg (· + 1) (ih _)

theorem cut_getElem? (len : Nat) (xs : List Nat) {n k : Nat} (hk : k < n) : (cut len xs n)[k]? = some ((xs.drop (k * len)).take len) := by
  induction n generalizing xs k with
  | zero => omega
  | succ n ih =>
    cases k with
    | zero => rw [Nat.zero_mul]; rfl
    | succ k =>
      refine (ih (xs.drop len) (Nat.lt_of_succ_lt_succ hk)).trans ?_
      rw [List.drop_drop, Nat.succ_mul, Nat.add_comm]

theorem fieldAt_payload (payload : List Word) (i : Nat) : fieldAt (payload.map (·.toNat)) i = (payload.getD i 0).toNat := by
  rw [fieldAt, List.getD_eq_getElem?_getD, List.getElem?_map, List.getD_eq_getElem?_getD]
  cases payload[i]? <;> rfl

/-- The load that the payload of a card carries for a table (section 10.2). -/
def loadOf (t : TableId) (payload : List Word) : Load where
  table := t
  first := (payload.getD 1 0).toNat
  count := (payload.getD 2 0).toNat
  entries := cut (entryWords t) ((payload.map (·.toNat)).drop 3) (payload.getD 2 0).toNat

theorem loadOf_carried (t : TableId) (payload : List Word) : (loadOf t payload).carriedBy payload := by
  refine ⟨rfl, rfl, cut_length _ _ _, fun k hk => (cut_getElem? _ _ hk).trans ?_⟩
  rw [List.drop_drop, ← List.map_drop, ← List.map_take]
  rfl

/-! ### The checks in their order (R171) -/

theorem loadTable_of_error {p : Part} {r : Request} {e : CardRefusal} (h : p.readLoad r.payload = .error e) :
    p.own .loadTable r = (p, { result := e.code, detail := word e.detail }) := by
  rw [Part.own, Part.cardLoadTable, h]
  rfl

theorem loadTable_of_ok {p : Part} {r : Request} {x : Load} (h : p.readLoad r.payload = .ok x) :
    p.own .loadTable r = (p.load x, { result := .ok, detail := (p.load x).tables.check }) := by
  rw [Part.own, Part.cardLoadTable, h]

theorem readLoad_short {p : Part} {w : List Word} (h : w.length < 3) : p.readLoad w = .error { code := .badLength } :=
  if_pos (by rwa [List.length_map])

theorem readLoad_of_table (p : Part) {w : List Word} (h : 3 ≤ w.length) {t : TableId} (htable : tableOfNumber (w.getD 0 0).toNat = some t)
    (hcount : (w.getD 2 0).toNat ≠ 0) : p.readLoad w = p.checkLoad t (w.map (·.toNat)) := by
  have hlength : ¬ (w.map (·.toNat)).length < 3 := by rw [List.length_map]; omega
  refine (if_neg hlength).trans ?_
  rw [fieldAt_payload, htable, fieldAt_payload]
  exact if_neg hcount

theorem readLoad_of_value (p : Part) {w : List Word} (h : 3 ≤ w.length) (hbad : 10 < (w.getD 0 0).toNat ∨ (w.getD 2 0).toNat = 0) :
    p.readLoad w = .error { code := .badValue } := by
  have hlength : ¬ (w.map (·.toNat)).length < 3 := by rw [List.length_map]; omega
  refine (if_neg hlength).trans ?_
  rw [fieldAt_payload, fieldAt_payload]
  cases htable : tableOfNumber (w.getD 0 0).toNat with
  | none => rfl
  | some t =>
    refine if_pos (hbad.resolve_left fun hlarge => ?_)
    rw [tableOfNumber, List.getElem?_eq_none (by exact hlarge)] at htable
    cases htable

theorem tableOfNumber_tableNumber (t : TableId) : tableOfNumber (tableNumber t) = some t := by cases t <;> rfl

theorem haltOnly_iff (t : TableId) :
    haltOnly t = true ↔ t ∈ [TableId.poleLimits, .contactRoles, .outputRoles, .timers, .linkSettings] := by
  cases t <;> decide

theorem frozenWhileHigh_iff (t : TableId) : frozenWhileHigh t = true ↔ t ∈ [TableId.lineLimits, .budget] := by cases t <;> decide

/-- The tests of a load's content decide between its refusals and its acceptance (R171 steps 7 and 8). -/
def Part.contentVerdict (p : Part) (x : Load) : Except CardRefusal Load :=
  match x.badEntry <|> (p.tables.apply x).badAcross x.table, p.busyEntry x with
  | some i, _ => .error { code := .badValue, detail := i }
  | none, some i => .error { code := .busy, detail := i }
  | none, none => .ok x

theorem checkLoad_eq (p : Part) (t : TableId) (w : List Word) :
    p.checkLoad t (w.map (·.toNat)) =
      if haltOnly t ∧ p.mode ≠ .halt then .error { code := .notInMode }
      else if frozenWhileHigh t ∧ p.line.state = .high then .error { code := .frozen }
      else if entryCount t < (loadOf t w).first + (loadOf t w).count then .error { code := .badIndex }
      else if w.length ≠ 3 + (loadOf t w).count * entryWords t then .error { code := .badLength }
      else p.contentVerdict (loadOf t w) := by
  rw [Part.checkLoad, fieldAt_payload, fieldAt_payload, List.length_map]
  rfl

theorem contentVerdict_bad {p : Part} {x : Load} {i : Nat} (h : (x.badEntry <|> (p.tables.apply x).badAcross x.table) = some i) :
    p.contentVerdict x = .error { code := .badValue, detail := i } := by rw [Part.contentVerdict, h]

theorem contentVerdict_busy {p : Part} {x : Load} {i : Nat} (h : (x.badEntry <|> (p.tables.apply x).badAcross x.table) = none)
    (hbusy : p.busyEntry x = some i) : p.contentVerdict x = .error { code := .busy, detail := i } := by
  rw [Part.contentVerdict, h, hbusy]

theorem contentVerdict_ok {p : Part} {x : Load} (h : (x.badEntry <|> (p.tables.apply x).badAcross x.table) = none)
    (hbusy : p.busyEntry x = none) : p.contentVerdict x = .ok x := by rw [Part.contentVerdict, h, hbusy]

/-- Entries of a load that stand keep their words. -/
theorem storedFields_of_load {x : Load} (hlength : x.entries.length = x.count) (hstand : ∀ i, ¬ x.failsAt i) :
    ∀ v ∈ x.entries, storedFields x.table v = v := by
  intro v hv
  obtain ⟨k, hk, rfl⟩ := List.getElem_of_mem hv
  refine storedFields_of_stands (i := x.first + k) ?_
  by_contra hfails
  refine hstand (x.first + k) ⟨Nat.le_add_right _ _, by omega, fun hstands => hfails ?_⟩
  rwa [Nat.add_sub_cancel_left, List.getD_eq_getElem?_getD, List.getElem?_eq_getElem hk] at hstands

/-- A load whose head stands is judged by its content (R171 to R174). -/
theorem judgesLoad_of_verdict {p : Part} {r : Request} {x : Load} (hread : p.readLoad r.payload = p.contentVerdict x)
    (hlength : x.entries.length = x.count) (hfit : x.first + x.count ≤ entryCount x.table) : p.judgesLoad x (p.own .loadTable r) := by
  have hbad := badEntry_finds x hlength
  have hrepeat := firstRepeat_finds (p.tables.apply x) x.table
  have hacross := firstAcross_finds (p.tables.apply x) x.table
  have hrefused : ∀ i, (x.badEntry <|> (p.tables.apply x).badAcross x.table) = some i →
      p.own .loadTable r = (p, { result := .badValue, detail := word i }) := fun i h =>
    loadTable_of_error (hread.trans (contentVerdict_bad h))
  refine ⟨fun i hi => hrefused i (by rw [hbad.of_first hi]; rfl), fun hstand => ?_⟩
  have hgood := hbad.of_none hstand
  have htakes := takesEntries_apply p.tables x hlength hfit (storedFields_of_load hlength hstand)
  rw [hgood, badAcross_eq] at hrefused
  refine ⟨htakes, fun i hi => hrefused i (by rw [hrepeat.of_first hi]; rfl), fun hunique => ?_⟩
  have hroles := hrepeat.of_none hunique
  rw [hroles] at hrefused
  refine ⟨fun i hi => hrefused i (by rw [hacross.of_first hi]; rfl), fun hagree => ?_⟩
  have hclear : (x.badEntry <|> (p.tables.apply x).badAcross x.table) = none := by
    rw [hgood, badAcross_eq, hroles, hacross.of_none hagree]
    rfl
  refine ⟨fun i htable hmode hi => loadTable_of_error (hread.trans (contentVerdict_busy hclear
    ((busyEntry_finds p x htable hmode).of_first hi))), fun hfree => ?_⟩
  have hidle : p.busyEntry x = none := by
    by_cases h : x.table = .auxTable ∧ p.mode ≠ .halt
    · obtain ⟨htable, hmode⟩ := h
      exact (busyEntry_finds p x htable hmode).of_none ((hfree.resolve_left (absurd htable)).resolve_left hmode)
    · exact if_neg h
  rw [loadTable_of_ok (hread.trans (contentVerdict_ok hclear hidle))]
  refine ⟨rfl, ?_⟩
  rw [show (p.load x).tables = p.tables.store x from load_tables p x]
  exact stores_store p.tables x htakes

/-- Settles O18, which holds: each check of a load decides alone once those before it have passed. -/
theorem loadTableIsCheckedInOrder : Obligations.LoadTableIsCheckedInOrder := by
  unfold Obligations.LoadTableIsCheckedInOrder
  refine ⟨⟨rfl, rfl, rfl, fun i => ⟨rfl, rfl, rfl, rfl, rfl, rfl, rfl, rfl, rfl, rfl, rfl, rfl⟩⟩, fun p r => ⟨fun hshort => ?_,
    fun hlong hbad => ?_, fun t hlong hnumber hcount => ?_⟩⟩
  · exact loadTable_of_error (readLoad_short hshort)
  · exact loadTable_of_error (readLoad_of_value p hlong hbad)
  have htable : tableOfNumber (r.at 0) = some t := hnumber ▸ tableOfNumber_tableNumber t
  have hread := (readLoad_of_table p hlong htable hcount).trans (checkLoad_eq p t r.payload)
  simp only [haltOnly_iff, frozenWhileHigh_iff] at hread
  refine ⟨fun hin hmode => loadTable_of_error (hread.trans (if_pos ⟨hin, hmode⟩)), fun hmode => ?_⟩
  replace hread := hread.trans (if_neg fun ⟨hin, hno⟩ => hmode.elim (absurd hin) (absurd · hno))
  refine ⟨fun hin hhigh => loadTable_of_error (hread.trans (if_pos ⟨hin, hhigh⟩)), fun hline => ?_⟩
  replace hread := hread.trans (if_neg fun ⟨hin, hhigh⟩ => hline.elim (absurd hin) (absurd hhigh))
  refine ⟨fun hpast => loadTable_of_error (hread.trans (if_pos hpast)), fun hfit => ?_⟩
  replace hread := hread.trans (if_neg (Nat.not_lt.mpr hfit))
  refine ⟨fun hlength => loadTable_of_error (hread.trans (if_pos hlength)), fun hlength => ?_⟩
  replace hread := hread.trans (if_neg (not_not_intro hlength))
  exact ⟨loadOf t r.payload, rfl, loadOf_carried t r.payload, judgesLoad_of_verdict hread (cut_length _ _ _) hfit⟩

end Sys2Proof.Machine

/-! ## One event for both poles (R96, R103, R106, R107)

A request for both poles works on P and then on N before its notices go out. Each operation sees its own pole as the event found it, and what the
rest of the event does leaves its outcome. -/

namespace Sys2Proof.Machine

/-! ### What the rest of an event leaves of a pole -/

/-- From `q` to `z` pole `i` keeps its state and, off the line, its record; its outputs stay commanded and its reports told. -/
structure Part.LaterOn (i : PoleId) (q z : Part) : Prop where
  record : (q.poles.get i).onLine = false → z.poles.get i = q.poles.get i
  state : (z.poles.get i).state = (q.poles.get i).state
  driven : ∀ (p : Part) (a b : Bool), q.tables = p.tables → p.driven q i a b → p.driven z i a b
  tells : ∀ (kind : ReportKind) (tag : Word) (items : List Item), kind ∈ poleReports →
    q.mbx.tells kind .poleMonitor (poleNumber i) tag items → z.mbx.tells kind .poleMonitor (poleNumber i) tag items
  tables : z.tables = q.tables

/-- What an operation on pole `i` sees is the same. -/
structure Part.Sights (i : PoleId) (p q : Part) : Prop where
  pole : q.poles.get i = p.poles.get i
  now : q.now = p.now
  tables : q.tables = p.tables
  contacts : q.contacts = p.contacts

section
variable {i j : PoleId} {p q z : Part}

theorem Part.LaterOn.refl (i : PoleId) (p : Part) : Part.LaterOn i p p := ⟨fun _ => rfl, rfl, fun _ _ _ _ h => h, fun _ _ _ _ h => h, rfl⟩

theorem Part.LaterOn.andThen (h : Part.LaterOn i p q) (k : Part.LaterOn i q z) : Part.LaterOn i p z where
  record hoff := (k.record (by rw [h.record hoff, hoff])).trans (h.record hoff)
  state := k.state.trans h.state
  driven o a b ht hd := k.driven o a b (h.tables.trans ht) (h.driven o a b ht hd)
  tells kind tag items hk ht := k.tells kind tag items hk (h.tells kind tag items hk ht)
  tables := k.tables.trans h.tables

theorem Part.Sights.refl (i : PoleId) (p : Part) : Part.Sights i p p := ⟨rfl, rfl, rfl, rfl⟩

theorem Part.Sights.andThen (h : Part.Sights i p q) (k : Part.Sights i q z) : Part.Sights i p z :=
  ⟨k.pole.trans h.pole, k.now.trans h.now, k.tables.trans h.tables, k.contacts.trans h.contacts⟩

/-- The notices, the claims and the entry orders. -/
theorem Part.Tail.laterOn (h : q.Tail z) (i : PoleId) : Part.LaterOn i q z where
  record hoff := h.notes.offLine i hoff
  state := h.notes.state i
  driven _ _ _ ht hd := h.spares.driven hd ht (by cases i <;> decide)
  tells _ _ _ hk ht := h.spares.tells (fun hmem => absurd (List.mem_singleton.mp hmem ▸ hk) (by decide)) ht
  tables := h.tables

/-- An operation on the other pole. -/
theorem Part.Sets.laterOn {r : Pole} {ks : List FaultKind} {rs : List ReportKind} (h : Part.Sets j r ks rs (poleRoles j) q z) (hij : i ≠ j) :
    Part.LaterOn i q z where
  record _ := h.other i hij
  state := congrArg Pole.state (h.other i hij)
  driven _ _ _ ht hd := h.spares.driven hd ht (by cases i <;> cases j <;> simp_all [poleRoles])
  tells kind _ _ hk ht := h.about.keepsTelling (fun r hr => by
    by_cases hkind : r.kind = kind
    · have hinst := hr (hkind ▸ hk)
      exact .inr (.inr (by rw [hinst]; cases i <;> cases j <;> simp_all [poleNumber]))
    · exact .inl hkind) ht
  tables := h.tables

theorem Part.Sets.sights {r : Pole} {ks : List FaultKind} {rs : List ReportKind} {os : List DriveRole} (h : Part.Sets j r ks rs os q z)
    (hij : i ≠ j) : Part.Sights i q z := ⟨h.other i hij, h.now, h.tables, h.frame .contacts (by decide)⟩

/-- An operation that touches neither poles nor outputs nor reports. -/
theorem Part.onlyChanges.laterOn {xs : List Piece} (h : q.onlyChanges xs z) (i : PoleId) (hx : sparing xs = true := by decide)
    (hp : xs.contains .poles = false := by decide) : Part.LaterOn i q z := by
  have hspares : q.Spares [] [] [] z := h.spares hx
  have hpoles : z.poles = q.poles := h .poles (by simpa using hp)
  exact ⟨fun _ => by rw [hpoles], by rw [hpoles], fun _ _ _ ht hd => hspares.driven hd ht (by simp),
    fun _ _ _ _ ht => hspares.tells (by simp) ht, hspares.tables⟩

theorem Part.Sights.housedClosed (h : Part.Sights i p q) : q.housedClosed i = p.housedClosed i := housedClosed_congr h.contacts h.tables i

theorem Part.Sights.driven (h : Part.Sights i p q) {a b : Bool} (hd : q.driven z i a b) : p.driven z i a b :=
  ⟨fun o ho => hd.1 o ((outputFor_congr h.tables _).trans ho), fun o ho => hd.2 o ((outputFor_congr h.tables _).trans ho)⟩

/-! ### A lowering, an abandonment, a raise, and what they are called at the end of the event -/

theorem lowers_of_later {cause : LoweringCause} (hcause : cause ≠ .abandonedRaise) {tag : Word} {zone : Option TagId}
    (hs : Part.Sights i p q) (hl : Part.LaterOn i (q.lower i cause tag zone).1 z) (hclaims : z.poleClaims) : p.lowers z i cause tag zone := by
  have hset := lower_sets q i cause tag zone
  have hrec := (hl.record (by rw [hset.record]; exact lowered_onLine _ _ _ _ _ _)).trans hset.record
  rw [lowered_congr hs.tables hs.now hs.contacts] at hrec
  refine lowers_of hrec (hs.driven (hl.driven q _ _ hset.tables (lower_driven q i cause tag zone))) hclaims fun hc => ?_
  exact hl.tells _ _ _ (by decide) (lower_tells q i hcause tag zone (hs.housedClosed.trans hc))

theorem abandons_of_later {cause : AbandonCause} {lowerTag : Option Word} (hs : Part.Sights i p q)
    (hl : Part.LaterOn i (q.abandonRaise i cause lowerTag).1 z) (hclaims : z.poleClaims) : p.abandons z i cause := by
  have hset := abandonRaise_sets q i cause lowerTag
  have hrec := (hl.record (by rw [hset.record]; exact lowered_onLine _ _ _ _ _ _)).trans hset.record
  have htold := hl.tells _ _ _ (by decide) (abandonRaise_tells q i cause lowerTag)
  rw [Part.abandoned, lowered_congr hs.tables hs.now hs.contacts, hs.pole] at hrec
  rw [hs.tables, hs.pole] at htold
  exact abandons_of hrec (hs.driven (hl.driven q _ _ hset.tables (abandonRaise_driven q i cause lowerTag))) hclaims htold

theorem Part.Sights.startTimer (h : Part.Sights i p q) (n : Nat) : q.startTimer n = p.startTimer n := by simp only [Part.startTimer, h.now]

theorem beginsRaising_congr (h : Part.Sights i p q) (origin : RaiseOrigin) (tag : Word) (zone : Option TagId) :
    (q.poles.get i).beginsRaising q origin tag zone 0 q.now = (p.poles.get i).beginsRaising p origin tag zone 0 p.now := by
  simp only [Pole.beginsRaising, h.startTimer, h.tables, h.now, h.pole]

/-- A raise abandoned at its start (R97). -/
theorem raises_unsensed {origin : RaiseOrigin} {tag : Word} {zone : Option TagId} (hs : Part.Sights i p q)
    (hsensor : (p.poles.get i).sensorAvailable = false) (hl : Part.LaterOn i (q.beginRaise i origin tag zone 0 q.now).1 z) :
    p.raises z i origin tag zone := by
  have hset := raisingPole_sets q i origin tag zone 0 q.now
  have hend := beginRaise_unsensed_sets q i origin tag zone 0 q.now (by rw [hs.pole]; exact hsensor)
  rw [beginsRaising_congr hs, lowered_congr hs.tables hs.now hs.contacts] at hend
  have hrec := (hl.record (by rw [hend.record]; exact lowered_onLine _ _ _ _ _ _)).trans hend.record
  obtain ⟨hstate, habandon, -⟩ := lowered_abandoned
    (q := ((p.poles.get i).beginsRaising p origin tag zone 0 p.now).abandons .sensorLost) (p := p) (i := i) (tag := tag) (zone := zone) rfl
  rw [← hrec] at hstate habandon
  have hdone := congrArg Prod.fst (beginRaise_unsensed q i origin tag zone 0 q.now (by rw [hs.pole]; exact hsensor))
  have htold := abandonRaise_tells (q.raisingPole i origin tag zone 0 q.now) i .sensorLost none
  have hdriven := abandonRaise_driven (q.raisingPole i origin tag zone 0 q.now) i .sensorLost none
  have htables := (abandonRaise_sets (q.raisingPole i origin tag zone 0 q.now) i .sensorLost none).tables
  rw [hset.record, beginsRaising_congr hs] at htold
  rw [hdone] at hl
  have hitems : (((p.poles.get i).beginsRaising p origin tag zone 0 p.now).abandons .sensorLost).abandonItems .sensorLost false
      = [.small (abandonCode .sensorLost), .small 1, bigNat (p.poles.get i).elevation, bigInt (p.poles.get i).lateral, .small 0]
        ++ if origin = .zone then zoneItem zone else [] := by
    simp only [Pole.abandonItems, beq_iff_eq]
    rfl
  refine ⟨fun h => absurd (hsensor.symm.trans h) (by decide), fun _ => ⟨hstate, habandon, ?_, hitems ▸ hl.tells _ _ _ (by decide) htold⟩⟩
  have hlater := hl.driven _ _ _ htables hdriven
  exact hs.driven ⟨fun o ho => hlater.1 o ((hset.spares.outputFor _).trans ho), fun o ho => hlater.2 o ((hset.spares.outputFor _).trans ho)⟩

theorem raises_of_later {origin : RaiseOrigin} {tag : Word} {zone : Option TagId} (hs : Part.Sights i p q)
    (hl : Part.LaterOn i (q.beginRaise i origin tag zone 0 q.now).1 z) (hclaims : (p.poles.get i).sensorAvailable = true → z.poleClaims) :
    p.raises z i origin tag zone := by
  by_cases hsensor : (p.poles.get i).sensorAvailable = true
  · rw [beginRaise_sensed _ _ _ _ _ _ _ (by rw [hs.pole]; exact hsensor)] at hl
    have hset := raisingPole_sets q i origin tag zone 0 q.now
    have hrec := (hl.record (by rw [hset.record]; rfl)).trans hset.record
    rw [beginsRaising_congr hs] at hrec
    have hdriven := hs.driven (hl.driven q _ _ hset.tables (raisingPole_driven q i origin tag zone 0 q.now))
    have hmoving := claims_moving (hclaims hsensor) i (by rw [hrec]; rfl)
    refine ⟨fun _ => ⟨?_, ?_, ?_, ?_, ?_, ?_, ?_, hdriven, hmoving⟩, fun h => absurd (hsensor.symm.trans h) (by decide)⟩
    all_goals
      rw [hrec]
      rfl
  · exact raises_unsensed hs (by simpa using hsensor) hl

end

/-! ### An operation on each of some poles -/

/-- An operation on some poles in turn, with the notices of all (R90). -/
def Part.eachPole (f : Part → PoleId → Part × List PoleNotice) (acc : Part × List PoleNotice) (poles : List PoleId) : Part × List PoleNotice :=
  poles.foldl (fun acc i => ((f acc.1 i).1, acc.2 ++ (f acc.1 i).2)) acc

/-- The operation works on its own pole. -/
def WorksOn (f : Part → PoleId → Part × List PoleNotice) : Prop :=
  ∀ p i, ∃ r, Part.Sets i r loweringKinds abandonReports (poleRoles i) p (f p i).1

theorem eachPole_off {f : Part → PoleId → Part × List PoleNotice} (hf : WorksOn f) {poles : List PoleId} {i : PoleId} (hi : i ∉ poles)
    (acc : Part × List PoleNotice) :
    Part.Sights i acc.1 (Part.eachPole f acc poles).1 ∧ Part.LaterOn i acc.1 (Part.eachPole f acc poles).1 := by
  induction poles generalizing acc with
  | nil => exact ⟨.refl i acc.1, .refl i acc.1⟩
  | cons j poles ih =>
    have hne : i ≠ j := fun h => hi (h ▸ List.mem_cons_self)
    have hrest : i ∉ poles := fun h => hi (List.mem_cons_of_mem _ h)
    obtain ⟨r, hset⟩ := hf acc.1 j
    obtain ⟨hsights, hlater⟩ := ih hrest ((f acc.1 j).1, acc.2 ++ (f acc.1 j).2)
    exact ⟨(hset.sights hne).andThen hsights, (hset.laterOn hne).andThen hlater⟩

/-- Each of the poles has its operation, on what the event found (R96, R103, R107). -/
theorem eachPole_at {f : Part → PoleId → Part × List PoleNotice} (hf : WorksOn f) {poles : List PoleId} (hnodup : poles.Nodup) {i : PoleId}
    (hi : i ∈ poles) (acc : Part × List PoleNotice) :
    ∃ m, Part.Sights i acc.1 m ∧ Part.LaterOn i (f m i).1 (Part.eachPole f acc poles).1 := by
  induction poles generalizing acc with
  | nil => cases hi
  | cons j poles ih =>
    obtain ⟨hj, hnodup⟩ := List.nodup_cons.mp hnodup
    obtain rfl | hrest := List.mem_cons.mp hi
    · exact ⟨acc.1, .refl _ _, (eachPole_off hf hj ((f acc.1 i).1, acc.2 ++ (f acc.1 i).2)).2⟩
    · obtain ⟨m, hsights, hlater⟩ := ih hnodup hrest ((f acc.1 j).1, acc.2 ++ (f acc.1 j).2)
      obtain ⟨r, hset⟩ := hf acc.1 j
      exact ⟨m, (hset.sights fun h => hj (h ▸ hrest)).andThen hsights, hlater⟩

theorem eachPole_only {f : Part → PoleId → Part × List PoleNotice} (hf : WorksOn f) (poles : List PoleId) (acc : Part × List PoleNotice) :
    acc.1.onlyChanges settingPieces (Part.eachPole f acc poles).1 := by
  induction poles generalizing acc with
  | nil => exact Part.onlyChanges_refl _ _
  | cons j poles ih =>
    obtain ⟨r, hset⟩ := hf acc.1 j
    exact Part.onlyChanges_trans hset.frame (ih ((f acc.1 j).1, acc.2 ++ (f acc.1 j).2))

/-- A pole begins raising for a request (R97). -/
theorem beginRaise_works (origin : RaiseOrigin) (tag : Word) (zone : Option TagId) :
    WorksOn (fun p i => p.beginRaise i origin tag zone 0 p.now) := by
  intro p i
  cases h : (p.poles.get i).sensorAvailable with
  | true =>
    show ∃ r, Part.Sets i r loweringKinds abandonReports (poleRoles i) p (p.beginRaise i origin tag zone 0 p.now).1
    rw [beginRaise_sensed _ _ _ _ _ _ _ h]
    exact ⟨_, (raisingPole_sets p i origin tag zone 0 p.now).mono⟩
  | false => exact ⟨_, beginRaise_unsensed_sets p i origin tag zone 0 p.now h⟩

theorem beginRaises_eq (p : Part) (poles : List PoleId) (origin : RaiseOrigin) (tag : Word) (zone : Option TagId) :
    p.beginRaises poles origin tag zone = Part.eachPole (fun p i => p.beginRaise i origin tag zone 0 p.now) (p, []) poles := rfl

end Sys2Proof.Machine

/-! ## What lasts of the zones (R115 to R124)

Notices and pole actions write only what an active zone has observed and done. All else about the zones lasts through them. -/

namespace Sys2Proof.Machine

/-- The Zone Matcher's record without what its active zones have observed and done. -/
def Zones.lasting (z : Zones) : Zones := { z with active := z.active.map Zone.asArrived }

/-- What lasts of the zones is as it was. -/
def Part.KeepsZones (p q : Part) : Prop := q.zones.lasting = p.zones.lasting

section
variable {p q r : Part}

theorem Part.KeepsZones.refl (p : Part) : p.KeepsZones p := rfl

theorem Part.KeepsZones.andThen (h : p.KeepsZones q) (k : q.KeepsZones r) : p.KeepsZones r := k.trans h

theorem Part.KeepsZones.of_same (h : q.zones = p.zones) : p.KeepsZones q := congrArg Zones.lasting h

/-- A field of the Zone Matcher's record other than the active set. -/
theorem Part.KeepsZones.field {α : Type} (h : p.KeepsZones q) (f : Zones → α) (hf : ∀ z : Zones, f z.lasting = f z := by intros; rfl) :
    f q.zones = f p.zones := by rw [← hf q.zones, h, hf]

theorem Part.KeepsZones.active (h : p.KeepsZones q) : q.zones.active.map Zone.asArrived = p.zones.active.map Zone.asArrived :=
  congrArg Zones.active h

/-- What lasts of each active zone. -/
theorem Part.KeepsZones.each {α : Type} (h : p.KeepsZones q) (f : Zone → α) (hf : ∀ z : Zone, f z.asArrived = f z := by intros; rfl) :
    q.zones.active.map f = p.zones.active.map f := by
  have hmap : ∀ l : List Zone, l.map f = (l.map Zone.asArrived).map f := fun l => by
    rw [List.map_map]
    exact List.map_congr_left fun z _ => (hf z).symm
  rw [hmap, h.active, ← hmap]

end

/-! ### Changes of what active zones have seen and done -/

theorem lasting_of_map (z : Zones) (f : Zone → Zone) (h : ∀ x, (f x).asArrived = x.asArrived) :
    ({ z with active := z.active.map f } : Zones).lasting = z.lasting := by
  have hactive : (z.active.map f).map Zone.asArrived = z.active.map Zone.asArrived := by
    rw [List.map_map]
    exact List.map_congr_left fun x _ => h x
  exact congrArg (fun l => ({ z with active := l } : Zones)) hactive

theorem noteGap_lasting (z : Zones) : z.noteGap.lasting = z.lasting := lasting_of_map z _ fun _ => rfl

theorem noteGapEnd_lasting (z : Zones) (g : GapEnd) : (z.noteGapEnd g).lasting = z.lasting :=
  lasting_of_map z _ fun x => by
    rw [Zone.noteGapEnd]
    split <;> rfl

theorem notePole_lasting (z : Zones) (i : PoleId) (s : PoleState) : (z.notePole i s).lasting = z.lasting := lasting_of_map z _ fun _ => rfl

theorem setAction_keepsZones (p : Part) (order : Nat) (a : ActionState) : p.KeepsZones (p.setAction order a) :=
  lasting_of_map p.zones _ fun x => by
    split <;> rfl

theorem waitingDone_keepsZones (p : Part) : p.KeepsZones p.waitingDone :=
  lasting_of_map p.zones _ fun x => by
    split <;> rfl

/-! ### Notices -/

theorem tellsGapEnd_keepsZones (p : Part) (g : Option GapEnd) : p.KeepsZones (p.tellsGapEnd g) := by
  cases g with
  | none => exact .refl p
  | some g => exact noteGapEnd_lasting p.zones g

theorem lineMove_keepsZones (p : Part) (new : LineState) (g : Option GapEnd) : p.KeepsZones (p.lineMove new g) := by
  by_cases hs : p.line.state = new
  · rw [lineMove_same hs]
    exact (tellsGapEnd_keepsZones p g).andThen (.of_same ((recompute_moves _).drifts.only .zones (by decide)))
  · refine Eq.trans (congrArg Zones.lasting (lineMove_zones p hs g)) (Eq.trans ?_ (tellsGapEnd_keepsZones p g))
    split
    · exact noteGap_lasting _
    · rfl

theorem linePoleNotice_keepsZones (p : Part) (i : PoleId) (s : PoleState) : p.KeepsZones (p.linePoleNotice i s) := by
  obtain h | h | ⟨g, h⟩ | ⟨-, h⟩ := linePoleNotice_answers p i s <;> rw [h]
  · exact .refl p
  · exact .refl p
  · exact lineMove_keepsZones (p.copies i s) _ g
  · exact lineMove_keepsZones (p.copies i s) _ none

theorem sendNotice_keepsZones (p : Part) (n : PoleNotice) : p.KeepsZones (p.sendNotice n) :=
  (linePoleNotice_keepsZones p n.pole n.entered).andThen (notePole_lasting _ _ _)

theorem forEach_keepsZones {α : Type} {f : Part → α → Part} (h : ∀ (p : Part) (x : α), p.KeepsZones (f p x)) (xs : List α) (p : Part) :
    p.KeepsZones (p.forEach xs f) := forEach_view (fun p => p.zones.lasting) h xs p

theorem sendNotices_keepsZones (p : Part) (ns : List PoleNotice) : p.KeepsZones (p.sendNotices ns) := forEach_keepsZones sendNotice_keepsZones ns p

theorem followPoles_only (p o : Part) : p.onlyChanges [.inhibit, .setpoint, .send] (p.followPoles o) := by
  unfold Part.followPoles
  split
  · exact Part.onlyChanges_refl _ p
  · exact (updateClaims_drifts p).only

theorem followPoles_tail (p o : Part) : p.Tail (p.followPoles o) := by
  unfold Part.followPoles
  split
  · exact .refl p
  · exact updateClaims_tail p

theorem followPoles_keepsZones (p o : Part) : p.KeepsZones (p.followPoles o) := .of_same (followPoles_only p o .zones (by decide))

theorem orderEntries_keepsZones (p o : Part) : p.KeepsZones (p.orderEntries o) :=
  .of_same ((orderEntries_moves p o).drifts.only .zones (by decide))

/-! ### Requests of zones (R106, R107, R122) -/

/-- A zone's lower request for one pole (R106). -/
def lowersFor (zone : TagId) (p : Part) (i : PoleId) : Part × List PoleNotice := p.zoneLowerPole i zone

section
variable {p : Part} {i : PoleId} (zone : TagId)

theorem lowersFor_on (h : (p.poles.get i).onLine = true) : lowersFor zone p i = p.lower i .zone 0 (some zone) := by
  rw [Pole.onLine, Bool.or_eq_true, beq_iff_eq, beq_iff_eq] at h
  obtain h | h := h <;> simp only [lowersFor, Part.zoneLowerPole, h]

theorem lowersFor_raising (h : (p.poles.get i).state = .raising) : lowersFor zone p i = p.abandonRaise i .zoneLower none := by
  simp only [lowersFor, Part.zoneLowerPole, h]

/-- A HOUSED pole drops a retry that is pending (R106). -/
theorem lowersFor_housed (h : (p.poles.get i).state = .housed) :
    lowersFor zone p i = (if (p.poles.get i).retryPending then p.setPole i (p.poles.get i).givesUp else p, []) := by
  simp only [lowersFor, Part.zoneLowerPole, h]
  rw [← h]
  split <;> rfl

theorem lowersFor_other (hon : (p.poles.get i).onLine = false) (hraising : (p.poles.get i).state ≠ .raising)
    (hhoused : (p.poles.get i).state ≠ .housed) : lowersFor zone p i = (p, []) := by
  cases hs : (p.poles.get i).state <;> simp_all [lowersFor, Part.zoneLowerPole, Pole.onLine]

end

theorem lowersFor_works (zone : TagId) : WorksOn (lowersFor zone) := by
  intro p i
  by_cases hon : (p.poles.get i).onLine = true
  · rw [lowersFor_on zone hon]
    exact ⟨_, (lower_sets p i .zone 0 (some zone)).mono⟩
  by_cases hraising : (p.poles.get i).state = .raising
  · rw [lowersFor_raising zone hraising]
    exact ⟨_, abandonRaise_sets p i .zoneLower none⟩
  by_cases hhoused : (p.poles.get i).state = .housed
  · rw [lowersFor_housed zone hhoused]
    dsimp only
    split
    · exact ⟨_, (setPole_sets p i _).mono⟩
    · exact ⟨_, .refl _ _ _ p i⟩
  · rw [lowersFor_other zone (by simpa using hon) hraising hhoused]
    exact ⟨_, .refl _ _ _ p i⟩

theorem zoneLower_run {p : Part} (h : p.mode = .run) (zone : TagId) : p.zoneLower zone
    = (Part.eachPole (lowersFor zone) (p, []) [.p, .n]).1.sendNotices (Part.eachPole (lowersFor zone) (p, []) [.p, .n]).2 := by
  rw [Part.zoneLower]
  exact if_pos (beq_iff_eq.mpr h)

theorem zoneLower_other {p : Part} (h : p.mode ≠ .run) (zone : TagId) : p.zoneLower zone = p := by
  rw [Part.zoneLower]
  exact if_neg (by simpa using h)

theorem zoneRaise_eq (p : Part) (zone : TagId) : p.zoneRaise zone
    = (p.beginRaises [.p, .n] .zone 0 (some zone)).1.sendNotices (p.beginRaises [.p, .n] .zone 0 (some zone)).2 := rfl

theorem eachPole_keepsZones {f : Part → PoleId → Part × List PoleNotice} (hf : WorksOn f) (p : Part) (poles : List PoleId) :
    p.KeepsZones (Part.eachPole f (p, []) poles).1 := .of_same (eachPole_only hf poles (p, []) .zones (by decide))

theorem zoneLower_keepsZones (p : Part) (zone : TagId) : p.KeepsZones (p.zoneLower zone) := by
  by_cases h : p.mode = .run
  · rw [zoneLower_run h]
    exact (eachPole_keepsZones (lowersFor_works zone) p _).andThen (sendNotices_keepsZones _ _)
  · rw [zoneLower_other h]
    exact .refl p

theorem zoneRaise_keepsZones (p : Part) (zone : TagId) : p.KeepsZones (p.zoneRaise zone) := by
  rw [zoneRaise_eq, beginRaises_eq]
  exact (eachPole_keepsZones (beginRaise_works .zone 0 (some zone)) p [.p, .n]).andThen (sendNotices_keepsZones _ _)

theorem rewireMissed_keepsZones (p : Part) (z : Zone) (why : Precondition) (tag : Word) : p.KeepsZones (p.rewireMissed z why tag) :=
  .of_same ((rewireMissed_moves p z why tag).drifts.only .zones (by decide))

theorem askRaise_keepsZones (p : Part) (z : Zone) : p.KeepsZones (p.askRaise z) := by
  unfold Part.askRaise
  split
  · exact ((zoneRaise_keepsZones p z.id).andThen (setAction_keepsZones _ _ _)).andThen (waitingDone_keepsZones _)
  · exact setAction_keepsZones p _ _
  · exact (setAction_keepsZones p _ _).andThen (rewireMissed_keepsZones _ _ _ _)

theorem fireAction_keepsZones (p : Part) (order : Nat) : p.KeepsZones (p.fireAction order) := by
  unfold Part.fireAction
  split
  · exact .refl p
  · split
    · exact setAction_keepsZones p _ _
    · exact (zoneLower_keepsZones p _).andThen (setAction_keepsZones _ _ _)
    · exact askRaise_keepsZones p _

theorem retryAction_keepsZones (p : Part) (order : Nat) : p.KeepsZones (p.retryAction order) := by
  unfold Part.retryAction
  split
  · exact .refl p
  · split
    · exact askRaise_keepsZones p _
    · exact .refl p

end Sys2Proof.Machine

/-! ## Ends and pole actions of zones (R106, R107, R122, R123, R125) -/

namespace Sys2Proof.Machine

/-! ### Claims after the pole actions (R91) -/

theorem watched_iff (p q : Part) : q.watched = p.watched ↔ ∀ i, p.watchesAlike q i := by
  constructor
  · intro h i
    simp only [Part.watched, Pole.watched, Prod.mk.injEq] at h
    obtain ⟨hp, hn⟩ := h
    cases i
    · exact hp
    · exact hn
  · intro h
    have heach : ∀ i, (q.poles.get i).watched = (p.poles.get i).watched := fun i => by
      obtain ⟨hstate, hresolving, hlatch⟩ := h i
      rw [Pole.watched, Pole.watched, hstate, hresolving, hlatch]
    exact Prod.ext (heach .p) (heach .n)

theorem followPoles_alike {p q : Part} (h : ∀ i, p.watchesAlike q i) : q.followPoles p = q := if_pos ((watched_iff p q).mpr h)

theorem followPoles_changed {p q : Part} (h : ¬ ∀ i, p.watchesAlike q i) : q.followPoles p = q.updateClaims :=
  if_neg fun hw => h ((watched_iff p q).mp hw)

theorem followPoles_of_poles {p q : Part} (h : q.poles = p.poles) : q.followPoles p = q :=
  followPoles_alike fun i => ⟨by rw [h], by rw [h], by rw [h]⟩

/-- A pole that changes its state brings the test of the claims. -/
theorem followPoles_claims {p q : Part} {i : PoleId} (h : (q.poles.get i).state ≠ (p.poles.get i).state) : (q.followPoles p).poleClaims := by
  rw [followPoles_changed fun hw => h (hw i).1]
  exact updateClaims_claims q

/-! ### Ends (R123, R125) -/

/-- A zone out of the active set. -/
def Part.dropsZone (p : Part) (order : Nat) : Part := { p with zones := { p.zones with active := p.zones.active.filter (·.order != order) } }

theorem endZone_some {p : Part} {order : Nat} {z : Zone} (h : p.zones.activeZone order = some z) (cause : EndCause) (tag : Word) :
    p.endZone order cause tag = ((p.dropsZone order).missAtEnd z tag).reportEnd z.atEnd cause tag := by
  rw [Part.endZone, h]
  rfl

theorem endZone_none {p : Part} {order : Nat} (h : p.zones.activeZone order = none) (cause : EndCause) (tag : Word) :
    p.endZone order cause tag = p := by rw [Part.endZone, h]

theorem atEnd_profile (z : Zone) : z.atEnd.profile = z.profile := by
  rw [Zone.atEnd]
  split <;> rfl

theorem atEnd_id (z : Zone) : z.atEnd.id = z.id := by
  rw [Zone.atEnd]
  split <;> rfl

theorem atEnd_observed (z : Zone) : z.atEnd.observed = z.observed := by
  rw [Zone.atEnd]
  split <;> rfl

theorem missAtEnd_zones (p : Part) (z : Zone) (tag : Word) : (p.missAtEnd z tag).zones = p.zones :=
  (missAtEnd_moves p z tag).drifts.only .zones (by decide)

theorem missAtEnd_tables (p : Part) (z : Zone) (tag : Word) : (p.missAtEnd z tag).tables = p.tables :=
  (missAtEnd_moves p z tag).drifts.only .tables (by decide)

/-- The raise of REWIRE_MISSED (R122, R123). -/
def Part.missedRaise (p : Part) (z : Zone) (why : Precondition) (tag : Word) : Raise :=
  { kind := .rewireMissed, source := { block := .zoneMatcher, inst := identityCode z.id }, tag := tag,
    items := [.small z.feature, .small why.code, .small why.poleCode, bigNat p.zones.speed] }

theorem rewireMissed_eq (p : Part) (z : Zone) (why : Precondition) (tag : Word) : p.rewireMissed z why tag = p.raise (p.missedRaise z why tag) := rfl

theorem rewireMissed_activated (p : Part) (z : Zone) (why : Precondition) (tag : Word) :
    p.activated (p.rewireMissed z why tag) .rewireMissed { block := .zoneMatcher, inst := identityCode z.id }
      [.small z.feature, .small why.code, .small why.poleCode, bigNat p.zones.speed] :=
  activated_of_raise p (p.missedRaise z why tag) (show FaultKind.rewireMissed ≠ .alarmOutput by decide)

/-- A report leaves an activation as it stands. -/
theorem report_activated {p q : Part} {k : FaultKind} {s : Source} {items : List Item} (h : p.activated q k s items) (kind : ReportKind)
    (sev : Severity) (block : Block) (inst : Nat) (tag : Word) (its : List Item) :
    p.activated (q.report kind sev block inst tag its) k s items :=
  activated_congr h rfl rfl rfl rfl

theorem reportEnd_activated {p q : Part} {k : FaultKind} {s : Source} {items : List Item} (h : p.activated q k s items) (z : Zone)
    (cause : EndCause) (tag : Word) : p.activated (q.reportEnd z cause tag) k s items := by
  unfold Part.reportEnd
  split
  · exact report_activated h _ _ _ _ _ _
  all_goals
    split
    · exact report_activated h _ _ _ _ _ _
    · exact h

theorem reportEnd_zones (p : Part) (z : Zone) (cause : EndCause) (tag : Word) : (p.reportEnd z cause tag).zones = p.zones :=
  (reportEnd_moves p z cause tag).drifts.only .zones (by decide)

theorem endZone_zones (p : Part) (order : Nat) (cause : EndCause) (tag : Word) :
    (p.endZone order cause tag).zones = { p.zones with active := p.zones.active.filter (·.order != order) } := by
  cases h : p.zones.activeZone order with
  | some z =>
    rw [endZone_some h, reportEnd_zones, missAtEnd_zones]
    rfl
  | none =>
    rw [endZone_none h]
    have hall : ∀ z ∈ p.zones.active, (z.order != order) = true := by simpa [Zones.activeZone] using h
    rw [List.filter_eq_self.mpr hall]

theorem reportEnd_quiet {p : Part} {z : Zone} {cause : EndCause} (hcause : cause ≠ .displaced)
    (hreport : (p.tables.profile z.profile).reportOnPass = false) (hseen : z.observed = false) (tag : Word) : p.reportEnd z cause tag = p := by
  cases cause with
  | displaced => exact absurd rfl hcause
  | passed => exact if_neg (by simp [hreport, hseen])
  | cleared => exact if_neg (by simp [hreport, hseen])

theorem reportEnd_passed {p : Part} {z : Zone} {cause : EndCause} (hcause : cause ≠ .displaced)
    (h : (p.tables.profile z.profile).reportOnPass = true ∨ z.observed = true) (tag : Word) :
    p.reportEnd z cause tag = p.report .zonePassed .info .zoneMatcher (identityCode z.id) tag (z.endItems cause) := by
  cases cause with
  | displaced => exact absurd rfl hcause
  | passed => exact if_pos (by simpa using h)
  | cleared => exact if_pos (by simpa using h)

/-- What the end of an active zone brings (R123, R125). -/
theorem endZone_ends {p : Part} {z : Zone} (h : p.zones.activeZone z.order = some z) (cause : EndCause) (tag : Word) :
    p.endsZone (p.endZone z.order cause tag) z cause tag := by
  have hprofile : ((p.dropsZone z.order).missAtEnd z tag).tables.profile z.atEnd.profile = p.tables.profile z.profile := by
    rw [missAtEnd_tables, atEnd_profile]
    rfl
  have hend := endZone_some h cause tag
  refine ⟨endZone_zones p z.order cause tag, fun hw => ?_, fun hc => ?_, fun hc hor => ?_, fun hc hno hseen hw => ?_,
    (endZone_moves p z.order cause tag).drifts.only⟩
  · rw [hend, Part.missAtEnd, if_pos hw]
    exact reportEnd_activated (activated_congr (rewireMissed_activated (p.dropsZone z.order) z .speed tag) rfl rfl rfl rfl) _ _ _
  · rw [hend, hc, Part.reportEnd, atEnd_id]
    exact report_newest _ _ _ _ _ _ _
  · rw [hend, reportEnd_passed hc (by rw [hprofile, atEnd_observed]; exact hor), atEnd_id]
    exact report_newest _ _ _ _ _ _ _
  · rw [hend, Part.missAtEnd, if_neg hw, reportEnd_quiet hc ?_ (by rw [atEnd_observed, hseen])]
    · exact (moves_zones p _).drifts.only
    · rw [atEnd_profile]
      exact hno

end Sys2Proof.Machine

/-! ## Pole actions of zones (R106, R107, R118, R122, R123) -/

namespace Sys2Proof.Machine

/-! ### The action of a zone -/

theorem setAction_is (p : Part) (order : Nat) (a : ActionState) : (p.setAction order a).actionIs order a := by
  intro x hx ho
  obtain ⟨y, -, rfl⟩ := List.mem_map.mp hx
  split at ho
  next h => rw [if_pos h]
  next h => exact absurd ho h

theorem actionIs_of_zones {p q : Part} {order : Nat} {a : ActionState} (h : q.zones = p.zones) (ha : p.actionIs order a) :
    q.actionIs order a := fun x hx => ha x (h ▸ hx)

theorem followPoles_action {q : Part} {order : Nat} {a : ActionState} (h : q.actionIs order a) (o : Part) :
    (q.followPoles o).actionIs order a := actionIs_of_zones (followPoles_only q o .zones (by decide)) h

theorem setAction_laterOn (p : Part) (order : Nat) (a : ActionState) (i : PoleId) : Part.LaterOn i p (p.setAction order a) :=
  (setAction_moves p order a).drifts.only.laterOn i

theorem waitingDone_laterOn (p : Part) (i : PoleId) : Part.LaterOn i p p.waitingDone := (waitingDone_moves p).drifts.only.laterOn i

theorem waitingDone_action (p : Part) (order : Nat) (h : p.actionIs order .done) : p.waitingDone.actionIs order .done := by
  intro x hx ho
  obtain ⟨y, hy, rfl⟩ := List.mem_map.mp hx
  split at ho
  next hw => rw [if_pos hw]
  next hw =>
    rw [if_neg hw]
    exact h y hy ho

theorem waitingDone_none (p : Part) : ∀ x ∈ p.waitingDone.zones.active, x.action ≠ .waiting := by
  intro x hx
  obtain ⟨y, -, rfl⟩ := List.mem_map.mp hx
  split
  next => exact (show ActionState.done ≠ .waiting by decide)
  next hw => exact hw

/-! ### A lower request (R106) -/

theorem pair_mem (i : PoleId) : i ∈ [PoleId.p, .n] := by cases i <;> decide

theorem pair_nodup : [PoleId.p, .n].Nodup := by decide

/-- What a lower request does to a pole, whatever follows in the event. -/
theorem lowersFor_later {p m z : Part} {i : PoleId} {zone : TagId} (hs : Part.Sights i p m) (hl : Part.LaterOn i (lowersFor zone m i).1 z)
    (hclaims : (z.poles.get i).state ≠ (p.poles.get i).state → z.poleClaims) : p.zoneLowers z i zone := by
  refine ⟨fun hon => ?_, fun hraising => ?_, fun hoff hraising => ?_⟩
  · rw [lowersFor_on zone (by rw [hs.pole]; exact hon)] at hl
    refine lowers_of_later (by decide) hs hl (hclaims fun hstate => ?_)
    have hset := lower_sets m i .zone 0 (some zone)
    have hgone : (z.poles.get i).onLine = false := by
      rw [Pole.onLine, hl.state, hset.record]
      exact lowered_onLine _ _ _ _ _ _
    rw [Pole.onLine, hstate] at hgone
    exact absurd (hgone.symm.trans hon) (by decide)
  · rw [lowersFor_raising zone (by rw [hs.pole]; exact hraising)] at hl
    refine abandons_of_later hs hl (hclaims fun hstate => ?_)
    have hset := abandonRaise_sets m i .zoneLower none
    have hfinal := hl.state
    rw [hset.record, hstate, hraising, Part.abandoned, Pole.lowered] at hfinal
    split at hfinal
    next => exact absurd (hfinal.trans (afterHousing_fields _ m).1) (by decide)
    next => exact absurd hfinal (show PoleState.raising ≠ .lowering by decide)
  · by_cases hhoused : (p.poles.get i).state = .housed
    · rw [lowersFor_housed zone (by rw [hs.pole]; exact hhoused), hs.pole] at hl
      dsimp only at hl
      split at hl
      next hretry =>
        have hset := setPole_sets m i (p.poles.get i).givesUp
        have hrec := hl.record (by rw [hset.record]; exact hoff)
        rw [hrec, hset.record]
        exact ⟨rfl, fun _ => rfl⟩
      next hretry =>
        have hrec := hl.record (by rw [hs.pole]; exact hoff)
        rw [hrec, hs.pole]
        exact ⟨rfl, fun _ => by simpa using hretry⟩
    · rw [lowersFor_other zone (by rw [hs.pole]; exact hoff) (by rw [hs.pole]; exact hraising) (by rw [hs.pole]; exact hhoused)] at hl
      have hrec := hl.record (by rw [hs.pole]; exact hoff)
      rw [hrec, hs.pole]
      exact ⟨rfl, fun h => absurd h hhoused⟩

/-- A zone lower request in RUN, with what follows it in the event (R106). -/
theorem zoneLower_lowers {p : Part} (h : p.mode = .run) (zone : TagId) (order : Nat) (a : ActionState) (i : PoleId) :
    p.zoneLowers (((p.zoneLower zone).setAction order a).followPoles p) i zone := by
  obtain ⟨m, hsights, hlater⟩ := eachPole_at (lowersFor_works zone) pair_nodup (pair_mem i) (p, [])
  rw [zoneLower_run h]
  generalize Part.eachPole (lowersFor zone) (p, []) [.p, .n] = acc at hlater ⊢
  have hnotices := (sendNotices_tail acc.1 acc.2).laterOn i
  have haction := setAction_laterOn (acc.1.sendNotices acc.2) order a i
  have hfollow := (followPoles_tail ((acc.1.sendNotices acc.2).setAction order a) p).laterOn i
  refine lowersFor_later hsights (((hlater.andThen hnotices).andThen haction).andThen hfollow) fun hchange => ?_
  rw [hfollow.state] at hchange
  exact followPoles_claims hchange

/-! ### A raise request (R107, R122, R123) -/

theorem stateOrLatch_housed {p : Part} (h : ∀ i, (p.poles.get i).state = .housed ∧ (p.poles.get i).latch = false) :
    p.stateOrLatch [.p, .n] = none := by
  obtain ⟨hp, hlatchP⟩ := h .p
  obtain ⟨hn, hlatchN⟩ := h .n
  simp [Part.stateOrLatch, Part.firstPole, hp, hn, hlatchP, hlatchN]

theorem zoneRaiseAnswer_started {p : Part} (hmode : p.mode = .run) (hspeed : p.zones.speed ≤ 10 * p.tables.timers.raiseSpeed)
    (h : ∀ i, (p.poles.get i).state = .housed ∧ (p.poles.get i).latch = false) : p.zoneRaiseAnswer = .started := by
  simp [Part.zoneRaiseAnswer, Part.modePasses, Part.speedPasses, hmode, hspeed, stateOrLatch_housed h]

theorem zoneRaiseAnswer_speed {p : Part} (hmode : p.mode = .run) (hspeed : 10 * p.tables.timers.raiseSpeed < p.zones.speed)
    (h : ∀ i, (p.poles.get i).state = .housed ∧ (p.poles.get i).latch = false) : p.zoneRaiseAnswer = .speed := by
  simp [Part.zoneRaiseAnswer, Part.modePasses, Part.speedPasses, hmode, hspeed, stateOrLatch_housed h]

theorem zoneRaiseAnswer_refused {p : Part} {why : Precondition}
    (h : (p.mode ≠ .run ∧ why = .mode) ∨ (p.mode = .run ∧ p.stateOrLatch [.p, .n] = some why)) : p.zoneRaiseAnswer = .refused why := by
  obtain ⟨hmode, rfl⟩ | ⟨hmode, hwhy⟩ := h
  · simp [Part.zoneRaiseAnswer, Part.modePasses, hmode]
  · simp [Part.zoneRaiseAnswer, Part.modePasses, hmode, hwhy]

/-- A raise request is answered as the state stands (R107, R122, R123). -/
theorem askRaise_asks (p : Part) (z : Zone) : p.asksRaise ((p.askRaise z).followPoles p) z := by
  refine ⟨fun hmode hspeed hhoused => ?_, fun hmode hspeed hhoused => ?_, fun why hwhy => ?_⟩
  · have hask : p.askRaise z = ((p.zoneRaise z.id).setAction z.order .done).waitingDone := by
      rw [Part.askRaise, zoneRaiseAnswer_started hmode hspeed hhoused]
    rw [hask]
    refine ⟨fun i => ?_, followPoles_action (waitingDone_action _ _ (setAction_is _ _ _)) p, ?_⟩
    · obtain ⟨m, hsights, hlater⟩ := eachPole_at (beginRaise_works .zone 0 (some z.id)) pair_nodup (pair_mem i) (p, [])
      rw [zoneRaise_eq, beginRaises_eq]
      generalize Part.eachPole _ (p, []) [.p, .n] = acc at hlater ⊢
      have hnotices := (sendNotices_tail acc.1 acc.2).laterOn i
      have haction := setAction_laterOn (acc.1.sendNotices acc.2) z.order .done i
      have hdone := waitingDone_laterOn ((acc.1.sendNotices acc.2).setAction z.order .done) i
      have hfollow := (followPoles_tail ((acc.1.sendNotices acc.2).setAction z.order .done).waitingDone p).laterOn i
      have hevent := (hnotices.andThen haction).andThen hdone
      refine raises_of_later hsights ((hlater.andThen hevent).andThen hfollow) fun hsensor => followPoles_claims (i := i) ?_
      have hraised : ((m.beginRaise i .zone 0 (some z.id) 0 m.now).1.poles.get i).state = .raising := by
        rw [beginRaise_sensed _ _ _ _ _ _ _ (by rw [hsights.pole]; exact hsensor), (raisingPole_sets m i .zone 0 (some z.id) 0 m.now).record]
        rfl
      rw [(hlater.andThen hevent).state, hraised, (hhoused i).1]
      decide
    · rw [show (((p.zoneRaise z.id).setAction z.order .done).waitingDone.followPoles p).zones
        = ((p.zoneRaise z.id).setAction z.order .done).waitingDone.zones from followPoles_only _ _ .zones (by decide)]
      exact waitingDone_none _
  · have hask : p.askRaise z = p.setAction z.order .waiting := by rw [Part.askRaise, zoneRaiseAnswer_speed hmode hspeed hhoused]
    rw [hask, followPoles_of_poles (p := p) (q := p.setAction z.order .waiting) rfl]
    exact ⟨setAction_is _ _ _, (setAction_moves _ _ _).drifts.only⟩
  · have hask : p.askRaise z = (p.setAction z.order .missed).rewireMissed z why 0 := by rw [Part.askRaise, zoneRaiseAnswer_refused hwhy]
    have hmoves := (rewireMissed_moves (p.setAction z.order .missed) z why 0).drifts.only
    rw [hask, followPoles_of_poles (p := p) (show _ = p.poles from hmoves .poles (by decide))]
    exact ⟨actionIs_of_zones (hmoves .zones (by decide)) (setAction_is _ _ _),
      activated_congr (rewireMissed_activated (p.setAction z.order .missed) z why 0) rfl rfl rfl rfl,
      Part.onlyChanges_trans (Part.onlyChanges_mono (setAction_moves p z.order .missed).drifts.only (by decide))
        (Part.onlyChanges_mono hmoves (by decide))⟩

/-! ### The action of a zone that has entered (R118, R122) -/

section
variable {p : Part} {z : Zone} (h : p.zones.activeZone z.order = some z)
include h

theorem fireAction_none (ha : (p.tables.profile z.profile).action = .none) : p.fireAction z.order = p.setAction z.order .done := by
  simp only [Part.fireAction, h, ha]

theorem fireAction_lower (ha : (p.tables.profile z.profile).action = .lower) :
    p.fireAction z.order = (p.zoneLower z.id).setAction z.order .done := by simp only [Part.fireAction, h, ha]

theorem fireAction_raise (ha : (p.tables.profile z.profile).action = .raise) : p.fireAction z.order = p.askRaise z := by
  simp only [Part.fireAction, h, ha]

theorem fireAction_fires : p.firesAction ((p.fireAction z.order).followPoles p) z := by
  refine ⟨fun ha => ?_, fun ha => ?_, fun ha => ?_⟩
  · rw [fireAction_none h ha, followPoles_of_poles (p := p) (q := p.setAction z.order .done) rfl]
    exact ⟨setAction_is _ _ _, (setAction_moves _ _ _).drifts.only⟩
  · rw [fireAction_lower h ha]
    refine ⟨followPoles_action (setAction_is _ _ _) p, fun hmode => ?_, fun hmode i => zoneLower_lowers hmode z.id z.order .done i⟩
    rw [zoneLower_other hmode, followPoles_of_poles (p := p) (q := p.setAction z.order .done) rfl]
    exact (setAction_moves _ _ _).drifts.only
  · rw [fireAction_raise h ha]
    exact askRaise_asks p z

end

theorem retryAction_asks {p : Part} {z : Zone} (h : p.zones.activeZone z.order = some z) (hw : z.action = .waiting) :
    p.asksRaise ((p.retryAction z.order).followPoles p) z := by
  rw [Part.retryAction, h]
  dsimp only
  rw [if_pos hw]
  exact askRaise_asks p z

theorem retryAction_idle {p : Part} {z : Zone} (h : p.zones.activeZone z.order = some z) (hw : z.action ≠ .waiting) :
    p.retryAction z.order = p := by
  rw [Part.retryAction, h]
  exact if_neg hw

end Sys2Proof.Machine

/-! ## Entries of zones (R109, R118 to R121) -/

namespace Sys2Proof.Machine

/-- What an entry or an end of a zone may write. -/
def zoneStepPieces : List Piece := raisePieces ++ [.zones]

/-! ### One zone (R119) -/

/-- The active set makes place for a zone: of four, the lowest is displaced (R119). -/
def Part.makesPlace (p : Part) : Part :=
  if 4 ≤ p.zones.active.length then
    match p.zones.lowest with
    | some x => p.endZone x.order .displaced 0
    | none => p
  else p

theorem enterZone_eq (p : Part) (z : Zone) :
    p.enterZone z = { p.makesPlace with zones := { p.makesPlace.zones with active := p.makesPlace.zones.active ++ [z] } } := rfl

theorem makesPlace_only (p : Part) : p.onlyChanges zoneStepPieces p.makesPlace := by
  unfold Part.makesPlace
  split
  · split
    · exact (endZone_moves p _ .displaced 0).drifts.only
    · exact Part.onlyChanges_refl _ p
  · exact Part.onlyChanges_refl _ p

theorem enterZone_only (p : Part) (z : Zone) : p.onlyChanges zoneStepPieces (p.enterZone z) := by
  rw [enterZone_eq]
  exact Part.onlyChanges_trans (makesPlace_only p) (Part.onlyChanges_mono (moves_zones p.makesPlace _).drifts.only (by decide))

theorem enterZone_zones (p : Part) (z : Zone) :
    (p.enterZone z).zones = { p.zones with active := withEntered p.zones.odometer p.zones.active z } := by
  have hplace : ∀ l : List Zone, p.makesPlace.zones = { p.zones with active := l } →
      (p.enterZone z).zones = { p.zones with active := l ++ [z] } := fun l hl => by
    rw [enterZone_eq]
    simp only [hl]
  have hsorted : p.zones.lowest = (sortBy (zoneBefore p.zones.odometer) p.zones.active).getLast? := rfl
  rw [withEntered, ← hsorted]
  cases hlow : p.zones.lowest with
  | some x =>
    dsimp only
    split
    next hfull => exact hplace _ (by rw [Part.makesPlace, if_pos hfull, hlow]; exact endZone_zones p x.order .displaced 0)
    next hfree => exact hplace _ (by rw [Part.makesPlace, if_neg hfree])
  | none =>
    refine hplace _ ?_
    rw [Part.makesPlace, hlow]
    split <;> rfl

/-! ### The pending zones that are reached (R118 step 2) -/

theorem enterReached_cons {p : Part} {z : Zone} {rest : List Zone} (hq : p.zones.pendingZones = z :: rest) (n : Nat)
    (h : p.zones.reached z.start = true) : enterReached (n + 1) p
      = ((enterReached n ((p.setPending rest).enterZone z)).1, z.order :: (enterReached n ((p.setPending rest).enterZone z)).2) := by
  rw [enterReached, hq]
  exact if_pos h

theorem enterReached_stop {p : Part} {z : Zone} {rest : List Zone} (hq : p.zones.pendingZones = z :: rest) (n : Nat)
    (h : p.zones.reached z.start = false) : enterReached (n + 1) p = (p, []) := by
  rw [enterReached, hq]
  exact if_neg (by simp [h])

theorem reached_congr {y z : Zones} (h : y.odometer = z.odometer) : y.reached = z.reached := by
  funext x
  rw [Zones.reached, Zones.reached, h]

/-- The zones that enter, and no other (R118 step 2, R119). -/
theorem enterReached_enters (p : Part) :
    (enterReached p.zones.pendingZones.length p).2 = p.zones.entering.map (·.order)
      ∧ (enterReached p.zones.pendingZones.length p).1.zones =
          { p.zones with pendingZones := p.zones.pendingZones.dropWhile (fun z => p.zones.reached z.start),
                         active := p.zones.entering.foldl (withEntered p.zones.odometer) p.zones.active }
      ∧ (p.zones.entering = [] → (enterReached p.zones.pendingZones.length p).1 = p)
      ∧ p.onlyChanges zoneStepPieces (enterReached p.zones.pendingZones.length p).1 := by
  generalize hq : p.zones.pendingZones = queue
  induction queue generalizing p with
  | nil =>
    rw [Zones.entering, hq]
    exact ⟨rfl, congrArg (fun l => ({ p.zones with pendingZones := l } : Zones)) hq, fun _ => rfl, Part.onlyChanges_refl _ p⟩
  | cons z rest ih =>
    rw [Zones.entering, hq]
    cases h : p.zones.reached z.start with
    | false =>
      rw [List.length_cons, enterReached_stop hq _ h, List.takeWhile_cons_of_neg (by simp [h]), List.dropWhile_cons_of_neg (by simp [h])]
      exact ⟨rfl, congrArg (fun l => ({ p.zones with pendingZones := l } : Zones)) hq, fun _ => rfl, Part.onlyChanges_refl _ p⟩
    | true =>
      have hzones := enterZone_zones (p.setPending rest) z
      have honly := Part.onlyChanges_trans (xs := zoneStepPieces)
        (Part.onlyChanges_mono (setPending_moves p rest).drifts.only (by decide)) (enterZone_only (p.setPending rest) z)
      obtain ⟨horders, hend, -, hframe⟩ := ih ((p.setPending rest).enterZone z) (congrArg Zones.pendingZones hzones)
      have hreached : ((p.setPending rest).enterZone z).zones.reached = p.zones.reached := by
        rw [hzones]
        exact reached_congr rfl
      have hentering : ((p.setPending rest).enterZone z).zones.entering = rest.takeWhile fun x => p.zones.reached x.start := by
        rw [Zones.entering, hreached, congrArg Zones.pendingZones hzones]
        rfl
      rw [hentering] at horders
      rw [hentering, hreached, hzones] at hend
      rw [List.length_cons, enterReached_cons hq _ h, List.takeWhile_cons_of_pos (p := fun x : Zone => p.zones.reached x.start) h,
        List.dropWhile_cons_of_pos (p := fun x : Zone => p.zones.reached x.start) h]
      exact ⟨congrArg (z.order :: ·) horders, hend, fun hnone => absurd hnone (List.cons_ne_nil _ _), Part.onlyChanges_trans honly hframe⟩

/-! ### Steps 2 and 3 (R118, R121) -/

/-- The reached zones enter, and the effective profile follows. -/
def Part.enters (p : Part) (ended : Bool) : Part :=
  if ended || !(enterReached p.zones.pendingZones.length p).2.isEmpty then (enterReached p.zones.pendingZones.length p).1.recomputeProfile
  else (enterReached p.zones.pendingZones.length p).1

theorem startZones_eq (p : Part) (ended : Bool) :
    p.startZones ended = (p.enters ended).actOnZones (enterReached p.zones.pendingZones.length p).2 Part.fireAction := rfl

/-- The profile is computed where zones ended or entered (R121). -/
theorem enters_enters (p : Part) (ended : Bool) : p.entersZones (p.enters ended) ended := by
  obtain ⟨horders, hzones, hnone, hframe⟩ := enterReached_enters p
  have htables : (enterReached p.zones.pendingZones.length p).1.tables = p.tables := hframe .tables (by decide)
  rw [Part.enters, horders]
  generalize (enterReached p.zones.pendingZones.length p).1 = m at hzones hnone hframe htables
  have hempty : (!(p.zones.entering.map (·.order)).isEmpty) = true ↔ p.zones.entering ≠ [] := by simp
  by_cases h : ended = true ∨ p.zones.entering ≠ []
  · rw [if_pos (by rwa [Bool.or_eq_true, hempty])]
    refine ⟨?_, ?_, ?_, ?_, ?_, fun hn => ?_, ?_⟩
    · exact (congrArg Zones.pendingZones hzones :)
    · exact (congrArg Zones.active hzones :)
    · rw [if_pos h, ← htables]
      rfl
    · exact (congrArg Zones.odometer hzones :)
    · exact (congrArg Zones.speed hzones :)
    · rw [hnone hn]
      exact (recomputeProfile_moves p).drifts.only
    · exact Part.onlyChanges_trans hframe (Part.onlyChanges_mono (recomputeProfile_moves m).drifts.only (by decide))
  · rw [if_neg (by rwa [Bool.or_eq_true, hempty])]
    refine ⟨?_, ?_, ?_, ?_, ?_, fun hn => ?_, hframe⟩
    · exact (congrArg Zones.pendingZones hzones :)
    · exact (congrArg Zones.active hzones :)
    · rw [if_neg h]
      exact (congrArg Zones.effective hzones :)
    · exact (congrArg Zones.odometer hzones :)
    · exact (congrArg Zones.speed hzones :)
    · rw [hnone hn]
      exact Part.onlyChanges_refl _ p

/-! ### Step 1 (R118) -/

/-- The zones of some arrival orders end (R118). -/
def Part.endsZones (p : Part) (orders : List Nat) (cause : EndCause) (tag : Word) : Part := p.forEach orders (fun p o => p.endZone o cause tag)

theorem endsZones_zones (p : Part) (orders : List Nat) (cause : EndCause) (tag : Word) : (p.endsZones orders cause tag).zones
    = { p.zones with active := p.zones.active.filter (fun z => !orders.contains z.order) } := by
  induction orders generalizing p with
  | nil =>
    have hall : p.zones.active.filter (fun z => !([] : List Nat).contains z.order) = p.zones.active := List.filter_eq_self.mpr (by simp)
    rw [hall]
    rfl
  | cons o orders ih =>
    refine (ih (p.endZone o cause tag)).trans ?_
    rw [endZone_zones]
    refine congrArg (fun l => ({ p.zones with active := l } : Zones)) ?_
    rw [List.filter_filter]
    refine List.filter_congr fun z _ => ?_
    rw [List.contains_cons, Bool.not_or, Bool.and_comm]
    rfl

theorem endsZones_only (p : Part) (orders : List Nat) (cause : EndCause) (tag : Word) : p.onlyChanges zoneStepPieces (p.endsZones orders cause tag) :=
  (forEach_moves (ys := zoneStepPieces) _ (fun p o => endZone_moves p o cause tag) orders p).drifts.only

theorem mem_ended (z : Zones) (o : Nat) : o ∈ z.ended ↔ ∃ y ∈ z.active, y.order = o ∧ z.passed y.stop = true := by
  simp only [Zones.ended, Zones.precedence, List.mem_map, List.mem_filter, mem_sortBy]
  exact ⟨fun ⟨y, ⟨hy, hpass⟩, ho⟩ => ⟨y, hy, ho, hpass⟩, fun ⟨y, hy, ho, hpass⟩ => ⟨y, ⟨hy, hpass⟩, ho⟩⟩

theorem ended_contains (z : Zones) (x : Zone) : z.ended.contains x.order = z.active.any fun y => y.order == x.order && z.passed y.stop := by
  rw [Bool.eq_iff_iff, List.contains_iff_mem, mem_ended, List.any_eq_true]
  simp only [Bool.and_eq_true, beq_iff_eq]

theorem ended_isEmpty (z : Zones) : (!z.ended.isEmpty) = z.active.any fun y => z.passed y.stop := by
  rw [Bool.eq_iff_iff, Bool.not_eq_true', List.isEmpty_eq_false_iff_exists_mem, List.any_eq_true]
  exact ⟨fun ⟨o, ho⟩ => (mem_ended z o).mp ho |>.imp fun y ⟨hy, _, hpass⟩ => ⟨hy, hpass⟩,
    fun ⟨y, hy, hpass⟩ => ⟨y.order, (mem_ended z y.order).mpr ⟨y, hy, rfl, hpass⟩⟩⟩

/-! ### The effective profile (R121) -/

theorem foldl_min_le (l : List Nat) (n : Nat) : l.foldl min n ≤ n ∧ ∀ x ∈ l, l.foldl min n ≤ x := by
  induction l generalizing n with
  | nil => exact ⟨Nat.le_refl _, fun _ h => nomatch h⟩
  | cons y l ih =>
    obtain ⟨hn, hl⟩ := ih (min n y)
    refine ⟨hn.trans (Nat.min_le_left _ _), fun x hx => ?_⟩
    obtain rfl | hx := List.mem_cons.mp hx
    · exact hn.trans (Nat.min_le_right _ _)
    · exact hl x hx

theorem foldl_min_mem (l : List Nat) (n : Nat) : l.foldl min n = n ∨ l.foldl min n ∈ l := by
  induction l generalizing n with
  | nil => exact .inl rfl
  | cons y l ih =>
    obtain h | h := ih (min n y)
    · rw [List.foldl_cons, h]
      obtain hn | hy := Nat.le_total n y
      · exact .inl (Nat.min_eq_left hn)
      · rw [Nat.min_eq_right hy]
        exact .inr List.mem_cons_self
    · exact .inr (List.mem_cons_of_mem _ h)

theorem le_foldl_max (l : List Nat) (n : Nat) : n ≤ l.foldl max n ∧ ∀ x ∈ l, x ≤ l.foldl max n := by
  induction l generalizing n with
  | nil => exact ⟨Nat.le_refl _, fun _ h => nomatch h⟩
  | cons y l ih =>
    obtain ⟨hn, hl⟩ := ih (max n y)
    refine ⟨(Nat.le_max_left _ _).trans hn, fun x hx => ?_⟩
    obtain rfl | hx := List.mem_cons.mp hx
    · exact (Nat.le_max_right _ _).trans hn
    · exact hl x hx

theorem foldl_max_mem (l : List Nat) (n : Nat) : l.foldl max n = n ∨ l.foldl max n ∈ l := by
  induction l generalizing n with
  | nil => exact .inl rfl
  | cons y l ih =>
    obtain h | h := ih (max n y)
    · rw [List.foldl_cons, h]
      obtain hy | hn := Nat.le_total n y
      · rw [Nat.max_eq_right hy]
        exact .inr List.mem_cons_self
      · exact .inl (Nat.max_eq_left hn)
    · exact .inr (List.mem_cons_of_mem _ h)

/-- The least of some caps of at most 100 is one of them. -/
theorem foldl_min_attained {α : Type} (f : α → Nat) (w : α) (rest : List α) (h : ∀ x ∈ w :: rest, f x ≤ 100) :
    ∃ x ∈ w :: rest, ((w :: rest).map f).foldl min 100 = f x := by
  obtain hfull | hmem := foldl_min_mem ((w :: rest).map f) 100
  · have hw := (foldl_min_le ((w :: rest).map f) 100).2 (f w) (List.mem_map_of_mem List.mem_cons_self)
    exact ⟨w, List.mem_cons_self, Nat.le_antisymm hw (le_of_le_of_eq (h w List.mem_cons_self) hfull.symm)⟩
  · obtain ⟨x, hx, heq⟩ := List.mem_map.mp hmem
    exact ⟨x, hx, heq.symm⟩

/-- The least of some caps is below each. -/
theorem foldl_min_map_le {α : Type} (f : α → Nat) {l : List α} {x : α} (hx : x ∈ l) : (l.map f).foldl min 100 ≤ f x :=
  (foldl_min_le (l.map f) 100).2 (f x) (List.mem_map_of_mem hx)

/-- The greatest tolerance among the profiles that expect a gap (R121). -/
theorem effective_tolerance (w : Profile) (rest : List Profile) :
    (∀ x ∈ w :: rest, x.gapExpected = true → x.gapTolerance ≤ (effectiveOf (w :: rest)).gapTolerance)
      ∧ ((effectiveOf (w :: rest)).gapExpected = true →
          ∃ x ∈ w :: rest, x.gapExpected = true ∧ (effectiveOf (w :: rest)).gapTolerance = x.gapTolerance) := by
  have hle := fun (x : Profile) (hx : x ∈ w :: rest) (hgap : x.gapExpected = true) =>
    (le_foldl_max (((w :: rest).filter (·.gapExpected)).map (·.gapTolerance)) 0).2 x.gapTolerance
      (List.mem_map_of_mem (List.mem_filter.mpr ⟨hx, hgap⟩))
  refine ⟨hle, fun hany => ?_⟩
  obtain ⟨y, hy, hgap⟩ := List.any_eq_true.mp (show (w :: rest).any (·.gapExpected) = true from hany)
  obtain hzero | hmem := foldl_max_mem (((w :: rest).filter (·.gapExpected)).map (·.gapTolerance)) 0
  · have hleast := hle y hy hgap
    rw [hzero] at hleast
    exact ⟨y, hy, hgap, hzero.trans (Nat.le_zero.mp hleast).symm⟩
  · obtain ⟨x, hx, heq⟩ := List.mem_map.mp hmem
    obtain ⟨hx, hgap⟩ := List.mem_filter.mp hx
    exact ⟨x, hx, hgap, heq.symm⟩

end Sys2Proof.Machine

/-! ## An odometry pulse (R108, R110, R118) -/

namespace Sys2Proof.Machine

/-! ### The stages of an advance -/

/-- The odometer has advanced (R108, R110). -/
def Part.travels (p : Part) (n : Nat) : Part :=
  { p with zones := { p.zones with odometer := p.zones.odometer + word n, residue := p.pulseResidue, stationary := false,
                                   stationaryTimer := p.startTimer 2000 } }

/-- The zones that are passed have ended (R118 step 1). -/
def Part.endsPassed (p : Part) : Part := p.endsZones p.zones.ended .passed 0

theorem odometryPulse_still {p : Part} (h : p.pulseSteps = 0) : p.odometryPulse = { p with zones := { p.zones with residue := p.pulseResidue } } :=
  if_pos h

theorem odometryPulse_travels {p : Part} (h : p.pulseSteps ≠ 0) : p.odometryPulse
    = (((p.travels p.pulseSteps).endsPassed.enters (!(p.travels p.pulseSteps).zones.ended.isEmpty)).actOnZones
        ((p.travels p.pulseSteps).endsPassed.zones.entering.map (·.order)) Part.fireAction) := by
  obtain ⟨horders, -⟩ := enterReached_enters (p.travels p.pulseSteps).endsPassed
  rw [← horders]
  exact if_neg h

/-- What entries leave of the zones' record. -/
theorem enters_rest (p : Part) (ended : Bool) : (p.enters ended).zones = { p.zones with
    pendingZones := (p.enters ended).zones.pendingZones, active := (p.enters ended).zones.active,
    effective := (p.enters ended).zones.effective } := by
  obtain ⟨-, hzones, -⟩ := enterReached_enters p
  rw [Part.enters]
  generalize (enterReached p.zones.pendingZones.length p).1 = m at hzones
  split
  · rw [Part.recomputeProfile, hzones]
  · rw [hzones]

theorem endsPassed_only (p : Part) : p.onlyChanges zoneStepPieces p.endsPassed := endsZones_only _ _ _ _

theorem endsPassed_active (p : Part) : p.endsPassed.zones.active
    = p.zones.active.filter fun z => !(p.zones.active.any fun y => y.order == z.order && p.zones.passed y.stop) := by
  rw [Part.endsPassed, endsZones_zones]
  exact List.filter_congr fun z _ => by rw [ended_contains]

theorem endsPassed_zones (p : Part) : p.endsPassed.zones = { p.zones with active := p.endsPassed.zones.active } := by
  rw [Part.endsPassed, endsZones_zones]

theorem endsPassed_none {p : Part} (h : ∀ z ∈ p.zones.active, p.zones.passed z.stop = false) : p.endsPassed = p := by
  have hnone : p.zones.ended = [] := List.eq_nil_iff_forall_not_mem.mpr fun o ho => by
    obtain ⟨y, hy, -, hpass⟩ := (mem_ended p.zones o).mp ho
    rw [h y hy] at hpass
    cases hpass
  rw [Part.endsPassed, hnone]
  rfl

theorem actOnZones_keepsZones (p : Part) (orders : List Nat) {act : Part → Nat → Part} (h : ∀ (p : Part) (o : Nat), p.KeepsZones (act p o)) :
    p.KeepsZones (p.actOnZones orders act) := (forEach_keepsZones h orders p).andThen (followPoles_keepsZones _ _)

/-- The profile of the zones that are active (R121). -/
theorem effective_profile (w : Profile) (rest : List Profile) :
    (∀ x ∈ w :: rest, (effectiveOf (w :: rest)).tractionCap ≤ x.tractionCap ∧ (effectiveOf (w :: rest)).regenCap ≤ x.regenCap
        ∧ (x.gapExpected = true → x.gapTolerance ≤ (effectiveOf (w :: rest)).gapTolerance))
      ∧ ((∀ x ∈ w :: rest, x.tractionCap ≤ 100 ∧ x.regenCap ≤ 100) →
          (∃ x ∈ w :: rest, (effectiveOf (w :: rest)).tractionCap = x.tractionCap)
          ∧ ∃ x ∈ w :: rest, (effectiveOf (w :: rest)).regenCap = x.regenCap) := by
  obtain ⟨htolerance, -⟩ := effective_tolerance w rest
  exact ⟨fun x hx => ⟨foldl_min_map_le Profile.tractionCap hx, foldl_min_map_le Profile.regenCap hx, htolerance x hx⟩,
    fun h => ⟨foldl_min_attained Profile.tractionCap w rest fun x hx => (h x hx).1,
      foldl_min_attained Profile.regenCap w rest fun x hx => (h x hx).2⟩⟩

/-! ### The advance as a whole -/

section
variable {p : Part} (h : p.pulseSteps ≠ 0) (o : Part)
include h

theorem pulse_keeps : (p.travels p.pulseSteps).endsPassed.enters (!(p.travels p.pulseSteps).zones.ended.isEmpty)
    |>.KeepsZones (p.odometryPulse.orderEntries o) := by
  rw [odometryPulse_travels h]
  exact (actOnZones_keepsZones _ _ fireAction_keepsZones).andThen (orderEntries_keepsZones _ o)

/-- A field of the zones' record that entries and ends leave alone. -/
theorem pulse_field {α : Type} (f : Zones → α) (hlast : ∀ z : Zones, f z.lasting = f z := by intros; rfl)
    (hf : ∀ (z : Zones) (q a : List Zone) (e : Effective), f { z with pendingZones := q, active := a, effective := e } = f z := by intros; rfl) :
    f (p.odometryPulse.orderEntries o).zones = f (p.travels p.pulseSteps).zones := by
  rw [(pulse_keeps h o).field f hlast, enters_rest, hf, endsPassed_zones]
  exact hf _ _ _ _

theorem pulse_pending : (p.odometryPulse.orderEntries o).zones.pendingZones
    = p.zones.pendingZones.dropWhile fun z => decide ((p.zones.odometer + word p.pulseSteps - z.start).toNat < 2 ^ 31) := by
  obtain ⟨hpending, -⟩ := enters_enters (p.travels p.pulseSteps).endsPassed (!(p.travels p.pulseSteps).zones.ended.isEmpty)
  rw [(pulse_keeps h o).field Zones.pendingZones, hpending, endsPassed_zones]
  rfl

end

theorem exec_pulse (s : State) : exec .odometryPulse s = .next { s with part := (s.part.odometryPulse.orderEntries s.part).settle } := by
  rw [exec_odometryPulse, event_next]

/-- Settles O56, which holds: ends, entries, the profile and the pole actions stage by stage. -/
theorem odometryPulseAdvances : Obligations.OdometryPulseAdvances := by
  unfold Obligations.OdometryPulseAdvances
  refine ⟨fun s n hn => ?_, fun p z hz => ⟨fireAction_fires hz, endZone_ends hz⟩,
    fun p q => ⟨followPoles_alike, fun hw => ⟨?_, followPoles_only q p⟩⟩, fun w rest => ?_⟩
  · have hframe : s.part.onlyChanges polePieces (s.part.odometryPulse.orderEntries s.part) :=
      orderEntries_of_lineFrame (odometryPulse_moves s.part).drifts.only
    have hexec := exec_pulse s
    generalize s.part = p at *
    replace hn : n = p.pulseSteps := hn
    subst hn
    by_cases h : p.pulseSteps = 0
    · have hend : p.odometryPulse.orderEntries p = { p with zones := { p.zones with residue := p.pulseResidue } } := by
        rw [odometryPulse_still h]
        exact orderEntries_same _ _ rfl
      rw [hend] at hexec hframe
      exact ⟨_, hexec, rfl, fun _ => ⟨(moves_zones p _).drifts.only, rfl⟩, fun hn => absurd h hn, fun hn => absurd h hn, rfl, rfl, rfl, hframe⟩
    · have hresidue := pulse_field h p Zones.residue
      have htimer := pulse_field h p Zones.stationaryTimer
      have hodometer := pulse_field h p Zones.odometer
      have hmoved : p.travels p.pulseSteps = { p with zones := { p.zones with
          odometer := p.zones.odometer + word p.pulseSteps, residue := (p.odometryPulse.orderEntries p).zones.residue, stationary := false,
          stationaryTimer := p.startTimer 2000 } } := by
        rw [hresidue]
        rfl
      have hzones := endsPassed_zones (p.travels p.pulseSteps)
      have honly := endsPassed_only (p.travels p.pulseSteps)
      have hstart : p.onlyChanges [.zones] (p.travels p.pulseSteps) := (moves_zones p _).drifts.only
      have henters := enters_enters (p.travels p.pulseSteps).endsPassed (!(p.travels p.pulseSteps).zones.ended.isEmpty)
      rw [ended_isEmpty] at henters
      have hpulse := congrArg (·.orderEntries p) (odometryPulse_travels h)
      rw [ended_isEmpty] at hpulse
      refine ⟨p.odometryPulse.orderEntries p, hexec, hresidue, fun hz => absurd hz h,
        fun _ => ⟨hodometer, pulse_field h p Zones.stationary, htimer, pulse_pending h p⟩,
        fun _ => ⟨p.travels p.pulseSteps, (p.travels p.pulseSteps).endsPassed, _, hmoved, rfl, endsPassed_active _, ?_, ?_, ?_, henters, hpulse⟩,
        pulse_field h p Zones.speed, pulse_field h p Zones.recent, pulse_field h p Zones.seen, hframe⟩
      · rw [hresidue, htimer, hodometer]
        exact hzones
      · exact Part.onlyChanges_trans (Part.onlyChanges_mono hstart (by decide)) honly
      · intro hnone
        rw [endsPassed_none (p := p.travels p.pulseSteps) hnone]
        exact hstart
  · rw [followPoles_changed hw]
    exact updateClaims_claims q
  · obtain ⟨hcaps, hattained⟩ := effective_profile w rest
    exact ⟨rfl, hcaps, hattained, (effective_tolerance w rest).2, List.any_eq_true, List.any_eq_true, rfl, rfl⟩

end Sys2Proof.Machine

/-! ## Speed, and actions tried again (R110, R123) -/

namespace Sys2Proof.Machine

/-! ### A raise request at the end of an event (R107, R146) -/

/-- The entry orders leave a raise as it was answered. -/
theorem raises_ordered {p q : Part} {i : PoleId} {origin : RaiseOrigin} {tag : Word} {zone : Option TagId} (h : p.raises q i origin tag zone)
    (o : Part) : p.raises (q.orderEntries o) i origin tag zone := by
  have honly : q.onlyChanges [.aux] (q.orderEntries o) := (orderEntries_moves q o).drifts.only
  have hpoles : (q.orderEntries o).poles = q.poles := honly .poles (by decide)
  have hout : ∀ x, (q.orderEntries o).output x = q.output x := output_of_same (honly .outputs (by decide))
  obtain ⟨hclaims, -⟩ : q.same (q.orderEntries o) .inhibit := honly .inhibit (by decide)
  obtain ⟨hholding, -⟩ : q.same (q.orderEntries o) .reports := honly .reports (by decide)
  simpa only [Part.raises, Part.driven, Mailbox.tells, hpoles, hout, hclaims, hholding] using h

theorem actionIs_ordered {q : Part} {order : Nat} {a : ActionState} (h : q.actionIs order a) (o : Part) : (q.orderEntries o).actionIs order a :=
  actionIs_of_zones ((orderEntries_moves q o).drifts.only .zones (by decide)) h

/-- The answer to a raise request at the end of its event. -/
theorem asksRaise_ordered {p q o : Part} {z : Zone} (h : p.asksRaise q z) (ho : o.aux = p.aux) : p.asksRaise (q.orderEntries o) z := by
  obtain ⟨hstarted, hspeed, hrefused⟩ := h
  have hidle : q.aux = p.aux → q.orderEntries o = q := fun haux => orderEntries_same _ _ (haux.trans ho.symm)
  refine ⟨fun hmode hslow hhoused => ?_, fun hmode hfast hhoused => ?_, fun why hwhy => ?_⟩
  · obtain ⟨hraises, hdone, hnone⟩ := hstarted hmode hslow hhoused
    refine ⟨fun i => raises_ordered (hraises i) o, actionIs_ordered hdone o, fun x hx => hnone x ?_⟩
    rwa [show (q.orderEntries o).zones = q.zones from (orderEntries_moves q o).drifts.only .zones (by decide)] at hx
  · obtain ⟨hwaiting, honly⟩ := hspeed hmode hfast hhoused
    rw [hidle (honly .aux (by decide))]
    exact ⟨hwaiting, honly⟩
  · obtain ⟨hmissed, hactivated, honly⟩ := hrefused why hwhy
    rw [hidle (honly .aux (by decide))]
    exact ⟨hmissed, hactivated, honly⟩

/-! ### The speed timer (R110) -/

/-- The speed of the last 500 ms, and the timer again (R110). -/
def Part.takesSpeed (p : Part) : Part := { p with zones := { p.zones.takeSpeed with speedTimer := p.startTimer 100 } }

theorem takesSpeed_only (p : Part) : p.onlyChanges [.zones] p.takesSpeed := (moves_zones p _).drifts.only

theorem speedExpired_run {p : Part} (h : p.mode = .run) :
    p.speedExpired = (p.takesSpeed.forEach (p.zones.precedence.map (·.order)) Part.retryAction).followPoles p.takesSpeed := if_pos h

theorem speedExpired_other {p : Part} (h : p.mode ≠ .run) : p.speedExpired = p.takesSpeed := if_neg h

theorem retryActions_keepsZones (p : Part) : p.KeepsZones p.retryActions := by
  unfold Part.retryActions
  split
  · exact actOnZones_keepsZones p _ retryAction_keepsZones
  · exact .refl p

theorem speedExpired_keepsZones (p o : Part) : p.takesSpeed.KeepsZones (p.speedExpired.orderEntries o) :=
  (retryActions_keepsZones p.takesSpeed).andThen (orderEntries_keepsZones _ o)

/-- With no action WAITING there is nothing to try again (R123). -/
theorem retryActions_idle {p : Part} (h : ∀ z ∈ p.zones.active, z.action ≠ .waiting) : p.retryActions = p := by
  have hretry : ∀ order, p.retryAction order = p := fun order => by
    cases hz : p.zones.activeZone order with
    | none => rw [Part.retryAction, hz]
    | some z =>
      rw [Part.retryAction, hz]
      exact if_neg (h z (List.mem_of_find?_eq_some hz))
  have hall : ∀ orders : List Nat, p.forEach orders Part.retryAction = p := fun orders => by
    induction orders with
    | nil => rfl
    | cons order orders ih =>
      rw [Part.forEach, List.foldl_cons, hretry]
      exact ih
  unfold Part.retryActions Part.actOnZones
  rw [hall, followPoles_of_poles (p := p) (q := p) rfl, ite_self]

/-- The one zone of the active set has its action tried again (R123). -/
theorem speedExpired_single {p : Part} {z : Zone} (hmode : p.mode = .run) (hone : p.zones.active = [z]) (hw : z.action = .waiting) :
    p.takesSpeed.asksRaise p.speedExpired z := by
  have horders : p.zones.precedence.map (·.order) = [z.order] := by
    rw [Zones.precedence, hone]
    rfl
  have hfound : p.takesSpeed.zones.activeZone z.order = some z := by
    show p.zones.active.find? (·.order == z.order) = some z
    rw [hone]
    exact List.find?_cons_of_pos (by simp)
  rw [speedExpired_run hmode, horders]
  exact retryAction_asks hfound hw

/-- Settles O57, which holds: the speed is taken, then the actions that wait are tried again. -/
theorem speedAndStationary : Obligations.SpeedAndStationary := by
  unfold Obligations.SpeedAndStationary
  refine ⟨fun s e => ⟨fun hrun => ?_, fun hrun => ?_⟩, fun p z hz => ⟨retryAction_asks hz, retryAction_idle hz⟩⟩
  · have hexec := exec_of_expiry_ordered (exec_speedTimerExpiry s) hrun
    have hframe : (s.part.clockTo e).onlyChanges polePieces ((s.part.clockTo e).speedExpired.orderEntries s.part) :=
      orderEntries_of_lineFrame (speedExpired_moves _).drifts.only
    obtain ⟨t, ht⟩ := clockTo_eq s.part e
    rw [ht] at hexec hframe ⊢
    have haux : (s.part.atTime t).aux = s.part.aux := rfl
    have hzones : (s.part.atTime t).zones = s.part.zones := rfl
    have hmode : (s.part.atTime t).mode = s.part.mode := rfl
    generalize s.part.atTime t = p at *
    rw [← hzones, ← hmode]
    have hkeep := speedExpired_keepsZones p s.part
    have hidle : p.takesSpeed.orderEntries s.part = p.takesSpeed := orderEntries_same _ _ haux
    have hspeed := hkeep.field Zones.speed
    have hsamples := hkeep.field Zones.samples
    have htimer := hkeep.field Zones.speedTimer
    have htaken : p.takesSpeed = { p with zones := { p.zones with
        speed := (p.speedExpired.orderEntries s.part).zones.speed, samples := (p.speedExpired.orderEntries s.part).zones.samples,
        speedTimer := (p.speedExpired.orderEntries s.part).zones.speedTimer } } := by
      rw [hspeed, hsamples, htimer]
      rfl
    refine ⟨_, hexec, hspeed, hsamples, htimer, hkeep.field Zones.odometer, hkeep.field Zones.residue, hkeep.field Zones.stationary,
      fun hm => ?_, fun hnone => ?_, fun z hm hone hw => ?_, fun hm => ⟨p.takesSpeed, congrArg Part.zones htaken, takesSpeed_only p, ?_⟩, hframe⟩
    · rw [speedExpired_other hm, hidle]
      exact takesSpeed_only p
    · have hquiet : p.speedExpired = p.takesSpeed := retryActions_idle (p := p.takesSpeed) hnone
      rw [hquiet, hidle]
      exact ⟨takesSpeed_only p, rfl⟩
    · rw [← htaken]
      exact asksRaise_ordered (speedExpired_single hm hone hw) haux.symm
    · rw [speedExpired_run hm]
  · have hexec := exec_of_expiry (exec_stationaryTimerExpiry s) hrun (moves_zones (s.part.clockTo e) _)
    obtain ⟨t, ht⟩ := clockTo_eq s.part e
    rw [ht] at hexec ⊢
    exact ⟨_, hexec, rfl, (moves_zones (s.part.atTime t) _).drifts.only⟩

end Sys2Proof.Machine

/-! ## Status replies (R141 to R143) -/

namespace Sys2Proof.Machine

/-! ### What a raise leaves of the inhibit set (R162) -/

/-- The inhibit set without FAULT_STATE. -/
def InhibitSet.others (s : InhibitSet) : InhibitSet := s.put .faultState false

theorem put_others (s : InhibitSet) (b : Bool) : (s.put .faultState b).others = s.others := rfl

theorem collectorTo_others (p : Part) (new : CollectorState) : (p.collectorTo new).gov.inhibit.others = p.gov.inhibit.others := by
  unfold Part.collectorTo
  dsimp only
  repeat' split
  all_goals simp [Part.collectorSet, claim_inhibit, put_others]

/-- A change of collector state claims or withdraws FAULT_STATE alone (R162). -/
theorem moveCollector_others (p : Part) (new : CollectorState) (cause : CollectorCause) (kind : Option FaultKind) (tag : Word) :
    (p.moveCollector new cause kind tag).gov.inhibit.others = p.gov.inhibit.others := by
  by_cases hn : p.faults.state = new
  · rw [Part.moveCollector, if_pos hn]
  · refine Eq.trans ?_ (collectorTo_others p new)
    simp only [Part.moveCollector, hn, if_false]
    rfl

theorem collectorActivate_others (p : Part) (k : FaultKind) (escalate ack : Bool) (tag : Word) :
    (p.collectorActivate k escalate ack tag).gov.inhibit.others = p.gov.inhibit.others := by
  unfold Part.collectorActivate
  split
  · split
    · exact moveCollector_others _ _ _ _ _
    · split
      · exact moveCollector_others _ _ _ _ _
      · rfl
  · split
    · exact moveCollector_others _ _ _ _ _
    · rfl
  · rfl

theorem raise_others (p : Part) (x : Raise) : (p.raise x).gov.inhibit.others = p.gov.inhibit.others := by
  unfold Part.raise
  dsimp only
  rw [(evalAlarms_gov _).1]
  exact collectorActivate_others _ _ _ _ _

/-! ### A good reply (R141 to R143) -/

/-- A good reply is taken: the wait is over, the reply counts, the inverter's state and the current are kept (R141 to R143). -/
def Part.takesReply (p : Part) (actual : Int) (i : Inverter) : Part :=
  { p with gov := { p.gov with replyWait := none, misses := 0, goodRun := countUp p.gov.goodRun 3, inverter := i, actual := actual } }

theorem goodReply_eq (p : Part) (echo : Byte) (actual : Int) (i : Inverter) :
    p.goodReply echo actual i = (((p.takesReply actual i).claimDriveFault echo).endDriveLink).endDriveFault := rfl

section
variable (p : Part)

theorem endDriveLink_only : p.onlyChanges [.inhibit, .records, .outputs] p.endDriveLink := by
  unfold Part.endDriveLink
  split
  · exact Part.onlyChanges_trans (Part.onlyChanges_mono (withdraw_only p .driveLink) (by decide))
      (Part.onlyChanges_mono (endFault_moves (p.withdraw .driveLink) _ _).drifts.only (by decide))
  · exact Part.onlyChanges_refl _ p

theorem endDriveFault_only : p.onlyChanges [.inhibit, .records, .outputs] p.endDriveFault := by
  unfold Part.endDriveFault
  split
  · exact Part.onlyChanges_trans (Part.onlyChanges_mono (withdraw_only p .driveFault) (by decide))
      (Part.onlyChanges_mono (endFault_moves (p.withdraw .driveFault) _ _).drifts.only (by decide))
  · exact Part.onlyChanges_refl _ p

theorem endDriveLink_spares : p.Spares [.driveLinkLost] [] [] p.endDriveLink := by
  unfold Part.endDriveLink
  split
  · exact ((withdraw_only p .driveLink).spares (ks := [.driveLinkLost])).andThen (endFault_spares (rs := []) (os := []) _ _ _)
  · exact .refl _ _ _ p

theorem endDriveFault_spares : p.Spares [.driveFault] [] [] p.endDriveFault := by
  unfold Part.endDriveFault
  split
  · exact ((withdraw_only p .driveFault).spares (ks := [.driveFault])).andThen (endFault_spares (rs := []) (os := []) _ _ _)
  · exact .refl _ _ _ p

/-- DRIVE_LINK after its end (R142). -/
theorem endDriveLink_inhibit : p.endDriveLink.gov.inhibit =
    if p.gov.goodRun = 3 then p.gov.inhibit.put .driveLink false else p.gov.inhibit := by
  unfold Part.endDriveLink
  by_cases hrun : p.gov.goodRun = 3
  · rw [if_pos hrun]
    cases hlink : p.gov.inhibit.driveLink with
    | true =>
      rw [if_pos ⟨hrun, rfl⟩, (endFault_gov _ _ _).1]
      rfl
    | false =>
      rw [if_neg (by simp)]
      exact congrArg (fun b => { p.gov.inhibit with driveLink := b }) hlink
  · rw [if_neg hrun, if_neg fun h => hrun h.1]

/-- DRIVE_FAULT after its end (R143). -/
theorem endDriveFault_inhibit : p.endDriveFault.gov.inhibit =
    if p.gov.inverter.bad then p.gov.inhibit else p.gov.inhibit.put .driveFault false := by
  unfold Part.endDriveFault
  cases hbad : p.gov.inverter.bad with
  | true => rfl
  | false =>
    cases hfault : p.gov.inhibit.driveFault with
    | true =>
      show ((p.withdraw .driveFault).endFault .driveFault driveLinkSource).gov.inhibit = p.gov.inhibit.put .driveFault false
      rw [(endFault_gov _ _ _).1]
      rfl
    | false => exact congrArg (fun b => { p.gov.inhibit with driveFault := b }) hfault

/-- The raise of DRIVE_FAULT (R143). -/
def Part.driveFaultRaise (echo : Byte) : Raise :=
  { kind := .driveFault, source := driveLinkSource,
    items := [.small (inverterCode p.gov.inverter), bigInt p.gov.actual, .small echo.toNat] }

variable {p}

theorem claimDriveFault_claims (hbad : p.gov.inverter.bad = true) (hfault : p.gov.inhibit.driveFault = false) (echo : Byte) :
    p.claimDriveFault echo = (p.claim .driveFault).raise (p.driveFaultRaise echo) := by
  unfold Part.claimDriveFault
  rw [hbad, hfault]
  rfl

theorem claimDriveFault_idle (h : p.gov.inverter.bad = false ∨ p.gov.inhibit.driveFault = true) (echo : Byte) : p.claimDriveFault echo = p := by
  unfold Part.claimDriveFault
  exact if_neg (by obtain h | h := h <;> simp [h])

variable (p)

theorem endDriveFault_bad {p : Part} (h : p.gov.inverter.bad = true) : p.endDriveFault = p := by
  unfold Part.endDriveFault
  exact if_neg (by simp [h])

/-- The reasons after the claim of DRIVE_FAULT (R143). -/
theorem claimDriveFault_others (echo : Byte) : (p.claimDriveFault echo).gov.inhibit.others
    = { p.gov.inhibit.others with driveFault := p.gov.inverter.bad || p.gov.inhibit.driveFault } := by
  by_cases hidle : p.gov.inverter.bad = false ∨ p.gov.inhibit.driveFault = true
  · rw [claimDriveFault_idle hidle]
    obtain h | h := hidle <;> simp [InhibitSet.others, InhibitSet.put, h]
  · simp only [not_or, Bool.not_eq_false, Bool.not_eq_true] at hidle
    obtain ⟨hbad, hfault⟩ := hidle
    rw [claimDriveFault_claims hbad hfault, raise_others, claim_inhibit]
    simp [InhibitSet.others, InhibitSet.put, hbad]

theorem claimDriveFault_only (echo : Byte) : p.onlyChanges raisePieces (p.claimDriveFault echo) := by
  unfold Part.claimDriveFault
  split
  · exact Part.onlyChanges_trans (Part.onlyChanges_mono (claim_only p .driveFault) (by decide)) (raise_moves _ _).drifts.only
  · exact Part.onlyChanges_refl _ p

end

/-! ### What a good reply brings (R141 to R143) -/

section
variable (p : Part) (echo : Byte) (actual : Int) (i : Inverter)

/-- The reply taken and a claim of DRIVE_FAULT made. -/
def Part.claimsReply : Part := (p.takesReply actual i).claimDriveFault echo

theorem goodReply_stages : p.goodReply echo actual i = (p.claimsReply echo actual i).endDriveLink.endDriveFault := rfl

/-- What the claim leaves to the ends. -/
theorem claimsReply_fields : (p.claimsReply echo actual i).gov.misses = 0 ∧ (p.claimsReply echo actual i).gov.goodRun = countUp p.gov.goodRun 3
    ∧ (p.claimsReply echo actual i).gov.inverter = i ∧ (p.claimsReply echo actual i).gov.actual = actual := by
  obtain ⟨hmisses, hrun, hinverter, hactual⟩ : (p.takesReply actual i).same (p.claimsReply echo actual i) .replies :=
    claimDriveFault_only (p.takesReply actual i) echo .replies (by decide)
  exact ⟨hmisses, hrun, hinverter, hactual⟩

theorem goodReply_fields : (p.goodReply echo actual i).gov.misses = 0 ∧ (p.goodReply echo actual i).gov.goodRun = countUp p.gov.goodRun 3
    ∧ (p.goodReply echo actual i).gov.inverter = i ∧ (p.goodReply echo actual i).gov.actual = actual := by
  obtain ⟨hmisses, hrun, hinverter, hactual⟩ := claimsReply_fields p echo actual i
  have hends : (p.claimsReply echo actual i).onlyChanges [.inhibit, .records, .outputs] (p.goodReply echo actual i) :=
    Part.onlyChanges_trans (endDriveLink_only _) (endDriveFault_only _)
  obtain ⟨hm, hr, hi, ha⟩ : (p.claimsReply echo actual i).same (p.goodReply echo actual i) .replies := hends .replies (by decide)
  exact ⟨hm.trans hmisses, hr.trans hrun, hi.trans hinverter, ha.trans hactual⟩

/-- The reasons of the drive after a good reply (R142, R143). -/
theorem goodReply_reasons : (p.goodReply echo actual i).gov.inhibit.driveFault = i.bad
    ∧ (p.goodReply echo actual i).gov.inhibit.driveLink = (if countUp p.gov.goodRun 3 = 3 then false else p.gov.inhibit.driveLink) := by
  obtain ⟨-, hrun, hinverter, -⟩ := claimsReply_fields p echo actual i
  have hclaim := claimDriveFault_others (p.takesReply actual i) echo
  have hfault : (p.claimsReply echo actual i).gov.inhibit.driveFault = (i.bad || p.gov.inhibit.driveFault) :=
    congrArg InhibitSet.driveFault hclaim
  have hlink : (p.claimsReply echo actual i).gov.inhibit.driveLink = p.gov.inhibit.driveLink := (congrArg InhibitSet.driveLink hclaim :)
  have hkept : (p.claimsReply echo actual i).endDriveLink.gov.inverter = i :=
    ((endDriveLink_only (p.claimsReply echo actual i)) .replies (by decide)).2.2.1.trans hinverter
  rw [goodReply_stages, endDriveFault_inhibit, endDriveLink_inhibit, hkept, hrun]
  cases hbad : i.bad <;> by_cases h : countUp p.gov.goodRun 3 = 3 <;> simp_all [InhibitSet.put]

/-- Without a claim no frame is cut, and the wait is over (R141). -/
theorem goodReply_waits (h : i.bad = false ∨ p.gov.inhibit.driveFault = true) : (p.goodReply echo actual i).gov.replyWait = none := by
  have hends : (p.claimsReply echo actual i).onlyChanges [.inhibit, .records, .outputs] (p.goodReply echo actual i) :=
    Part.onlyChanges_trans (endDriveLink_only _) (endDriveFault_only _)
  obtain ⟨-, -, hwait⟩ : (p.claimsReply echo actual i).same (p.goodReply echo actual i) .setpoint := hends .setpoint (by decide)
  rw [hwait, Part.claimsReply, claimDriveFault_idle h]
  rfl

/-- DRIVE_FAULT is raised by the reply that claims it (R143). -/
theorem goodReply_activates (hbad : i.bad = true) (hfault : p.gov.inhibit.driveFault = false) :
    p.activated (p.goodReply echo actual i) .driveFault driveLinkSource
      [.small (inverterCode i), bigInt actual, .small echo.toNat] := by
  have hclaims : p.claimsReply echo actual i = ((p.takesReply actual i).claim .driveFault).raise ((p.takesReply actual i).driveFaultRaise echo) :=
    claimDriveFault_claims (p := p.takesReply actual i) hbad hfault echo
  have hraised := activated_of_raise ((p.takesReply actual i).claim .driveFault) ((p.takesReply actual i).driveFaultRaise echo)
    (show FaultKind.driveFault ≠ .alarmOutput by decide)
  have hrecs : ((p.takesReply actual i).claim .driveFault).faults.recs = p.faults.recs :=
    claim_only (p.takesReply actual i) .driveFault .records (by decide)
  have hends : (p.claimsReply echo actual i).onlyChanges [.inhibit, .records, .outputs] (p.goodReply echo actual i) :=
    Part.onlyChanges_trans (endDriveLink_only _) (endDriveFault_only _)
  have hlink := (endDriveLink_spares (p.claimsReply echo actual i)).faults .driveFault (by decide) (by decide)
  have hkept : (p.claimsReply echo actual i).endDriveLink.gov.inverter = i :=
    ((endDriveLink_only (p.claimsReply echo actual i)) .replies (by decide)).2.2.1.trans (claimsReply_fields p echo actual i).2.2.1
  have hstill : p.goodReply echo actual i = (p.claimsReply echo actual i).endDriveLink :=
    (goodReply_stages p echo actual i).trans (endDriveFault_bad (p := (p.claimsReply echo actual i).endDriveLink) (by rw [hkept, hbad]))
  rw [← hclaims] at hraised
  exact activated_congr hraised (congrArg (·.get (kindIndex .driveFault)) hrecs.symm) (by rw [hstill, hlink])
    (hends .now (by decide)) (hends .tables (by decide))

theorem goodReply_endsFault (hbad : i.bad = false) (hfault : p.gov.inhibit.driveFault = true) :
    (p.goodReply echo actual i).endedFault .driveFault driveLinkSource := by
  have hidle : p.claimsReply echo actual i = p.takesReply actual i := claimDriveFault_idle (p := p.takesReply actual i) (.inl hbad) echo
  have hinhibit := endDriveLink_inhibit (p.takesReply actual i)
  have hstill : (p.takesReply actual i).endDriveLink.gov.inhibit.driveFault = true := by
    rw [hinhibit]
    split <;> exact hfault
  have hkept : (p.takesReply actual i).endDriveLink.gov.inverter = i := ((endDriveLink_only (p.takesReply actual i)) .replies (by decide)).2.2.1
  rw [goodReply_stages, hidle]
  generalize (p.takesReply actual i).endDriveLink = m at hstill hkept
  have hend : m.endDriveFault = (m.withdraw .driveFault).endFault .driveFault driveLinkSource := if_pos (by simp [hkept, hbad, hstill])
  rw [hend]
  exact endFault_endedFault _ _ _

theorem goodReply_endsLink (hrun : countUp p.gov.goodRun 3 = 3) (hlink : p.gov.inhibit.driveLink = true) :
    (p.goodReply echo actual i).endedFault .driveLinkLost driveLinkSource := by
  obtain ⟨-, hgood, -, -⟩ := claimsReply_fields p echo actual i
  have hkept : (p.claimsReply echo actual i).gov.inhibit.driveLink = true :=
    (congrArg InhibitSet.driveLink (claimDriveFault_others (p.takesReply actual i) echo) :).trans hlink
  rw [goodReply_stages]
  generalize p.claimsReply echo actual i = m at hgood hkept
  have hend : m.endDriveLink = (m.withdraw .driveLink).endFault .driveLinkLost driveLinkSource := if_pos ⟨hgood.trans hrun, hkept⟩
  have hrecord := (endDriveFault_spares m.endDriveLink).faults .driveLinkLost (by decide) (by decide)
  rw [Part.endedFault, hrecord, hend]
  exact endFault_endedFault _ _ _

end

end Sys2Proof.Machine

/-! ## Accepted tags (R112 to R117) -/

namespace Sys2Proof.Machine

/-! ### What the stages of an acceptance leave -/

/-- An accepted tag is noted (R112, R113). -/
def Part.notesTag (p : Part) (t : TagRead) : Part :=
  { p with zones := { p.zones with
      recent := acceptRecent p.zones.recent { id := t.id, odometer := p.zones.odometer }, seen := p.zones.seen ||| placeMark t.id.place } }

/-- One more arrival (R115). -/
def Part.countsArrival (p : Part) : Part := { p with zones := { p.zones with arrivals := p.zones.arrivals + 1 } }

theorem acceptTag_eq (p : Part) (t : TagRead) : p.acceptTag t = (p.notesTag t).matchTag t := rfl

/-- A tag that no entry fits (R114). -/
theorem acceptTag_unmatched {p : Part} {t : TagRead} (h : p.firstFit t false = none) : p.acceptTag t
    = (p.notesTag t).tagReport .tagUnmatched
        [bigNat (identityCode t.id), .small t.feature, bigNat t.distance, .small ((p.firstFit t true).getD 12)] := by
  have hfit : (p.notesTag t).firstFit t false = none := h
  rw [acceptTag_eq, Part.matchTag, hfit]
  rfl

/-- The zone of a tag that an entry fits (R115). -/
def Part.tagZone (p : Part) (t : TagRead) (n : Fin 12) : Zone := p.newZone t n.val p.tables.watch[n]

/-- A tag that an entry fits (R114 to R117). -/
theorem acceptTag_matched {p : Part} {t : TagRead} {n : Fin 12} (h : p.firstFit t false = some n.val) : p.acceptTag t
    = ((p.notesTag t).countsArrival.joinPending (p.tagZone t n)).startZones false := by
  have hfit : (p.notesTag t).firstFit t false = some n.val := h
  rw [acceptTag_eq, Part.matchTag, hfit]
  exact dif_pos n.isLt

theorem tagZone_arriving (p : Part) (t : TagRead) (n : Fin 12) : p.arriving t n.val p.tables.watch[n] (p.tagZone t n) := by
  refine ⟨rfl, rfl, rfl, rfl, rfl, rfl, ?_, ?_, rfl, rfl⟩
  · rw [Nat.mul_comm]
    rfl
  · rw [Nat.mul_comm]
    rfl

theorem acceptRecent_eq (recent : List RecentTag) (new : RecentTag) : acceptRecent recent new
    = (if recent.any (·.id == new.id) then recent.filter (·.id != new.id) else if recent.length < 4 then recent else recent.drop 1) ++ [new] := by
  unfold acceptRecent
  split
  · rfl
  · split <;> rfl

theorem placeMark_seen (m : BitVec 512) (place : Nat) {k : Nat} (hk : k < 512) :
    (m ||| placeMark place).getLsbD k = (m.getLsbD k || k == place) := by
  rw [BitVec.getLsbD_or, placeMark, BitVec.getLsbD_ofNat, Nat.testBit_two_pow]
  simp [hk, eq_comm, beq_eq_decide]

/-! ### The pending queue (R116, R117) -/

theorem mem_queueZone (z y : Zone) (q : List Zone) : y ∈ queueZone z q ↔ y = z ∨ y ∈ q := mem_insertBy _ _ _ _

theorem length_queueZone (z : Zone) (q : List Zone) : (queueZone z q).length = q.length + 1 := by
  unfold queueZone
  induction q with
  | nil => rfl
  | cons y q ih =>
    rw [insertBy]
    split
    · rfl
    · exact congrArg (· + 1) ih

theorem zoneOverflow_zones (p : Part) (z : Zone) (d : Discarded) : (p.zoneOverflow z d).zones = p.zones :=
  (zoneOverflow_moves p z d).drifts.only .zones (by decide)

theorem joinPending_rest (p : Part) (z : Zone) : (p.joinPending z).zones = { p.zones with pendingZones := (p.joinPending z).zones.pendingZones } := by
  unfold Part.joinPending
  dsimp only
  split
  · rfl
  · split
    · rfl
    · split
      · rfl
      · split
        · rw [zoneOverflow_zones]
          rfl
        · rw [zoneOverflow_zones]

section
variable {p : Part} {z : Zone}

/-- A zone of an identity that waits takes its place (R116). -/
theorem joinPending_replaces (h : ∃ y ∈ p.zones.pendingZones, y.id = z.id) :
    p.joinPending z = p.setPending (queueZone z (p.zones.pendingZones.filter (·.id != z.id))) := if_pos (by simpa using h)

theorem joinPending_joins (hnew : ∀ y ∈ p.zones.pendingZones, y.id ≠ z.id) (h : p.zones.pendingZones.length < 8) :
    p.joinPending z = p.setPending (queueZone z p.zones.pendingZones) := by
  unfold Part.joinPending
  exact (if_neg (by simpa using hnew)).trans (if_pos h)

theorem joinPending_full (hnew : ∀ y ∈ p.zones.pendingZones, y.id ≠ z.id) (h : p.zones.pendingZones.length = 8) {far : Zone}
    (hfar : p.zones.pendingZones.getLast? = some far) : p.joinPending z =
      if aheadOf far.start z.start then (p.setPending (queueZone z p.zones.pendingZones.dropLast)).zoneOverflow far .farthest
      else p.zoneOverflow z .new := by
  unfold Part.joinPending
  refine (if_neg (by simpa using hnew)).trans ((if_neg (by omega)).trans ?_)
  rw [hfar]

/-- A zone joins a queue that has place for it, and no other zone leaves (R116). -/
theorem joinPending_room (h : p.zones.pendingZones.length < 8 ∨ ∃ y ∈ p.zones.pendingZones, y.id = z.id) :
    z ∈ (p.joinPending z).zones.pendingZones
      ∧ (∀ y ∈ p.zones.pendingZones, y.id ≠ z.id → y ∈ (p.joinPending z).zones.pendingZones)
      ∧ (∀ y ∈ (p.joinPending z).zones.pendingZones, y.id ≠ z.id → y ∈ p.zones.pendingZones)
      ∧ p.onlyChanges [.zones] (p.joinPending z) := by
  by_cases hid : ∃ y ∈ p.zones.pendingZones, y.id = z.id
  · rw [joinPending_replaces hid]
    refine ⟨(mem_queueZone _ _ _).mpr (.inl rfl), fun y hy hne => (mem_queueZone _ _ _).mpr (.inr (List.mem_filter.mpr ⟨hy, by simpa using hne⟩)),
      fun y hy hne => ?_, (setPending_moves p _).drifts.only⟩
    obtain rfl | hy := (mem_queueZone _ _ _).mp hy
    · exact absurd rfl hne
    · exact (List.mem_filter.mp hy).1
  · rw [joinPending_joins (fun y hy he => hid ⟨y, hy, he⟩) (h.resolve_right hid)]
    refine ⟨(mem_queueZone _ _ _).mpr (.inl rfl), fun y hy _ => (mem_queueZone _ _ _).mpr (.inr hy), fun y hy hne => ?_,
      (setPending_moves p _).drifts.only⟩
    obtain rfl | hy := (mem_queueZone _ _ _).mp hy
    · exact absurd rfl hne
    · exact hy

/-- The pending queue holds the new zone or zones that were in it before. -/
theorem mem_joinPending {y : Zone} (h : y ∈ (p.joinPending z).zones.pendingZones) : y = z ∨ y ∈ p.zones.pendingZones := by
  unfold Part.joinPending at h
  dsimp only at h
  split at h
  · exact ((mem_queueZone _ _ _).mp h).imp_right fun hm => (List.mem_filter.mp hm).1
  · split at h
    · exact (mem_queueZone _ _ _).mp h
    · split at h
      · exact .inr h
      · split at h
        · rw [zoneOverflow_zones] at h
          exact ((mem_queueZone _ _ _).mp h).imp_right List.mem_of_mem_dropLast
        · rw [zoneOverflow_zones] at h
          exact .inr h

end

/-! ### The entries after a new zone (R118) -/

theorem enters_none {p : Part} (h : p.zones.entering = []) : p.enters false = p := by
  obtain ⟨horders, -, hsame, -⟩ := enterReached_enters p
  unfold Part.enters
  rw [horders, h, hsame h]
  rfl

theorem startZones_none {p : Part} (h : p.zones.entering = []) : p.startZones false = p := by
  obtain ⟨horders, -⟩ := enterReached_enters p
  rw [startZones_eq, enters_none h, horders, h]
  exact followPoles_of_poles (p := p) (q := p) rfl

theorem startZones_keeps (p o : Part) : (p.enters false).KeepsZones ((p.startZones false).orderEntries o) := by
  rw [startZones_eq]
  exact (actOnZones_keepsZones _ _ fireAction_keepsZones).andThen (orderEntries_keepsZones _ o)

/-- Entries leave what concerns no zone (R118). -/
theorem startZones_field (p o : Part) {α : Type} (f : Zones → α) (hlast : ∀ z : Zones, f z.lasting = f z := by intros; rfl)
    (hf : ∀ (z : Zones) (q a : List Zone) (e : Effective), f { z with pendingZones := q, active := a, effective := e } = f z := by intros; rfl) :
    f ((p.startZones false).orderEntries o).zones = f p.zones := by
  rw [(startZones_keeps p o).field f hlast, enters_rest, hf]

theorem insertBy_map {α : Type} (f : α → α → Bool) (g : α → α) (hg : ∀ x y, f (g x) (g y) = f x y) (x : α) (l : List α) :
    (insertBy f x l).map g = insertBy f (g x) (l.map g) := by
  induction l with
  | nil => rfl
  | cons y l ih =>
    rw [insertBy, List.map_cons, insertBy, hg]
    split
    · rfl
    · exact congrArg (g y :: ·) ih

theorem sortBy_map {α : Type} (f : α → α → Bool) (g : α → α) (hg : ∀ x y, f (g x) (g y) = f x y) (l : List α) :
    (sortBy f l).map g = sortBy f (l.map g) := by
  induction l with
  | nil => rfl
  | cons x l ih => rw [sortBy, insertBy_map f g hg, ih, List.map_cons, sortBy]

/-- The precedence of the zones is that of what lasts of them (R120). -/
theorem Part.KeepsZones.precedence {p q : Part} (h : p.KeepsZones q) {α : Type} (f : Zone → α)
    (hf : ∀ z : Zone, f z.asArrived = f z := by intros; rfl) : q.zones.precedence.map f = p.zones.precedence.map f := by
  have hmap : ∀ z : Zones, z.precedence.map f = (sortBy (zoneBefore z.odometer) (z.active.map Zone.asArrived)).map f := fun z => by
    rw [← sortBy_map _ Zone.asArrived (fun _ _ => rfl), List.map_map]
    exact List.map_congr_left fun x _ => (hf x).symm
  rw [hmap, hmap, h.active, h.field Zones.odometer]

theorem withEntered_room {active : List Zone} (h : active.length < 4) (odometer : Word) (z : Zone) :
    withEntered odometer active z = active ++ [z] := by
  unfold withEntered
  refine congrArg (· ++ [z]) ?_
  split
  · exact if_neg (by omega)
  · rfl

/-! ### Positions ahead (R109) -/

theorem reached_ahead {z : Zones} {x : Word} {d : Nat} (hx : x = z.odometer + word (10 * d)) (hpos : 0 < d) (hlt : d < 256) :
    z.reached x = false := by
  have hto : (z.odometer - (z.odometer + word (10 * d))).toNat = 2 ^ 32 - 10 * d := by
    rw [word]
    bv_omega
  rw [Zones.reached, hx, hto]
  exact decide_eq_false (by omega)

theorem reached_here (z : Zones) : z.reached z.odometer = true := by
  rw [Zones.reached]
  exact decide_eq_true (by simp)

end Sys2Proof.Machine

/-! ## Frames of the tag link (R111 to R117) -/

namespace Sys2Proof.Machine

section
variable (p o : Part) (t : TagRead)

/-- An accepted tag at the end of its event. -/
def Part.tagEnd : Part := (p.acceptTag t).orderEntries o

variable {p o t}

theorem orderEntries_of_same_aux {q : Part} {xs : List Piece} (h : p.onlyChanges xs q) (ho : o.aux = p.aux)
    (hx : xs.contains .aux = false := by decide) : q.orderEntries o = q :=
  orderEntries_same _ _ ((show q.aux = p.aux from h .aux (by simpa using hx)).trans ho.symm)

/-- What a match leaves of the zones' record is what the tag was noted with (R112, R113). -/
theorem tagEnd_field {α : Type} (f : Zones → α) (hlast : ∀ z : Zones, f z.lasting = f z := by intros; rfl)
    (hf : ∀ (z : Zones) (q a : List Zone) (e : Effective), f { z with pendingZones := q, active := a, effective := e } = f z := by intros; rfl)
    (hn : ∀ (z : Zones) (n : Nat), f { z with arrivals := n } = f z := by intros; rfl) : f (p.tagEnd o t).zones = f (p.notesTag t).zones := by
  have hend : ∀ q : Part, f (q.orderEntries o).zones = f q.zones := fun q => (orderEntries_keepsZones q o).field f hlast
  unfold Part.tagEnd
  cases hfit : p.firstFit t false with
  | none =>
    rw [hend, acceptTag_unmatched hfit]
    rfl
  | some n =>
    by_cases h : n < 12
    · rw [acceptTag_matched (n := ⟨n, h⟩) hfit, startZones_field _ _ f hlast hf, joinPending_rest]
      exact (hf (p.notesTag t).countsArrival.zones _ (p.notesTag t).countsArrival.zones.active (p.notesTag t).countsArrival.zones.effective).trans
        (hn _ _)
    · have hsame : p.acceptTag t = p.notesTag t := by
        rw [acceptTag_eq, Part.matchTag, show (p.notesTag t).firstFit t false = some n from hfit]
        exact dif_neg h
      rw [hend, hsame]

/-! ### A tag that an entry fits -/

/-- The queue after the zone of a tag has joined it. -/
def Part.joinsTag (p : Part) (t : TagRead) (n : Fin 12) : Part := (p.notesTag t).countsArrival.joinPending (p.tagZone t n)

theorem tagEnd_arrivals {n : Fin 12} (h : p.firstFit t false = some n.val) : (p.tagEnd o t).zones.arrivals = p.zones.arrivals + 1 := by
  rw [Part.tagEnd, acceptTag_matched h, startZones_field _ _ Zones.arrivals, joinPending_rest]
  rfl

/-- A zone that lies ahead waits, and nothing enters (R116, R118). -/
theorem tagEnd_ahead {n : Fin 12} (h : p.firstFit t false = some n.val) (hpending : ∀ y ∈ p.zones.pendingZones, p.zones.reached y.start = false)
    (hpos : 0 < t.distance) (hlt : t.distance < 256) (ho : o.aux = p.aux) : p.tagEnd o t = p.joinsTag t n := by
  have hstart : (p.tagZone t n).start = p.zones.odometer + word (10 * t.distance) := by
    rw [Nat.mul_comm]
    rfl
  have hodometer : (p.joinsTag t n).zones.reached = p.zones.reached := by
    rw [Part.joinsTag, joinPending_rest]
    exact reached_congr rfl
  have hentering : (p.joinsTag t n).zones.entering = [] := by
    rw [Zones.entering, hodometer, List.takeWhile_eq_nil_iff]
    intro hne
    obtain hz | hy := mem_joinPending (List.getElem_mem hne)
    · have hahead := reached_ahead hstart hpos hlt
      rw [← hz] at hahead
      exact Bool.eq_false_iff.mp hahead
    · exact Bool.eq_false_iff.mp (hpending _ hy)
  have honly : p.onlyChanges zoneStepPieces (p.joinsTag t n) :=
    Part.onlyChanges_trans (Part.onlyChanges_mono (moves_zones p _).drifts.only (by decide))
      (joinPending_moves (p.notesTag t).countsArrival (p.tagZone t n)).drifts.only
  rw [Part.tagEnd, acceptTag_matched h]
  show ((p.joinsTag t n).startZones false).orderEntries o = p.joinsTag t n
  rw [startZones_none hentering, orderEntries_of_same_aux honly ho]

theorem joinsTag_kept (n : Fin 12) : (p.joinsTag t n).zones.active = p.zones.active ∧ (p.joinsTag t n).zones.effective = p.zones.effective := by
  rw [Part.joinsTag, joinPending_rest]
  exact ⟨rfl, rfl⟩

/-- A full queue drops the zone that lies farthest ahead (R117). -/
theorem joinsTag_drops {n : Fin 12} (hnew : ∀ y ∈ p.zones.pendingZones, y.id ≠ t.id) (h : p.zones.pendingZones.length = 8) {far : Zone}
    (hfar : p.zones.pendingZones.getLast? = some far) (hahead : aheadOf far.start (p.zones.odometer + word (10 * t.distance)) = true) :
    (p.joinsTag t n).zones.pendingZones = queueZone (p.tagZone t n) p.zones.pendingZones.dropLast
      ∧ p.activated (p.joinsTag t n) .zoneOverflow { block := .zoneMatcher }
        [bigNat (identityCode far.id), .small far.feature, .large far.start, .small 1] := by
  have hjoin := joinPending_full (p := (p.notesTag t).countsArrival) (z := p.tagZone t n) hnew h hfar
  rw [Nat.mul_comm] at hahead
  have hdrops := hjoin.trans (if_pos hahead)
  rw [Part.joinsTag, hdrops]
  refine ⟨by rw [zoneOverflow_zones]; rfl, ?_⟩
  exact activated_congr (activated_of_raise ((p.notesTag t).countsArrival.setPending _)
    { kind := .zoneOverflow, source := { block := .zoneMatcher },
      items := [bigNat (identityCode far.id), .small far.feature, .large far.start, .small Discarded.farthest.ctorIdx] }
    (show FaultKind.zoneOverflow ≠ .alarmOutput by decide)) rfl rfl rfl rfl

/-- A full queue whose zones all lie nearer discards the new zone (R117). -/
theorem joinsTag_discards {n : Fin 12} (hnew : ∀ y ∈ p.zones.pendingZones, y.id ≠ t.id) (h : p.zones.pendingZones.length = 8) {far : Zone}
    (hfar : p.zones.pendingZones.getLast? = some far) (hnear : aheadOf far.start (p.zones.odometer + word (10 * t.distance)) = false) :
    (p.joinsTag t n).zones.pendingZones = p.zones.pendingZones
      ∧ p.activated (p.joinsTag t n) .zoneOverflow { block := .zoneMatcher }
        [bigNat (identityCode t.id), .small t.feature, .large (p.zones.odometer + word (10 * t.distance)), .small 0] := by
  have hjoin := joinPending_full (p := (p.notesTag t).countsArrival) (z := p.tagZone t n) hnew h hfar
  rw [Nat.mul_comm] at hnear ⊢
  have hdiscards := hjoin.trans (if_neg (Bool.eq_false_iff.mp hnear))
  rw [Part.joinsTag, hdiscards]
  refine ⟨by rw [zoneOverflow_zones]; rfl, ?_⟩
  exact activated_congr (activated_of_raise (p.notesTag t).countsArrival
    { kind := .zoneOverflow, source := { block := .zoneMatcher },
      items := [bigNat (identityCode t.id), .small t.feature, .large (p.tagZone t n).start, .small Discarded.new.ctorIdx] }
    (show FaultKind.zoneOverflow ≠ .alarmOutput by decide)) rfl rfl rfl rfl

/-- A zone that begins here enters at once (R118). -/
theorem tagEnd_enters {n : Fin 12} (h : p.firstFit t false = some n.val) (hpending : p.zones.pendingZones = []) (hzero : t.distance = 0) :
    (p.tagEnd o t).zones.pendingZones = []
      ∧ (p.zones.active.length < 4 → (p.tagEnd o t).zones.active.map Zone.asArrived = (p.zones.active ++ [p.tagZone t n]).map Zone.asArrived
        ∧ (p.tagEnd o t).zones.effective = effectiveOf ((p.tagEnd o t).zones.precedence.map fun x => p.tables.profile x.profile)) := by
  have hjoin : p.joinsTag t n = (p.notesTag t).countsArrival.setPending [p.tagZone t n] := by
    rw [Part.joinsTag, joinPending_joins (p := (p.notesTag t).countsArrival) (by simp [Part.notesTag, Part.countsArrival, hpending])
      (by simp [Part.notesTag, Part.countsArrival, hpending])]
    show (p.notesTag t).countsArrival.setPending (queueZone (p.tagZone t n) p.zones.pendingZones) = _
    rw [hpending]
    rfl
  have hstart : (p.tagZone t n).start = p.zones.odometer := by
    show p.zones.odometer + word (t.distance * 10) = p.zones.odometer
    rw [hzero]
    exact BitVec.add_zero _
  have hreached : p.zones.reached (p.tagZone t n).start = true := by
    rw [hstart]
    exact reached_here p.zones
  have hentering : (p.joinsTag t n).zones.entering = [p.tagZone t n] := by
    rw [hjoin]
    exact List.takeWhile_cons_of_pos (p := fun x : Zone => p.zones.reached x.start) hreached
  have hkeep : ((p.joinsTag t n).enters false).KeepsZones (p.tagEnd o t) := by
    rw [Part.tagEnd, acceptTag_matched h]
    exact startZones_keeps (p.joinsTag t n) o
  obtain ⟨hleft, hactive, heffective, -⟩ := enters_enters (p.joinsTag t n) false
  have htables : (p.joinsTag t n).tables = p.tables := by rw [hjoin]; rfl
  rw [if_pos (.inr (by rw [hentering]; exact List.cons_ne_nil _ _)), htables] at heffective
  rw [hentering] at hactive
  refine ⟨(hkeep.field Zones.pendingZones).trans (hleft.trans ?_), fun hroom => ⟨hkeep.active.trans (congrArg _ (hactive.trans ?_)), ?_⟩⟩
  · rw [hjoin]
    exact List.dropWhile_cons_of_pos (p := fun x : Zone => p.zones.reached x.start) hreached
  · rw [hjoin]
    exact withEntered_room hroom _ _
  · rw [hkeep.field Zones.effective, heffective, ← hkeep.precedence (fun x => p.tables.profile x.profile)]

end

/-! ### An accepted tag as a whole (R112 to R117) -/

theorem recent_noted (p : Part) (t : TagRead) : (p.notesTag t).zones.recent = (if p.zones.recent.any (·.id == t.id) then p.zones.recent.filter (·.id != t.id)
    else if p.zones.recent.length < 4 then p.zones.recent else p.zones.recent.drop 1) ++ [{ id := t.id, odometer := p.zones.odometer }] :=
  acceptRecent_eq _ _

/-- A frame of the tag link has changed the links before it is delivered. -/
theorem tagEnd_accepts (p o : Part) (x : Links) (t : TagRead) (ho : o.aux = p.aux) : p.acceptsTag ((p.withLinks x).tagEnd o t) t := by
  have hrecent := tagEnd_field (p := p.withLinks x) (o := o) (t := t) Zones.recent
  have hseen := tagEnd_field (p := p.withLinks x) (o := o) (t := t) Zones.seen
  refine ⟨hrecent.trans (recent_noted p t), fun k hk => ?_, fun hnone => ?_, fun n hfit hpending => ⟨tagEnd_arrivals hfit, fun hpos hlt => ?_⟩,
    fun n hfit hpending hzero => ?_⟩
  · rw [hseen]
    exact placeMark_seen p.zones.seen t.id.place hk
  · have hunmatched := acceptTag_unmatched (p := p.withLinks x) (t := t) hnone
    have honly : (p.withLinks x).onlyChanges [.zones, .reports, .chains, .port] ((p.withLinks x).acceptTag t) := by
      rw [hunmatched]
      exact Part.onlyChanges_trans (Part.onlyChanges_mono (moves_zones (p.withLinks x) _).drifts.only (by decide))
        (Part.onlyChanges_mono (tagReport_moves ((p.withLinks x).notesTag t) _ _).drifts.only (by decide))
    have hend : (p.withLinks x).tagEnd o t = (p.withLinks x).acceptTag t := orderEntries_of_same_aux honly ho
    rw [hend]
    refine ⟨?_, ?_, Part.onlyChanges_trans (Part.onlyChanges_mono (withLinks_only p x) (by decide)) (Part.onlyChanges_mono honly (by decide))⟩
    · rw [hunmatched]
      exact report_newest _ _ _ _ _ _ _
    · rw [hunmatched]
      rfl
  · have hend : (p.withLinks x).tagEnd o t = (p.withLinks x).joinsTag t n := tagEnd_ahead hfit hpending hpos hlt ho
    have harrives := tagZone_arriving (p.withLinks x) t n
    rw [hend]
    refine ⟨(joinsTag_kept n).1, (joinsTag_kept n).2, fun hroom => ?_, fun hfull hnew far hfar => ⟨fun hahead => ?_, fun hnear => ?_⟩⟩
    · obtain ⟨hin, hkept, honlyNew, honly⟩ := joinPending_room (p := ((p.withLinks x).notesTag t).countsArrival)
        (z := (p.withLinks x).tagZone t n) hroom
      have hnoted : (p.withLinks x).onlyChanges [.zones] ((p.withLinks x).notesTag t).countsArrival := (moves_zones (p.withLinks x) _).drifts.only
      exact ⟨⟨_, hin, harrives⟩, hkept, honlyNew, Part.onlyChanges_trans (Part.onlyChanges_mono (withLinks_only p x) (by decide))
        (Part.onlyChanges_mono (Part.onlyChanges_trans hnoted honly) (by decide))⟩
    · obtain ⟨hqueue, hactivated⟩ := joinsTag_drops (p := p.withLinks x) (n := n) hnew hfull hfar hahead
      rw [hqueue]
      refine ⟨⟨_, (mem_queueZone _ _ _).mpr (.inl rfl), harrives⟩, fun y hy => (mem_queueZone _ _ _).mpr (.inr hy), ?_, hactivated⟩
      rw [length_queueZone, List.length_dropLast, show (p.withLinks x).zones.pendingZones.length = 8 from hfull]
    · obtain ⟨hqueue, hactivated⟩ := joinsTag_discards (p := p.withLinks x) (n := n) hnew hfull hfar hnear
      exact ⟨hqueue, hactivated⟩
  · obtain ⟨hempty, henters⟩ := tagEnd_enters (p := p.withLinks x) (o := o) hfit hpending hzero
    refine ⟨hempty, fun hroom => ⟨_, tagZone_arriving (p.withLinks x) t n, henters hroom⟩⟩

/-! ### A frame of the tag link (R111, R112) -/

theorem tagReport_end (p o : Part) (x : Links) (ho : o.aux = p.aux) (kind : ReportKind) (items : List Item) :
    ((p.withLinks x).tagReport kind items).orderEntries o = (p.withLinks x).tagReport kind items
      ∧ ((p.withLinks x).tagReport kind items).mbx.newest kind .zoneMatcher 0 0 items
      ∧ p.onlyChanges [.links, .reports, .chains, .port] ((p.withLinks x).tagReport kind items) := by
  have hreport := (tagReport_moves (p.withLinks x) kind items).drifts.only
  exact ⟨orderEntries_of_same_aux hreport ho, report_newest _ _ _ _ _ _ _,
    Part.onlyChanges_trans (Part.onlyChanges_mono (withLinks_only p x) (by decide)) (Part.onlyChanges_mono hreport (by decide))⟩

theorem byte_eq (b : Byte) (n : Nat) (hn : n < 256) : b.toNat = n ↔ b = BitVec.ofNat 8 n := by
  constructor
  · intro h
    exact BitVec.eq_of_toNat_eq (by rw [h, BitVec.toNat_ofNat, Nat.mod_eq_of_lt hn])
  · rintro rfl
    rw [BitVec.toNat_ofNat, Nat.mod_eq_of_lt hn]

/-- A frame of the tag link, delivered in a link state (R111, R112). -/
theorem tagFrame_takes (p o : Part) (x : Links) (link : LinkState) (payload : List Byte) (ho : o.aux = p.aux) :
    p.takesTagFrame (((p.withLinks x).tagFrame link payload).orderEntries o) link payload := by
  have hidle : (p.withLinks x).orderEntries o = p.withLinks x := orderEntries_same _ _ ho.symm
  have hten := byte_eq (byteAt payload 0) 0x10 (by decide)
  have heleven := byte_eq (byteAt payload 0) 0x11 (by decide)
  refine ⟨fun hlink => ?_, fun hlink hkind hlength => ?_, fun hlink hno hread => ?_, fun hlink hkind hlength => ?_⟩
  · have hframe : (p.withLinks x).tagFrame link payload
        = (p.withLinks x).tagReport .tagLinkNotReady [.small (linkStateCode link), .small (byteAt payload 0).toNat] := if_pos hlink
    obtain ⟨hend, hnewest, honly⟩ := tagReport_end p o x ho .tagLinkNotReady [.small (linkStateCode link), .small (byteAt payload 0).toNat]
    rw [hframe, hend]
    exact ⟨hnewest, honly⟩
  · have hframe : (p.withLinks x).tagFrame link payload = p.withLinks x :=
      (if_neg (by simp [hlink])).trans (if_pos ⟨hten.mpr hkind, hlength⟩)
    rw [hframe, hidle]
    exact withLinks_only p x
  · have hframe : (p.withLinks x).tagFrame link payload
        = (p.withLinks x).tagReport .tagFrameInvalid [.small payload.length, .small (byteAt payload 0).toNat] :=
      (if_neg (by simp [hlink])).trans ((if_neg fun ⟨hk, hl⟩ => hno ⟨hten.mp hk, hl⟩).trans (if_neg fun ⟨hk, hl⟩ => hread ⟨heleven.mp hk, hl⟩))
    obtain ⟨hend, hnewest, honly⟩ := tagReport_end p o x ho .tagFrameInvalid [.small payload.length, .small (byteAt payload 0).toNat]
    rw [hframe, hend]
    exact ⟨hnewest, honly⟩
  · have hframe : (p.withLinks x).tagFrame link payload = (p.withLinks x).filterTag (tagRead payload) :=
      (if_neg (by simp [hlink])).trans ((if_neg fun ⟨hk, _⟩ => absurd (hk.symm.trans (heleven.mpr hkind)) (by decide)).trans
        (if_pos ⟨heleven.mpr hkind, hlength⟩))
    rw [hframe]
    refine ⟨fun hquality => ?_, fun hquality hduplicate => ?_, fun hquality hduplicate => ?_⟩
    · have hfilter : (p.withLinks x).filterTag (tagRead payload) = (p.withLinks x).tagReport .tagLowQuality
          [bigNat (identityCode (tagRead payload).id), .small (tagRead payload).feature, .small (tagRead payload).quality] := if_pos hquality
      obtain ⟨hend, hnewest, honly⟩ := tagReport_end p o x ho .tagLowQuality
        [bigNat (identityCode (tagRead payload).id), .small (tagRead payload).feature, .small (tagRead payload).quality]
      rw [hfilter, hend]
      exact ⟨hnewest, honly⟩
    · have hfilter : (p.withLinks x).filterTag (tagRead payload) = p.withLinks x := (if_neg (Nat.not_lt.mpr hquality)).trans (if_pos hduplicate)
      rw [hfilter, hidle]
      exact withLinks_only p x
    · have hfilter : (p.withLinks x).filterTag (tagRead payload) = (p.withLinks x).acceptTag (tagRead payload) :=
        (if_neg (Nat.not_lt.mpr hquality)).trans (if_neg (Bool.eq_false_iff.mp hduplicate))
      rw [hfilter]
      exact tagEnd_accepts p o x (tagRead payload) ho

end Sys2Proof.Machine

/-! ## Whole serial frames (R34 to R36, R111, R141) -/

namespace Sys2Proof.Machine

/-- The links after an accepted serial frame: its receiver waits, its record has counted it. -/
def Part.acceptedSerial (p : Part) (l : SLink) : Links :=
  ((p.setSerialRx l .waiting).setLink (serialLink l) ((p.linkRec (serialLink l)).accept (p.silenceTimer (serialLink l)))).links

section
variable {p : Part} {l : SLink} {n : Nat} {bytes : List Byte}

/-- A whole frame of an active link (R35). -/
theorem serialComplete_whole (hstarted : (p.linkRec (serialLink l)).started = true) (hstate : (p.linkRec (serialLink l)).state ≠ .silent)
    (hrx : p.links.serial.get l = .body n bytes) (hlength : bytes.length = n + 2) : p.serialComplete l =
      if checkAgrees n bytes then (p.withLinks (p.acceptedSerial l)).deliverSerial l (bytes.take n) else p.serialErrored l .check .waiting := by
  have haccepted : (p.setSerialRx l .waiting).frameAccepted (serialLink l) = p.withLinks (p.acceptedSerial l) := linkNotice_serial _ l _ _
  rw [← haccepted]
  unfold Part.serialComplete
  rw [hstarted, hrx]
  dsimp only
  rw [if_pos hlength, firstActivity_of_not (.inr hstate)]
  rfl

theorem acceptedSerial_rec (p : Part) (l : SLink) : (p.withLinks (p.acceptedSerial l)).linkRec (serialLink l)
    = (p.linkRec (serialLink l)).accept (p.silenceTimer (serialLink l)) := PerLink.get_set_same _ _ _

theorem acceptedSerial_rx (p : Part) (l : SLink) : (p.withLinks (p.acceptedSerial l)).links.serial.get l = .waiting :=
  serial_setSerialRx p l .waiting

theorem byteAt_take {k : Nat} (h : k < n) : byteAt (bytes.take n) k = byteAt bytes k := by
  rw [byteAt, byteAt, List.getD_eq_getElem?_getD, List.getD_eq_getElem?_getD, List.getElem?_take_of_lt h]

theorem driveFrame_links (p : Part) (link : LinkState) (payload : List Byte) : (p.driveFrame link payload).links = p.links :=
  (driveFrame_moves p link payload).drifts.only .links (by decide)

theorem tagFrame_links (p : Part) (link : LinkState) (payload : List Byte) : (p.tagFrame link payload).links = p.links :=
  (tagFrame_moves p link payload).drifts.only .links (by decide)

theorem deliverSerial_links (p : Part) (l : SLink) (payload : List Byte) : (p.deliverSerial l payload).links = p.links := by
  cases l with
  | tag => exact tagFrame_links p _ payload
  | drive => exact driveFrame_links p _ payload

/-! ### The drive link (R141) -/

/-- A good reply is one frame of a GOOD link (R141). -/
theorem driveFrame_good {i : Inverter} (hn : n = 5) (hlength : bytes.length = n + 2) (hkind : byteAt bytes 0 = 0x21)
    (hwait : p.gov.replyWait = some (byteAt bytes 1)) (hi : inverterOfByte (byteAt bytes 4) = some i) :
    p.driveFrame .good (bytes.take n) = p.goodReply (byteAt bytes 1) (join16 (byteAt bytes 2) (byteAt bytes 3)).toInt i := by
  subst hn
  have htake : (bytes.take 5).length = 5 := by simp [hlength]
  unfold Part.driveFrame
  simp only [byteAt_take (n := 5) (bytes := bytes) (show 0 < 5 by decide), byteAt_take (n := 5) (bytes := bytes) (show 1 < 5 by decide),
    byteAt_take (n := 5) (bytes := bytes) (show 2 < 5 by decide), byteAt_take (n := 5) (bytes := bytes) (show 3 < 5 by decide),
    byteAt_take (n := 5) (bytes := bytes) (show 4 < 5 by decide), hi]
  exact if_pos ⟨trivial, hkind, htake, hwait⟩

/-- Any other frame is discarded (R141). -/
theorem driveFrame_other {link : LinkState} (hlength : bytes.length = n + 2)
    (h : link ≠ .good ∨ n ≠ 5 ∨ byteAt bytes 0 ≠ 0x21 ∨ p.gov.replyWait ≠ some (byteAt bytes 1) ∨ inverterOfByte (byteAt bytes 4) = none) :
    p.driveFrame link (bytes.take n) = p := by
  have htake : (bytes.take n).length = n := by simp [hlength]
  unfold Part.driveFrame
  split
  next hgood =>
    obtain ⟨hlink, hkind, hfive, hwait⟩ := hgood
    rw [htake] at hfive
    subst hfive
    rw [byteAt_take (by decide)] at hkind hwait
    have hnone : inverterOfByte (byteAt bytes 4) = none := by
      simpa [hlink, hkind, hwait] using h
    rw [byteAt_take (by decide), hnone]
  next => rfl

end

/-- Settles O45, which holds: the frame is checked, its link's record counts it, and it is delivered to the part whose links alone have
changed (`tagFrame_takes`, `goodReply_stages`). -/
theorem serialFrameIsCheckedAndDelivered : Obligations.SerialFrameIsCheckedAndDelivered := by
  intro s l n bytes r hr hstarted hstate hrx hlength
  subst hr
  have hexec : exec (.serialFrameComplete l) s = .next { s with part := ((s.part.serialComplete l).orderEntries s.part).settle } := by
    rw [exec_serialFrameComplete, event_next]
  have hframe : s.part.onlyChanges eventPieces ((s.part.serialComplete l).orderEntries s.part) :=
    orderEntries_of_lineFrame (serialComplete_moves s.part l).drifts.only
  have hwhole := serialComplete_whole hstarted hstate hrx hlength
  cases hcheck : checkAgrees n bytes with
  | false =>
    rw [hcheck, if_neg (by simp)] at hwhole
    obtain ⟨hwaits, hrec, honly⟩ := serialErrored_counts (p := s.part) (l := l) (cause := .check) .waiting
    obtain ⟨hcause, hrun, -⟩ := err_fields hstate (s.part.tables.links.get (serialLink l)).errorLimit .check
    rw [← hrec] at hcause hrun
    have hidle : (s.part.serialErrored l .check .waiting).orderEntries s.part = s.part.serialErrored l .check .waiting :=
      orderEntries_of_same_aux honly rfl
    rw [hwhole, hidle] at hexec hframe
    exact ⟨_, hexec, hwaits, fun h => absurd h (by simp), fun _ => ⟨hcause, hrun, honly⟩, fun h => absurd h (by simp),
      fun h => absurd h (by simp), fun h => absurd h (by simp), hframe⟩
  | true =>
    rw [hcheck, if_pos rfl] at hwhole
    obtain ⟨herrors, hsilence, hnew, -⟩ := accept_fields hstate (s.part.silenceTimer (serialLink l))
    have hrec := acceptedSerial_rec s.part l
    have hwaits := acceptedSerial_rx s.part l
    generalize s.part.acceptedSerial l = x at *
    have hlinks : (((s.part.withLinks x).deliverSerial l (bytes.take n)).orderEntries s.part).links = (s.part.withLinks x).links :=
      (orderEntries_links _ _).trans (deliverSerial_links _ _ _)
    have hmine : (((s.part.withLinks x).deliverSerial l (bytes.take n)).orderEntries s.part).linkRec (serialLink l)
        = (s.part.linkRec (serialLink l)).accept (s.part.silenceTimer (serialLink l)) :=
      (congrArg (fun y : Links => y.recs.get (serialLink l)) hlinks).trans hrec
    rw [hwhole] at hexec hframe
    refine ⟨_, hexec, (congrArg (fun y : Links => y.serial.get l) hlinks).trans hwaits, fun _ => ?_, fun h => absurd h (by simp), fun _ hl => ?_,
      fun _ hl hgood hn hkind hwait i hi => ?_, fun _ hl hother => ?_, hframe⟩
    · rw [hmine]
      exact ⟨herrors, hsilence, hnew⟩
    · subst hl
      rw [hmine, ← hrec]
      exact tagFrame_takes s.part s.part x _ (bytes.take n) rfl
    · subst hl
      rw [hmine] at hgood
      have hdeliver : (s.part.withLinks x).deliverSerial .drive (bytes.take n)
          = (s.part.withLinks x).goodReply (byteAt bytes 1) (join16 (byteAt bytes 2) (byteAt bytes 3)).toInt i := by
        have hstate : ((s.part.withLinks x).linkRec (serialLink .drive)).state = .good := by rw [hrec, hgood]
        show (s.part.withLinks x).driveFrame ((s.part.withLinks x).linkRec (serialLink .drive)).state (bytes.take n) = _
        rw [hstate]
        exact driveFrame_good hn hlength hkind hwait hi
      have hsame : ((s.part.withLinks x).goodReply (byteAt bytes 1) (join16 (byteAt bytes 2) (byteAt bytes 3)).toInt i).orderEntries s.part
          = (s.part.withLinks x).goodReply (byteAt bytes 1) (join16 (byteAt bytes 2) (byteAt bytes 3)).toInt i :=
        orderEntries_of_same_aux (goodReply_moves (s.part.withLinks x) _ _ _).drifts.only rfl
      rw [hdeliver, hsame]
      obtain ⟨hmisses, hrun, hinverter, hactual⟩ := goodReply_fields (s.part.withLinks x) (byteAt bytes 1)
        (join16 (byteAt bytes 2) (byteAt bytes 3)).toInt i
      obtain ⟨hfault, hlink⟩ := goodReply_reasons (s.part.withLinks x) (byteAt bytes 1) (join16 (byteAt bytes 2) (byteAt bytes 3)).toInt i
      refine ⟨hmisses, hrun, hinverter, hactual, fun hbad => hfault.trans hbad, fun hbad => hfault.trans hbad, fun hbad hclear => ?_,
        fun hbad hset => goodReply_endsFault (s.part.withLinks x) _ _ i hbad hset, goodReply_waits (s.part.withLinks x) _ _ i,
        fun hthird => ⟨hlink.trans (if_pos hthird), goodReply_endsLink (s.part.withLinks x) _ _ i hthird⟩, fun hnot => hlink.trans (if_neg hnot)⟩
      rw [hactual]
      exact goodReply_activates (s.part.withLinks x) (byteAt bytes 1) (join16 (byteAt bytes 2) (byteAt bytes 3)).toInt i hbad hclear
    · subst hl
      rw [hmine, ← hrec] at hother
      have hdeliver : (s.part.withLinks x).deliverSerial .drive (bytes.take n) = s.part.withLinks x :=
        driveFrame_other (p := s.part.withLinks x) hlength hother
      rw [hdeliver, orderEntries_of_same_aux (withLinks_only s.part x) rfl]
      exact withLinks_only s.part x

end Sys2Proof.Machine

/-! ## The owners and the chains: what a card does to a chain's cursor (R6, R13, R21) -/

namespace Sys2Proof.Machine

/-- From `p` to `q` every chain keeps its cursor. -/
def Part.KeepsCursors (p q : Part) : Prop := ∀ c, (q.mbx.chains.get c).cursor = (p.mbx.chains.get c).cursor

section
variable {p q r : Part}

theorem Part.KeepsCursors.refl (p : Part) : p.KeepsCursors p := fun _ => rfl

theorem Part.KeepsCursors.andThen (h : p.KeepsCursors q) (k : q.KeepsCursors r) : p.KeepsCursors r := fun c => (k c).trans (h c)

theorem Part.Logs.keepsCursors {P : ReportRec → Prop} (h : p.Logs P q) : p.KeepsCursors q := h.cursor

theorem Part.onlyChanges.keepsCursors {xs : List Piece} (h : p.onlyChanges xs q) (hx : xs.contains .chains = false) : p.KeepsCursors q := by
  have hsame : q.mbx.chains = p.mbx.chains := h .chains (by simpa using hx)
  intro c
  rw [hsame]

theorem Part.Tail.keepsCursors (h : p.Tail q) : p.KeepsCursors q := h.spares.logs.keepsCursors

theorem Part.Sets.keepsCursors {i : PoleId} {x : Pole} {ks : List FaultKind} {rs : List ReportKind} {os : List DriveRole}
    (h : Part.Sets i x ks rs os p q) : p.KeepsCursors q := h.about.keepsCursors

theorem forEach_keepsCursors {α : Type} {f : Part → α → Part} (h : ∀ (p : Part) x, p.KeepsCursors (f p x)) (xs : List α) (p : Part) :
    p.KeepsCursors (p.forEach xs f) := by
  induction xs generalizing p with
  | nil => exact .refl p
  | cons x xs ih => exact (h p x).andThen (ih (f p x))

end

/-! ### The auxiliaries (R145, R156) -/

/-- What an auxiliary's switching changes, but for its raises and reports. -/
def switchPieces : List Piece := [.outputs, .records, .budget, .aux]

section
variable (p : Part) (a : AuxNo)

theorem stopAux_only : p.onlyChanges switchPieces (p.stopAux a) :=
  ((Part.onlyChanges_mono (switchOff_moves p a).drifts.only (by decide)).thenMoves (setAux_moves _ a _) (by decide)).thenMoves
    (startOff_moves _ a) (by decide)

theorem releaseFaulted_only : p.onlyChanges switchPieces (p.releaseFaulted a) :=
  (Part.onlyChanges_mono (setAux_moves p a _).drifts.only (by decide)).thenMoves (endFault_moves _ _ _) (by decide)

theorem requestOff_only : p.onlyChanges switchPieces (p.requestOff a) := by
  have h : p.onlyChanges switchPieces (p.setAux a { p.auxRec a with requested := false }) :=
    Part.onlyChanges_mono (setAux_moves p a _).drifts.only (by decide)
  unfold Part.requestOff
  dsimp only
  generalize p.setAux a { p.auxRec a with requested := false } = b at h ⊢
  split
  · exact h
  · exact (h.thenMoves (leaveQueue_moves b a) (by decide)).thenMoves (setAux_moves _ a _) (by decide)
  · exact Part.onlyChanges_trans h (stopAux_only b a)
  · exact Part.onlyChanges_trans h (stopAux_only b a)
  · split
    · exact h.thenMoves (setAux_moves b a _) (by decide)
    · exact h
  · exact h
  · exact Part.onlyChanges_trans h (releaseFaulted_only b a)

theorem auxRequested_only (on : Bool) : p.onlyChanges switchPieces (p.auxRequested a on) := by
  unfold Part.auxRequested
  split
  · exact Part.onlyChanges_mono (requestOn_moves p a).drifts.only (by decide)
  · exact requestOff_only p a

theorem auxAfterLoad_only : p.onlyChanges switchPieces (p.auxAfterLoad a) := by
  unfold Part.auxAfterLoad
  dsimp only
  split
  · exact p.onlyChanges_refl _
  · have h : p.onlyChanges switchPieces (if (p.auxRec a).requested then p.setAux a { p.auxRec a with requested := false } else p) := by
      split
      · exact Part.onlyChanges_mono (setAux_moves p a _).drifts.only (by decide)
      · exact p.onlyChanges_refl _
    generalize (if (p.auxRec a).requested then p.setAux a { p.auxRec a with requested := false } else p) = b at h ⊢
    split
    · exact Part.onlyChanges_trans h (releaseFaulted_only b a)
    · exact h

theorem offForLayover_only : p.onlyChanges switchPieces (p.offForLayover a) := by
  have hoff : p.onlyChanges switchPieces (p.switchOff a) := Part.onlyChanges_mono (switchOff_moves p a).drifts.only (by decide)
  unfold Part.offForLayover
  dsimp only
  split
  · exact hoff.thenMoves (setAux_moves _ a _) (by decide)
  · exact hoff.thenMoves (setAux_moves _ a _) (by decide)
  · exact (Part.onlyChanges_mono (leaveQueue_moves p a).drifts.only (by decide)).thenMoves (setAux_moves _ a _) (by decide)
  · exact Part.onlyChanges_mono (setAux_moves p a _).drifts.only (by decide)
  · exact Part.onlyChanges_mono (setAux_moves p a _).drifts.only (by decide)
  · exact p.onlyChanges_refl _
  · exact p.onlyChanges_refl _

theorem layoverAux_only : p.onlyChanges switchPieces (p.layoverAux a) := by
  have h : p.onlyChanges switchPieces (p.setAux a { p.auxRec a with keptInLayover := (p.auxEntry a).layoverKeep }) :=
    Part.onlyChanges_mono (setAux_moves p a _).drifts.only (by decide)
  unfold Part.layoverAux
  dsimp only
  split
  · exact h
  · exact Part.onlyChanges_trans h (offForLayover_only _ a)

theorem auxEntersLayover_only : p.onlyChanges switchPieces p.auxEntersLayover :=
  (forEach_only (f := Part.layoverAux) layoverAux_only allAux p).thenMoves (restartStagger_moves _) (by decide)

end

/-! ### The poles (R73, R96, R103) -/

/-- LOWER_POLES for one pole, as an operation on each named pole. -/
def lowersNamed (tag : Word) (p : Part) (i : PoleId) : Part × List PoleNotice := p.lowerNamed i tag

theorem lowerAll_eq (p : Part) (poles : List PoleId) (tag : Word) :
    p.lowerAll poles tag = (Part.eachPole (lowersNamed tag) (p, []) poles).1.closePoles (Part.eachPole (lowersNamed tag) (p, []) poles).2 := rfl

section
variable (p : Part) (i : PoleId) (tag : Word)

theorem lowersNamed_on (h : (p.poles.get i).onLine = true) : lowersNamed tag p i = p.lower i .request tag none := by
  rw [Pole.onLine, Bool.or_eq_true, beq_iff_eq, beq_iff_eq] at h
  obtain h | h := h <;> simp only [lowersNamed, Part.lowerNamed, h]

theorem lowersNamed_raising (h : (p.poles.get i).state = .raising) :
    lowersNamed tag p i = p.abandonRaise i .lowerRequest (some tag) := by
  simp only [lowersNamed, Part.lowerNamed, h]

theorem lowersNamed_housed (h : (p.poles.get i).state = .housed) :
    lowersNamed tag p i = (if (p.poles.get i).retryPending then p.setPole i (p.poles.get i).givesUp else p, []) := by
  simp only [lowersNamed, Part.lowerNamed, h]
  rw [← h]
  split <;> rfl

theorem lowersNamed_other (hon : (p.poles.get i).onLine = false) (hraising : (p.poles.get i).state ≠ .raising)
    (hhoused : (p.poles.get i).state ≠ .housed) : lowersNamed tag p i = (p, []) := by
  cases hs : (p.poles.get i).state <;> simp_all [lowersNamed, Part.lowerNamed, Pole.onLine]

theorem lowersNamed_works : WorksOn (lowersNamed tag) := by
  intro p i
  by_cases hon : (p.poles.get i).onLine = true
  · rw [lowersNamed_on p i tag hon]
    exact ⟨_, (lower_sets p i .request tag none).mono⟩
  by_cases hraising : (p.poles.get i).state = .raising
  · rw [lowersNamed_raising p i tag hraising]
    exact ⟨_, abandonRaise_sets p i .lowerRequest (some tag)⟩
  by_cases hhoused : (p.poles.get i).state = .housed
  · rw [lowersNamed_housed p i tag hhoused]
    dsimp only
    split
    · exact ⟨_, (setPole_sets p i _).mono⟩
    · exact ⟨_, .refl _ _ _ p i⟩
  · rw [lowersNamed_other p i tag (by simpa using hon) hraising hhoused]
    exact ⟨_, .refl _ _ _ p i⟩

theorem eachPole_keepsCursors {f : Part → PoleId → Part × List PoleNotice} (hf : WorksOn f) (poles : List PoleId)
    (acc : Part × List PoleNotice) : acc.1.KeepsCursors (Part.eachPole f acc poles).1 := by
  induction poles generalizing acc with
  | nil => exact .refl _
  | cons j poles ih =>
    obtain ⟨r, hset⟩ := hf acc.1 j
    exact hset.keepsCursors.andThen (ih ((f acc.1 j).1, acc.2 ++ (f acc.1 j).2))

theorem lowerAll_keepsCursors (poles : List PoleId) : p.KeepsCursors (p.lowerAll poles tag) := by
  rw [lowerAll_eq]
  exact (eachPole_keepsCursors (lowersNamed_works tag) poles (p, [])).andThen (closePoles_tail _ _).keepsCursors

theorem raisePoles_keepsCursors (poles : List PoleId) (origin : RaiseOrigin) (zone : Option TagId) :
    p.KeepsCursors (p.raisePoles poles origin tag zone) := by
  unfold Part.raisePoles
  rw [beginRaises_eq]
  exact (eachPole_keepsCursors (beginRaise_works origin tag zone) poles (p, [])).andThen (closePoles_tail _ _).keepsCursors

theorem resolved_keepsCursors (basis : Nat) {entered : PoleState} (h : entered = .onWire ∨ entered = .housed) :
    p.KeepsCursors (p.resolved i entered basis tag) := by
  have hreport : p.KeepsCursors (p.reportsResolved i entered basis) := (reportsResolved_sets p i entered basis).keepsCursors
  refine hreport.andThen ?_
  rcases h with rfl | rfl
  · cases htrip : p.tripClosed i with
    | false =>
      rw [resolved_wire basis tag htrip]
      exact (sendNotices_tail _ _).keepsCursors.andThen (updateClaims_tail _).keepsCursors
    | true =>
      rw [resolved_trips basis tag htrip]
      exact ((sendNotices_tail _ _).keepsCursors.andThen (confirmDewired_spares _ i .trip tag).logs.keepsCursors).andThen
        (updateClaims_tail _).keepsCursors
  · rw [resolved_off (by decide) (by decide)]
    exact (closePoles_tail _ _).keepsCursors

theorem tryResolve_keepsCursors : p.KeepsCursors (p.tryResolve i tag) := by
  unfold Part.tryResolve
  split
  · exact resolved_keepsCursors p i tag 0 (.inr rfl)
  · split
    · exact resolved_keepsCursors p i tag 0 (.inl rfl)
    · exact .refl p

/-- A FAULTED pole that CLEAR_POLE resolves anew, from the record it had (R73). -/
def Pole.clears (q : Pole) (timer : Timer) (tag : Word) : Pole :=
  { q with state := .untracked, blind := false, resolving := true, resolveTag := tag, fault := none, indicators := {}, seen := {},
           resolutionTimer := timer }.restartRate

/-- CLEAR_POLE before the attempt to resolve (R73). -/
def Part.clearsPole (p : Part) (i : PoleId) (tag : Word) : Part :=
  (p.endPoleFault i).modPole i (fun q => q.clears ((p.endPoleFault i).startTimer (p.endPoleFault i).tables.timers.resolutionWindow) tag)

/-- A pole that resolves anew tries at once where it has a sensor (R72, R73). -/
def Part.triesIfSensed (p : Part) (i : PoleId) (tag : Word) : Part :=
  if (p.poles.get i).sensorAvailable then p.tryResolve i tag else p

theorem clearPole_eq : p.clearPole i tag
    = ((((p.clearsPole i tag).sendNotices [{ pole := i, entered := .untracked }]).triesIfSensed i tag)).updateClaims := rfl

theorem triesIfSensed_keepsCursors : p.KeepsCursors (p.triesIfSensed i tag) := by
  unfold Part.triesIfSensed
  split
  · exact tryResolve_keepsCursors p i tag
  · exact .refl p

theorem clearPole_keepsCursors : p.KeepsCursors (p.clearPole i tag) := by
  have hends : p.KeepsCursors (p.endPoleFault i) := (endPoleFault_moves p i).drifts.only.keepsCursors (by decide)
  have hclears : p.KeepsCursors (p.clearsPole i tag) := hends.andThen (setPole_sets _ i _).keepsCursors
  rw [clearPole_eq]
  exact ((hclears.andThen (sendNotices_tail _ _).keepsCursors).andThen (triesIfSensed_keepsCursors _ i tag)).andThen
    (updateClaims_tail _).keepsCursors

end

/-! ### The collector (R163, R164, R167) and the zones (R126) -/

section
variable (p : Part)

theorem moveCollector_keepsCursors (new : CollectorState) (cause : CollectorCause) (kind : Option FaultKind) (tag : Word) :
    p.KeepsCursors (p.moveCollector new cause kind tag) := (moveCollector_logs p new cause kind tag).keepsCursors

/-- The records are acknowledged (R163 steps 1 and 2). -/
def Part.acksRecords : Part := { p with faults := p.faults.acknowledge }

/-- An ALERT ends with its acknowledgement (R163 step 3). -/
def Part.leavesAlert (tag : Word) : Part := if p.faults.state = .alert then p.moveCollector .normal .ack none tag else p

/-- Both poles take the acknowledgement, before the claims (R85). -/
def Part.acksPoles : Part := { p with poles := ⟨p.poles.p.acknowledge, p.poles.n.acknowledge⟩ }

theorem acknowledge_eq (tag : Word) : p.acknowledge tag = (p.acksRecords.leavesAlert tag).acksPoles.updateClaims.evalAlarms := rfl

theorem leavesAlert_keepsCursors (tag : Word) : p.KeepsCursors (p.leavesAlert tag) := by
  unfold Part.leavesAlert
  split
  · exact moveCollector_keepsCursors p _ _ _ _
  · exact .refl p

theorem acknowledge_keepsCursors (tag : Word) : p.KeepsCursors (p.acknowledge tag) := by
  have hpoles : ∀ b : Part, b.KeepsCursors b.acksPoles.updateClaims := fun b =>
    Part.KeepsCursors.andThen (q := b.acksPoles) (fun _ => rfl) (updateClaims_tail _).keepsCursors
  have hfirst : p.KeepsCursors p.acksRecords := fun _ => rfl
  rw [acknowledge_eq]
  exact ((hfirst.andThen (leavesAlert_keepsCursors _ tag)).andThen (hpoles _)).andThen
    ((evalAlarms_moves _).drifts.only.keepsCursors (by decide))

/-- The record of a kind under test (R167). -/
def Part.marksTest (k : FaultKind) : Part :=
  p.modFault k (fun r => { r with testHold := p.startTimer p.tables.timers.minOnTime, test := true, unack := true })

/-- A test is reported (R167); `old` is the part before it. -/
def Part.reportsTest (old : Part) (k : FaultKind) (tag : Word) : Part :=
  p.putReport { p.newReport (.fault k) (faultSeverity k (old.reactions k)) .faultCollector 0 tag [] with test := true }

/-- The holds and fallbacks of a test (R165, R167); `old` is the part before it. -/
def Part.testHolds (old : Part) (k : FaultKind) : Collector :=
  if k = .alarmOutput then p.faults.holds p (old.reactions k)
  else (p.faults.holds p (old.reactions k)).fallback (old.reactions k) (p.roleFailed .lamp) (p.roleFailed .buzzer)

/-- A test before its holds (R167). -/
def Part.testStarts (k : FaultKind) (tag : Word) : Part := ((p.marksTest k).reportsTest p k tag).collectorActivate k false true tag

theorem injectTest_eq (k : FaultKind) (tag : Word) :
    p.injectTest k tag = ((p.testStarts k tag).withFaults ((p.testStarts k tag).testHolds p k)).evalAlarms := rfl

theorem collectorActivate_test (k : FaultKind) (tag : Word) : p.collectorActivate k false true tag
    = p.moveCollector (if p.faults.state = .normal then .alert else p.faults.state) .activation (some k) tag := by
  unfold Part.collectorActivate
  cases h : p.faults.state with
  | normal => rfl
  | alert => exact (moveCollector_same h _ _ _).symm
  | fault => exact (moveCollector_same h _ _ _).symm

theorem testStarts_keepsCursors (k : FaultKind) (tag : Word) : p.KeepsCursors (p.testStarts k tag) := by
  have hmarks : p.KeepsCursors (p.marksTest k) := (modFault_moves p k _).drifts.only.keepsCursors (by decide)
  have hreports : (p.marksTest k).KeepsCursors ((p.marksTest k).reportsTest p k tag) :=
    (putReport_logs (P := fun _ => True) _ _ trivial rfl).keepsCursors
  unfold Part.testStarts
  rw [collectorActivate_test]
  exact (hmarks.andThen hreports).andThen (moveCollector_keepsCursors _ _ _ _ _)

theorem injectTest_keepsCursors (k : FaultKind) (tag : Word) : p.KeepsCursors (p.injectTest k tag) := by
  rw [injectTest_eq]
  refine (testStarts_keepsCursors p k tag).andThen ?_
  generalize p.testStarts k tag = b
  exact Part.KeepsCursors.andThen (q := b.withFaults (b.testHolds p k)) (fun _ => rfl)
    ((evalAlarms_moves _).drifts.only.keepsCursors (by decide))

theorem endZone_keepsCursors (order : Nat) (cause : EndCause) (tag : Word) : p.KeepsCursors (p.endZone order cause tag) := by
  cases hz : p.zones.activeZone order with
  | none => rw [endZone_none hz]; exact .refl p
  | some z =>
    rw [endZone_some hz]
    have hmiss : (p.dropsZone order).KeepsCursors ((p.dropsZone order).missAtEnd z tag) := by
      unfold Part.missAtEnd
      split
      · rw [rewireMissed_eq]
        exact (raise_logs _ _).keepsCursors
      · exact .refl _
    have hend : ∀ b : Part, b.KeepsCursors (b.reportEnd z.atEnd cause tag) := by
      intro b
      have hlog : ∀ kind sev block inst items, b.KeepsCursors (b.report kind sev block inst tag items) :=
        fun _ _ _ _ _ => (report_logs (P := fun _ => True) b _ _ _ _ _ _ trivial).keepsCursors
      unfold Part.reportEnd
      split
      · exact hlog _ _ _ _ _
      · split
        · exact hlog _ _ _ _ _
        · exact .refl b
      · split
        · exact hlog _ _ _ _ _
        · exact .refl b
    have hdrop : p.KeepsCursors (p.dropsZone order) := .refl p
    exact (hdrop.andThen hmiss).andThen (hend _)

theorem clearZones_keepsCursors (tag : Word) : p.KeepsCursors (p.clearZones tag) := by
  unfold Part.clearZones
  dsimp only
  refine Part.KeepsCursors.andThen ?_ ((recomputeProfile_moves _).drifts.only.keepsCursors (by decide))
  exact Part.KeepsCursors.andThen (q := p.setPending []) (.refl p)
    (forEach_keepsCursors (f := fun p o => p.endZone o .cleared tag) (fun b o => endZone_keepsCursors b o .cleared tag) _ _)

end

/-! ### Table loads (R174) and LAYOVER (R183, R184) -/

section
variable (p : Part)

theorem recompute_keepsCursors : p.KeepsCursors p.recompute := (recompute_spares p).logs.keepsCursors

theorem auxTableLoaded_only : p.onlyChanges switchPieces p.auxTableLoaded :=
  (forEach_only (f := Part.auxAfterLoad) auxAfterLoad_only allAux p).thenMoves (moves_aux _ _) (by decide)

theorem ownerTakes_keepsCursors (t : Tables) (x : Load) : p.KeepsCursors (p.ownerTakes t x) := by
  unfold Part.ownerTakes
  split
  · exact recompute_keepsCursors p
  · exact recompute_keepsCursors p
  · split
    · exact (recomputeProfile_moves p).drifts.only.keepsCursors (by decide)
    · exact .refl p
  · exact (auxTableLoaded_only p).keepsCursors (by decide)
  · exact (inputsLoaded_moves p _).drifts.only.keepsCursors (by decide)
  · exact (outputsLoaded_moves p _).drifts.only.keepsCursors (by decide)
  · exact (evalAlarms_moves p).drifts.only.keepsCursors (by decide)
  · split
    · exact .refl p
    · exact fun _ => rfl
  · exact .refl p
  · exact .refl p
  · exact .refl p

theorem load_keepsCursors (x : Load) : p.KeepsCursors (p.load x) :=
  Part.KeepsCursors.andThen (q := { p with tables := p.tables.store x }) (fun _ => rfl) (ownerTakes_keepsCursors _ _ _)

theorem lineUnknown_keepsCursors : p.KeepsCursors p.lineUnknown := (lineUnknown_spares p).logs.keepsCursors

theorem endModeChange_keepsCursors (kind : ReportKind) (tag : Word) (items : List Item) :
    p.KeepsCursors (p.endModeChange kind tag items) := by
  have hreport : p.KeepsCursors (p.modeReport kind tag items) :=
    (report_logs (P := fun _ => True) p kind .info .modeLogic 0 tag items trivial).keepsCursors
  have hnote : (p.modeReport kind tag items).KeepsCursors (p.modeReport kind tag items).noteModeChange := fun _ => rfl
  exact (hreport.andThen hnote).andThen ((mirrorStart_moves _).drifts.only.keepsCursors (by decide))

theorem portEntersLayover_keepsCursors : p.KeepsCursors p.portEntersLayover := by
  intro c
  cases c <;> rfl

theorem polesEnterLayover_only : p.onlyChanges [.outputs, .records, .poles] p.polesEnterLayover := by
  have hdrive := ((drive_moves p (.retriever .p) false).andThen (drive_moves _ (.retriever .n) false)).drifts.only
  unfold Part.polesEnterLayover
  dsimp only
  generalize (p.drive (.retriever .p) false).drive (.retriever .n) false = b at hdrive ⊢
  exact (Part.onlyChanges_mono hdrive (by decide)).andThen (xs := [.outputs, .records, .poles]) (ys := [.poles])
    (fun y hy => by cases y <;> simp_all [Part.same]) (by decide)

/-- The blocks before the line and the Mailbox Port at LAYOVER entry (R183). -/
def Part.layoverStart : Part := (p.leavesRun .layover).linksStop.contactsEnterLayover.polesEnterLayover.auxEntersLayover

theorem enterLayover_eq (tag : Word) : p.enterLayover tag
    = p.layoverStart.lineEntersLayover.portEntersLayover.endModeChange .layoverEntered tag [] := rfl

def layoverStartPieces : List Piece := leavePieces ++ [.links, .contacts, .poles] ++ switchPieces

theorem layoverStart_only : p.onlyChanges layoverStartPieces p.layoverStart := by
  have hlinks : ∀ b : Part, b.onlyChanges [.links] b.linksStop := fun b => (moves_links b .stop).drifts.only
  exact ((((Part.onlyChanges_mono (leavesRun_pieces p .layover) (by decide)).andThen (hlinks _) (by decide)).thenMoves
    (contactsEnterLayover_moves _) (by decide)).andThen (polesEnterLayover_only _) (by decide)).andThen (auxEntersLayover_only _) (by decide)

theorem lineEntersLayover_keepsCursors : p.KeepsCursors p.lineEntersLayover :=
  Part.KeepsCursors.andThen (q := p.lineUnknown) (lineUnknown_keepsCursors p) (fun _ => rfl)

theorem enterLayover_keepsCursors (tag : Word) : p.KeepsCursors (p.enterLayover tag) := by
  rw [enterLayover_eq]
  exact ((((layoverStart_only p).keepsCursors (by decide)).andThen (lineEntersLayover_keepsCursors _)).andThen
    (portEntersLayover_keepsCursors _)).andThen (endModeChange_keepsCursors _ _ _ _)

theorem rescanParked_cursors (m : Mailbox) (c d : Chain) : ((m.rescanParked c).chains.get d).cursor = (m.chains.get d).cursor := by
  unfold Mailbox.rescanParked
  split
  · by_cases h : d = c
    · rw [h, startRescan_cursor]
    · rw [(startRescan_touches m c).only.1 d h]
  · rfl

theorem rescanChains_keepsCursors : p.KeepsCursors p.rescanChains := fun c =>
  ((rescanParked_cursors _ .setup c).trans (rescanParked_cursors _ .report c)).trans (rescanParked_cursors _ .control c)

theorem leaveLayover_keepsCursors (cause : WakeCause) (tag : Word) (extra : List Item) :
    p.KeepsCursors (p.leaveLayover cause tag extra) := by
  have hstart : p.KeepsCursors p.startsRun.lineUnknown :=
    Part.KeepsCursors.andThen (q := p.startsRun) (fun _ => rfl) (lineUnknown_keepsCursors _)
  have hgovernor : ∀ b : Part, b.KeepsCursors b.governorWakes := fun b c => by rw [governorWakes_mbx]
  have hends : ∀ b : Part, b.KeepsCursors b.endsLayover := fun b =>
    Part.KeepsCursors.andThen (q := b.auxLeavesLayover.endLayover)
      (((auxLeavesLayover_moves b).drifts.only.keepsCursors (by decide)).andThen
        ((endLayover_moves _).drifts.only.keepsCursors (by decide)))
      (rescanChains_keepsCursors _)
  exact ((hstart.andThen (hgovernor _)).andThen (hends _)).andThen (endModeChange_keepsCursors _ _ _ _)

end

/-! ### The sixteen owners (R6) -/

section
variable (p : Part) (r : Request)

theorem refuse_keepsCursors (code : ResultCode) (detail : Nat) : p.KeepsCursors (refuse p code detail).1 := .refl p

theorem cardAuxRequest_keepsCursors : p.KeepsCursors (p.cardAuxRequest r).1 := by
  unfold Part.cardAuxRequest
  dsimp only
  split
  · exact .refl p
  split
  · split
    · exact .refl p
    split
    · exact .refl p
    split
    · exact .refl p
    · exact (auxRequested_only p _ _).keepsCursors (by decide)
  · exact .refl p

theorem cardBatteryLimits_keepsCursors : p.KeepsCursors (p.cardBatteryLimits r).1 := by
  have hline : ∀ l : Line, p.KeepsCursors ({ p with line := l } : Part).recompute := fun l =>
    Part.KeepsCursors.andThen (q := { p with line := l }) (fun _ => rfl) (recompute_keepsCursors _)
  unfold Part.cardBatteryLimits
  dsimp only
  split
  · exact .refl p
  split
  · exact .refl p
  · exact hline _

theorem cardRaisePoles_keepsCursors : p.KeepsCursors (p.cardRaisePoles r).1 := by
  unfold Part.cardRaisePoles
  split
  · exact .refl p
  split
  · exact .refl p
  split
  · exact .refl p
  · rw [done_part]
    exact raisePoles_keepsCursors p r.tag _ _ _

theorem cardLowerPoles_keepsCursors : p.KeepsCursors (p.cardLowerPoles r).1 := by
  unfold Part.cardLowerPoles
  dsimp only
  split
  · exact .refl p
  split
  · exact .refl p
  split
  · exact .refl p
  · rw [done_part]
    exact lowerAll_keepsCursors p r.tag _

theorem cardClearPole_keepsCursors : p.KeepsCursors (p.cardClearPole r).1 := by
  unfold Part.cardClearPole
  generalize (if r.at 0 = 0 then PoleId.p else PoleId.n) = i
  dsimp only
  split
  · exact .refl p
  split
  · exact .refl p
  split
  · exact .refl p
  · rw [done_part]
    exact clearPole_keepsCursors p i r.tag

theorem cardAckFaults_keepsCursors : p.KeepsCursors (p.cardAckFaults r).1 := by
  unfold Part.cardAckFaults
  split
  · exact .refl p
  · rw [done_part]
    exact acknowledge_keepsCursors p r.tag

theorem cardClearFaultState_keepsCursors : p.KeepsCursors (p.cardClearFaultState r).1 := by
  unfold Part.cardClearFaultState
  split
  · exact .refl p
  split
  · exact .refl p
  split
  · exact .refl p
  · rw [done_part]
    exact moveCollector_keepsCursors p _ _ _ _

theorem cardInjectTest_keepsCursors : p.KeepsCursors (p.cardInjectTest r).1 := by
  unfold Part.cardInjectTest
  split
  · exact .refl p
  split
  · exact .refl p
  split
  · exact .refl p
  · rw [done_part]
    exact injectTest_keepsCursors p _ r.tag

theorem cardClearZones_keepsCursors : p.KeepsCursors (p.cardClearZones r).1 := by
  unfold Part.cardClearZones
  split
  · exact .refl p
  · rw [done_part]
    exact clearZones_keepsCursors p r.tag

theorem cardEnterLayover_keepsCursors : p.KeepsCursors (p.cardEnterLayover r).1 := by
  unfold Part.cardEnterLayover
  split
  · exact .refl p
  split
  · exact .refl p
  split
  · exact .refl p
  · rw [done_part]
    exact enterLayover_keepsCursors p r.tag

theorem cardExitLayover_keepsCursors : p.KeepsCursors (p.cardExitLayover r).1 := by
  unfold Part.cardExitLayover
  split
  · exact .refl p
  split
  · exact .refl p
  · rw [done_part]
    exact leaveLayover_keepsCursors p _ r.tag []

theorem cardLoadTable_keepsCursors : p.KeepsCursors (p.cardLoadTable r).1 := by
  unfold Part.cardLoadTable
  split
  · exact .refl p
  · exact load_keepsCursors p _

theorem cardVerifyConfig_keepsCursors : p.KeepsCursors (p.cardVerifyConfig r).1 := by
  unfold Part.cardVerifyConfig
  dsimp only
  split
  · exact .refl p
  · dsimp only
    split
    · exact .refl p
    · exact (raise_logs p _).keepsCursors

theorem own_keepsCursors (k : CardKind) : p.KeepsCursors (p.own k r).1 := by
  cases k with
  | auxRequest => exact cardAuxRequest_keepsCursors p r
  | raisePoles => exact cardRaisePoles_keepsCursors p r
  | lowerPoles => exact cardLowerPoles_keepsCursors p r
  | clearPole => exact cardClearPole_keepsCursors p r
  | cardInhibit => exact (cardInhibit_moves p r).drifts.only.keepsCursors (by decide)
  | batteryLimits => exact cardBatteryLimits_keepsCursors p r
  | ackFaults => exact cardAckFaults_keepsCursors p r
  | clearFaultState => exact cardClearFaultState_keepsCursors p r
  | injectTest => exact cardInjectTest_keepsCursors p r
  | readFaultTable => exact (cardReadFaultTable_moves p r).drifts.only.keepsCursors (by decide)
  | copySeenMap => exact (cardCopySeenMap_moves p r).drifts.only.keepsCursors (by decide)
  | clearZones => exact cardClearZones_keepsCursors p r
  | enterLayover => exact cardEnterLayover_keepsCursors p r
  | exitLayover => exact cardExitLayover_keepsCursors p r
  | loadTable => exact cardLoadTable_keepsCursors p r
  | verifyConfig => exact cardVerifyConfig_keepsCursors p r

end
end Sys2Proof.Machine

/-! ## The payload of a card and its decision (R4, R6, R14) -/

namespace Sys2Proof.Machine

/-! ### The decision -/

theorem verdictOn_keepsCursors (p : Part) (c : Chain) : p.KeepsCursors (p.verdictOn c).1 := by
  unfold Part.verdictOn
  dsimp only
  split
  · exact .refl p
  split
  · exact .refl p
  split
  · exact .refl p
  · exact own_keepsCursors p _ _

theorem cardKind_report (code : Nat) : cardKind .report code = none := rfl

/-- No owner takes a card of the Report chain (R6). -/
theorem verdictOn_report_data (p : Part) : (p.verdictOn .report).2.data = [] := by
  unfold Part.verdictOn
  dsimp only
  split
  · rfl
  · rfl

/-! ### Entry orders beside the chains (R146) -/

/-- A part with its Mailbox Port's record replaced. -/
def Part.withMailbox (p : Part) (m : Mailbox) : Part := { p with mbx := m }

theorem forEach_setOrder_withMailbox (xs : List (AuxNo × Nat)) (q : Part) (m : Mailbox) :
    (q.withMailbox m).forEach xs Part.setOrder = (q.forEach xs Part.setOrder).withMailbox m := by
  induction xs generalizing q with
  | nil => rfl
  | cons x xs ih => exact ih (q.setOrder x)

theorem orderEntries_withMailbox (q o : Part) (m : Mailbox) : (q.withMailbox m).orderEntries o = (q.orderEntries o).withMailbox m := by
  have hentered : o.entered (q.withMailbox m) = o.entered q := rfl
  unfold Part.orderEntries
  rw [hentered]
  dsimp only
  split
  · rfl
  · rw [show (fun a => ((q.withMailbox m).auxRec a).entryOrder) = fun a => (q.auxRec a).entryOrder from rfl,
      forEach_setOrder_withMailbox]
    rfl

theorem orderEntries_of_since {o o' : Part} (h : o'.aux = o.aux) (q : Part) : q.orderEntries o' = q.orderEntries o := by
  have hentered : o'.entered q = o.entered q := by
    unfold Part.entered Part.auxRec
    rw [h]
  unfold Part.orderEntries
  rw [hentered]

theorem withMailbox_finish (p : Part) (c : Chain) (v : Verdict) : p.finish c v = p.withMailbox (p.finish c v).mbx := by
  unfold Part.finish Part.writeData
  dsimp only
  split <;> rfl

/-- What a step does to the Mailbox Port's record alone it does after the entry orders too. -/
theorem onlyChanges_withMailbox {b d f : Part} {xs : List Piece} (h : d.onlyChanges xs f) (hb : b.mbx = d.mbx) :
    b.onlyChanges xs (b.withMailbox f.mbx) := by
  intro y hy
  have hsame := h y hy
  cases y <;> simp_all [Part.same, Part.withMailbox]

/-! ### A card is decided (R4, R6) -/

/-- The owner's answer is written in an event that began as `o`, whatever entry orders it gives. -/
theorem judgeCard_decided {p o : Part} {c : Chain} {x : Word} (hx : (p.mbx.chains.get c).cursor = some x) (haux : o.aux = p.aux) :
    p.decided ((p.judgeCard c).orderEntries o) c x := by
  have hcursor : ((p.verdictOn c).1.mbx.chains.get c).cursor = some x := (verdictOn_keepsCursors p c c).trans hx
  have hgiven : (p.verdictOn c).2.data = [] ∨ (p.verdictOn c).1.mbx.writesAsGiven c ((p.verdictOn c).2.data.take 16) := by
    by_cases hc : c = .report
    · rw [hc]
      exact .inl (verdictOn_report_data p)
    · exact .inr (writesAsGiven_of_ne _ hc _)
  have hwrites := finish_writesOutcome hcursor hgiven
  have honly := (finish_moves (p.verdictOn c).1 c (p.verdictOn c).2).drifts.only
  have hjudge : p.judgeCard c = (p.verdictOn c).1.withMailbox ((p.verdictOn c).1.finish c (p.verdictOn c).2).mbx :=
    withMailbox_finish _ c _
  have hmbx : ((p.judgeCard c).orderEntries o).mbx = ((p.verdictOn c).1.finish c (p.verdictOn c).2).mbx := orderEntries_mbx _ _
  refine ⟨by rw [hmbx]; exact hwrites, ?_⟩
  rw [orderEntries_of_since haux, hjudge, orderEntries_withMailbox]
  exact onlyChanges_withMailbox honly (orderEntries_mbx _ _)

/-! ### The payload (R4, R14) -/

/-- A part with a chain's payload as far as it has been read. -/
def Part.withPayload (p : Part) (c : Chain) (words : List Word) : Part := p.freePort.withChain c ((p.mbx.chains.get c).addPayload words)

/-- The burst that reads on from the words at hand (R14). -/
def ChainRec.nextBurst (r : ChainRec) (c : Chain) (x : Word) : Access :=
  { op := .payloadRead c, addr := x + 20 + word (4 * r.card.payload.length),
    len := min 16 (headerLength r.card.header - r.card.payload.length), data := [] }

theorem readPayload_whole {p : Part} {c : Chain}
    (h : headerLength (p.mbx.chains.get c).card.header ≤ (p.mbx.chains.get c).card.payload.length) : p.readPayload c = p.judgeCard c := if_pos h

theorem readPayload_part {p : Part} {c : Chain} {x : Word} (hx : (p.mbx.chains.get c).cursor = some x)
    (h : (p.mbx.chains.get c).card.payload.length < headerLength (p.mbx.chains.get c).card.header) :
    p.readPayload c = p.walk c { p.mbx.chains.get c with phase := .payloadRead } ((p.mbx.chains.get c).nextBurst c x) := by
  rw [Part.readPayload, if_neg (Nat.not_le.mpr h), address_of_cursor hx]
  rfl

/-- A payload that is not whole is read on (R14). -/
theorem readPayload_reads {p : Part} {c : Chain} {x : Word} (hx : (p.mbx.chains.get c).cursor = some x)
    (h : (p.mbx.chains.get c).card.payload.length < headerLength (p.mbx.chains.get c).card.header) :
    ((p.readPayload c).mbx.chains.get c).phase = .payloadRead ∧ ((p.readPayload c).mbx.chains.get c).card = (p.mbx.chains.get c).card
      ∧ (p.readPayload c).mbx.port.requests ((p.mbx.chains.get c).nextBurst c x) ∧ p.mbx.onlyChain c (p.readPayload c).mbx
      ∧ p.Moves [.chains, .port] (p.readPayload c) := by
  rw [readPayload_part hx h, walk_chain]
  exact ⟨rfl, rfl, walk_requests p c _ _ (by simp [ChainRec.nextBurst]), walk_onlyChain p c _ _ rfl, walk_moves p c _ _⟩

/-- Settles O26, which holds. -/
theorem payloadIsReadInBurstsThenDecided : Obligations.PayloadIsReadInBurstsThenDecided := by
  rintro s c words x r a hfly hop hlen rfl hphase hx
  have hburst : s.part.mbx.burstLength = words.length := by rw [Mailbox.burstLength, hfly]; exact hlen
  have hdone : s.part.payloadDone c words = (s.part.withPayload c words).readPayload c :=
    if_pos (by rw [completes_of hfly hop hphase, hburst]; simp)
  have hchain : (s.part.withPayload c words).mbx.chains.get c = (s.part.mbx.chains.get c).addPayload words := withChain_chain _ _ _
  have hcursor : ((s.part.withPayload c words).mbx.chains.get c).cursor = some x := by rw [hchain]; exact hx
  have hcount : ((s.part.withPayload c words).mbx.chains.get c).card.payload.length
      = (s.part.mbx.chains.get c).card.payload.length + words.length := by rw [hchain]; exact List.length_append
  have hheader : ((s.part.withPayload c words).mbx.chains.get c).card.header = (s.part.mbx.chains.get c).card.header := by rw [hchain]; rfl
  have honly : s.part.onlyChanges [.chains, .port] (s.part.withPayload c words) := freed_only (withChain_moves _ c _)
  refine ⟨((s.part.withPayload c words).readPayload c).orderEntries s.part, ?_, fun hpart => ?_, fun hwhole => ?_⟩
  · rw [← hdone]
    exact (exec_payloadReadComplete c words s).trans (event_next _ _)
  · obtain ⟨hreads, hcard, hrequests, hothers, hmoves⟩ := readPayload_reads hcursor (by rw [hcount, hheader]; exact hpart)
    have hevent : s.part.onlyChanges [.chains, .port] ((s.part.withPayload c words).readPayload c) := honly.thenMoves hmoves
    rw [orderEntries_of_only hevent]
    rw [ChainRec.nextBurst, hcount, hheader] at hrequests
    refine ⟨hreads, ?_, hrequests, onlyChain_trans (withChain_onlyChain s.part.freePort c _) hothers, hevent⟩
    rw [hcard, hchain]
    rfl
  · rw [readPayload_whole (by rw [hcount, hheader]; exact hwhole)]
    exact ⟨_, hchain, honly, judgeCard_decided hcursor (honly .aux (by decide)).symm⟩

/-- Settles O25, which holds: a refusal of the length, a first burst, or the decision. -/
theorem takenCardIsReadOrDecided : Obligations.TakenCardIsReadOrDecided := by
  intro s c b x h a hc hfly hop hphase hcard hb hx
  have hdone : s.part.takenDone c = s.part.freePort.checkLength c := by
    rw [Part.takenDone, if_pos (completes_of hfly hop hphase), if_neg hc]
  have hcursor : (s.part.freePort.mbx.chains.get c).cursor = some x := hx
  have hfreed : (s.part.freePort.mbx.chains.get c).card = { header := h } := hcard
  have hbad : s.part.freePort.badPayload c = true ↔ 124 < headerLength h ∨ runsPast b x (headerLength h) = true := by
    rw [badPayload_iff (p := s.part.freePort) hb hcursor, hfreed]
  have hsound : headerLength h ≤ 124 → runsPast b x (headerLength h) = false → s.part.freePort.checkLength c = s.part.freePort.readPayload c := by
    intro hlength hwindow
    refine if_neg fun hrefused => ?_
    rcases hbad.mp hrefused with habove | hpast
    · exact absurd hlength (Nat.not_le.mpr habove)
    · exact absurd (hwindow.symm.trans hpast) (by decide)
  refine ⟨(s.part.freePort.checkLength c).orderEntries s.part, ?_, fun hor => ?_, fun hpos hlength hwindow => ?_, fun hzero hwindow => ?_⟩
  · rw [← hdone]
    exact (exec_takenWriteComplete c s).trans (event_next _ _)
  · have honly : s.part.onlyChanges [.chains, .port] (s.part.freePort.finish c { result := .badLength }) := freed_only (finish_moves _ _ _)
    rw [show s.part.freePort.checkLength c = s.part.freePort.finish c { result := .badLength } from if_pos (hbad.mpr hor),
      orderEntries_of_only honly]
    exact ⟨finish_writesOutcome hcursor (.inl rfl), finish_onlyChain s.part.freePort c _, honly⟩
  · obtain ⟨hreads, -, hrequests, hothers, hmoves⟩ := readPayload_reads hcursor (by rw [hfreed]; exact hpos)
    have honly : s.part.onlyChanges [.chains, .port] (s.part.freePort.readPayload c) := freed_only hmoves
    rw [ChainRec.nextBurst, hfreed] at hrequests
    rw [hsound hlength hwindow, orderEntries_of_only honly]
    have hstart : x + 20 + word (4 * ({ header := h } : Card).payload.length) = x + 20 := BitVec.add_zero _
    rw [hstart] at hrequests
    exact ⟨hreads, hrequests, hothers, honly⟩
  · rw [hsound (by omega) (by rw [hzero]; exact hwindow), readPayload_whole (by rw [hfreed]; exact Nat.le_of_eq hzero)]
    exact judgeCard_decided hcursor rfl

end Sys2Proof.Machine

/-! ## The owners' answers: refusals (R3, R4, R6) -/

namespace Sys2Proof.Machine

/-- An answer that refuses changes nothing and returns no data (R3, R4). -/
def Part.refusesWhole (p : Part) (d : Part × Verdict) : Prop := d.2.result ≠ .ok → d.1 = p ∧ d.2.data = []

section
variable (p : Part) (r : Request)

theorem refuse_whole (code : ResultCode) (detail : Nat) : p.refusesWhole (refuse p code detail) := fun _ => ⟨rfl, rfl⟩

theorem ok_whole {d : Part × Verdict} (h : d.2.result = .ok) : p.refusesWhole d := fun hno => absurd h hno

theorem done_whole (q : Part) (detail : Nat) : p.refusesWhole (done q detail) := ok_whole p rfl

theorem cardAuxRequest_whole : p.refusesWhole (p.cardAuxRequest r) := by
  unfold Part.cardAuxRequest
  dsimp only
  split
  · exact refuse_whole p _ _
  split
  · split
    · exact refuse_whole p _ _
    split
    · exact refuse_whole p _ _
    split
    · exact refuse_whole p _ _
    · exact done_whole p _ _
  · exact refuse_whole p _ _

theorem cardBatteryLimits_whole : p.refusesWhole (p.cardBatteryLimits r) := by
  unfold Part.cardBatteryLimits
  dsimp only
  split
  · exact refuse_whole p _ _
  split
  · exact refuse_whole p _ _
  · exact done_whole p _ _

theorem cardInhibit_whole : p.refusesWhole (p.cardInhibit r) := by
  unfold Part.cardInhibit
  dsimp only
  split
  · exact refuse_whole p _ _
  split
  · exact refuse_whole p _ _
  · exact done_whole p _ _

theorem cardRaisePoles_whole : p.refusesWhole (p.cardRaisePoles r) := by
  unfold Part.cardRaisePoles
  split
  · exact refuse_whole p _ _
  split
  · exact refuse_whole p _ _
  split
  · exact refuse_whole p _ _
  · exact done_whole p _ _

theorem cardLowerPoles_whole : p.refusesWhole (p.cardLowerPoles r) := by
  unfold Part.cardLowerPoles
  dsimp only
  split
  · exact refuse_whole p _ _
  split
  · exact refuse_whole p _ _
  split
  · exact refuse_whole p _ _
  · exact done_whole p _ _

theorem cardClearPole_whole : p.refusesWhole (p.cardClearPole r) := by
  unfold Part.cardClearPole
  generalize (if r.at 0 = 0 then PoleId.p else PoleId.n) = i
  dsimp only
  split
  · exact refuse_whole p _ _
  split
  · exact refuse_whole p _ _
  split
  · exact refuse_whole p _ _
  · exact done_whole p _ _

theorem cardAckFaults_whole : p.refusesWhole (p.cardAckFaults r) := by
  unfold Part.cardAckFaults
  split
  · exact refuse_whole p _ _
  · exact done_whole p _ _

theorem cardClearFaultState_whole : p.refusesWhole (p.cardClearFaultState r) := by
  unfold Part.cardClearFaultState
  split
  · exact refuse_whole p _ _
  split
  · exact done_whole p _ _
  split
  · exact refuse_whole p _ _
  · exact done_whole p _ _

theorem cardInjectTest_whole : p.refusesWhole (p.cardInjectTest r) := by
  unfold Part.cardInjectTest
  split
  · exact refuse_whole p _ _
  split
  · exact refuse_whole p _ _
  split
  · exact refuse_whole p _ _
  · exact done_whole p _ _

theorem cardReadFaultTable_whole : p.refusesWhole (p.cardReadFaultTable r) := by
  unfold Part.cardReadFaultTable
  split
  · exact refuse_whole p _ _
  · exact ok_whole p rfl

theorem cardCopySeenMap_whole : p.refusesWhole (p.cardCopySeenMap r) := by
  unfold Part.cardCopySeenMap
  split
  · exact refuse_whole p _ _
  split
  · exact refuse_whole p _ _
  · exact ok_whole p rfl

theorem cardClearZones_whole : p.refusesWhole (p.cardClearZones r) := by
  unfold Part.cardClearZones
  split
  · exact refuse_whole p _ _
  · exact done_whole p _ _

theorem cardEnterLayover_whole : p.refusesWhole (p.cardEnterLayover r) := by
  unfold Part.cardEnterLayover
  split
  · exact refuse_whole p _ _
  split
  · exact refuse_whole p _ _
  split
  · exact refuse_whole p _ _
  · exact done_whole p _ _

theorem cardExitLayover_whole : p.refusesWhole (p.cardExitLayover r) := by
  unfold Part.cardExitLayover
  split
  · exact refuse_whole p _ _
  split
  · exact refuse_whole p _ _
  · exact done_whole p _ _

theorem cardLoadTable_whole : p.refusesWhole (p.cardLoadTable r) := by
  unfold Part.cardLoadTable
  split
  · exact refuse_whole p _ _
  · exact ok_whole p rfl

theorem cardVerifyConfig_whole : p.refusesWhole (p.cardVerifyConfig r) := by
  unfold Part.cardVerifyConfig
  split
  · exact refuse_whole p _ _
  · exact ok_whole p rfl

theorem own_whole (k : CardKind) : p.refusesWhole (p.own k r) := by
  cases k with
  | auxRequest => exact cardAuxRequest_whole p r
  | raisePoles => exact cardRaisePoles_whole p r
  | lowerPoles => exact cardLowerPoles_whole p r
  | clearPole => exact cardClearPole_whole p r
  | cardInhibit => exact cardInhibit_whole p r
  | batteryLimits => exact cardBatteryLimits_whole p r
  | ackFaults => exact cardAckFaults_whole p r
  | clearFaultState => exact cardClearFaultState_whole p r
  | injectTest => exact cardInjectTest_whole p r
  | readFaultTable => exact cardReadFaultTable_whole p r
  | copySeenMap => exact cardCopySeenMap_whole p r
  | clearZones => exact cardClearZones_whole p r
  | enterLayover => exact cardEnterLayover_whole p r
  | exitLayover => exact cardExitLayover_whole p r
  | loadTable => exact cardLoadTable_whole p r
  | verifyConfig => exact cardVerifyConfig_whole p r

/-! ### Payload lengths (R4) -/

theorem refuse_verdict (code : ResultCode) : (refuse p code).2 = { result := code } := rfl

/-- The verdict of a card whose first test fails it. -/
theorem verdict_of_if {c : Prop} [Decidable c] (hc : c) {code : ResultCode} {d : Part × Verdict} :
    (if c then refuse p code else d).2 = { result := code } := by rw [if_pos hc]; exact refuse_verdict p code

theorem own_notOneWord (k : CardKind) (hk : k ∈ [CardKind.raisePoles, .lowerPoles, .clearPole, .cardInhibit, .injectTest, .verifyConfig])
    (h : r.payload.length ≠ 1) : (p.own k r).2 = { result := .badLength } := by
  cases k with
  | raisePoles => exact verdict_of_if p h
  | lowerPoles => exact verdict_of_if p h
  | clearPole => exact verdict_of_if p h
  | cardInhibit => exact verdict_of_if p h
  | injectTest => exact verdict_of_if p h
  | verifyConfig => exact verdict_of_if p h
  | _ => simp at hk

theorem own_notEmpty (k : CardKind) (hk : k ∈ [CardKind.ackFaults, .clearFaultState, .clearZones, .enterLayover, .exitLayover])
    (h : r.payload ≠ []) : (p.own k r).2 = { result := .badLength } := by
  have hlength : r.payload.length ≠ 0 := mt List.length_eq_zero_iff.mp h
  cases k with
  | ackFaults => exact verdict_of_if p hlength
  | clearFaultState => exact verdict_of_if p hlength
  | clearZones => exact verdict_of_if p hlength
  | enterLayover => exact verdict_of_if p hlength
  | exitLayover => exact verdict_of_if p hlength
  | _ => simp at hk

end

/-! ### The words of a payload -/

section
variable {r : Request}

theorem at_of_word {v : Word} (h : r.payload = [v]) : r.at 0 = v.toNat := by rw [Request.at, h]; rfl

theorem length_of_word {v : Word} (h : r.payload = [v]) : r.payload.length = 1 := by rw [h]; rfl

theorem at_of_words {v w : Word} (h : r.payload = [v, w]) : r.at 0 = v.toNat ∧ r.at 1 = w.toNat := by
  rw [Request.at, Request.at, h]
  exact ⟨rfl, rfl⟩

theorem at_of_limits {f d c : Word} (h : r.payload = [f, d, c]) : r.at 0 = f.toNat ∧ r.at 1 = d.toNat ∧ r.at 2 = c.toNat := by
  rw [Request.at, Request.at, Request.at, h]
  exact ⟨rfl, rfl, rfl⟩

theorem word_toNat (v : Word) : word v.toNat = v := BitVec.ofNat_toNat 32 v |>.trans (BitVec.setWidth_eq v)

end
end Sys2Proof.Machine

/-! ## Cards of the governor, the line and the tables; the returned tables and maps (R66, R113, R140, R168, R176) -/

namespace Sys2Proof.Machine

section
variable {p : Part} {r : Request}

/-! ### CARD_INHIBIT (R140) -/

theorem cardInhibit_badValue {v : Word} (hr : r.payload = [v]) (h : 1 < v.toNat) : (p.own .cardInhibit r).2 = { result := .badValue } := by
  have hcard : p.own .cardInhibit r = refuse p .badValue :=
    (if_neg (not_not.mpr (length_of_word hr))).trans (if_pos (by rw [at_of_word hr]; exact h))
  rw [hcard]
  rfl

theorem cardInhibit_accepts {v : Word} (hr : r.payload = [v]) (h : v.toNat ≤ 1) : p.own .cardInhibit r
    = done (if v.toNat == 1 then p.claim .cardInhibit else p.withdraw .cardInhibit) (flagCode (p.gov.inhibit.cardInhibit != (v.toNat == 1))) := by
  have hcard : p.own .cardInhibit r = done (if r.at 0 == 1 then p.claim .cardInhibit else p.withdraw .cardInhibit)
      (flagCode (p.gov.inhibit.cardInhibit != (r.at 0 == 1))) :=
    (if_neg (not_not.mpr (length_of_word hr))).trans (if_neg (by rw [at_of_word hr]; omega))
  rw [hcard, at_of_word hr]

theorem cardInhibit_sets (hr : r.payload = [1]) :
    (p.own .cardInhibit r).2 = { result := .ok, detail := if p.gov.inhibit.cardInhibit then 0 else 1 }
      ∧ (p.own .cardInhibit r).1.gov.inhibit.cardInhibit = true
      ∧ (p.gov.inhibit.empty = true → (p.own .cardInhibit r).1.gov.armed = false) := by
  have hcard : p.own .cardInhibit r = done (p.claim .cardInhibit) (flagCode (p.gov.inhibit.cardInhibit != true)) :=
    cardInhibit_accepts hr (by decide)
  rw [hcard]
  refine ⟨?_, congrArg InhibitSet.cardInhibit (claim_inhibit p .cardInhibit), fun hempty => ?_⟩
  · cases p.gov.inhibit.cardInhibit <;> rfl
  · rw [done_part, ← Bool.not_eq_true]
    intro harmed
    obtain ⟨-, hhas | hno⟩ := claim_armed p .cardInhibit harmed
    · exact absurd ((empty_iff _).mp hempty .cardInhibit) (by rw [hhas]; decide)
    · exact absurd hempty (by rw [hno]; decide)

theorem cardInhibit_clears (hr : r.payload = [0]) :
    (p.own .cardInhibit r).2 = { result := .ok, detail := if p.gov.inhibit.cardInhibit then 1 else 0 }
      ∧ (p.own .cardInhibit r).1.gov.inhibit = { p.gov.inhibit with cardInhibit := false } := by
  have hcard : p.own .cardInhibit r = done (p.withdraw .cardInhibit) (flagCode (p.gov.inhibit.cardInhibit != false)) :=
    cardInhibit_accepts hr (by decide)
  rw [hcard]
  refine ⟨?_, rfl⟩
  cases p.gov.inhibit.cardInhibit <;> rfl

/-! ### BATTERY_LIMITS (R66) -/

theorem batteryLimits_badLength (h : r.payload.length ≠ 3) : (p.own .batteryLimits r).2 = { result := .badLength } := verdict_of_if p h

theorem batteryLimits_badValue {f d c : Word} (hr : r.payload = [f, d, c]) (h : 1 < f.toNat ∨ 5000 < d.toNat ∨ 5000 < c.toNat) :
    (p.own .batteryLimits r).2 = { result := .badValue } := by
  obtain ⟨hf, hd, hc⟩ := at_of_limits hr
  have hcard : p.own .batteryLimits r = refuse p .badValue :=
    (if_neg (not_not.mpr (by rw [hr]; rfl))).trans (if_pos (by rw [hf, hd, hc]; exact h))
  rw [hcard]
  rfl

/-- The limits of a BATTERY_LIMITS card. -/
def limitsOf (f d c : Word) : BatteryLimits := { available := f == 1, discharge := d.toNat, charge := c.toNat }

/-- The battery limits are replaced (R66). -/
def Part.takesLimits (p : Part) (b : BatteryLimits) : Part := { p with line := { p.line with battery := b } }

theorem batteryLimits_accepts {f d c : Word} (hr : r.payload = [f, d, c]) (hf : f.toNat ≤ 1) (hd : d.toNat ≤ 5000) (hc : c.toNat ≤ 5000) :
    p.own .batteryLimits r = done (p.takesLimits (limitsOf f d c)).recompute (p.takesLimits (limitsOf f d c)).recompute.line.budget.available := by
  obtain ⟨hf', hd', hc'⟩ := at_of_limits hr
  have hflag : (r.at 0 == 1) = (f == 1) := by
    rw [hf', Bool.eq_iff_iff, beq_iff_eq, beq_iff_eq, ← BitVec.toNat_inj]
    rfl
  have hlimits : ({ available := r.at 0 == 1, discharge := r.at 1, charge := r.at 2 } : BatteryLimits) = limitsOf f d c := by
    rw [hflag, hd', hc']
    rfl
  have hcard : p.own .batteryLimits r
      = done (p.takesLimits { available := r.at 0 == 1, discharge := r.at 1, charge := r.at 2 }).recompute
        (p.takesLimits { available := r.at 0 == 1, discharge := r.at 1, charge := r.at 2 }).recompute.line.budget.available :=
    (if_neg (not_not.mpr (by rw [hr]; rfl))).trans (if_neg (by rw [hf', hd', hc']; omega))
  rw [hcard, hlimits]

theorem recompute_own (b : Part) : b.recompute.line.own = b.line.own := (recompute_moves b).drifts.only .line (by decide)

theorem batteryLimits_takes {f d c : Word} (hr : r.payload = [f, d, c]) (hf : f.toNat ≤ 1) (hd : d.toNat ≤ 5000) (hc : c.toNat ≤ 5000) :
    (p.own .batteryLimits r).2 = { result := .ok, detail := word (p.own .batteryLimits r).1.line.budget.available }
      ∧ (p.own .batteryLimits r).1.line.battery = { available := f == 1, discharge := d.toNat, charge := c.toNat }
      ∧ (p.line.state = .unknown → (p.own .batteryLimits r).1.line.budget.available = if f = 1 then d.toNat else 0)
      ∧ (p.own .batteryLimits r).1.line.budgeted p.tables := by
  have hcard := batteryLimits_accepts (p := p) hr hf hd hc
  have hown := recompute_own (p.takesLimits (limitsOf f d c))
  have htables : (p.takesLimits (limitsOf f d c)).recompute.tables = p.tables := (recompute_moves _).drifts.only .tables (by decide)
  have hbudget : (p.takesLimits (limitsOf f d c)).recompute.line.budgeted p.tables := by
    rw [← htables]
    exact budgeted_of_balanced (recompute_balanced _)
  have hbattery : (p.takesLimits (limitsOf f d c)).recompute.line.battery = limitsOf f d c := (congrArg Line.battery hown :)
  have hstate : (p.takesLimits (limitsOf f d c)).recompute.line.state = p.line.state := (congrArg Line.state hown :)
  rw [hcard]
  refine ⟨rfl, hbattery, fun hunknown => ?_, hbudget⟩
  rw [done_part]
  generalize (p.takesLimits (limitsOf f d c)).recompute.line = l at hbattery hstate hbudget
  obtain ⟨-, -, -, hon, hoff, -⟩ := hbudget
  have hsupply : l.state.supplied = false := by rw [hstate, hunknown]; rfl
  split
  next hone => rw [(hon hsupply (by rw [hbattery, limitsOf, hone]; rfl)).1, hbattery]; rfl
  next hzero => rw [(hoff hsupply (by rw [hbattery]; exact beq_eq_false_iff_ne.mpr hzero)).1]

/-! ### READ_FAULT_TABLE (R168), COPY_SEEN_MAP (R113) and VERIFY_CONFIG (R176) -/

theorem readFaultTable_badLength (h : r.payload.length < 101) : (p.own .readFaultTable r).2 = { result := .badLength } := verdict_of_if p h

theorem kindWords_length (p : Part) (k : FaultKind) : (p.kindWords k).length = 5 := rfl

theorem faultTable_length (p : Part) : p.faultTable.length = 101 := by
  rw [Part.faultTable, List.length_cons, flatMap_length_of (kindWords_length p)]
  rfl

theorem readFaultTable_returns (h : 101 ≤ r.payload.length) : (p.own .readFaultTable r).1 = p ∧ (p.own .readFaultTable r).2.result = .ok
    ∧ (p.own .readFaultTable r).2.detail = word (allKinds.filter (fun k => (p.faults.get k).active)).length
    ∧ (p.own .readFaultTable r).2.data.length = 101 := by
  have hcard : p.own .readFaultTable r =
      (p, { result := .ok, detail := word (allKinds.filter (fun k => (p.faults.get k).active)).length, data := p.faultTable }) :=
    if_neg (Nat.not_lt.mpr h)
  rw [hcard]
  exact ⟨rfl, rfl, rfl, faultTable_length p⟩

theorem copySeenMap_badLength (h : r.payload.length < 16) : (p.own .copySeenMap r).2 = { result := .badLength } := verdict_of_if p h

theorem copySeenMap_badValue (h : 16 ≤ r.payload.length) (hv : 1 < r.at 0) : (p.own .copySeenMap r).2 = { result := .badValue } := by
  have hcard : p.own .copySeenMap r = refuse p .badValue := (if_neg (Nat.not_lt.mpr h)).trans (if_pos hv)
  rw [hcard]
  rfl

theorem seenWords_bit (m : BitVec 512) {i : Nat} (h : i < 512) : ((seenWords m).getD (i / 32) 0).getLsbD (i % 32) = m.getLsbD i := by
  have hword : (seenWords m).getD (i / 32) 0 = m.extractLsb' (32 * (i / 32)) 32 := by
    have hplaces : ∀ j : Fin 16, allSixteen[j.val]? = some j := by decide
    have hget := hplaces ⟨i / 32, by omega⟩
    simp [seenWords, List.getD, hget]
  rw [hword, BitVec.getLsbD_extractLsb']
  have hbit : 32 * (i / 32) + i % 32 = i := Nat.div_add_mod i 32
  simp [hbit, Nat.mod_lt]

theorem copySeenMap_returns (h : 16 ≤ r.payload.length) (hv : r.at 0 ≤ 1) : (p.own .copySeenMap r).2.result = .ok
    ∧ (∀ i < 512, ((p.own .copySeenMap r).2.data.getD (i / 32) 0).getLsbD (i % 32) = p.zones.seen.getLsbD i)
    ∧ (p.own .copySeenMap r).1.zones.seen = (if r.at 0 = 1 then 0 else p.zones.seen) := by
  have hcard : p.own .copySeenMap r = ({ p with zones := { p.zones with seen := if r.at 0 = 1 then 0 else p.zones.seen } },
      { result := .ok, detail := word (markCount p.zones.seen 512), data := seenWords p.zones.seen }) :=
    (if_neg (Nat.not_lt.mpr h)).trans (if_neg (Nat.not_lt.mpr hv))
  rw [hcard]
  exact ⟨rfl, fun i hi => seenWords_bit _ hi, rfl⟩

/-- The raise of a check that differs (R176). -/
def Part.mismatch (p : Part) (expected tag : Word) : Raise :=
  { kind := .configMismatch, source := { block := .configurationTables }, tag := tag,
    items := [.large expected, .large p.tables.check, bigNat p.tables.loadedCode] }

theorem verifyConfig_answers {v : Word} (hr : r.payload = [v]) : p.own .verifyConfig r
    = (if v = p.tables.check then p else p.raise (p.mismatch v r.tag), { result := .ok, detail := p.tables.check }) := by
  have hcard : p.own .verifyConfig r = (if r.payload.getD 0 0 = p.tables.check then p else p.raise (p.mismatch (r.payload.getD 0 0) r.tag),
      { result := .ok, detail := p.tables.check }) := if_neg (not_not.mpr (length_of_word hr))
  rw [hcard, hr]
  rfl

theorem verifyConfig_agrees {v : Word} (hr : r.payload = [v]) (h : v = p.tables.check) :
    p.own .verifyConfig r = (p, { result := .ok, detail := p.tables.check }) := by rw [verifyConfig_answers hr, if_pos h]

theorem verifyConfig_differs {v : Word} (hr : r.payload = [v]) (h : v ≠ p.tables.check) :
    (p.own .verifyConfig r).2 = { result := .ok, detail := p.tables.check }
      ∧ p.activated (p.own .verifyConfig r).1 .configMismatch { block := .configurationTables }
          [.large v, .large p.tables.check, bigNat p.tables.loadedCode] := by
  rw [verifyConfig_answers hr, if_neg h]
  exact ⟨rfl, activated_of_raise p (p.mismatch v r.tag) (show FaultKind.configMismatch ≠ .alarmOutput by decide)⟩

end
end Sys2Proof.Machine

/-! ## Cards of the Fault Collector (R163, R164, R167) -/

namespace Sys2Proof.Machine

section
variable {p : Part} {r : Request}

/-! ### INJECT_TEST (R167) -/

theorem kindOfNumber_number (k : FaultKind) : kindOfNumber (kindNumber k) = some k := by cases k <;> rfl

theorem kindOfNumber_above {n : Nat} (h : n = 0 ∨ 20 < n) : kindOfNumber n = none := by
  rcases h with rfl | h
  · rfl
  · rw [kindOfNumber, if_neg (by omega), List.getElem?_eq_none_iff]
    exact Nat.le_sub_one_of_lt h

theorem own_injectTest {v : Word} (hr : r.payload = [v]) : p.own .injectTest r
    = match kindOfNumber v.toNat with
      | none => refuse p .badValue
      | some k => if (p.faults.get k).inForce then refuse p .busy else done (p.injectTest k r.tag) v.toNat := by
  rw [← at_of_word hr]
  exact (if_neg (not_not.mpr (length_of_word hr))).trans (by cases kindOfNumber (r.at 0) <;> rfl)

theorem injectTest_badValue {v : Word} (hr : r.payload = [v]) (h : v = 0 ∨ 20 < v.toNat) :
    (p.own .injectTest r).2 = { result := .badValue } := by
  rw [own_injectTest hr, kindOfNumber_above (h.imp_left fun hzero => by rw [hzero]; rfl)]
  rfl

theorem injectTest_busy {v : Word} (hr : r.payload = [v]) {k : FaultKind} (hk : v.toNat = kindNumber k)
    (h : (p.faults.get k).inForce = true) : (p.own .injectTest r).2 = { result := .busy } := by
  rw [own_injectTest hr, hk, kindOfNumber_number]
  dsimp only
  rw [if_pos h]
  rfl

theorem injectTest_accepts {v : Word} (hr : r.payload = [v]) {k : FaultKind} (hk : v.toNat = kindNumber k)
    (h : (p.faults.get k).inForce = false) : p.own .injectTest r = done (p.injectTest k r.tag) v.toNat := by
  rw [own_injectTest hr, hk, kindOfNumber_number]
  dsimp only
  rw [if_neg (by simp [h])]

end

/-- A record without sources stays as it is when the alarm outputs are evaluated. -/
theorem driveAlarm_noSources {p : Part} (h : (p.faults.get .alarmOutput).sources = []) (r : DriveRole) (on : Bool) :
    ((p.driveAlarm r on).faults.get .alarmOutput).sources = [] := by
  unfold Part.driveAlarm
  split
  · exact h
  next o _ =>
    have hset : ((p.setCommanded o on).faults.get .alarmOutput).sources = [] := by
      rw [get_of_same (setCommanded_records p o on)]
      exact h
    dsimp only
    split
    · rw [Part.modFault_faults, Collector.get_set_same, FaultRec.dropSource, hset]
      rfl
    · exact hset

theorem evalAlarms_get {p : Part} {k : FaultKind} (h : k = .alarmOutput → (p.faults.get k).sources = []) :
    p.evalAlarms.faults.get k = p.faults.get k := by
  by_cases hk : k = .alarmOutput
  · subst hk
    obtain ⟨sources, hs⟩ := (evalAlarms_keepsRecords p).alarm
    have hnone : (p.evalAlarms.faults.get .alarmOutput).sources = [] := driveAlarm_noSources (driveAlarm_noSources (h rfl) _ _) _ _
    rw [hs] at hnone ⊢
    have hempty : sources = [] := hnone
    rw [hempty, ← h rfl]
  · exact (evalAlarms_keepsRecords p).others k hk

section
variable (p : Part) (k : FaultKind) (tag : Word)

/-- A kind's record under test (R167). -/
def Part.testRecord : FaultRec :=
  { p.faults.get k with testHold := p.startTimer p.tables.timers.minOnTime, test := true, unack := true }

theorem testStarts_get (x : FaultKind) : (p.testStarts k tag).faults.get x = if x = k then p.testRecord k else p.faults.get x := by
  have hmove : (p.testStarts k tag).faults.get x = ((p.marksTest k).reportsTest p k tag).faults.get x := by
    rw [Part.testStarts, collectorActivate_test]
    exact get_of_same ((moveCollector_moves _ _ _ _ _).drifts.only .records (by decide)) x
  have hreport : ((p.marksTest k).reportsTest p k tag).faults.get x = (p.marksTest k).faults.get x := rfl
  rw [hmove, hreport, Part.marksTest, Part.modFault_faults]
  split
  next h => rw [h, Collector.get_set_same]; rfl
  next h => exact Collector.get_set_other _ _ _ _ h

theorem testHolds_same (b : Part) : (b.testHolds p k).recs = b.faults.recs ∧ (b.testHolds p k).state = b.faults.state := by
  obtain ⟨hr, hs, -⟩ := holds_same b.faults b (p.reactions k)
  unfold Part.testHolds
  split <;> exact ⟨hr, hs⟩

theorem injectTest_get {x : FaultKind} (h : x = .alarmOutput → ((p.testStarts k tag).faults.get x).sources = []) :
    (p.injectTest k tag).faults.get x = (p.testStarts k tag).faults.get x := by
  have hheld : ∀ y, ((p.testStarts k tag).withFaults ((p.testStarts k tag).testHolds p k)).faults.get y = (p.testStarts k tag).faults.get y :=
    fun y => get_of_recs (testHolds_same p k (p.testStarts k tag)).1 y
  rw [injectTest_eq, evalAlarms_get fun hx => by rw [hheld]; exact h hx, hheld]

theorem injectTest_mbx : (p.injectTest k tag).mbx = (p.testStarts k tag).mbx := by
  rw [injectTest_eq, evalAlarms_mbx]
  rfl

/-- Where the collector goes with a test (R167). -/
def CollectorState.tested (c : CollectorState) : CollectorState := if c = .normal then .alert else c

theorem testStarts_eq : p.testStarts k tag
    = ((p.marksTest k).reportsTest p k tag).moveCollector p.faults.state.tested .activation (some k) tag := by
  rw [Part.testStarts, collectorActivate_test]
  rfl

theorem injectTest_state : (p.injectTest k tag).faults.state = p.faults.state.tested := by
  rw [injectTest_eq, evalAlarms_state]
  refine (testHolds_same p k _).2.trans ?_
  rw [testStarts_eq, moveCollector_state]

theorem reportsTest_tells : ((p.marksTest k).reportsTest p k tag).mbx.tells (.fault k) .faultCollector 0 tag [] :=
  tells_of_newest (takeReport_newest (r := { (p.marksTest k).newReport (.fault k) (faultSeverity k (p.reactions k)) .faultCollector 0 tag [] with
    test := true }) (p.marksTest k) (p.marksTest k).mbx rfl)

theorem injectTest_tells : (p.injectTest k tag).mbx.tells (.fault k) .faultCollector 0 tag [] := by
  rw [injectTest_mbx, testStarts_eq]
  exact (moveCollector_logs _ _ _ _ _).keepsTelling (fun r hr => .inl (by rw [hr.1]; exact ReportKind.noConfusion)) (reportsTest_tells p k tag)

theorem injectTest_raised : (p.injectTest k tag).mbx.raised = p.mbx.raised + (if p.faults.state = .normal then 2 else 1) := by
  have hstate : ((p.marksTest k).reportsTest p k tag).faults.state = p.faults.state := rfl
  have hreport : ((p.marksTest k).reportsTest p k tag).mbx.raised = p.mbx.raised + 1 := takeReport_raised _ _ _
  rw [injectTest_mbx, testStarts_eq, moveCollector_raised, hstate, hreport]
  cases p.faults.state with
  | normal => exact BitVec.add_assoc _ _ _
  | alert => exact BitVec.add_zero _
  | fault => exact BitVec.add_zero _

/-- A test of a kind whose condition is not in force (R167). -/
theorem injectTest_injects (h : (p.faults.get k).inForce = false) : p.injects (p.injectTest k tag) k tag := by
  have hnone : (p.faults.get k).sources = [] := by
    rw [FaultRec.inForce, Bool.or_eq_false_iff, Bool.not_eq_false', List.isEmpty_iff] at h
    exact h.1
  have hrec : (p.injectTest k tag).faults.get k = p.testRecord k := by
    rw [injectTest_get, testStarts_get, if_pos rfl]
    rw [testStarts_get, if_pos rfl]
    exact fun _ => hnone
  refine ⟨by rw [hrec]; rfl, by rw [hrec]; rfl, by rw [hrec]; rfl, by rw [hrec]; rfl, by rw [hrec]; rfl, injectTest_state p k tag,
    injectTest_raised p k tag, injectTest_tells p k tag, fun x hx halarm => ?_⟩
  rw [injectTest_get p k tag fun ha => absurd ha halarm, testStarts_get, if_neg hx]

end

theorem injectTest_injected {p : Part} {r : Request} {v : Word} (hr : r.payload = [v]) {k : FaultKind} (hk : v.toNat = kindNumber k)
    (h : (p.faults.get k).inForce = false) :
    (p.own .injectTest r).2 = { result := .ok, detail := v } ∧ p.injects (p.own .injectTest r).1 k r.tag := by
  rw [injectTest_accepts hr hk h]
  refine ⟨?_, injectTest_injects p k r.tag h⟩
  rw [done, word_toNat]

/-! ### ACK_FAULTS (R163) -/

theorem mem_allKinds (k : FaultKind) : k ∈ allKinds := by cases k <;> decide

theorem clearUnack_get (ks : List FaultKind) (c : Collector) (k : FaultKind) :
    (ks.foldl (fun c k => c.set k { c.get k with unack := false }) c).get k
      = if k ∈ ks then { c.get k with unack := false } else c.get k := by
  induction ks generalizing c with
  | nil => rfl
  | cons x ks ih =>
    rw [List.foldl_cons, ih]
    by_cases hx : k = x
    · subst hx
      rw [Collector.get_set_same, if_pos List.mem_cons_self]
      split <;> rfl
    · rw [Collector.get_set_other _ _ _ _ hx]
      simp only [List.mem_cons, hx, false_or]

theorem acknowledge_get (c : Collector) (k : FaultKind) : c.acknowledge.get k = { c.get k with unack := false } := by
  have h := (clearUnack_get allKinds c k).trans (if_pos (mem_allKinds k))
  unfold Collector.acknowledge
  generalize allKinds.foldl (fun c k => c.set k { c.get k with unack := false }) c = d at h ⊢
  exact h

section
variable (p : Part) (tag : Word)

theorem leavesAlert_moves : p.Moves collectorPieces (p.leavesAlert tag) := by
  unfold Part.leavesAlert
  split
  · exact moveCollector_moves p _ _ _ _
  · exact .refl _ p

theorem leavesAlert_state : (p.leavesAlert tag).faults.state = if p.faults.state = .alert then .normal else p.faults.state := by
  unfold Part.leavesAlert
  split
  · exact moveCollector_state p _ _ _ _
  · rfl

/-- What an acknowledgement does once the records are acknowledged (R85, R163). -/
def Part.acksRest : Part := (p.leavesAlert tag).acksPoles.updateClaims.evalAlarms

theorem acksPoles_only : p.onlyChanges [.poles] p.acksPoles := by
  intro y hy
  cases y <;> simp_all [Part.same, Part.acksPoles]

def ackPieces : List Piece := [.poles, .outputs] ++ collectorPieces

/-- The records but for the sources of ALARM_OUTPUT, and the alarms, stay as the acknowledgement made them. -/
theorem acksRest_faults : p.KeepsRecords (p.acksRest tag) ∧ (p.acksRest tag).faults.lampFallback = p.faults.lampFallback
    ∧ (p.acksRest tag).faults.buzzerFallback = p.faults.buzzerFallback
    ∧ (p.acksRest tag).faults.state = (if p.faults.state = .alert then .normal else p.faults.state) := by
  have hmove := (leavesAlert_moves p tag).drifts.only
  have hpoles : (p.leavesAlert tag).onlyChanges [.poles, .inhibit, .setpoint, .send] (p.leavesAlert tag).acksPoles.updateClaims :=
    (Part.onlyChanges_mono (acksPoles_only _) (by decide)).andThen (updateClaims_drifts _).only (by decide)
  have hbefore : p.onlyChanges (.poles :: collectorPieces) (p.leavesAlert tag).acksPoles.updateClaims :=
    (Part.onlyChanges_mono hmove (by decide)).andThen hpoles (by decide)
  have hstate := leavesAlert_state p tag
  have hafter : (p.leavesAlert tag).acksPoles.updateClaims.faults.state = (p.leavesAlert tag).faults.state := (hpoles .collector (by decide)).1
  unfold Part.acksRest
  generalize (p.leavesAlert tag).acksPoles.updateClaims = b at hbefore hafter ⊢
  obtain ⟨-, -, hlamp, hbuzzer⟩ := (evalAlarms_moves b).drifts.only .alarms (by decide)
  obtain ⟨-, -, hlamp', hbuzzer'⟩ := hbefore .alarms (by decide)
  refine ⟨(Part.KeepsRecords.of_same (hbefore .records (by decide))).trans (evalAlarms_keepsRecords _), hlamp.trans hlamp',
    hbuzzer.trans hbuzzer', ?_⟩
  rw [evalAlarms_state, hafter, hstate]

theorem acksRest_pole (i : PoleId) : (p.acksRest tag).poles.get i = (p.poles.get i).acknowledge := by
  have hmove : (p.leavesAlert tag).poles = p.poles := (leavesAlert_moves p tag).drifts.only .poles (by decide)
  have halarms : (p.acksRest tag).poles = (p.leavesAlert tag).acksPoles.updateClaims.poles := (evalAlarms_moves _).drifts.only .poles (by decide)
  rw [halarms, updateClaims_poles, Part.acksPoles, hmove]
  cases i <;> rfl

theorem poleAcknowledge_fields (q : Pole) : q.acknowledge.state = q.state
    ∧ q.acknowledge.latch = (q.latch && q.state != .housed) ∧ q.acknowledge.latchAck = (q.latchAck || q.latch) := by
  unfold Pole.acknowledge Pole.checkLatch
  dsimp only
  cases hl : q.latch <;> cases hs : q.state <;> cases ha : q.latchAck <;> simp_all

theorem acksRecords_faults : p.acksRecords.faults = p.faults.acknowledge := rfl

theorem acknowledge_fallbacks (c : Collector) : c.acknowledge.lampFallback = false ∧ c.acknowledge.buzzerFallback = false := by
  unfold Collector.acknowledge
  generalize allKinds.foldl (fun c k => c.set k { c.get k with unack := false }) c = d
  exact ⟨rfl, rfl⟩

theorem acknowledge_acknowledges : p.acknowledges (p.acknowledge tag) := by
  have heq : p.acknowledge tag = p.acksRecords.acksRest tag := acknowledge_eq p tag
  have hpoles : p.acksRecords.poles = p.poles := (acknowledge_first p).drifts.only .poles (by decide)
  have hfaults := acksRecords_faults p
  rw [heq]
  generalize p.acksRecords = b at hpoles hfaults ⊢
  obtain ⟨hrecords, hlamp, hbuzzer, hstate⟩ := acksRest_faults b tag
  obtain ⟨hnolamp, hnobuzzer⟩ := acknowledge_fallbacks p.faults
  have hunack : ∀ k, (b.faults.get k).unack = false := fun k => by rw [hfaults, acknowledge_get]
  refine ⟨fun k => ?_, by rw [hlamp, hfaults, hnolamp], by rw [hbuzzer, hfaults, hnobuzzer], ?_, fun i => ?_⟩
  · by_cases hk : k = .alarmOutput
    · obtain ⟨sources, hs⟩ := hrecords.alarm
      rw [hk, hs]
      exact hunack .alarmOutput
    · rw [hrecords.others k hk]
      exact hunack k
  · rw [hstate, hfaults, (acknowledge_same p.faults).1]
    cases p.faults.state <;> rfl
  · rw [acksRest_pole, hpoles]
    exact poleAcknowledge_fields (p.poles.get i)

end

theorem done_verdict (p : Part) (d : Nat) : (done p d).2 = { result := .ok, detail := word d } := rfl

theorem ackFaults_acknowledges {p : Part} {r : Request} (h : r.payload = []) : (p.own .ackFaults r).2 =
      { result := .ok, detail := word (allKinds.filter (fun k => (p.faults.get k).unack)).length }
    ∧ p.acknowledges (p.own .ackFaults r).1 := by
  have hcard : p.own .ackFaults r = done (p.acknowledge r.tag) p.faults.unackCount := if_neg (not_not.mpr (by rw [h]; rfl))
  rw [hcard, done_verdict, done_part]
  exact ⟨rfl, acknowledge_acknowledges p r.tag⟩

/-! ### CLEAR_FAULT_STATE (R164) -/

section
variable {p : Part} {r : Request}

theorem clearFaultState_other (h : r.payload = []) (hstate : p.faults.state ≠ .fault) :
    p.own .clearFaultState r = (p, { result := .ok, detail := word (collectorCode p.faults.state) }) :=
  (if_neg (not_not.mpr (by rw [h]; rfl))).trans (if_pos hstate)

theorem clearFaultState_fault (h : r.payload = []) (hstate : p.faults.state = .fault) : p.own .clearFaultState r
    = match allKinds.find? p.standsInWay with
      | some k => refuse p .stillActive (kindNumber k)
      | none => done (p.moveCollector .normal .clear none r.tag) (collectorCode .normal) := by
  refine (if_neg (not_not.mpr (by rw [h]; rfl))).trans ((if_neg (not_not.mpr hstate)).trans ?_)
  cases allKinds.find? p.standsInWay <;> rfl

theorem clearFaultState_stillActive (h : r.payload = []) (hstate : p.faults.state = .fault) {k : FaultKind}
    (hk : allKinds.find? (fun x => (p.faults.get x).unack || ((p.reactions x).escalate && (p.faults.get x).inForce)) = some k) :
    (p.own .clearFaultState r).2 = { result := .stillActive, detail := word (kindNumber k) } := by
  have hfind : allKinds.find? p.standsInWay = some k := hk
  rw [clearFaultState_fault h hstate, hfind]
  rfl

theorem moveCollector_withdraws (hstate : p.faults.state = .fault) (cause : CollectorCause) (kind : Option FaultKind) (tag : Word) :
    (p.moveCollector .normal cause kind tag).gov.inhibit = { p.gov.inhibit with faultState := false } := by
  have hne : p.faults.state ≠ .normal := by rw [hstate]; decide
  have hto : (p.collectorTo .normal).gov.inhibit = { p.gov.inhibit with faultState := false } := by
    unfold Part.collectorTo
    rw [hstate]
    rfl
  have hreport : (p.moveCollector .normal cause kind tag).gov = (p.collectorTo .normal).gov := by rw [moveCollector_eq hne]; rfl
  rw [hreport, hto]

theorem clearFaultState_clears (h : r.payload = []) (hstate : p.faults.state = .fault)
    (hclear : ∀ x, (p.faults.get x).unack = false ∧ ((p.reactions x).escalate = false ∨ (p.faults.get x).inForce = false)) :
    (p.own .clearFaultState r).2 = { result := .ok, detail := word (collectorCode .normal) }
      ∧ (p.own .clearFaultState r).1.faults.state = .normal
      ∧ (p.own .clearFaultState r).1.gov.inhibit = { p.gov.inhibit with faultState := false }
      ∧ (p.own .clearFaultState r).1.mbx.attention.collectorChange = true
      ∧ (p.own .clearFaultState r).1.mbx.newest .collectorChanged .faultCollector 0 r.tag
          [.small (collectorCode .fault), .small (collectorCode .normal), .small CollectorCause.clear.ctorIdx] := by
  have hnone : allKinds.find? p.standsInWay = none := by
    rw [List.find?_eq_none]
    intro x _
    obtain ⟨hunack, hquiet⟩ := hclear x
    rcases hquiet with he | hf
    · simp [Part.standsInWay, hunack, he]
    · simp [Part.standsInWay, hunack, hf]
  have hne : p.faults.state ≠ .normal := by rw [hstate]; decide
  have hnewest := moveCollector_newest hne .clear none r.tag
  rw [hstate] at hnewest
  rw [clearFaultState_fault h hstate, hnone]
  refine ⟨rfl, moveCollector_state _ _ _ _ _, moveCollector_withdraws hstate _ _ _, ?_, hnewest⟩
  rw [done_part, moveCollector_attention]
  simp [hstate]

end
end Sys2Proof.Machine

/-! ## AUX_REQUEST (R145) -/

namespace Sys2Proof.Machine

section
variable {p : Part} {r : Request}

theorem auxRequest_badLength (h : r.payload.length ≠ 2) : (p.own .auxRequest r).2 = { result := .badLength } := verdict_of_if p h

theorem auxRequest_badIndex {x v : Word} (hr : r.payload = [x, v]) (h : 12 ≤ x.toNat) : (p.own .auxRequest r).2 = { result := .badIndex } := by
  obtain ⟨hx, -⟩ := at_of_words hr
  have hcard : p.own .auxRequest r = refuse p .badIndex :=
    (if_neg (not_not.mpr (by rw [hr]; rfl))).trans (dif_neg (by rw [hx]; exact Nat.not_lt.mpr h))
  rw [hcard]
  rfl

/-- What the card asks of a named auxiliary (R145). -/
def Part.auxAnswer (p : Part) (a : AuxNo) (v : Word) : Part × Verdict :=
  if 1 < v.toNat then refuse p .badValue
  else if !(p.auxEntry a).valid then refuse p .precondition
  else if v.toNat = 1 ∧ (p.auxRec a).state = .faulted then refuse p .busy
  else done (p.auxRequested a (v == 1)) (auxStateCode ((p.auxRequested a (v == 1)).auxRec a).state)

theorem word_aux_toNat (a : AuxNo) : (word a.val).toNat = a.val := by
  have := a.isLt
  exact Nat.mod_eq_of_lt (by omega)

theorem toNat_beq_one (v : Word) : (v.toNat == 1) = (v == 1) := by
  rw [Bool.eq_iff_iff, beq_iff_eq, beq_iff_eq, ← BitVec.toNat_inj]
  rfl

theorem own_auxRequest {a : AuxNo} {v : Word} (hr : r.payload = [word a.val, v]) : p.own .auxRequest r = p.auxAnswer a v := by
  obtain ⟨ha, hv⟩ := at_of_words hr
  rw [word_aux_toNat] at ha
  have hlt : r.at 0 < 12 := by rw [ha]; exact a.isLt
  have hnumber : (⟨r.at 0, hlt⟩ : AuxNo) = a := Fin.ext ha
  refine (if_neg (not_not.mpr (by rw [hr]; rfl))).trans ((dif_pos hlt).trans ?_)
  dsimp only
  rw [hnumber, hv, toNat_beq_one]
  rfl

theorem auxRequest_badValue {a : AuxNo} {v : Word} (hr : r.payload = [word a.val, v]) (h : 1 < v.toNat) :
    (p.own .auxRequest r).2 = { result := .badValue } := by
  rw [own_auxRequest hr]
  exact verdict_of_if p h

theorem auxRequest_invalid {a : AuxNo} {v : Word} (hr : r.payload = [word a.val, v]) (h : v.toNat ≤ 1)
    (hvalid : (p.auxEntry a).valid = false) : (p.own .auxRequest r).2 = { result := .precondition } := by
  rw [own_auxRequest hr, Part.auxAnswer, if_neg (Nat.not_lt.mpr h)]
  exact verdict_of_if p (by simp [hvalid])

theorem auxRequest_busy {a : AuxNo} {v : Word} (hr : r.payload = [word a.val, v]) (hvalid : (p.auxEntry a).valid = true)
    (h : v = 1) (hstate : (p.auxRec a).state = .faulted) : (p.own .auxRequest r).2 = { result := .busy } := by
  rw [own_auxRequest hr, Part.auxAnswer, if_neg (by rw [h]; decide), if_neg (by simp [hvalid])]
  exact verdict_of_if p ⟨by rw [h]; rfl, hstate⟩

theorem auxRequest_accepts {a : AuxNo} {v : Word} (hr : r.payload = [word a.val, v]) (hvalid : (p.auxEntry a).valid = true)
    (h : v.toNat ≤ 1) (hstate : v = 0 ∨ (p.auxRec a).state ≠ .faulted) : p.own .auxRequest r
      = done (p.auxRequested a (v == 1)) (auxStateCode ((p.auxRequested a (v == 1)).auxRec a).state) := by
  have hfree : ¬ (v.toNat = 1 ∧ (p.auxRec a).state = .faulted) := by
    rintro ⟨hone, hfaulted⟩
    rcases hstate with rfl | hno
    · exact absurd hone (by decide)
    · exact hno hfaulted
  rw [own_auxRequest hr, Part.auxAnswer, if_neg (Nat.not_lt.mpr h), if_neg (by simp [hvalid]), if_neg hfree]

end

/-! ### The request (R145) -/

section
variable (p : Part) (a : AuxNo)

/-- An auxiliary's request is set or cleared. -/
def Part.wants (on : Bool) : Part := p.setAux a { p.auxRec a with requested := on }

theorem wants_auxRec (on : Bool) : (p.wants a on).auxRec a = { p.auxRec a with requested := on } := Part.auxRec_set_same _ _ _

theorem requestOn_off (h : (p.auxRec a).state = .off) : p.requestOn a = (p.wants a true).enterQueue a :=
  if_pos (by rw [Part.auxRec_set_same]; exact h)

theorem requestOn_other (h : (p.auxRec a).state ≠ .off) : p.requestOn a = p.wants a true :=
  if_neg (by rw [Part.auxRec_set_same]; exact h)

theorem wants_queues {q : Part} (on : Bool) (h : (p.wants a on).queues q a) : p.queues q a := by
  unfold Part.queues at h ⊢
  rw [wants_auxRec] at h
  exact h

/-- An ON request (R145). -/
theorem requestOn_takes : p.takesRequest (p.requestOn a) a true := by
  refine ⟨?_, fun _ hoff => ?_, fun _ hon => ?_, by simp, by simp, by simp, by simp, by simp, by simp⟩
  · by_cases hoff : (p.auxRec a).state = .off
    · obtain ⟨s, d, n, hrec⟩ := enterQueue_auxRec (p.wants a true) a
      rw [requestOn_off p a hoff, hrec, wants_auxRec]
    · rw [requestOn_other p a hoff, wants_auxRec]
  · rw [requestOn_off p a hoff]
    exact wants_queues p a true (enterQueue_queues _ a)
  · rw [requestOn_other p a hon, wants_auxRec]

/-- A STARTING or RUNNING auxiliary that a request stops, before its off time begins (R145). -/
def Part.stopsLocked : Part :=
  (p.switchOff a).setAux a { (p.switchOff a).auxRec a with state := .locked, startTimer := .stopped, offDone := false }

theorem stopAux_eq : p.stopAux a = (p.stopsLocked a).startOff a := rfl

theorem stopsLocked_auxRec : (p.stopsLocked a).auxRec a = { p.auxRec a with state := .locked, startTimer := .stopped, offDone := false } := by
  rw [Part.stopsLocked, Part.auxRec_set_same, switchOff_auxRec]

theorem stopsLocked_staysOff : (p.switchOff a).StaysOff a (p.stopsLocked a) := staysOff_of_aux (setAux_moves _ a _).drifts.only a

theorem stopAux_stops (hreq : (p.auxRec a).requested = false) : ((p.stopAux a).auxRec a).requested = false
    ∧ ((p.stopAux a).auxRec a).state = p.lockedState a false ∧ p.auxStops (p.stopAux a) a := by
  obtain ⟨htables, hnow, -⟩ := switchOff_settings p a
  have hstays := (stopsLocked_staysOff p a).andThen (staysOff_of_aux (startOff_moves (p.stopsLocked a) a).drifts.only a)
  have htimer : (p.stopsLocked a).offTimerOf a = p.offTimerOf a := offTimerOf_congr htables hnow a
  have hentry : (p.stopsLocked a).auxEntry a = p.auxEntry a := congrArg (·.aux.get a) htables
  obtain ⟨s, d, n, hrec⟩ := startOff_auxRec (p.stopsLocked a) a
  have hstate := startOff_state (p := p.stopsLocked a) (a := a) (.inr (by rw [stopsLocked_auxRec]))
  rw [stopsLocked_auxRec, hentry] at hstate
  rw [stopAux_eq]
  refine ⟨by rw [hrec, stopsLocked_auxRec]; exact hreq, ?_, auxStops_of hstays (by rw [hrec]; exact htimer)⟩
  rw [hstate, Part.lockedState]
  simp [hreq]

theorem requestOff_off (h : (p.auxRec a).state = .off) : p.requestOff a = p.wants a false := by
  simp only [Part.requestOff, Part.wants, Part.auxRec_set_same, h]

theorem requestOff_waiting (h : (p.auxRec a).state = .waiting) : p.requestOff a
    = ((p.wants a false).leaveQueue a).setAux a { (p.wants a false).auxRec a with state := .off } := by
  simp only [Part.requestOff, Part.wants, Part.auxRec_set_same, h]

theorem requestOff_drawing (h : (p.auxRec a).state.drawing = true) : p.requestOff a = (p.wants a false).stopAux a := by
  cases hs : (p.auxRec a).state <;> simp_all only [AuxState.drawing, Part.requestOff, Part.wants, Part.auxRec_set_same, Bool.false_eq_true]

theorem requestOff_shed (h : (p.auxRec a).state = .shed) : p.requestOff a
    = if (p.auxRec a).offDone then (p.wants a false).setAux a { (p.wants a false).auxRec a with state := .off, offDone := false }
      else p.wants a false := by
  simp only [Part.requestOff, Part.wants, Part.auxRec_set_same, h]

theorem requestOff_locked (h : (p.auxRec a).state = .locked) : p.requestOff a = p.wants a false := by
  simp only [Part.requestOff, Part.wants, Part.auxRec_set_same, h]

theorem requestOff_faulted (h : (p.auxRec a).state = .faulted) : p.requestOff a = (p.wants a false).releaseFaulted a := by
  simp only [Part.requestOff, Part.wants, Part.auxRec_set_same, h]

theorem wants_auxStops {q : Part} (on : Bool) (h : (p.wants a on).auxStops q a) : p.auxStops q a := h

theorem wants_lockedState (on requested : Bool) : (p.wants a on).lockedState a requested = p.lockedState a requested :=
  lockedState_congr (p := p) (q := p.wants a on) rfl rfl rfl (by rw [wants_auxRec]) requested

theorem requestOff_takes_drawing (h : (p.auxRec a).state.drawing = true) : p.takesRequest (p.requestOff a) a false := by
  have hstates : (p.auxRec a).state = .starting ∨ (p.auxRec a).state = .running := by
    cases hs : (p.auxRec a).state <;> simp_all [AuxState.drawing]
  obtain ⟨hreq, hstate, hstops⟩ := stopAux_stops (p.wants a false) a (by rw [wants_auxRec])
  rw [wants_lockedState] at hstate
  rw [requestOff_drawing p a h]
  refine ⟨hreq, by simp, by simp, fun _ hs => ?_, fun _ hs => ?_, fun _ _ => ⟨hstate, hstops⟩, fun _ hs => ?_, fun _ hs => ?_, fun _ hs => ?_⟩
  · rcases hstates with he | he <;> simp [he] at hs
  · rcases hstates with he | he <;> simp [he] at hs
  · rcases hstates with he | he <;> simp [he] at hs
  · rcases hstates with he | he <;> simp [he] at hs
  · rcases hstates with he | he <;> simp [he] at hs

theorem releaseFaulted_auxRec (b : Part) : (b.releaseFaulted a).auxRec a
    = { b.auxRec a with state := .off, startFails := 0, trips := [], offDone := false } := by
  have haux : (b.releaseFaulted a).aux = (b.setAux a { b.auxRec a with state := .off, startFails := 0, trips := [], offDone := false }).aux :=
    (endFault_moves _ _ _).drifts.only .aux (by decide)
  rw [Part.auxRec, haux]
  exact Part.auxRec_set_same _ _ _

/-- An OFF request (R145). -/
theorem requestOff_takes : p.takesRequest (p.requestOff a) a false := by
  by_cases hdraws : (p.auxRec a).state.drawing = true
  · exact requestOff_takes_drawing p a hdraws
  have hrec := wants_auxRec p a false
  have hset : ∀ (b : Part) x, (b.setAux a x).auxRec a = x := fun b x => Part.auxRec_set_same b a x
  cases hs : (p.auxRec a).state with
  | off =>
    rw [requestOff_off p a hs]
    simp [Part.takesRequest, hrec, hs, AuxState.drawing]
  | waiting =>
    have hleft : a ∉ ((p.wants a false).leaveQueue a).aux.queue := leaveQueue_not_mem _ a
    rw [requestOff_waiting p a hs]
    unfold Part.takesRequest
    rw [hs]
    refine ⟨by simp only [hset, hrec], by simp, by simp, fun _ _ => by simp only [hset], fun _ _ => hleft, ?_, by simp, by simp, by simp⟩
    exact fun _ hd => absurd hd (by decide)
  | starting => exact absurd (by rw [hs]; rfl) hdraws
  | running => exact absurd (by rw [hs]; rfl) hdraws
  | shed =>
    rw [requestOff_shed p a hs]
    cases hd : (p.auxRec a).offDone with
    | true => simp [Part.takesRequest, hset, hrec, hs, hd, AuxState.drawing]
    | false => simp [Part.takesRequest, hrec, hs, hd, AuxState.drawing]
  | locked =>
    rw [requestOff_locked p a hs]
    simp [Part.takesRequest, hrec, hs, AuxState.drawing]
  | faulted =>
    have hends : ((p.wants a false).releaseFaulted a).endedFault .auxFaulted (auxSource a) := endFault_endedFault _ _ _
    have hreleased := releaseFaulted_auxRec a (p.wants a false)
    rw [requestOff_faulted p a hs]
    unfold Part.takesRequest
    rw [hs]
    refine ⟨by simp only [hreleased, hrec], by simp, by simp, by simp, by simp, ?_, by simp, by simp, fun _ _ => ⟨by simp only [hreleased], hends⟩⟩
    exact fun _ hd => absurd hd (by decide)

end

theorem auxRequest_takes {p : Part} {r : Request} {a : AuxNo} {v : Word} (hr : r.payload = [word a.val, v])
    (hvalid : (p.auxEntry a).valid = true) (h : v.toNat ≤ 1) (hstate : v = 0 ∨ (p.auxRec a).state ≠ .faulted) :
    (p.own .auxRequest r).2 = { result := .ok, detail := word (auxStateCode ((p.own .auxRequest r).1.auxRec a).state) }
      ∧ p.takesRequest (p.own .auxRequest r).1 a (v == 1) := by
  rw [auxRequest_accepts hr hvalid h hstate, done_verdict, done_part]
  refine ⟨rfl, ?_⟩
  cases v == 1 with
  | true => exact requestOn_takes p a
  | false => exact requestOff_takes p a

end Sys2Proof.Machine

/-! ## RAISE_POLES and LOWER_POLES (R96, R97, R103, R104) -/

namespace Sys2Proof.Machine

section
variable {p : Part} {r : Request} {v : Word}

theorem poleSet_nodup (n : Nat) : (poleSet n).Nodup := by
  unfold poleSet
  split
  · decide
  split <;> decide

theorem closePoles_claims (q : Part) (ns : List PoleNotice) : (q.closePoles ns).poleClaims := updateClaims_claims _

theorem badSet_of {v : Word} (h : v = 0 ∨ 3 < v.toNat) : v.toNat = 0 ∨ 3 < v.toNat := h.imp_left fun hzero => by rw [hzero]; rfl

/-! ### RAISE_POLES (R96) -/

theorem raisePoles_badValue (hr : r.payload = [v]) (h : v = 0 ∨ 3 < v.toNat) : (p.own .raisePoles r).2 = { result := .badValue } := by
  have hcard : p.own .raisePoles r = refuse p .badValue :=
    (if_neg (not_not.mpr (length_of_word hr))).trans (if_pos (by rw [at_of_word hr]; exact badSet_of h))
  rw [hcard]
  rfl

theorem raisePoles_answers (hr : r.payload = [v]) (hlow : 1 ≤ v.toNat) (hhigh : v.toNat ≤ 3) : p.own .raisePoles r
    = match p.raiseBarred (poleSet v.toNat) with
      | some x => refuse p .precondition (preconditionDetail x)
      | none => done (p.raisePoles (poleSet v.toNat) .card r.tag none) v.toNat := by
  rw [← at_of_word hr]
  refine (if_neg (not_not.mpr (length_of_word hr))).trans ((if_neg (by rw [at_of_word hr]; omega)).trans ?_)
  cases p.raiseBarred (poleSet (r.at 0)) <;> rfl

theorem raisePoles_barred (hr : r.payload = [v]) (hlow : 1 ≤ v.toNat) (hhigh : v.toNat ≤ 3) {x : Precondition}
    (hx : p.raiseBarred (poleSet v.toNat) = some x) :
    (p.own .raisePoles r).2 = { result := .precondition, detail := word (x.code + 256 * x.poleCode) } := by
  rw [raisePoles_answers hr hlow hhigh, hx]
  rfl

/-- Each named pole of a raise begins it (R97). -/
theorem raisePoles_each {poles : List PoleId} (hnodup : poles.Nodup) {i : PoleId} (hi : i ∈ poles) (origin : RaiseOrigin) (tag : Word)
    (zone : Option TagId) : p.raises (p.raisePoles poles origin tag zone) i origin tag zone := by
  obtain ⟨m, hsights, hlater⟩ := eachPole_at (beginRaise_works origin tag zone) hnodup hi (p, [])
  unfold Part.raisePoles
  rw [beginRaises_eq]
  exact raises_of_later hsights (hlater.andThen ((closePoles_tail _ _).laterOn i)) fun _ => closePoles_claims _ _

theorem raisePoles_accepts (hr : r.payload = [v]) (hlow : 1 ≤ v.toNat) (hhigh : v.toNat ≤ 3)
    (hx : p.raiseBarred (poleSet v.toNat) = none) : (p.own .raisePoles r).2 = { result := .ok, detail := v }
      ∧ ∀ i ∈ poleSet v.toNat, p.raises (p.own .raisePoles r).1 i .card r.tag none := by
  rw [raisePoles_answers hr hlow hhigh, hx]
  dsimp only
  rw [done_verdict, word_toNat, done_part]
  exact ⟨rfl, fun i hi => raisePoles_each (poleSet_nodup _) hi .card r.tag none⟩

/-! ### LOWER_POLES (R103) -/

theorem lowerPoles_badValue (hr : r.payload = [v]) (h : v = 0 ∨ 3 < v.toNat) : (p.own .lowerPoles r).2 = { result := .badValue } := by
  have hcard : p.own .lowerPoles r = refuse p .badValue :=
    (if_neg (not_not.mpr (length_of_word hr))).trans (if_pos (by rw [at_of_word hr]; exact badSet_of h))
  rw [hcard]
  rfl

theorem lowerPoles_answers (hr : r.payload = [v]) (hlow : 1 ≤ v.toNat) (hhigh : v.toNat ≤ 3) : p.own .lowerPoles r
    = if (poleSet v.toNat).any (fun i => (p.poles.get i).barsLowering) then refuse p .busy
      else done (p.lowerAll (poleSet v.toNat) r.tag) (p.outcomeOf (poleSet v.toNat) .p + 256 * p.outcomeOf (poleSet v.toNat) .n) := by
  rw [← at_of_word hr]
  exact (if_neg (not_not.mpr (length_of_word hr))).trans (if_neg (by rw [at_of_word hr]; omega))

theorem barsLowering_iff (q : Pole) : q.barsLowering = true ↔ q.state ∈ [PoleState.faulted, .untracked] := by
  simp [Pole.barsLowering]

theorem lowerPoles_busy (hr : r.payload = [v]) {i : PoleId} (hi : i ∈ poleSet v.toNat) (hlow : 1 ≤ v.toNat) (hhigh : v.toNat ≤ 3)
    (hs : (p.poles.get i).state ∈ [PoleState.faulted, .untracked]) : (p.own .lowerPoles r).2 = { result := .busy } := by
  rw [lowerPoles_answers hr hlow hhigh]
  exact verdict_of_if p (List.any_eq_true.mpr ⟨i, hi, (barsLowering_iff _).mpr hs⟩)

/-- What LOWER_POLES makes of a named pole (R103, R104). -/
def Part.lowersPole (p q : Part) (i : PoleId) (tag : Word) : Prop :=
  ((p.poles.get i).onLine = true → p.lowers q i .request tag none)
    ∧ ((p.poles.get i).state = .raising → p.abandons q i .lowerRequest ∧ (p.housedClosed i = false → (q.poles.get i).requestTag = tag))
    ∧ ((p.poles.get i).onLine = false → (p.poles.get i).state ≠ .raising →
        (q.poles.get i).state = (p.poles.get i).state ∧ ((p.poles.get i).state = .housed → (q.poles.get i).retryPending = false))

theorem abandoned_requestTag (m : Part) (i : PoleId) (cause : AbandonCause) (tag : Word) (h : m.housedClosed i = false) :
    (m.abandoned i cause (some tag)).requestTag = tag := by
  rw [Part.abandoned, Pole.lowered, if_neg (by simp [h])]
  rfl

/-- A HOUSED pole that LOWER_POLES names waits for no retry (R103). -/
theorem lowersNamed_housed_pole {m : Part} {i : PoleId} (tag : Word) (h : (m.poles.get i).state = .housed) :
    ((lowersNamed tag m i).1.poles.get i).state = .housed ∧ ((lowersNamed tag m i).1.poles.get i).retryPending = false := by
  rw [lowersNamed_housed m i tag h]
  dsimp only
  split
  next hpending =>
    have hset := setPole_sets m i (m.poles.get i).givesUp
    rw [hset.record]
    exact ⟨h, rfl⟩
  next hnone => exact ⟨h, by simpa using hnone⟩

theorem lowerAll_each {poles : List PoleId} (hnodup : poles.Nodup) {i : PoleId} (hi : i ∈ poles) (tag : Word) :
    p.lowersPole (p.lowerAll poles tag) i tag := by
  obtain ⟨m, hsights, hlater⟩ := eachPole_at (lowersNamed_works tag) hnodup hi (p, [])
  have hends : Part.LaterOn i (lowersNamed tag m i).1 (p.lowerAll poles tag) := by
    rw [lowerAll_eq]
    exact hlater.andThen ((closePoles_tail _ _).laterOn i)
  have hclaims : (p.lowerAll poles tag).poleClaims := by
    rw [lowerAll_eq]
    exact closePoles_claims _ _
  have hpole : m.poles.get i = p.poles.get i := hsights.pole
  generalize p.lowerAll poles tag = q at hends hclaims ⊢
  refine ⟨fun hon => ?_, fun hraising => ?_, fun hoff hno => ?_⟩
  · rw [lowersNamed_on m i tag (by rw [hpole]; exact hon)] at hends
    exact lowers_of_later (by decide) hsights hends hclaims
  · rw [lowersNamed_raising m i tag (by rw [hpole]; exact hraising)] at hends
    refine ⟨abandons_of_later hsights hends hclaims, fun hopen => ?_⟩
    have hset := abandonRaise_sets m i .lowerRequest (some tag)
    have hrec := hends.record (by rw [hset.record]; exact lowered_onLine _ _ _ _ _ _)
    rw [hrec, hset.record]
    exact abandoned_requestTag m i .lowerRequest tag (hsights.housedClosed.trans hopen)
  · by_cases hhoused : (p.poles.get i).state = .housed
    · obtain ⟨hstate, hpending⟩ := lowersNamed_housed_pole (m := m) tag (by rw [hpole]; exact hhoused)
      have hrec := hends.record (by rw [Pole.onLine, hstate]; rfl)
      exact ⟨by rw [hrec, hstate, hhoused], fun _ => by rw [hrec, hpending]⟩
    · rw [lowersNamed_other m i tag (by rw [hpole]; exact hoff) (by rw [hpole]; exact hno) (by rw [hpole]; exact hhoused)] at hends
      exact ⟨hends.state.trans (by rw [hpole]), fun hs => absurd hs hhoused⟩

theorem lowerPoles_accepts (hr : r.payload = [v]) (hlow : 1 ≤ v.toNat) (hhigh : v.toNat ≤ 3)
    (hfree : ∀ i ∈ poleSet v.toNat, (p.poles.get i).barsLowering = false) :
    (p.own .lowerPoles r).2 = { result := .ok, detail := word (p.outcomeOf (poleSet v.toNat) .p + 256 * p.outcomeOf (poleSet v.toNat) .n) }
      ∧ ∀ i ∈ poleSet v.toNat, p.lowersPole (p.own .lowerPoles r).1 i r.tag := by
  have hnone : ¬ (poleSet v.toNat).any (fun i => (p.poles.get i).barsLowering) = true := by
    rw [List.any_eq_true]
    rintro ⟨i, hi, hbars⟩
    exact absurd (hfree i hi) (by rw [hbars]; decide)
  rw [lowerPoles_answers hr hlow hhigh, if_neg hnone, done_verdict, done_part]
  exact ⟨rfl, fun i hi => lowerAll_each (poleSet_nodup _) hi r.tag⟩

end
end Sys2Proof.Machine

/-! ## CLEAR_POLE (R73) -/

namespace Sys2Proof.Machine

/-! ### What a notice leaves of the line (R54) -/

section
variable (p : Part)

theorem lineMove_keepsVoltage (new : LineState) (g : Option GapEnd) : (p.lineMove new g).line.voltage = p.line.voltage := by
  by_cases h : p.line.state = new
  · have hsame : p.lineMove new g = (p.tellsGapEnd g).recompute := by
      unfold Part.lineMove Part.tellsGapEnd
      dsimp only
      cases g <;> exact if_pos h
    have hzones : (p.tellsGapEnd g).line = p.line := by
      unfold Part.tellsGapEnd
      split <;> rfl
    have hown := recompute_own (p.tellsGapEnd g)
    rw [hsame]
    exact (congrArg Line.voltage hown :).trans (by rw [← hzones]; rfl)
  · exact lineMove_voltage h g

theorem restoreTest_keepsVoltage : p.restoreTest.line.voltage = p.line.voltage := rfl

theorem linePoleNotice_keepsVoltage (i : PoleId) (s : PoleState) : (p.linePoleNotice i s).line.voltage = p.line.voltage := by
  have hcopy : (p.copies i s).line.voltage = p.line.voltage := rfl
  obtain h | h | ⟨g, h⟩ | ⟨-, h⟩ := linePoleNotice_answers p i s <;> rw [h]
  · exact hcopy
  · exact (restoreTest_keepsVoltage _).trans hcopy
  · rw [lineMove_keepsVoltage, hcopy]
  · rw [restoreTest_keepsVoltage, lineMove_keepsVoltage, hcopy]

theorem sendNotices_keepsVoltage (ns : List PoleNotice) : (p.sendNotices ns).line.voltage = p.line.voltage := by
  induction ns generalizing p with
  | nil => rfl
  | cons n ns ih => exact (ih (p.sendNotice n)).trans (linePoleNotice_keepsVoltage p n.pole n.entered)

end

/-! ### Sources that end (R159) -/

/-- From `p` to `q` a kind gets no new source. -/
def Part.noNewSource (k : FaultKind) (p q : Part) : Prop := ∀ s, s ∈ (q.faults.get k).sources → s ∈ (p.faults.get k).sources

section
variable {k : FaultKind} {p q r : Part}

theorem noNewSource_refl (k : FaultKind) (p : Part) : Part.noNewSource k p p := fun _ => id

theorem Part.noNewSource.andThen (h : Part.noNewSource k p q) (h' : Part.noNewSource k q r) : Part.noNewSource k p r := fun s hs => h s (h' s hs)

theorem Part.noNewSource.ended (h : Part.noNewSource k p q) {s : Source} (hp : p.endedFault k s) : q.endedFault k s := fun hs => hp (h s hs)

theorem noNewSource_of_get (h : q.faults.get k = p.faults.get k) : Part.noNewSource k p q := fun s hs => by rwa [h] at hs

theorem Part.Spares.noNewSource {ks : List FaultKind} {rs : List ReportKind} {os : List DriveRole} (h : p.Spares ks rs os q)
    (hk : k ∉ ks) (ha : k ≠ .alarmOutput) : Part.noNewSource k p q := noNewSource_of_get (h.faults k hk ha)

theorem endFault_noNewSource (k x : FaultKind) (p : Part) (s : Source) : Part.noNewSource k p (p.endFault x s) := by
  intro y hy
  have hmod := evalAlarms_sources _ k hy
  rw [Part.modFault_faults] at hmod
  by_cases hk : k = x
  · subst hk
    rw [Collector.get_set_same] at hmod
    exact (List.mem_filter.mp hmod).1
  · rwa [Collector.get_set_other _ _ _ _ hk] at hmod

theorem endFaultIf_noNewSource (k x : FaultKind) (p : Part) (b : Bool) (s : Source) :
    Part.noNewSource k p (if b then p.endFault x s else p) := by
  split
  · exact endFault_noNewSource k x p s
  · exact noNewSource_refl k p

theorem raise_noNewSource {p : Part} {x : Raise} (hk : k ≠ .alarmOutput) (hx : k ≠ x.kind) : Part.noNewSource k p (p.raise x) :=
  noNewSource_of_get (raise_get_other p x hk hx)

end

/-! ### A lowering and a dewirement bring POLE_SENSOR no source (R82, R83, R104) -/

section
variable (p : Part) (i : PoleId) (basis : DewireBasis) (tag : Word)

theorem startLowering_noNewSource (cause : LoweringCause) (zone : Option TagId) :
    Part.noNewSource .poleSensor p (p.startLowering i cause tag zone).1 :=
  ((drivePole_sets p i i false true).spares.noNewSource (by decide) (by decide)).andThen
    (Part.noNewSource.andThen (q := (p.drivePole i false true).setPole i ((p.poles.get i).beginsLowering (p.drivePole i false true) cause tag zone))
      (noNewSource_of_get rfl) (endFaultIf_noNewSource .poleSensor .poleSensor _ (p.poles.get i).blind (poleSource i .blind)))

theorem lower_noNewSource (cause : LoweringCause) (zone : Option TagId) : Part.noNewSource .poleSensor p (p.lower i cause tag zone).1 :=
  (startLowering_noNewSource p i tag cause zone).andThen ((houseIfClosed_sets _ i).spares.noNewSource (by decide) (by decide))

theorem mateLower_noNewSource : Part.noNewSource .poleSensor p (p.mateLower i).1 := by
  by_cases h : (p.tables.poleLimits.get i).mateLowering = true ∧ (p.poles.get (mateOf i)).onLine = true
  · rw [mateLower_lowers h.1 h.2]
    exact lower_noNewSource p _ _ _ _
  · rw [mateLower_idle h]
    exact noNewSource_refl _ p

theorem reportsDewired_noNewSource : Part.noNewSource .poleSensor p (p.reportsDewired i basis tag) := by
  have hdrive := (drivesDewired_sets p i).spares.noNewSource (k := .poleSensor) (by decide) (by decide)
  have hraise : Part.noNewSource .poleSensor (p.drivesDewired i) ((p.drivesDewired i).raise (p.dewiredRaise i basis tag)) :=
    raise_noNewSource (by decide) (show FaultKind.poleSensor ≠ .poleDewired by decide)
  unfold Part.reportsDewired
  split
  · exact (hdrive.andThen hraise).andThen (endFault_noNewSource _ _ _ _)
  · exact hdrive.andThen hraise

theorem confirmDewired_noNewSource : Part.noNewSource .poleSensor p (p.confirmDewired i basis tag) := by
  rw [confirmDewired_eq]
  exact (((reportsDewired_noNewSource p i basis tag).andThen ((dewireNotice_tail _).spares.noNewSource (by decide) (by decide))).andThen
    (mateLower_noNewSource _ i)).andThen ((sendNotices_tail _ _).spares.noNewSource (by decide) (by decide))

theorem resolved_noNewSource (basis : Nat) {entered : PoleState} (h : entered = .onWire ∨ entered = .housed) {k : FaultKind}
    (hk : k = .poleSensor ∨ k = .poleStuck) : Part.noNewSource k p (p.resolved i entered basis tag) := by
  have halarm : k ≠ .alarmOutput := by rcases hk with rfl | rfl <;> decide
  have hline : k ∉ lineKinds := by rcases hk with rfl | rfl <;> decide
  have hreport : Part.noNewSource k p (p.reportsResolved i entered basis) :=
    (reportsResolved_sets p i entered basis).spares.noNewSource List.not_mem_nil halarm
  have hconfirm : ∀ b : Part, Part.noNewSource k b (b.confirmDewired i .trip tag) := by
    intro b
    rcases hk with rfl | rfl
    · exact confirmDewired_noNewSource b i .trip tag
    · exact (confirmDewired_spares b i .trip tag).noNewSource (by decide) halarm
  have hnotice : ∀ (b : Part) ns, Part.noNewSource k b (b.sendNotices ns) := fun b ns => (sendNotices_tail b ns).spares.noNewSource hline halarm
  have hclaims : ∀ b : Part, Part.noNewSource k b b.updateClaims := fun b => (updateClaims_tail b).spares.noNewSource hline halarm
  refine hreport.andThen ?_
  rcases h with rfl | rfl
  · cases htrip : p.tripClosed i with
    | false =>
      rw [resolved_wire basis tag htrip]
      exact (hnotice _ _).andThen (hclaims _)
    | true =>
      rw [resolved_trips basis tag htrip]
      exact ((hnotice _ _).andThen (hconfirm _)).andThen (hclaims _)
  · rw [resolved_off (by decide) (by decide)]
    exact (hnotice _ _).andThen (hclaims _)

theorem tryResolve_noNewSource {k : FaultKind} (hk : k = .poleSensor ∨ k = .poleStuck) : Part.noNewSource k p (p.tryResolve i tag) := by
  unfold Part.tryResolve
  split
  · exact resolved_noNewSource p i tag 0 (.inr rfl) hk
  · split
    · exact resolved_noNewSource p i tag 0 (.inl rfl) hk
    · exact noNewSource_refl k p

end
end Sys2Proof.Machine

/-! ## CLEAR_POLE, its answers and what it does (R73) -/

namespace Sys2Proof.Machine

/-- A resolution stands through the rest of its event (R72). -/
theorem Part.triesToResolve.later {p q u : Part} {i : PoleId} {e : Nat} {l : Int} (h : p.triesToResolve q i e l) (hpoles : u.poles = q.poles)
    (htail : q.Tail u) : p.triesToResolve u i e l := by
  obtain ⟨hhoused, hwire, hwaits⟩ := h
  unfold Part.triesToResolve
  rw [hpoles]
  refine ⟨fun hc he => ?_, fun hc he => ?_, hwaits⟩
  · obtain ⟨hstate, hresolving, htimer, htells⟩ := hhoused hc he
    exact ⟨hstate, hresolving, htimer, htail.spares.tells (by decide) htells⟩
  · obtain ⟨hresolving, htimer, htells, hends⟩ := hwire hc he
    exact ⟨hresolving, htimer, htail.spares.tells (by decide) htells, hends⟩

section
variable (p : Part) (i : PoleId) (tag : Word)

/-- The end of the condition that held the pole, of its kind (R91). -/
theorem endPoleFault_stuck (h : (p.poles.get i).fault = some .poleStuck) : (p.endPoleFault i).endedFault .poleStuck (aboutPole i .none) := by
  unfold Part.endPoleFault
  rw [h]
  exact endFault_endedFault p _ _

theorem endPoleFault_unresolved (h : (p.poles.get i).fault = some .unresolved) :
    (p.endPoleFault i).endedFault .poleSensor (aboutPole i .unresolved) := by
  unfold Part.endPoleFault
  rw [h]
  exact endFault_endedFault p _ _

theorem triesIfSensed_noNewSource {k : FaultKind} (hk : k = .poleSensor ∨ k = .poleStuck) : Part.noNewSource k p (p.triesIfSensed i tag) := by
  unfold Part.triesIfSensed
  split
  · exact tryResolve_noNewSource p i tag hk
  · exact noNewSource_refl k p

/-- The pole is cleared and its notice is out, before it tries to resolve (R73). -/
def Part.announcesPole : Part := (p.clearsPole i tag).sendNotices [{ pole := i, entered := .untracked }]

theorem clearPole_noNewSource {k : FaultKind} (hk : k = .poleSensor ∨ k = .poleStuck) :
    Part.noNewSource k (p.endPoleFault i) (p.clearPole i tag) := by
  have halarm : k ≠ .alarmOutput := by rcases hk with rfl | rfl <;> decide
  have hline : k ∉ lineKinds := by rcases hk with rfl | rfl <;> decide
  have hclears : Part.noNewSource k (p.endPoleFault i) (p.clearsPole i tag) := noNewSource_of_get rfl
  have hnotice : Part.noNewSource k (p.clearsPole i tag) (p.announcesPole i tag) := (sendNotices_tail _ _).spares.noNewSource hline halarm
  rw [clearPole_eq]
  exact ((hclears.andThen hnotice).andThen (triesIfSensed_noNewSource _ i tag hk)).andThen
    ((updateClaims_tail _).spares.noNewSource hline halarm)

theorem endPoleFault_poles : (p.endPoleFault i).poles = p.poles := (endPoleFault_moves p i).drifts.only .poles (by decide)

theorem clearsPole_record : (p.clearsPole i tag).poles.get i = (p.poles.get i).clears (p.startTimer p.tables.timers.resolutionWindow) tag := by
  have hframe := (endPoleFault_moves p i).drifts.only
  have htables : (p.endPoleFault i).tables = p.tables := hframe .tables (by decide)
  have hnow : (p.endPoleFault i).now = p.now := hframe .now (by decide)
  unfold Part.clearsPole
  rw [Part.modPole, (setPole_sets _ i _).record, endPoleFault_poles, htables, Part.startTimer, Part.startTimer, hnow]

theorem announcesPole_record : (p.announcesPole i tag).poles.get i = (p.poles.get i).clears (p.startTimer p.tables.timers.resolutionWindow) tag :=
  (sendNotices_tail _ _).record (clearsPole_record p i tag) rfl

theorem clearsPole_only : p.onlyChanges [.outputs, .records, .poles] (p.clearsPole i tag) :=
  Part.onlyChanges_trans (Part.onlyChanges_mono (endPoleFault_moves p i).drifts.only (by decide))
    (Part.onlyChanges_mono (setPole_only _ i _) (by decide))

theorem announcesPole_frame : p.onlyChanges tailPieces (p.announcesPole i tag) :=
  Part.onlyChanges_trans (Part.onlyChanges_mono (clearsPole_only p i tag) (by decide)) (sendNotices_tail _ _).frame

/-- A cleared pole with a sensor tries to resolve on its angles (R72, R73). -/
theorem clearPole_tries (h : (p.poles.get i).sensorAvailable = true) : (p.withResolving i tag).triesToResolve (p.clearPole i tag) i
    (p.poles.get i).elevation (p.poles.get i).lateral := by
  have hrec := announcesPole_record p i tag
  have hframe := announcesPole_frame p i tag
  have htables : (p.announcesPole i tag).tables = (p.withResolving i tag).tables := hframe .tables (by decide)
  have hcontacts : (p.announcesPole i tag).contacts = (p.withResolving i tag).contacts := hframe .contacts (by decide)
  have hbefore := clearsPole_only p i tag
  have hzones : (p.announcesPole i tag).zones.effective = (p.withResolving i tag).zones.effective :=
    ((sendNotices_keepsZones _ _).field Zones.effective fun _ => rfl).trans (congrArg Zones.effective (hbefore .zones (by decide) :))
  have hvoltage : (p.announcesPole i tag).line.voltage = (p.withResolving i tag).line.voltage :=
    (sendNotices_keepsVoltage _ _).trans (field_of_own (show (p.clearsPole i tag).line.own = p.line.own from hbefore .line (by decide)) Line.voltage fun _ => rfl)
  have hrecord : (p.withResolving i tag).poles.get i = { p.poles.get i with state := .untracked, resolving := true, resolveTag := tag } :=
    PerPole.get_set_same _ _ _
  have hsensed : ((p.announcesPole i tag).poles.get i).sensorAvailable = true := by
    rw [hrec]
    exact h
  have htries := triesToResolve_of (p := p.withResolving i tag) (m := p.announcesPole i tag) (i := i) (e := (p.poles.get i).elevation)
    (l := (p.poles.get i).lateral) htables (onWireNow_iff htables hzones hvoltage (by rw [hrec]; rfl) (by rw [hrec]; rfl))
    (housedClosed_congr hcontacts htables i) (tripClosed_congr hcontacts htables i) (by rw [hrec]; rfl) (by rw [hrec, hrecord]; rfl)
    (by rw [hrec]; rfl) (by rw [hrec, hrecord]; rfl) tag ((p.announcesPole i tag).tryResolve i tag)
  rw [orderEntries_same _ _ rfl] at htries
  have hends : p.clearPole i tag = ((p.announcesPole i tag).tryResolve i tag).updateClaims :=
    congrArg Part.updateClaims (if_pos hsensed)
  rw [hends]
  exact htries.later (updateClaims_poles _) (updateClaims_tail _)

/-- A cleared pole without a sensor stays UNTRACKED and resolving (R73). -/
theorem clearPole_unsensed (h : (p.poles.get i).sensorAvailable = false) :
    (p.clearPole i tag).poles.get i = (p.poles.get i).clears (p.startTimer p.tables.timers.resolutionWindow) tag
      ∧ (p.clearPole i tag).gov.inhibit.poleSuspect = true := by
  have hrec := announcesPole_record p i tag
  have hblind : ¬ ((p.announcesPole i tag).poles.get i).sensorAvailable = true := by
    rw [hrec, Bool.not_eq_true]
    exact h
  have hends : p.clearPole i tag = (p.announcesPole i tag).updateClaims := congrArg Part.updateClaims (if_neg hblind)
  have hget : (p.clearPole i tag).poles.get i = (p.poles.get i).clears (p.startTimer p.tables.timers.resolutionWindow) tag := by
    rw [hends, updateClaims_poles, hrec]
  refine ⟨hget, claims_suspect (hends ▸ updateClaims_claims _) i ?_⟩
  rw [hget]
  rfl

end

/-! ### The answers -/

section
variable {p : Part} {r : Request} {v : Word}

theorem clearPole_badValue (hr : r.payload = [v]) (h : 1 < v.toNat) : (p.own .clearPole r).2 = { result := .badValue } := by
  have hcard : p.own .clearPole r = refuse p .badValue :=
    (if_neg (not_not.mpr (length_of_word hr))).trans (if_pos (by rw [at_of_word hr]; exact h))
  rw [hcard]
  rfl

theorem own_clearPole (hr : r.payload = [v]) {i : PoleId} (hi : v.toNat = poleNumber i) : p.own .clearPole r
    = if (p.poles.get i).state ≠ .faulted then refuse p .busy else done (p.clearPole i r.tag) 0 := by
  have hat : r.at 0 = poleNumber i := (at_of_word hr).trans hi
  have hpole : (if r.at 0 = 0 then PoleId.p else PoleId.n) = i := by
    rw [hat]
    cases i <;> rfl
  have hlow : ¬ 1 < r.at 0 := by
    rw [hat]
    cases i <;> decide
  refine (if_neg (not_not.mpr (length_of_word hr))).trans ((if_neg hlow).trans ?_)
  rw [hpole]

theorem clearPole_busy (hr : r.payload = [v]) {i : PoleId} (hi : v.toNat = poleNumber i) (h : (p.poles.get i).state ≠ .faulted) :
    (p.own .clearPole r).2 = { result := .busy } := by
  rw [own_clearPole hr hi]
  exact verdict_of_if p h

theorem clearPole_accepts (hr : r.payload = [v]) {i : PoleId} (hi : v.toNat = poleNumber i) (h : (p.poles.get i).state = .faulted) :
    (p.own .clearPole r).2 = { result := .ok }
    ∧ ((p.poles.get i).fault = some .poleStuck → (p.own .clearPole r).1.endedFault .poleStuck (aboutPole i .none))
    ∧ ((p.poles.get i).fault = some .unresolved → (p.own .clearPole r).1.endedFault .poleSensor (aboutPole i .unresolved))
    ∧ ((p.poles.get i).sensorAvailable = false →
        ((p.own .clearPole r).1.poles.get i).state = .untracked
        ∧ ((p.own .clearPole r).1.poles.get i).resolving = true
        ∧ ((p.own .clearPole r).1.poles.get i).resolveTag = r.tag
        ∧ ((p.own .clearPole r).1.poles.get i).fault = none
        ∧ ((p.own .clearPole r).1.poles.get i).resolutionTimer = p.startTimer p.tables.timers.resolutionWindow
        ∧ (p.own .clearPole r).1.gov.inhibit.poleSuspect = true)
    ∧ ((p.poles.get i).sensorAvailable = true →
        (p.withResolving i r.tag).triesToResolve (p.own .clearPole r).1 i (p.poles.get i).elevation (p.poles.get i).lateral) := by
  rw [own_clearPole hr hi, if_neg (not_not.mpr h), done_verdict, done_part]
  refine ⟨rfl, fun hf => ?_, fun hf => ?_, fun hs => ?_, fun hs => clearPole_tries p i r.tag hs⟩
  · exact (clearPole_noNewSource p i r.tag (.inr rfl)).ended (endPoleFault_stuck p i hf)
  · exact (clearPole_noNewSource p i r.tag (.inl rfl)).ended (endPoleFault_unresolved p i hf)
  · obtain ⟨hrec, hsuspect⟩ := clearPole_unsensed p i r.tag hs
    rw [hrec]
    exact ⟨rfl, rfl, rfl, rfl, rfl, hsuspect⟩

end
end Sys2Proof.Machine

/-! ## EXIT_LAYOVER, CLEAR_ZONES and LOAD_TABLE (R126, R170 to R174, R184) -/

namespace Sys2Proof.Machine

section
variable {p : Part} {r : Request}

/-! ### EXIT_LAYOVER (R184) -/

theorem exitLayover_notInMode (hr : r.payload = []) (h : p.mode ≠ .layover) : (p.own .exitLayover r).2 = { result := .notInMode } := by
  have hcard : p.own .exitLayover r = refuse p .notInMode := (if_neg (by rw [hr]; simp)).trans (if_pos h)
  rw [hcard]
  rfl

theorem exitLayover_leaves (hr : r.payload = []) (h : p.mode = .layover) : p.own .exitLayover r = done (p.leaveLayover .card r.tag []) 0 :=
  (if_neg (by rw [hr]; simp)).trans (if_neg (not_not.mpr h))

/-- An auxiliary that RUN entry does not concern keeps its record (R156). -/
theorem leaveLayover_others (cause : WakeCause) (tag : Word) (extra : List Item) (hline : p.line.state = .unknown) (hdue : p.demandDue = false)
    {a : AuxNo} (h : (p.auxRec a).requested = false ∨ (p.auxRec a).state ≠ .off) : (p.leaveLayover cause tag extra).auxRec a = p.auxRec a := by
  obtain ⟨-, -, -, haux, -⟩ := governorWakes_settings p
  have hrecord : p.startsRun.lineUnknown.governorWakes.auxRec a = p.auxRec a :=
    congrArg (·.recs.get a) (haux.trans (lineUnknown_aux (p := p.startsRun) hline hdue))
  have hkept := (requeueAll_leaves (p := p.startsRun.lineUnknown.governorWakes) (a := a) (by rw [hrecord]; exact h)).record
  have hend : (p.leaveLayover cause tag extra).aux = p.startsRun.lineUnknown.governorWakes.endsLayover.aux :=
    (endModeChange_moves _ _ _ _).drifts.only .aux (by decide)
  exact (congrArg (·.recs.get a) hend).trans ((endsLayover_auxRec _ a).trans (hkept.trans hrecord))

theorem exitLayover_resumes (hr : r.payload = []) (h : p.mode = .layover) : (p.own .exitLayover r).2 = { result := .ok }
    ∧ p.resumes (p.own .exitLayover r).1
    ∧ (p.own .exitLayover r).1.mbx.newest .wake .modeLogic 0 r.tag [.small WakeCause.card.ctorIdx] := by
  have hothers := fun hline hdue a h => leaveLayover_others (p := p) .card r.tag [] hline hdue (a := a) h
  have hawake := (leaveLayover_awake p .card r.tag [] (p.leaveLayover .card r.tag [])).symm.trans (orderEntries_same _ _ rfl)
  rw [exitLayover_leaves hr h, done_verdict, done_part]
  rw [← hawake] at hothers
  have hresumes := awake_resumes_of p _ r.tag _ hothers
  have hnewest := awake_newest p [.small WakeCause.card.ctorIdx] r.tag (p.leaveLayover .card r.tag [])
  rw [hawake] at hresumes hnewest
  exact ⟨rfl, hresumes, hnewest⟩

/-! ### CLEAR_ZONES (R126) -/

theorem clearZones_zones (p : Part) (tag : Word) : (p.clearZones tag).zones = { p.zones with pendingZones := [], active := [], effective := {} } := by
  have hends := endsZones_zones (p.setPending []) ((p.setPending []).zones.precedence.map (·.order)) .cleared tag
  have hnone : (p.setPending []).zones.active.filter (fun z => !((p.setPending []).zones.precedence.map (·.order)).contains z.order) = [] := by
    refine List.filter_eq_nil_iff.mpr fun z hz => ?_
    simp only [Bool.not_eq_true, Bool.not_eq_false', List.contains_iff_mem]
    exact List.mem_map_of_mem ((mem_sortBy _ _ _).mpr hz)
  rw [hnone] at hends
  have hclear : (p.clearZones tag).zones
      = { ((p.setPending []).endsZones ((p.setPending []).zones.precedence.map (·.order)) .cleared tag).zones with
          effective := effectiveOf (((p.setPending []).endsZones ((p.setPending []).zones.precedence.map (·.order)) .cleared tag).zones.precedence.map
            fun z => ((p.setPending []).endsZones ((p.setPending []).zones.precedence.map (·.order)) .cleared tag).tables.profile z.profile) } := rfl
  rw [hclear, hends]
  rfl

theorem clearZones_clears (hr : r.payload = []) :
    (p.own .clearZones r).2 = { result := .ok, detail := word (p.zones.pendingZones.length + p.zones.active.length) }
      ∧ (p.own .clearZones r).1.zones = { p.zones with pendingZones := [], active := [], effective := {} } := by
  have hcard : p.own .clearZones r = done (p.clearZones r.tag) (p.zones.pendingZones.length + p.zones.active.length) :=
    if_neg (by rw [hr]; simp)
  rw [hcard, done_verdict, done_part]
  exact ⟨rfl, clearZones_zones p r.tag⟩

/-! ### LOAD_TABLE (R170 to R174) -/

theorem contentVerdict_takes {x y : Load} (h : p.contentVerdict x = .ok y) : y = x ∧ x.badEntry = none := by
  unfold Part.contentVerdict at h
  split at h
  · cases h
  · cases h
  · next hcontent _ =>
    refine ⟨(Except.ok.inj h).symm, ?_⟩
    cases hbad : x.badEntry with
    | none => rfl
    | some i => rw [hbad] at hcontent; cases hcontent

/-- A load that passes its checks is the one its payload carries; it lies inside its table, and none of its entries is bad. -/
theorem readLoad_takes {w : List Word} {x : Load} (h : p.readLoad w = .ok x) : ∃ t, x = loadOf t w ∧ x.first + x.count ≤ entryCount x.table
    ∧ x.badEntry = none := by
  by_cases hshort : w.length < 3
  · cases (readLoad_short hshort).symm.trans h
  by_cases hbad : 10 < (w.getD 0 0).toNat ∨ (w.getD 2 0).toNat = 0
  · cases (readLoad_of_value p (Nat.not_lt.mp hshort) hbad).symm.trans h
  obtain ⟨hnumber, hcount⟩ := not_or.mp hbad
  cases ht : tableOfNumber (w.getD 0 0).toNat with
  | none => exact absurd (List.getElem?_eq_none_iff.mp ht) hnumber
  | some t =>
    have hcheck := (readLoad_of_table p (Nat.not_lt.mp hshort) ht hcount).symm.trans h
    rw [checkLoad_eq] at hcheck
    split_ifs at hcheck with hmode hfrozen hindex hlength
    obtain ⟨rfl, hgood⟩ := contentVerdict_takes hcheck
    exact ⟨t, rfl, Nat.not_lt.mp hindex, hgood⟩

theorem loadTable_refused {e : CardRefusal} (h : p.readLoad r.payload = .error e) :
    (p.own .loadTable r).2 = { result := e.code, detail := word e.detail } := by
  rw [loadTable_of_error h]

theorem loadTable_stores {x : Load} (h : p.readLoad r.payload = .ok x) : p.tables.stores (p.own .loadTable r).1.tables x
    ∧ (p.own .loadTable r).2 = { result := .ok, detail := (p.own .loadTable r).1.tables.check } ∧ (p.own .loadTable r).1.mode = p.mode := by
  obtain ⟨t, hload, hfit, hgood⟩ := readLoad_takes h
  have hlength : x.entries.length = x.count := by
    rw [hload]
    exact cut_length _ _ _
  have hstand : ∀ i, ¬ x.failsAt i := fun i hi => (badEntry_finds x hlength).1 i hi hgood
  have htakes := takesEntries_apply p.tables x hlength hfit (storedFields_of_load hlength hstand)
  have hmode : (p.load x).mode = p.mode := (load_moves p x).drifts.only .mode (by decide)
  rw [loadTable_of_ok h]
  refine ⟨?_, rfl, hmode⟩
  rw [show (p.load x).tables = p.tables.store x from load_tables p x]
  exact stores_store p.tables x htakes

end
end Sys2Proof.Machine

/-! ## The line UNKNOWN in LAYOVER (R9, R57, R150 to R152) -/

namespace Sys2Proof.Machine

/-- From `p` to `q` the auxiliaries keep what was asked of them and the stagger its timer; a part in LAYOVER keeps its chains as they are. -/
structure Part.Abides (p q : Part) : Prop where
  mode : q.mode = p.mode
  chains : p.mode = .layover → q.mbx.chains = p.mbx.chains
  asked : ∀ a, (q.auxRec a).requested = (p.auxRec a).requested
  kept : ∀ a, (q.auxRec a).keptInLayover = (p.auxRec a).keptInLayover
  stagger : q.aux.stagger = p.aux.stagger

theorem Part.Abides.refl (p : Part) : p.Abides p := ⟨rfl, fun _ => rfl, fun _ => rfl, fun _ => rfl, rfl⟩

theorem Part.Abides.andThen {p q r : Part} (h : p.Abides q) (k : q.Abides r) : p.Abides r where
  mode := k.mode.trans h.mode
  chains hmode := (k.chains (h.mode.trans hmode)).trans (h.chains hmode)
  asked a := (k.asked a).trans (h.asked a)
  kept a := (k.kept a).trans (h.kept a)
  stagger := k.stagger.trans h.stagger

theorem forEach_abides {α : Type} {f : Part → α → Part} (h : ∀ (p : Part) x, p.Abides (f p x)) (xs : List α) (p : Part) : p.Abides (p.forEach xs f) := by
  induction xs generalizing p with
  | nil => exact .refl p
  | cons x xs ih => exact (h p x).andThen (ih (f p x))

theorem abides_of_aux {p q : Part} (hmode : q.mode = p.mode) (hchains : p.mode = .layover → q.mbx.chains = p.mbx.chains) (haux : q.aux = p.aux) :
    p.Abides q := by
  have hrec : ∀ a, q.auxRec a = p.auxRec a := fun a => congrArg (·.recs.get a) haux
  exact ⟨hmode, hchains, fun a => by rw [hrec], fun a => by rw [hrec], by rw [haux]⟩

theorem abides_of_only {xs : List Piece} {p q : Part} (h : p.onlyChanges xs q)
    (hx : [Piece.mode, .chains, .aux].all (fun x => !xs.contains x) = true) : p.Abides q := by
  have hsame : ∀ x ∈ [Piece.mode, .chains, .aux], p.same q x := fun x hm => h x (by simpa using List.all_eq_true.mp hx x hm)
  exact abides_of_aux (hsame .mode (by decide)) (fun _ => hsame .chains (by decide)) (hsame .aux (by decide))

/-! ### A report in LAYOVER (R9) -/

theorem join_chains {p : Part} (h : p.mode = .layover) (m : Mailbox) (x : ReportRec) : (m.join p x).chains = m.chains := by
  have hidle : (p.mode == .layover || m.chains.report.state != .parked || m.base.isNone) = true := by simp [h]
  have hjoin : m.join p x = { m with holding := m.holding ++ [x] } := if_pos hidle
  rw [hjoin]

theorem overflow_chains {p : Part} (h : p.mode = .layover) (m : Mailbox) (x : ReportRec) : (m.overflow p x).chains = m.chains := by
  have hevict : ∀ i, (m.evict i).chains = m.chains := by
    intro i
    unfold Mailbox.evict
    split <;> rfl
  unfold Mailbox.overflow
  split
  · rw [join_chains h, hevict]
  · rfl

theorem takeReport_chains {p : Part} (h : p.mode = .layover) (m : Mailbox) (x : ReportRec) : (m.takeReport p x).chains = m.chains := by
  unfold Mailbox.takeReport
  dsimp only
  split
  · split
    · rfl
    split
    · exact join_chains h _ x
    · exact overflow_chains h _ x
  · exact join_chains h _ x

theorem report_abides (p : Part) (kind : ReportKind) (sev : Severity) (block : Block) (inst : Nat) (tag : Word) (items : List Item) :
    p.Abides (p.report kind sev block inst tag items) :=
  abides_of_aux rfl (fun h => takeReport_chains h p.mbx _) rfl

/-! ### Shedding (R150 to R152) -/

section
variable (p : Part)

theorem setAux_abides {a : AuxNo} {r : AuxRec} (hasked : r.requested = (p.auxRec a).requested) (hkept : r.keptInLayover = (p.auxRec a).keptInLayover) :
    p.Abides (p.setAux a r) := by
  have hrec : ∀ b, (p.setAux a r).auxRec b = if b = a then r else p.auxRec b := by
    intro b
    split
    · next h => rw [h, Part.auxRec_set_same]
    · next h => exact Part.auxRec_set_other p a b r h
  refine ⟨rfl, fun _ => rfl, fun b => ?_, fun b => ?_, rfl⟩
  · rw [hrec]
    split
    · next h => rw [hasked, h]
    · rfl
  · rw [hrec]
    split
    · next h => rw [hkept, h]
    · rfl

theorem startOff_abides (a : AuxNo) : p.Abides (p.startOff a) := by
  have hframe := (startOff_moves p a).drifts.only
  have hmode : (p.startOff a).mode = p.mode := hframe .mode (by decide)
  have hchains : (p.startOff a).mbx.chains = p.mbx.chains := hframe .chains (by decide)
  have hrec : ∀ b, ((p.startOff a).auxRec b).requested = (p.auxRec b).requested
      ∧ ((p.startOff a).auxRec b).keptInLayover = (p.auxRec b).keptInLayover := by
    intro b
    by_cases h : b = a
    · obtain ⟨s, d, n, hown⟩ := startOff_auxRec p a
      rw [h, hown]
      exact ⟨rfl, rfl⟩
    · rw [(startOff_leaves p h).record]
      exact ⟨rfl, rfl⟩
  exact ⟨hmode, fun _ => hchains, fun b => (hrec b).1, fun b => (hrec b).2, startOff_stagger p a⟩

theorem shed_abides (a : AuxNo) (cause : ShedCause) : p.Abides (p.shed a cause) := by
  have hswitch : p.Abides (p.switchOff a) := abides_of_only (switchOff_moves p a).drifts.only (by decide)
  have hmark : (p.switchOff a).Abides (p.shedMarked a) := setAux_abides _ (by rw [switchOff_auxRec]) (by rw [switchOff_auxRec])
  rw [shed_eq]
  exact ((hswitch.andThen hmark).andThen (report_abides _ _ _ _ _ _ _)).andThen (startOff_abides _ a)

theorem shedLoop_abides (n : Nat) : p.Abides (shedLoop n p) := by
  induction n generalizing p with
  | zero => exact .refl p
  | succ n ih =>
    unfold shedLoop
    split
    · exact .refl p
    split
    · exact .refl p
    · exact (shed_abides p _ .demand).andThen (ih _)

theorem recompute_abides : p.Abides p.recompute := by
  have hbudget : p.Abides p.rebudget := abides_of_only (rebudget_moves p).drifts.only (by decide)
  unfold Part.recompute
  split
  · exact hbudget.andThen (shedLoop_abides _ 12)
  · exact hbudget

theorem shedWaiting_abides (a : AuxNo) : p.Abides (p.shedWaiting a) := by
  have hleaves : p.Abides (p.leaveQueue a) := ⟨rfl, fun _ => rfl, fun _ => rfl, fun _ => rfl, rfl⟩
  unfold Part.shedWaiting
  split
  · exact hleaves.andThen (setAux_abides _ rfl rfl)
  · exact .refl p

theorem lineSheds_abides (new : LineState) : p.Abides (p.lineSheds new) := by
  unfold Part.lineSheds Part.classShed
  dsimp only
  split
  · exact .refl p
  have hclass := forEach_abides (f := fun p a => p.shed a .cls) (fun p a => shed_abides p a .cls)
    (p.sheddable.filter (fun a => (p.auxEntry a).cls == .deferrable)) p
  split
  · exact hclass.andThen (forEach_abides shedWaiting_abides _ _)
  · exact hclass

/-! ### The line -/

theorem lineChanged_abides {new : LineState} (h : new.classHold = true) (g : Option GapEnd) : p.Abides (p.lineChanged new g) := by
  have hended : p.Abides (p.lineEnded new g) :=
    (abides_of_only (tellsGapEnd_moves p g).drifts.only (by decide)).andThen
      ((Part.Abides.andThen (q := (p.tellsGapEnd g).entersLine new) ⟨rfl, fun _ => rfl, fun _ => rfl, fun _ => rfl, rfl⟩
        (abides_of_only (endsLineFaults_moves _ _).drifts.only (by decide))))
  have hframe := lineNotified_only (p.lineEnded new g) p.line.state new
  have hmode : (p.lineChanged new g).mode = (p.lineEnded new g).mode := hframe .mode (by decide)
  have hchains : (p.lineChanged new g).mbx.chains = (p.lineEnded new g).mbx.chains := hframe .chains (by decide)
  exact abides_of_aux (hmode.trans hended.mode) (fun hl => hchains.trans (hended.chains hl)) (lineChanged_aux p h g).1

theorem lineMove_abides {new : LineState} (h : new.classHold = true) (g : Option GapEnd) : p.Abides (p.lineMove new g) := by
  by_cases hs : p.line.state = new
  · rw [lineMove_same hs]
    exact (abides_of_only (tellsGapEnd_moves p g).drifts.only (by decide)).andThen (recompute_abides _)
  · have hbefore := (lineChanged_abides p h g).andThen (lineSheds_abides _ new)
    rw [lineMove_eq hs]
    split
    · exact hbefore.andThen (shedLoop_abides _ 12)
    · exact hbefore

theorem lineUnknown_abides : p.Abides p.lineUnknown :=
  Part.Abides.andThen (q := { p with line := p.line.blanked }) ⟨rfl, fun _ => rfl, fun _ => rfl, fun _ => rfl, rfl⟩
    (lineMove_abides { p with line := p.line.blanked } (new := .unknown) rfl _)

/-- The battery limits stand (R65). -/
theorem lineUnknown_battery : p.lineUnknown.line.battery = p.line.battery := by
  have hgoes : ∀ (b : Part) g, (b.lineMove .unknown g).line.battery = b.line.battery := by
    intro b g
    by_cases hs : b.line.state = .unknown
    · exact field_of_own (lineMove_own_same hs g) Line.battery fun _ => rfl
    · exact (field_of_own (lineMove_own hs g) Line.battery fun _ => rfl).trans rfl
  rw [lineUnknown_eq]
  exact hgoes _ _

end
end Sys2Proof.Machine

/-! ## The blocks at LAYOVER entry (R43, R92, R156) -/

namespace Sys2Proof.Machine

/-! ### The contact inputs (R43) -/

section
variable (p : Part)

/-- Each input goes to rest (R43). -/
def Part.inputsRest (p : Part) : Part :=
  p.forEach allSixteen (fun p i => p.setInput i ((p.input i).toLayover (p.tables.inputs.get i).wakeEnabled))

theorem inputsRest_input (i : InputNo) : p.inputsRest.input i = (p.input i).toLayover (p.tables.inputs.get i).wakeEnabled := by
  obtain ⟨q, htables, hinput, hq⟩ := forEach_at Part.tables Part.input
    (f := fun p i => p.setInput i ((p.input i).toLayover (p.tables.inputs.get i).wakeEnabled)) (fun _ _ => rfl)
    (fun q x y h => Part.input_set_other q x y _ h) nodup_allSixteen (mem_allSixteen i) p
  refine hq.trans ((Part.input_set_same _ _ _).trans ?_)
  rw [hinput, htables]

theorem inputsRest_only : p.onlyChanges [.contacts] p.inputsRest :=
  forEach_only (fun (p : Part) i => (setInput_moves p i _).drifts.only) allSixteen p

/-- The contact inputs while the part polls them (R43). -/
def Contacts.polls (c : Contacts) (poll : Timer) : Contacts := { c with pollTimer := poll, second := 0, secondTimer := .stopped }

theorem contactsEnterLayover_contacts :
    p.contactsEnterLayover.contacts = p.inputsRest.contacts.polls (p.startTimer p.tables.timers.pollInterval) := by
  have htables : p.inputsRest.tables = p.tables := inputsRest_only p .tables (by decide)
  have hnow : p.inputsRest.now = p.now := inputsRest_only p .now (by decide)
  have hpoll : p.contactsEnterLayover.contacts = p.inputsRest.contacts.polls (p.inputsRest.startTimer p.inputsRest.tables.timers.pollInterval) := rfl
  rw [hpoll, htables, Part.startTimer, Part.startTimer, hnow]

theorem contactsEnterLayover_input (i : InputNo) :
    p.contactsEnterLayover.input i = (p.input i).toLayover (p.tables.inputs.get i).wakeEnabled := by
  rw [← inputsRest_input, Part.input, contactsEnterLayover_contacts]
  rfl

/-! ### The poles (R92) -/

theorem polesEnterLayover_pole (i : PoleId) : p.polesEnterLayover.poles.get i = (p.poles.get i).toLayover := by
  have hdriven : ((p.drive (.retriever .p) false).drive (.retriever .n) false).poles = p.poles :=
    (show _ = _ from (drive_moves _ _ _).drifts.only .poles (by decide)).trans ((drive_moves p _ _).drifts.only .poles (by decide))
  have hget : p.polesEnterLayover.poles.get i = (((p.drive (.retriever .p) false).drive (.retriever .n) false).poles.get i).toLayover := by
    cases i <;> rfl
  rw [hget, hdriven]

theorem polesEnterLayover_retrievers (i : PoleId) {o : OutputNo} (h : p.outputFor (.retriever i) = some o) :
    (p.polesEnterLayover.output o).commanded = false := by
  have hfirst := drive_spares (rs := []) p (.retriever .p) false
  have hsecond := drive_spares (rs := []) (p.drive (.retriever .p) false) (.retriever .n) false
  have hdriven := (hfirst.outputFor (.retriever i)).trans h
  cases i with
  | p => exact (hsecond.commanded hdriven (by simp)).trans (drive_commanded false h (by simp) (by simp))
  | n => exact drive_commanded false hdriven (by simp) (by simp)

end

/-! ### The auxiliaries (R156) -/

/-- An auxiliary that is not layover-keep has gone OFF, unless it was FAULTED (R156). -/
structure Part.SetsDown (a : AuxNo) (p q : Part) : Prop where
  state : (q.auxRec a).state = if (p.auxRec a).state = .faulted then .faulted else .off
  offTimer : (q.auxRec a).offTimer = (p.auxRec a).offTimer
  queue : (p.auxRec a).state = .waiting → a ∉ q.aux.queue
  gives : (p.auxRec a).state.drawing = true → q.line.grants.get a = none ∧ ∀ o, p.outputFor (.auxRun a) = some o → (q.output o).commanded = false
  tables : q.tables = p.tables

theorem Part.SetsDown.idle {a : AuxNo} {p q : Part} (h : p.SetsDown a q) : (q.auxRec a).state.idle = true := by
  rw [h.state]
  split <;> rfl

theorem Part.SetsDown.andRests {a : AuxNo} {p q r : Part} (h : p.SetsDown a q) (k : q.Rests a r) : p.SetsDown a r where
  state := by rw [k.record, h.state]
  offTimer := by rw [k.record, h.offTimer]
  queue hw := fun hin => h.queue hw (k.queued.mp hin)
  gives hd := by
    obtain ⟨hgrant, houtput⟩ := h.gives hd
    exact ⟨k.grant.trans hgrant, fun o ho => (k.output o ((outputFor_congr h.tables _).trans ho)).trans (houtput o ho)⟩
  tables := k.tables.trans h.tables

/-- The same from an earlier part, whose record of the auxiliary stands but for what the set-down does not read. -/
theorem Part.SetsDown.from {a : AuxNo} {p p' q : Part} (h : p'.SetsDown a q) (hstate : (p'.auxRec a).state = (p.auxRec a).state)
    (htimer : (p'.auxRec a).offTimer = (p.auxRec a).offTimer) (htables : p'.tables = p.tables) : p.SetsDown a q where
  state := by rw [h.state, hstate]
  offTimer := by rw [h.offTimer, htimer]
  queue hw := h.queue (by rw [hstate, hw])
  gives hd := by
    obtain ⟨hgrant, houtput⟩ := h.gives (by rw [hstate, hd])
    exact ⟨hgrant, fun o ho => houtput o ((outputFor_congr htables _).trans ho)⟩
  tables := h.tables.trans htables

section
variable (p : Part) (a : AuxNo)

theorem offForLayover_drawing (h : (p.auxRec a).state.drawing = true) : p.offForLayover a
    = (p.switchOff a).setAux a { (p.switchOff a).auxRec a with state := .off, startTimer := .stopped } := by
  cases hs : (p.auxRec a).state <;> simp_all only [AuxState.drawing, Part.offForLayover, Bool.false_eq_true]

theorem offForLayover_waiting (h : (p.auxRec a).state = .waiting) :
    p.offForLayover a = (p.leaveQueue a).setAux a { p.auxRec a with state := .off } := by
  simp only [Part.offForLayover, h]

theorem offForLayover_held (h : (p.auxRec a).state = .shed ∨ (p.auxRec a).state = .locked) :
    p.offForLayover a = p.setAux a { p.auxRec a with state := .off, offDone := false } := by
  rcases h with h | h <;> simp only [Part.offForLayover, h]

theorem offForLayover_idle (h : (p.auxRec a).state = .off ∨ (p.auxRec a).state = .faulted) : p.offForLayover a = p := by
  rcases h with h | h <;> simp only [Part.offForLayover, h]

theorem auxState_cases (s : AuxState) : s.drawing = true ∨ s = .waiting ∨ (s = .shed ∨ s = .locked) ∨ s = .off ∨ s = .faulted := by
  cases s <;> decide

theorem offForLayover_setsDown : p.SetsDown a (p.offForLayover a) := by
  have hset : ∀ (b : Part) x, (b.setAux a x).auxRec a = x := fun b x => Part.auxRec_set_same b a x
  have htables : (p.offForLayover a).tables = p.tables := offForLayover_only p a .tables (by decide)
  obtain h | h | h | h := auxState_cases (p.auxRec a).state
  · have hfaulted : (p.auxRec a).state ≠ .faulted := fun hf => by simp [hf, AuxState.drawing] at h
    have hwaiting : (p.auxRec a).state ≠ .waiting := fun hf => by simp [hf, AuxState.drawing] at h
    have hoff : (p.switchOff a).StaysOff a (p.offForLayover a) := by
      rw [offForLayover_drawing p a h]
      exact staysOff_of_aux (setAux_moves _ a _).drifts.only a
    have hdrive := drive_spares (rs := []) p (.auxRun a) false
    have hrelease : (p.drive (.auxRun a) false).Spares [] [] [] (p.switchOff a) := (release_moves _ a).spares
    have hrec : (p.offForLayover a).auxRec a = { p.auxRec a with state := .off, startTimer := .stopped } := by
      rw [offForLayover_drawing p a h, hset, switchOff_auxRec]
    refine ⟨by rw [hrec, if_neg hfaulted], by rw [hrec], fun hw => absurd hw hwaiting, fun _ => ⟨hoff.grant.trans (release_none _ a), fun o ho => ?_⟩, htables⟩
    have hdriven := (hdrive.outputFor (.auxRun a)).trans ho
    rw [hoff.output o ((hrelease.outputFor _).trans hdriven), hrelease.commanded hdriven (by simp), drive_commanded false ho (by simp) (by simp)]
  · have hrec : (p.offForLayover a).auxRec a = { p.auxRec a with state := .off } := by rw [offForLayover_waiting p a h, hset]
    refine ⟨by rw [hrec, h]; rfl, by rw [hrec], fun _ => ?_, fun hd => by simp [h, AuxState.drawing] at hd, htables⟩
    rw [offForLayover_waiting p a h]
    exact leaveQueue_not_mem p a
  · have hrec : (p.offForLayover a).auxRec a = { p.auxRec a with state := .off, offDone := false } := by rw [offForLayover_held p a h, hset]
    refine ⟨?_, by rw [hrec], fun hw => ?_, fun hd => ?_, htables⟩
    · rw [hrec]
      rcases h with h | h <;> rw [h] <;> rfl
    · rcases h with h | h <;> simp [h] at hw
    · rcases h with h | h <;> simp [h, AuxState.drawing] at hd
  · rw [offForLayover_idle p a h]
    refine ⟨?_, rfl, fun hw => ?_, fun hd => ?_, rfl⟩
    · rcases h with h | h <;> rw [h] <;> rfl
    · rcases h with h | h <;> simp [h] at hw
    · rcases h with h | h <;> simp [h, AuxState.drawing] at hd

theorem offForLayover_asked : ((p.offForLayover a).auxRec a).requested = (p.auxRec a).requested
    ∧ ((p.offForLayover a).auxRec a).keptInLayover = (p.auxRec a).keptInLayover := by
  have hset : ∀ (b : Part) x, (b.setAux a x).auxRec a = x := fun b x => Part.auxRec_set_same b a x
  obtain h | h | h | h := auxState_cases (p.auxRec a).state
  · rw [offForLayover_drawing p a h, hset, switchOff_auxRec]
    exact ⟨rfl, rfl⟩
  · rw [offForLayover_waiting p a h, hset]
    exact ⟨rfl, rfl⟩
  · rw [offForLayover_held p a h, hset]
    exact ⟨rfl, rfl⟩
  · rw [offForLayover_idle p a h]
    exact ⟨rfl, rfl⟩

theorem offForLayover_leaves {a b : AuxNo} (h : a ≠ b) : p.Leaves a (p.offForLayover b) := by
  obtain hs | hs | hs | hs := auxState_cases (p.auxRec b).state
  · rw [offForLayover_drawing p b hs]
    exact (switchOff_leaves p h).andThen (setAux_leaves _ h _)
  · rw [offForLayover_waiting p b hs]
    exact (leaveQueue_leaves p h).andThen (setAux_leaves _ h _)
  · rw [offForLayover_held p b hs]
    exact setAux_leaves p h _
  · rw [offForLayover_idle p b hs]
    exact .refl a p

/-- The layover-keep setting is taken for this layover (R144). -/
def Part.notesKeep (p : Part) (a : AuxNo) : Part := p.setAux a { p.auxRec a with keptInLayover := (p.auxEntry a).layoverKeep }

theorem layoverAux_eq : p.layoverAux a = if (p.auxEntry a).layoverKeep then p.notesKeep a else (p.notesKeep a).offForLayover a := rfl

theorem notesKeep_auxRec : (p.notesKeep a).auxRec a = { p.auxRec a with keptInLayover := (p.auxEntry a).layoverKeep } :=
  Part.auxRec_set_same _ _ _

theorem layoverAux_leaves {a b : AuxNo} (h : a ≠ b) : p.Leaves a (p.layoverAux b) := by
  have hnotes : p.Leaves a (p.notesKeep b) := setAux_leaves p h _
  rw [layoverAux_eq]
  split
  · exact hnotes
  · exact hnotes.andThen (offForLayover_leaves _ h)

theorem layoverAux_asked : ((p.layoverAux a).auxRec a).requested = (p.auxRec a).requested
    ∧ ((p.layoverAux a).auxRec a).keptInLayover = (p.auxEntry a).layoverKeep := by
  obtain ⟨hasked, hkept⟩ := offForLayover_asked (p.notesKeep a) a
  rw [notesKeep_auxRec] at hasked hkept
  rw [layoverAux_eq]
  split
  · rw [notesKeep_auxRec]
    exact ⟨rfl, rfl⟩
  · exact ⟨hasked, hkept⟩

theorem layoverAux_setsDown (h : (p.auxEntry a).layoverKeep = false) : p.SetsDown a (p.layoverAux a) := by
  rw [layoverAux_eq, if_neg (by simp [h])]
  exact (offForLayover_setsDown (p.notesKeep a) a).from (by rw [notesKeep_auxRec]) (by rw [notesKeep_auxRec]) rfl

/-- The layover set over the auxiliaries, before the stagger timer restarts (R156). -/
def Part.layoverAll (p : Part) : Part := p.forEach allAux Part.layoverAux

theorem auxEntersLayover_eq : p.auxEntersLayover = p.layoverAll.restartStagger := rfl

theorem layoverAll_around : ∃ q, p.Leaves a q ∧ (q.layoverAux a).Leaves a p.layoverAll :=
  forEach_around (f := Part.layoverAux) (fun p _ h => layoverAux_leaves p h) nodup_allAux (mem_allAux a) p

theorem auxEntersLayover_asked : (p.auxEntersLayover.auxRec a).requested = (p.auxRec a).requested
    ∧ (p.auxEntersLayover.auxRec a).keptInLayover = (p.auxEntry a).layoverKeep := by
  obtain ⟨q, hbefore, hafter⟩ := layoverAll_around p a
  obtain ⟨hasked, hkept⟩ := layoverAux_asked q a
  have hentry : q.auxEntry a = p.auxEntry a := by rw [Part.auxEntry, Part.auxEntry, hbefore.tables]
  rw [auxEntersLayover_eq, restartStagger_auxRec, hafter.record]
  exact ⟨by rw [hasked, hbefore.record], by rw [hkept, hentry]⟩

theorem auxEntersLayover_setsDown (h : (p.auxEntry a).layoverKeep = false) : p.SetsDown a p.auxEntersLayover := by
  obtain ⟨q, hbefore, hafter⟩ := layoverAll_around p a
  have hentry : q.auxEntry a = p.auxEntry a := by rw [Part.auxEntry, Part.auxEntry, hbefore.tables]
  have hdown := (layoverAux_setsDown q a (by rw [hentry, h])).andRests hafter.rests
  have hstagger : p.layoverAll.Rests a p.layoverAll.restartStagger :=
    Part.Leaves.rests (leaves_of_aux (restartStagger_moves _).drifts.only (restartStagger_auxRec _ a) (by rw [restartStagger_queue]))
  exact (hdown.andRests hstagger).from (by rw [hbefore.record]) (by rw [hbefore.record]) hbefore.tables

theorem offForLayover_outputs : p.Spares [.outputMismatch] [] auxRoles (p.offForLayover a) := by
  obtain h | h | h | h := auxState_cases (p.auxRec a).state
  · have hdrive : p.Spares [.outputMismatch] [] auxRoles (p.drive (.auxRun a) false) :=
      (drive_spares (rs := []) p (.auxRun a) false).mono (ho := by simp [auxRoles, mem_allAux])
    have hrelease : (p.drive (.auxRun a) false).Spares [] [] [] (p.switchOff a) := (release_moves _ a).spares
    have hset : (p.switchOff a).Spares [] [] [] (p.offForLayover a) := by
      rw [offForLayover_drawing p a h]
      exact (setAux_moves _ a _).spares
    exact (hdrive.andThen hrelease).andThen hset
  · rw [offForLayover_waiting p a h]
    exact ((leaveQueue_moves p a).spares).andThen (setAux_moves _ a _).spares (ks' := []) (rs' := []) (os' := [])
  · rw [offForLayover_held p a h]
    exact (setAux_moves p a _).spares
  · rw [offForLayover_idle p a h]
    exact .refl _ _ _ p

theorem auxEntersLayover_outputs : p.Spares [.outputMismatch] [] auxRoles p.auxEntersLayover := by
  have hnotes : ∀ (b : Part) a, b.Spares [.outputMismatch] [] auxRoles (b.notesKeep a) := fun b a => (setAux_moves b a _).spares
  have heach : ∀ (b : Part) a, b.Spares [.outputMismatch] [] auxRoles (b.layoverAux a) := by
    intro b a
    rw [layoverAux_eq]
    split
    · exact hnotes b a
    · exact (hnotes b a).andThen (offForLayover_outputs _ a)
  have hall : p.Spares [.outputMismatch] [] auxRoles p.layoverAll := forEach_spares Part.layoverAux heach allAux p
  exact hall.andThen (restartStagger_moves _).spares (ks' := []) (rs' := []) (os' := [])

theorem auxEntersLayover_stagger : p.auxEntersLayover.aux.stagger = p.startTimer p.tables.timers.stagger := by
  have hframe := forEach_only (f := Part.layoverAux) layoverAux_only allAux p
  have htables : p.layoverAll.tables = p.tables := hframe .tables (by decide)
  have hnow : p.layoverAll.now = p.now := hframe .now (by decide)
  rw [auxEntersLayover_eq, restartStagger_timer, htables, Part.startTimer, Part.startTimer, hnow]

end
end Sys2Proof.Machine

/-! ## LAYOVER entry after the auxiliaries: the line, the mailbox and the end of the change (R13, R18, R57, R179, R183) -/

namespace Sys2Proof.Machine

section
variable (b : Part) (tag : Word)

/-- What follows the blocks' own entry to LAYOVER (R183). -/
def Part.layoverEnd (b : Part) (tag : Word) : Part := b.lineEntersLayover.portEntersLayover.endModeChange .layoverEntered tag []

theorem enterLayover_end (p : Part) : p.enterLayover tag = p.layoverStart.layoverEnd tag := rfl

def layoverEndedPieces : List Piece := linePieces ++ [.attention, .mirror]

theorem portClosed_only : b.onlyChanges [.reports, .chains, .port, .attention, .mirror] (b.portEntersLayover.endModeChange .layoverEntered tag []) :=
  (Part.onlyChanges_mono (portEntersLayover_moves b).drifts.only (by decide)).thenMoves (endModeChange_moves _ _ _ _) (by decide)

theorem layoverEnd_only : b.onlyChanges layoverEndedPieces (b.layoverEnd tag) :=
  Part.onlyChanges_trans (Part.onlyChanges_mono (lineEntersLayover_moves b).drifts.only (by decide))
    (Part.onlyChanges_mono (portClosed_only b.lineEntersLayover tag) (by decide))

theorem layoverEnd_newest : (b.layoverEnd tag).mbx.newest .layoverEntered .modeLogic 0 tag [] := endModeChange_newest _ .layoverEntered tag []

/-! ### The mailbox -/

theorem mirrorStart_writes {p : Part} (h : p.mbx.base ≠ none) : p.mirrorStart.mbx.mirror.writing ≠ none := by
  cases hbase : p.mbx.base with
  | none => exact absurd hbase h
  | some x =>
    cases hwriting : p.mbx.mirror.writing with
    | none =>
      have hstart : p.mirrorStart = p.beginMirror x := by
        unfold Part.mirrorStart
        rw [hbase, hwriting]
      rw [hstart]
      exact (congrArg Mirror.writing (place_mirror _ _)).trans_ne (by simp)
    | some w =>
      have hstart : p.mirrorStart = { p with mbx := { p.mbx with mirror := { p.mbx.mirror with pendingStart := true } } } := by
        unfold Part.mirrorStart
        rw [hbase, hwriting]
      rw [hstart, hwriting]
      simp

theorem layoverEnd_mailbox : (b.layoverEnd tag).mbx.attention.modeChange = true ∧ (b.layoverEnd tag).mbx.mirror.timer = .stopped := by
  obtain ⟨hattention, htimer⟩ := endModeChange_mbx b.lineEntersLayover.portEntersLayover .layoverEntered tag []
  exact ⟨hattention, htimer.trans rfl⟩

theorem layoverEnd_writes (h : b.mbx.base ≠ none) : (b.layoverEnd tag).mbx.mirror.writing ≠ none := by
  have hline : b.lineEntersLayover.portEntersLayover.mbx.base = b.mbx.base := (lineEntersLayover_moves b).drifts.only .base (by decide)
  have hreport : (b.lineEntersLayover.portEntersLayover.modeReport .layoverEntered tag []).mbx.base = b.lineEntersLayover.portEntersLayover.mbx.base :=
    (modeReport_moves _ _ _ _).drifts.only .base (by decide)
  refine mirrorStart_writes (p := (b.lineEntersLayover.portEntersLayover.modeReport .layoverEntered tag []).noteModeChange) ?_
  exact fun hnone => h ((hreport.trans hline).symm.trans hnone)

theorem lineEntersLayover_abides : b.Abides b.lineEntersLayover :=
  Part.Abides.andThen (q := b.lineUnknown) (lineUnknown_abides b) ⟨rfl, fun _ => rfl, fun _ => rfl, fun _ => rfl, rfl⟩

theorem layoverEnd_chains (h : b.mode = .layover) (c : Chain) : ((b.layoverEnd tag).mbx.chains.get c).rescanTimer = .stopped
    ∧ ((b.layoverEnd tag).mbx.chains.get c).state = (b.mbx.chains.get c).state := by
  have hline := lineEntersLayover_abides b
  have hmode : b.lineEntersLayover.portEntersLayover.mode = .layover := hline.mode.trans h
  have hreport := (report_abides b.lineEntersLayover.portEntersLayover .layoverEntered .info .modeLogic 0 tag []).chains hmode
  have hmirror : (b.layoverEnd tag).mbx.chains = (b.lineEntersLayover.portEntersLayover.modeReport .layoverEntered tag []).mbx.chains :=
    (mirrorStart_moves _).drifts.only .chains (by decide)
  have hstop : ∀ x : Part, (x.portEntersLayover.mbx.chains.get c).rescanTimer = .stopped
      ∧ (x.portEntersLayover.mbx.chains.get c).state = (x.mbx.chains.get c).state := by
    intro x
    cases c <;> exact ⟨rfl, rfl⟩
  obtain ⟨htimer, hstate⟩ := hstop b.lineEntersLayover
  rw [hline.chains h] at hstate
  rw [hmirror, Part.modeReport, hreport]
  exact ⟨htimer, hstate⟩

/-! ### The line, the zones and the poles -/

theorem layoverEnd_line : (b.layoverEnd tag).line.state = .unknown ∧ (b.layoverEnd tag).line.battery = b.line.battery := by
  have hline : (b.layoverEnd tag).line = b.lineEntersLayover.line := line_of_moves (portClosed_only b.lineEntersLayover tag)
  rw [hline]
  exact ⟨(lineUnknown_line b).1, lineUnknown_battery b⟩

theorem layoverEnd_zones : b.KeepsZones (b.layoverEnd tag) := by
  have hline : b.KeepsZones b.lineUnknown := by
    rw [lineUnknown_eq]
    exact lineMove_keepsZones { b with line := b.line.blanked } _ _
  have hend : b.lineUnknown.KeepsZones (b.layoverEnd tag) :=
    .of_same ((portClosed_only b.lineEntersLayover tag .zones (by decide) : _ = _).trans rfl)
  exact hline.andThen hend

theorem layoverEnd_poles : b.GapNotes (b.layoverEnd tag) := by
  have hend : (b.layoverEnd tag).poles = b.lineUnknown.poles := portClosed_only b.lineEntersLayover tag .poles (by decide)
  exact (lineUnknown_gapNotes b).andThen (.of_poles hend)

/-! ### The outputs and the auxiliaries -/

theorem lineUnknown_outputs : b.Spares lineKinds [.auxShed] auxRoles b.lineUnknown := by
  have hblank : b.Spares lineKinds [.auxShed] auxRoles { b with line := b.line.blanked } := (drifts_lineOwn b b.line.blanked).only.spares
  rw [lineUnknown_eq]
  exact hblank.andThen (lineMove_spares_any { b with line := b.line.blanked } _ _) (by simp [lineKinds])

theorem layoverEnd_retriever (i : PoleId) {o : OutputNo} (h : b.outputFor (.retriever i) = some o) :
    ((b.layoverEnd tag).output o).commanded = (b.output o).commanded := by
  have hend : (b.layoverEnd tag).outputs = b.lineUnknown.outputs := portClosed_only b.lineEntersLayover tag .outputs (by decide)
  have houtput : (b.layoverEnd tag).output o = b.lineUnknown.output o := congrArg (fun v => v.get o) hend
  rw [houtput]
  exact (lineUnknown_outputs b).commanded h (by simp [auxRoles])

theorem layoverEnd_abides : (b.layoverEnd tag).aux.stagger = b.aux.stagger
    ∧ ∀ a, ((b.layoverEnd tag).auxRec a).requested = (b.auxRec a).requested
      ∧ ((b.layoverEnd tag).auxRec a).keptInLayover = (b.auxRec a).keptInLayover := by
  have haux : (b.layoverEnd tag).aux = b.lineEntersLayover.aux := portClosed_only b.lineEntersLayover tag .aux (by decide)
  have habides := lineEntersLayover_abides b
  rw [haux]
  refine ⟨habides.stagger, fun a => ?_⟩
  rw [Part.auxRec, haux]
  exact ⟨habides.asked a, habides.kept a⟩

theorem layoverEnd_rests {a : AuxNo} (h : (b.auxRec a).state.idle = true) : b.Rests a (b.layoverEnd tag) := by
  have hframe := portClosed_only b.lineEntersLayover tag
  have hline : (b.layoverEnd tag).line = b.lineEntersLayover.line := line_of_moves hframe
  have haux : (b.layoverEnd tag).aux = b.lineEntersLayover.aux := hframe .aux (by decide)
  have houtputs : (b.layoverEnd tag).outputs = b.lineEntersLayover.outputs := hframe .outputs (by decide)
  have htables : (b.layoverEnd tag).tables = b.lineEntersLayover.tables := hframe .tables (by decide)
  have hgap : b.lineUnknown.Rests a b.lineEntersLayover := ⟨rfl, rfl, .rfl, fun _ _ => rfl, rfl⟩
  have hend : b.lineEntersLayover.Rests a (b.layoverEnd tag) :=
    ⟨congrArg (·.recs.get a) haux, congrArg (·.grants.get a) hline, by rw [haux], fun o _ => congrArg (fun v => (v.get o).commanded) houtputs, htables⟩
  exact ((lineUnknown_rests h).andThen hgap).andThen hend

end
end Sys2Proof.Machine

/-! ## ENTER_LAYOVER (R183) -/

namespace Sys2Proof.Machine

/-! ### The blocks before the auxiliaries -/

section
variable (p : Part)

/-- LAYOVER entry up to the auxiliaries (R183). -/
def Part.layoverHead (p : Part) : Part := (p.leavesRun .layover).linksStop.contactsEnterLayover.polesEnterLayover

theorem layoverStart_eq : p.layoverStart = p.layoverHead.auxEntersLayover := rfl

def layoverHeadPieces : List Piece := leavePieces ++ [.links, .contacts, .poles]

theorem linksStop_only : p.onlyChanges [.links] p.linksStop := (moves_links p .stop).drifts.only

theorem contactsEnterLayover_only : p.onlyChanges [.contacts] p.contactsEnterLayover := (contactsEnterLayover_moves p).drifts.only

/-- The steps after the governor's. -/
theorem layoverHead_after : (p.leavesRun .layover).onlyChanges [.links, .contacts, .outputs, .records, .poles] p.layoverHead :=
  Part.onlyChanges_trans (Part.onlyChanges_mono (linksStop_only _) (by decide))
    (Part.onlyChanges_trans (Part.onlyChanges_mono (contactsEnterLayover_only _) (by decide))
      (Part.onlyChanges_mono (polesEnterLayover_only _) (by decide)))

theorem layoverHead_only : p.onlyChanges layoverHeadPieces p.layoverHead :=
  Part.onlyChanges_trans (Part.onlyChanges_mono (leavesRun_pieces p .layover) (by decide))
    (Part.onlyChanges_mono (layoverHead_after p) (by decide))

/-- Mode, governor and cut frame as the auxiliaries' entry leaves them. -/
theorem layoverStart_after : (p.leavesRun .layover).onlyChanges ([.links, .contacts, .poles] ++ switchPieces) p.layoverStart :=
  Part.onlyChanges_trans (Part.onlyChanges_mono (layoverHead_after p) (by decide))
    (Part.onlyChanges_mono (auxEntersLayover_only _) (by decide))

theorem layoverStart_mode : p.layoverStart.mode = .layover :=
  (show _ = _ from layoverStart_after p .mode (by decide)).trans (leavesRun_mode p .layover)

theorem layoverHead_poles (i : PoleId) : p.layoverHead.poles.get i = (p.poles.get i).toLayover := by
  have hbefore : (p.leavesRun .layover).linksStop.contactsEnterLayover.poles = p.poles :=
    (show _ = _ from contactsEnterLayover_only _ .poles (by decide)).trans
      ((show _ = _ from linksStop_only _ .poles (by decide)).trans (leavesRun_pieces p .layover .poles (by decide)))
  rw [Part.layoverHead, polesEnterLayover_pole, hbefore]

theorem layoverHead_retriever (i : PoleId) {o : OutputNo} (h : p.outputFor (.retriever i) = some o) : (p.layoverHead.output o).commanded = false := by
  have htables : (p.leavesRun .layover).linksStop.contactsEnterLayover.tables = p.tables :=
    (show _ = _ from contactsEnterLayover_only _ .tables (by decide)).trans
      ((show _ = _ from linksStop_only _ .tables (by decide)).trans (leavesRun_pieces p .layover .tables (by decide)))
  exact polesEnterLayover_retrievers _ i ((outputFor_congr htables _).trans h)

theorem layoverHead_contacts : p.layoverHead.contacts.pollTimer = p.startTimer p.tables.timers.pollInterval ∧ p.layoverHead.contacts.second = 0
    ∧ p.layoverHead.contacts.secondTimer = .stopped := by
  have hstop : p.onlyChanges (.links :: leavePieces) (p.leavesRun .layover).linksStop :=
    Part.onlyChanges_trans (Part.onlyChanges_mono (leavesRun_pieces p .layover) (by decide)) (Part.onlyChanges_mono (linksStop_only _) (by decide))
  have htables : (p.leavesRun .layover).linksStop.tables = p.tables := hstop .tables (by decide)
  have hnow : (p.leavesRun .layover).linksStop.now = p.now := hstop .now (by decide)
  have hpoles : p.layoverHead.contacts = (p.leavesRun .layover).linksStop.contactsEnterLayover.contacts := polesEnterLayover_only _ .contacts (by decide)
  rw [hpoles, contactsEnterLayover_contacts, htables, Part.startTimer, Part.startTimer, hnow]
  exact ⟨rfl, rfl, rfl⟩

theorem layoverHead_input (i : InputNo) : p.layoverHead.input i = (p.input i).toLayover (p.tables.inputs.get i).wakeEnabled := by
  have hstop : p.onlyChanges (.links :: leavePieces) (p.leavesRun .layover).linksStop :=
    Part.onlyChanges_trans (Part.onlyChanges_mono (leavesRun_pieces p .layover) (by decide)) (Part.onlyChanges_mono (linksStop_only _) (by decide))
  have htables : (p.leavesRun .layover).linksStop.tables = p.tables := hstop .tables (by decide)
  have hcontacts : (p.leavesRun .layover).linksStop.contacts = p.contacts := hstop .contacts (by decide)
  have hpoles : p.layoverHead.contacts = (p.leavesRun .layover).linksStop.contactsEnterLayover.contacts := polesEnterLayover_only _ .contacts (by decide)
  have hinput : p.layoverHead.input i = (p.leavesRun .layover).linksStop.contactsEnterLayover.input i := congrArg (·.inputs.get i) hpoles
  have hbefore : (p.leavesRun .layover).linksStop.input i = p.input i := congrArg (·.inputs.get i) hcontacts
  rw [hinput, contactsEnterLayover_input, hbefore, htables]

theorem layoverHead_links : p.layoverHead.links = .stop :=
  (show _ = _ from polesEnterLayover_only _ .links (by decide)).trans (contactsEnterLayover_only (p.leavesRun .layover).linksStop .links (by decide))

end

/-! ### LAYOVER entered -/

section
variable (p : Part) (tag : Word)

/-- What the end of the entry leaves as its start had it. -/
theorem enterLayover_after : (p.leavesRun .layover).onlyChanges ([.links, .contacts] ++ layoverEndedPieces) (p.enterLayover tag) :=
  Part.onlyChanges_trans (Part.onlyChanges_mono (layoverStart_after p) (by decide))
    (Part.onlyChanges_mono (layoverEnd_only p.layoverStart tag) (by decide))

theorem enterLayover_ends : p.layoverHead.onlyChanges layoverEndedPieces (p.enterLayover tag) :=
  Part.onlyChanges_trans (Part.onlyChanges_mono (auxEntersLayover_only p.layoverHead) (by decide)) (layoverEnd_only p.layoverStart tag)

theorem enterLayover_mode : (p.enterLayover tag).mode = .layover :=
  (show _ = _ from enterLayover_after p tag .mode (by decide)).trans (leavesRun_mode p .layover)

theorem enterLayover_gov : (p.enterLayover tag).gov.inhibit.mode = true ∧ (p.enterLayover tag).gov.armed = false
    ∧ (p.enterLayover tag).gov.setpoint = 0 ∧ (p.enterLayover tag).gov.period = .stopped := by
  have hframe := enterLayover_after p tag
  obtain ⟨hinhibit, harmed⟩ := hframe .inhibit (by decide)
  obtain ⟨hsetpoint, -⟩ := hframe .setpoint (by decide)
  obtain ⟨hperiod, -⟩ := hframe .demand (by decide)
  rw [hinhibit, harmed, hsetpoint, hperiod]
  exact leavesRun_gov p .layover

theorem enterLayover_cuts (h : p.gov.inhibit.mode = false) : (p.enterLayover tag).send.cuts := by
  have hsend : (p.enterLayover tag).send = (p.leavesRun .layover).send := enterLayover_after p tag .send (by decide)
  rw [hsend]
  exact leavesRun_cuts p .layover h

theorem enterLayover_links (l : Link) : ((p.enterLayover tag).linkRec l).started = false ∧ ((p.enterLayover tag).linkRec l).state = .silent := by
  have hlinks : (p.enterLayover tag).links = .stop :=
    (show _ = _ from enterLayover_ends p tag .links (by decide)).trans (layoverHead_links p)
  rw [Part.linkRec, hlinks]
  cases l <;> exact ⟨rfl, rfl⟩

theorem enterLayover_line : (p.enterLayover tag).line.state = .unknown ∧ (p.enterLayover tag).line.battery = p.line.battery := by
  obtain ⟨hstate, hbattery⟩ := layoverEnd_line p.layoverStart tag
  rw [enterLayover_end]
  refine ⟨hstate, hbattery.trans ?_⟩
  exact field_of_own (show p.layoverStart.line.own = p.line.own from layoverStart_only p .line (by decide)) Line.battery fun _ => rfl

theorem enterLayover_chains (c : Chain) : ((p.enterLayover tag).mbx.chains.get c).rescanTimer = .stopped
    ∧ ((p.enterLayover tag).mbx.chains.get c).state = (p.mbx.chains.get c).state := by
  have hchains : p.layoverStart.mbx.chains = p.mbx.chains := layoverStart_only p .chains (by decide)
  have hend := layoverEnd_chains p.layoverStart tag (layoverStart_mode p) c
  rwa [hchains, ← enterLayover_end] at hend

theorem enterLayover_writes (h : p.mbx.base ≠ none) : (p.enterLayover tag).mbx.mirror.writing ≠ none := by
  have hbase : p.layoverStart.mbx.base = p.mbx.base := layoverStart_only p .base (by decide)
  rw [enterLayover_end]
  exact layoverEnd_writes p.layoverStart tag (by rwa [hbase])

theorem enterLayover_contacts : (p.enterLayover tag).contacts.pollTimer = p.startTimer p.tables.timers.pollInterval
    ∧ (p.enterLayover tag).contacts.second = 0 ∧ (p.enterLayover tag).contacts.secondTimer = .stopped := by
  have hcontacts : (p.enterLayover tag).contacts = p.layoverHead.contacts := enterLayover_ends p tag .contacts (by decide)
  rw [hcontacts]
  exact layoverHead_contacts p

theorem enterLayover_input (i : InputNo) : (p.enterLayover tag).input i = (p.input i).toLayover (p.tables.inputs.get i).wakeEnabled := by
  have hcontacts : (p.enterLayover tag).contacts = p.layoverHead.contacts := enterLayover_ends p tag .contacts (by decide)
  have hinput : (p.enterLayover tag).input i = p.layoverHead.input i := congrArg (·.inputs.get i) hcontacts
  rw [hinput, layoverHead_input]

theorem enterLayover_poles (i : PoleId) : ((p.enterLayover tag).poles.get i).state = (p.poles.get i).state
    ∧ ((p.enterLayover tag).poles.get i).latch = (p.poles.get i).latch ∧ ((p.enterLayover tag).poles.get i).sensorAvailable = false
    ∧ ((p.enterLayover tag).poles.get i).holdTimer = .stopped ∧ ((p.enterLayover tag).poles.get i).retryPending = false := by
  have hnotes := layoverEnd_poles p.layoverStart tag
  have haux : p.layoverStart.poles = p.layoverHead.poles := auxEntersLayover_only p.layoverHead .poles (by decide)
  have hbefore : p.layoverStart.poles.get i = (p.poles.get i).toLayover := by rw [haux, layoverHead_poles]
  have hstate := hnotes.field i Pole.state fun _ => rfl
  have hlatch := hnotes.field i Pole.latch fun _ => rfl
  have hsensor := hnotes.field i Pole.sensorAvailable fun _ => rfl
  have hhold := hnotes.field i Pole.holdTimer fun _ => rfl
  have hretry := hnotes.field i Pole.retryPending fun _ => rfl
  rw [hbefore, ← enterLayover_end] at hstate hlatch hsensor hhold hretry
  exact ⟨hstate, hlatch, hsensor, hhold, hretry⟩

theorem enterLayover_retriever (i : PoleId) {o : OutputNo} (h : p.outputFor (.retriever i) = some o) :
    ((p.enterLayover tag).output o).commanded = false := by
  have htables : p.layoverHead.tables = p.tables := layoverHead_only p .tables (by decide)
  have hstart := auxEntersLayover_outputs p.layoverHead
  have hfor : p.layoverHead.outputFor (.retriever i) = some o := (outputFor_congr htables _).trans h
  have hkept : (p.layoverStart.output o).commanded = (p.layoverHead.output o).commanded := hstart.commanded hfor (by simp [auxRoles])
  have hend := layoverEnd_retriever p.layoverStart tag i ((hstart.outputFor _).trans hfor)
  rw [enterLayover_end]
  exact hend.trans (hkept.trans (layoverHead_retriever p i h))

theorem enterLayover_zones : (p.enterLayover tag).zones.active.map Zone.asArrived = p.zones.active.map Zone.asArrived
    ∧ (p.enterLayover tag).zones.pendingZones = p.zones.pendingZones ∧ (p.enterLayover tag).zones.effective = p.zones.effective := by
  have hstart : p.layoverStart.zones = p.zones := layoverStart_only p .zones (by decide)
  have hkeeps : p.KeepsZones (p.layoverStart.layoverEnd tag) := (Part.KeepsZones.of_same hstart).andThen (layoverEnd_zones p.layoverStart tag)
  rw [enterLayover_end]
  exact ⟨hkeeps.active, hkeeps.field Zones.pendingZones, hkeeps.field Zones.effective⟩

theorem enterLayover_stagger : (p.enterLayover tag).aux.stagger = p.startTimer p.tables.timers.stagger := by
  have htables : p.layoverHead.tables = p.tables := layoverHead_only p .tables (by decide)
  have hnow : p.layoverHead.now = p.now := layoverHead_only p .now (by decide)
  obtain ⟨hstagger, -⟩ := layoverEnd_abides p.layoverStart tag
  rw [enterLayover_end, hstagger, layoverStart_eq, auxEntersLayover_stagger, htables, Part.startTimer, Part.startTimer, hnow]

theorem layoverHead_auxRec (a : AuxNo) : p.layoverHead.auxRec a = p.auxRec a ∧ p.layoverHead.auxEntry a = p.auxEntry a := by
  have haux : p.layoverHead.aux = p.aux := layoverHead_only p .aux (by decide)
  have htables : p.layoverHead.tables = p.tables := layoverHead_only p .tables (by decide)
  exact ⟨congrArg (·.recs.get a) haux, congrArg (·.aux.get a) htables⟩

theorem enterLayover_asked (a : AuxNo) : ((p.enterLayover tag).auxRec a).requested = (p.auxRec a).requested
    ∧ ((p.enterLayover tag).auxRec a).keptInLayover = (p.auxEntry a).layoverKeep := by
  obtain ⟨hrec, hentry⟩ := layoverHead_auxRec p a
  obtain ⟨hasked, hkept⟩ := auxEntersLayover_asked p.layoverHead a
  obtain ⟨-, hend⟩ := layoverEnd_abides p.layoverStart tag
  obtain ⟨hasked', hkept'⟩ := hend a
  rw [← layoverStart_eq, hrec] at hasked
  rw [← layoverStart_eq, hentry] at hkept
  rw [enterLayover_end, hasked', hkept']
  exact ⟨hasked, hkept⟩

theorem enterLayover_setsDown {a : AuxNo} (h : (p.auxEntry a).layoverKeep = false) : p.SetsDown a (p.enterLayover tag) := by
  obtain ⟨hrec, hentry⟩ := layoverHead_auxRec p a
  have htables : p.layoverHead.tables = p.tables := layoverHead_only p .tables (by decide)
  have hdown := auxEntersLayover_setsDown p.layoverHead a (by rw [hentry, h])
  rw [enterLayover_end]
  exact (hdown.andRests (layoverEnd_rests p.layoverStart tag hdown.idle)).from (by rw [hrec]) (by rw [hrec]) htables

/-- LAYOVER is entered (R183). -/
theorem enterLayover_laysOver : p.laysOver (p.enterLayover tag) tag := by
  have hframe := enterLayover_only p tag
  obtain ⟨hattention, hmirror⟩ := layoverEnd_mailbox p.layoverStart tag
  have hnewest := layoverEnd_newest p.layoverStart tag
  rw [← enterLayover_end] at hattention hmirror hnewest
  obtain ⟨hunknown, hbattery⟩ := enterLayover_line p tag
  obtain ⟨hinhibit, harmed, hsetpoint, hperiod⟩ := enterLayover_gov p tag
  obtain ⟨hpoll, hsecond, hsecondTimer⟩ := enterLayover_contacts p tag
  obtain ⟨hactive, hpending, heffective⟩ := enterLayover_zones p tag
  have hmode := enterLayover_mode p tag
  have hlinks := enterLayover_links p tag
  have hcuts := enterLayover_cuts p tag
  have hchains := enterLayover_chains p tag
  have hwrites := enterLayover_writes p tag
  have hinputs := enterLayover_input p tag
  have hpoles := enterLayover_poles p tag
  have hretrievers := fun i o (ho : p.outputFor (.retriever i) = some o) => enterLayover_retriever p tag i ho
  have hstagger := enterLayover_stagger p tag
  have hasked := enterLayover_asked p tag
  have hdown := fun a (ha : (p.auxEntry a).layoverKeep = false) => enterLayover_setsDown p tag ha
  have htables : (p.enterLayover tag).tables = p.tables := hframe .tables (by decide)
  have hbase : (p.enterLayover tag).mbx.base = p.mbx.base := hframe .base (by decide)
  have hnow : (p.enterLayover tag).now = p.now := hframe .now (by decide)
  have hreset : (p.enterLayover tag).lastReset = p.lastReset := hframe .lastReset (by decide)
  generalize p.enterLayover tag = q at *
  refine ⟨hmode, hattention, hnewest, hlinks, hunknown, hbattery, hinhibit, harmed, hsetpoint, hperiod, hcuts, hchains, hmirror, hwrites, hpoll,
    hsecond, hsecondTimer, fun i => ?_, hpoles, hretrievers, hactive, hpending, heffective, hstagger, hasked, fun a ha => ?_, htables, hbase, hnow, hreset⟩
  · rw [hinputs]
    exact ⟨rfl, rfl, rfl, rfl, rfl⟩
  · exact ⟨(hdown a ha).state, (hdown a ha).offTimer, (hdown a ha).queue, (hdown a ha).gives⟩

end

/-! ### The answers -/

section
variable {p : Part} {r : Request}

theorem enterLayover_notInMode (hr : r.payload = []) (h : p.mode ≠ .run) : (p.own .enterLayover r).2 = { result := .notInMode } := by
  have hcard : p.own .enterLayover r = refuse p .notInMode := (if_neg (by rw [hr]; simp)).trans (if_pos h)
  rw [hcard]
  rfl

theorem enterLayover_barred (hr : r.payload = []) (h : p.mode = .run) {x : LayoverPrecondition} (hx : p.layoverBarred = some x) :
    (p.own .enterLayover r).2 = { result := .precondition, detail := word x.ctorIdx } := by
  have hcard : p.own .enterLayover r = refuse p .precondition x.ctorIdx := by
    refine (if_neg (by rw [hr]; simp)).trans ((if_neg (not_not.mpr h)).trans ?_)
    rw [hx]
  rw [hcard]
  rfl

theorem enterLayover_accepted (hr : r.payload = []) (h : p.mode = .run) (hx : p.layoverBarred = none) :
    (p.own .enterLayover r).2 = { result := .ok } ∧ p.laysOver (p.own .enterLayover r).1 r.tag := by
  have hcard : p.own .enterLayover r = done (p.enterLayover r.tag) 0 := by
    refine (if_neg (by rw [hr]; simp)).trans ((if_neg (not_not.mpr h)).trans ?_)
    rw [hx]
  rw [hcard, done_verdict, done_part]
  exact ⟨rfl, enterLayover_laysOver p r.tag⟩

theorem enterLayover_answers (hr : r.payload = []) (h : p.mode = .run) :
    ((∀ i, p.keptPoles.get i = .housed) → p.zones.stationary = true → p.gov.setpoint = 0 →
        (p.own .enterLayover r).2 = { result := .ok } ∧ p.laysOver (p.own .enterLayover r).1 r.tag)
      ∧ (p.keptPoles.p ≠ .housed → (p.own .enterLayover r).2 = { result := .precondition, detail := 0 })
      ∧ (p.keptPoles.p = .housed → p.keptPoles.n ≠ .housed → (p.own .enterLayover r).2 = { result := .precondition, detail := 1 })
      ∧ (p.keptPoles.p = .housed → p.keptPoles.n = .housed → p.zones.stationary = false →
          (p.own .enterLayover r).2 = { result := .precondition, detail := 2 })
      ∧ (p.keptPoles.p = .housed → p.keptPoles.n = .housed → p.zones.stationary = true → p.gov.setpoint ≠ 0 →
          (p.own .enterLayover r).2 = { result := .precondition, detail := 3 }) := by
  refine ⟨fun hpoles hstill hset => enterLayover_accepted hr h ?_, fun hpole => enterLayover_barred hr h (x := .poleP) ?_,
    fun hpole hpole' => enterLayover_barred hr h (x := .poleN) ?_, fun hpole hpole' hmoves => enterLayover_barred hr h (x := .moving) ?_,
    fun hpole hpole' hstill hset => enterLayover_barred hr h (x := .setpoint) ?_⟩
  · have hpole : p.keptPoles.p = .housed := hpoles .p
    have hpole' : p.keptPoles.n = .housed := hpoles .n
    simp [Part.layoverBarred, hpole, hpole', hstill, hset]
  · simp [Part.layoverBarred, hpole]
  · simp [Part.layoverBarred, hpole, hpole']
  · simp [Part.layoverBarred, hpole, hpole', hmoves]
  · simp [Part.layoverBarred, hpole, hpole', hstill, hset]

end
end Sys2Proof.Machine

/-! ## The cards, done or refused whole (R6, section 12.4) -/

namespace Sys2Proof.Machine

/-- Settles O28, which holds: each owner's answer by the branch of its card that decides it. -/
theorem cardsAreDoneOrRefusedWhole : Obligations.CardsAreDoneOrRefusedWhole := by
  unfold Obligations.CardsAreDoneOrRefusedWhole
  intro p r
  refine ⟨fun k => own_whole p r k, fun k hk h => own_notOneWord p r k hk h, fun k hk h => own_notEmpty p r k hk h, batteryLimits_badLength,
    auxRequest_badLength, copySeenMap_badLength, copySeenMap_badValue, readFaultTable_badLength, fun v hr => ?refusals,
    fun f d c hr => batteryLimits_badValue hr, fun f d c hr => batteryLimits_takes hr, fun x v hr => auxRequest_badIndex hr,
    fun a v hr => auxRequest_badValue hr, fun a v hr => auxRequest_invalid hr, readFaultTable_returns, copySeenMap_returns,
    fun hr => clearFaultState_other hr, fun hr => enterLayover_notInMode hr, fun hr => exitLayover_notInMode hr,
    fun hr => exitLayover_resumes hr, fun hr => enterLayover_answers hr, fun v hr => ?effects,
    fun a v hr hvalid => ⟨fun h => auxRequest_busy hr hvalid h, fun h => auxRequest_takes hr hvalid h⟩, fun hr => ackFaults_acknowledges hr,
    fun hr h => ⟨fun k => clearFaultState_stillActive hr h, clearFaultState_clears hr h⟩, fun hr => clearZones_clears hr,
    fun e => loadTable_refused, fun x => loadTable_stores⟩
  case refusals =>
    refine ⟨cardInhibit_badValue hr, fun h => ?_, fun h => ?_, raisePoles_badValue hr, lowerPoles_badValue hr, clearPole_badValue hr,
      fun x hlow hhigh => raisePoles_barred hr hlow hhigh, fun i hi hlow hhigh => lowerPoles_busy hr hi hlow hhigh, fun i => clearPole_busy hr,
      injectTest_badValue hr, fun k => injectTest_busy hr, verifyConfig_agrees hr⟩
    · subst h
      exact cardInhibit_sets hr
    · subst h
      exact cardInhibit_clears hr
  case effects =>
    exact ⟨raisePoles_accepts hr, lowerPoles_accepts hr, fun i => clearPole_accepts hr, fun k => injectTest_injected hr, verifyConfig_differs hr⟩

end Sys2Proof.Machine
